-- ==== Sys2Proof/Word.lean ====
section
/-! DEFINITION. Word.lean: the word types of the J3 (spec/00_scope.md R7) and the register field types of Nulyn. -/

namespace Sys2Proof

/-- `u32`/`i32`/`fp32` bits of a strand register (R7, R88). -/
abbrev Word := BitVec 32
/-- `u64` value of a register pair, the PC or a literal (R7, R65). -/
abbrev Dword := BitVec 64
/-- One byte of any memory (R270). -/
abbrev Byte := BitVec 8
/-- A 7-bit register field naming `s0`-`s127` (R69). -/
abbrev Reg := BitVec 7
/-- A 3-bit predicate field naming `p0`-`p7` (R69, R95). -/
abbrev PReg := BitVec 3

end Sys2Proof
end

