-- ==== Sys2Proof/Syntax.lean ====
section
/-! DEFINITION. Syntax.lean: every row of spec/opcode_table.json as one constructor of `Instr`: the Nulyn
instructions (spec/04_encoding.md and the chapter of each), then the steps of engines, memories, controllers,
fabric and host, each carrying what the outside world or the scheduler supplies. -/

namespace Sys2Proof

/-- Guard of a base instruction: the four codes of R70, or the guarded form of R77 (R74). -/
inductive Guard where
  | always | p0 | notP0 | p1
  | ext (p : PReg) (neg : Bool)
  deriving DecidableEq, Repr

/-- Guard of an extended frame (R74). -/
structure XG where
  p : PReg
  neg : Bool
  deriving DecidableEq, Repr

/-- Operand b of a BR or BC instruction: a register or a literal (R65). -/
inductive BSrc where
  | reg (r : Reg) | lit (v : Dword)
  deriving DecidableEq, Repr

/-- Immediate of a BI instruction: imm7 or a literal (R65, R69). -/
inductive BImm where
  | imm (v : BitVec 7) | lit (v : Dword)
  deriving DecidableEq, Repr

/-- Immediate of `li`: imm14 or a literal (R65, R69). -/
inductive WImm where
  | imm (v : BitVec 14) | lit (v : Dword)
  deriving DecidableEq, Repr

/-- "b or imm" of formats XR and XC with a literal allowed (R75). -/
inductive XSrc where
  | reg (r : Reg) | imm (v : Word) | lit (v : Dword)
  deriving DecidableEq, Repr

/-- "b or imm" where no literal is taken (R298, R329, R350). -/
inductive RSrc where
  | reg (r : Reg) | imm (v : Word)
  deriving DecidableEq, Repr

/-- The immediate of `li64` (R104, R108). -/
inductive XImm where
  | imm (v : Word) | lit (v : Dword)
  deriving DecidableEq, Repr

/-- Displacement of format XM (R65, R76). -/
inductive Disp where
  | imm (v : Word) | lit (v : Dword)
  deriving DecidableEq, Repr

/-- Integer condition codes (R71 Table 5). -/
inductive ICond where
  | eq | ne | lt | le | gt | ge | ltu | leu | gtu | geu
  deriving DecidableEq, Repr

/-- Float condition codes (R71 Table 5). -/
inductive FCond where
  | eq | ne | lt | le | gt | ge | ord | uno | ueq | une | ult | ule | ugt | uge
  deriving DecidableEq, Repr

/-- `pop` functions (R102 Table 7). -/
inductive PopFn where
  | and | or | xor | andn | orn | nand | nor | xnor | mov | not | clr | set
  deriving DecidableEq, Repr

/-- `fsfu` functions (R121 Table 2). -/
inductive SfuFn where
  | rcp | rsqrt | exp2 | log2 | sinpi | cospi | tanh
  deriving DecidableEq, Repr

/-- Conversion codes (R122 Table 3). -/
inductive Cvt where
  | f32bf16 | bf16f32 | f32e4m3 | f32e5m2 | f32e5m2s | e4m3f32 | e5m2f32
  | f32i32 | f32u32 | i32f32 | u32f32 | e8m0f32 | f32i32z | f32u32z
  deriving DecidableEq, Repr

/-- Rounding modes (R125). -/
inductive Rm where
  | rne | rz | rd | ru
  deriving DecidableEq, Repr

/-- Shuffle operations (R134, R135). -/
inductive ShflOp where
  | idx | up | down | xor
  deriving DecidableEq, Repr

/-- `vote` modes (R136). -/
inductive VoteMode where
  | and | or | same | mask | count
  deriving DecidableEq, Repr

/-- `redux` and `scan` operations (R137). -/
inductive RedOp where
  | fadd | fmin | fmax | add | mul | minS | maxS | minU | maxU | and | or | xor
  deriving DecidableEq, Repr

/-- The readable and writable special registers (R97 Table 4). -/
inductive SReg where
  | lane | plane | quarter | crew | troop | herd | core | die | pkg | role | ncrews | extblk | sgw
  | trappcLo | trappcHi | cause | tval | fidrate | fidthr
  deriving DecidableEq, Repr

/-- Rights of a register capability (R149, R150). -/
inductive CapRight where
  | w1 | wm | add
  deriving DecidableEq, Repr

/-- Scopes (R76 Table 9, R271). -/
inductive Scope where
  | crew | core | die | pkg | span
  deriving DecidableEq, Repr

/-- Cache policies (R76 Table 9). -/
inductive Policy where
  | normal | stream | nl1
  deriving DecidableEq, Repr

/-- Memory spaces (R76 Table 9). -/
inductive Space where
  | global | spm | cluster
  deriving DecidableEq, Repr

/-- Access sizes (R76 Table 9). -/
inductive Size where
  | b8 | b16 | b32 | b64 | b128
  deriving DecidableEq, Repr

/-- Orders of an atomic (R76 Table 9). -/
inductive MemOrd where
  | relaxed | acq | rel | ar
  deriving DecidableEq, Repr

/-- `atom` operations (R223 Table 9). -/
inductive AtomOp where
  | add | minS | maxS | minU | maxU | and | or | xor | exch | fadd
  deriving DecidableEq, Repr

/-- Kinds of `fence` (R282). -/
inductive FenceKind where
  | acq | rel | full
  deriving DecidableEq, Repr

/-- Formats of `adrain` (R174, R180). -/
inductive DrainFmt where
  | f32 | bf16 | reef
  deriving DecidableEq, Repr

/-- Transforms (R263 Table 6). -/
inductive XfOp where
  | tr | rtr | pack | unpack | bf2e4 | bf2e5 | e4bf | e5bf | zmap
  deriving DecidableEq, Repr

/-- Parts of `kvgather` (R239). -/
inductive KvPart where
  | k | v | kv
  deriving DecidableEq, Repr

/-- Selects of `fidrd` (R356). -/
inductive FidSel where
  | exceed | cnt | flags
  deriving DecidableEq, Repr

/-- A memory operand of format XM (R76). -/
structure Mem where
  space : Space
  a : Reg
  disp : Disp
  deriving DecidableEq, Repr

/-- A global memory operand of format XM (R221: space 0 only). -/
structure GMem where
  a : Reg
  disp : Disp
  deriving DecidableEq, Repr

/-- The common fields of format XT: guard, hitch, optional token (R75, R174, R186). -/
structure XT where
  x : XG
  h : BitVec 5
  tok : Option (BitVec 4)
  deriving DecidableEq, Repr

/-- The common fields of format XA with a token (R75). -/
structure XA where
  x : XG
  tok : Option (BitVec 4)
  deriving DecidableEq, Repr

/-- The three queueing engines whose ops share the engine events (R257). -/
inductive Eng where
  | streamer | xform
  deriving DecidableEq, Repr

/-- Control BAR and device-window registers whose write has no behaviour of its own beyond R4
(R309, R385, R398, R399, R408). `d` is a dispatch controller, `q` a launch queue, `c` a controller. -/
inductive HwReg where
  | lqbase (d q : Nat) | lqctl (d q : Nat) | lqhead (d q : Nat) | lotseed (d : Nat) | gangrounds (d : Nat)
  | pwrlim | tempmax | xwdctl (c : Nat) | devie (d : Nat) | corral (d : Nat)
  | dmasrc (d : Nat) | dmadst (d : Nat) | dmalen (d : Nat)
  | mevie | waymask (n : Nat) | filtwin (n : Nat) | mergewin (n : Nat) | pagectl (s : Nat)
  | kvpoolbase | kvpooln | kvfree | asEntry (e : Nat) (hi : Bool) | routeMask (p : Nat) | routeValid (p : Nat)
  | pinEntry (i : Nat) (hi : Bool) | pageList (i : Nat) | ras (i : Nat)
  | invas | invva | invlen | signin | signout | spanRoot (e : Nat) (hi : Bool)
  | mbxBlock (f : Nat) (w : Nat) | mbxstat (f : Nat) | bootstat | msixTable (f v : Nat) (hi : Bool)
  deriving DecidableEq, Repr

/-- Where an error is found (R218 Table 7). -/
inductive ErrLoc where
  | pool (core : Nat) (slot : Nat) (off : Nat)   -- a 64-bit word of a troop's scratchpad
  | tile (core : Nat) (slot : Nat) (off : Nat)   -- of its tile slots: byte of slot t at 65536 * t
  | acc (core : Nat) (slot : Nat) (off : Nat)    -- of its accumulators: byte of c at 16384 * c
  | l1 (core : Nat) (line : Nat)
  | line (line : Nat) (dirty : Bool)             -- a line of slice SRAM
  | hbm (pa : Nat)
  | loop (i : Nat)
  | lane (i : Nat)
  | reg (strand : Nat) (r : Nat)                 -- a register of a strand
  deriving DecidableEq, Repr

/-- What the agent or the outside world supplies with an event row: which core, die, slice, stack, controller or
function (`unit`), which entry of it (`item`, `aux`), and the values it carries. The machine holds it in `State.ev`. -/
structure EvArgs where
  unit : Nat := 0
  item : Nat := 0
  aux : Nat := 0
  flag : Bool := false
  opt : Option Nat := none
  value : Dword := 0
  old : Dword := 0
  data : List Byte := []
  err : Option (BitVec 3) := none
  eng : Eng := .streamer
  reg : HwReg := .bootstat
  loc : ErrLoc := .hbm 0
  deriving DecidableEq, Repr

/-- Every row of spec/opcode_table.json. A strand instruction takes a guard first; the other rows are the steps of
the agents beside the strands, whose operands stand in `State.ev` (`EvArgs`). -/
inductive Instr where
  -- integer, address, compare, select (05 R98-R103)
  | add (g : Guard) (d a : Reg) (b : BSrc) | addi (g : Guard) (d a : Reg) (i : BImm)
  | sub (g : Guard) (d a : Reg) (b : BSrc) | mul (g : Guard) (d a : Reg) (b : BSrc)
  | mulhiS (g : Guard) (d a : Reg) (b : BSrc) | mulhiU (g : Guard) (d a : Reg) (b : BSrc)
  | mad (g : Guard) (d a : Reg) (b : BSrc)
  | and (g : Guard) (d a : Reg) (b : BSrc) | andi (g : Guard) (d a : Reg) (i : BImm)
  | or (g : Guard) (d a : Reg) (b : BSrc) | ori (g : Guard) (d a : Reg) (i : BImm)
  | xor (g : Guard) (d a : Reg) (b : BSrc) | xori (g : Guard) (d a : Reg) (i : BImm)
  | shl (g : Guard) (d a : Reg) (b : BSrc) | shli (g : Guard) (d a : Reg) (i : BImm)
  | shr (g : Guard) (d a : Reg) (b : BSrc) | shri (g : Guard) (d a : Reg) (i : BImm)
  | sar (g : Guard) (d a : Reg) (b : BSrc) | sari (g : Guard) (d a : Reg) (i : BImm)
  | minS (g : Guard) (d a : Reg) (b : BSrc) | minU (g : Guard) (d a : Reg) (b : BSrc)
  | maxS (g : Guard) (d a : Reg) (b : BSrc) | maxU (g : Guard) (d a : Reg) (b : BSrc)
  | clz (g : Guard) (d a : Reg) | popc (g : Guard) (d a : Reg) | brev (g : Guard) (d a : Reg)
  | bfe (g : Guard) (d a : Reg) (b : BSrc) | bfi (g : Guard) (d a : Reg) (b : BSrc)
  | mov (g : Guard) (d a : Reg) | li (g : Guard) (d : Reg) (i : WImm)
  | add64 (g : Guard) (d a : Reg) (b : BSrc)
  | cmp (g : Guard) (cc : ICond) (pd : PReg) (a : Reg) (b : BSrc)
  | cmpi (g : Guard) (cc : ICond) (pd : PReg) (a : Reg) (i : BImm)
  | pop (g : Guard) (fn : PopFn) (pd pa pb : PReg) | sel (g : Guard) (d a : Reg) (b : BSrc)
  -- macros, spawn, rein, trigger, control (05 R111-R115, 14 R306-R308, 15 R331)
  | mcall (g : Guard) (m a b : Reg) | spawn (g : Guard) (pd : PReg) (a b : Reg)
  | rein (g : Guard) | trigger (g : Guard) | bra (g : Guard) (off : BitVec 21) | call (g : Guard) (off : BitVec 21)
  | brx (g : Guard) (a : Reg) | ret (g : Guard) | exit (g : Guard) | yield (g : Guard)
  | trap (g : Guard) (code : BitVec 14) | bkpt (g : Guard) (code : BitVec 14)
  -- floating point (06 R118-R123)
  | fadd (g : Guard) (d a : Reg) (b : BSrc) | fsub (g : Guard) (d a : Reg) (b : BSrc)
  | fmul (g : Guard) (d a : Reg) (b : BSrc) | ffma (g : Guard) (d a : Reg) (b : BSrc)
  | fmin (g : Guard) (d a : Reg) (b : BSrc) | fmax (g : Guard) (d a : Reg) (b : BSrc)
  | fcmp (g : Guard) (cc : FCond) (pd : PReg) (a : Reg) (b : BSrc)
  | fsfu (g : Guard) (fn : SfuFn) (d a : Reg) | fcvt (g : Guard) (cv : Cvt) (d a : Reg)
  | fabs (g : Guard) (d a : Reg) | fneg (g : Guard) (d a : Reg)
  | hadd2 (g : Guard) (d a : Reg) (b : BSrc) | hmul2 (g : Guard) (d a : Reg) (b : BSrc)
  | hfma2 (g : Guard) (d a : Reg) (b : BSrc) | hmax2 (g : Guard) (d a : Reg) (b : BSrc)
  | fclass (g : Guard) (d a : Reg)
  -- collectives in base frames (06 R134-R139), vlane (R142)
  | shflIdx (g : Guard) (d a : Reg) (b : BSrc) | shflUp (g : Guard) (d a : Reg) (b : BSrc)
  | shflDown (g : Guard) (d a : Reg) (b : BSrc) | shflXor (g : Guard) (d a : Reg) (b : BSrc)
  | vote (g : Guard) (mode : VoteMode) (d : Reg) (ps : PReg) | redux (g : Guard) (op : RedOp) (d a : Reg)
  | hbar (g : Guard) | vlane (g : Guard) (d a : Reg)
  -- PUT and fill bits (07 R147, R154)
  | put (g : Guard) (i : BitVec 5) (a : Reg) (b : BSrc) | putv (g : Guard) (i : BitVec 5) (a b : Reg)
  | empty (g : Guard) (d n : Reg) | fillq (g : Guard) (pd : PReg) (a : Reg)
  -- base memory (10 R220), waits (16), rings, channels, task queues (14)
  | ldw (g : Guard) (d a : Reg) (i : BitVec 7) | stw (g : Guard) (d a : Reg) (i : BitVec 7)
  | lds (g : Guard) (d a : Reg) (i : BitVec 7) | sts (g : Guard) (d a : Reg) (i : BitVec 7)
  | ldp (g : Guard) (d : Reg) (i : BitVec 14) | atomsAdd (g : Guard) (d a : Reg) (b : BSrc)
  | wait (g : Guard) (cls : BitVec 3) (n : BitVec 6) | wtok (g : Guard) (w : BitVec 4)
  | await (g : Guard) (d a : Reg) | release (g : Guard) (a b : Reg)
  | send (g : Guard) (d c : Reg) | recv (g : Guard) (d c : Reg)
  | enq (g : Guard) (pd : PReg) (a b : Reg) | deq (g : Guard) (d a : Reg) (pd : PReg)
  -- XALU (05 R104-R110)
  | selX (x : XG) (p : PReg) (d a : Reg) (b : XSrc)
  | divS (x : XG) (d a : Reg) (b : XSrc) | divU (x : XG) (d a : Reg) (b : XSrc)
  | remS (x : XG) (d a : Reg) (b : XSrc) | remU (x : XG) (d a : Reg) (b : XSrc)
  | addc (x : XG) (d a : Reg) (b : XSrc) (pin pout : PReg) | subb (x : XG) (d a : Reg) (b : XSrc) (pin pout : PReg)
  | mul64 (x : XG) (d a : Reg) (b : XSrc) | mulw (x : XG) (sgn : Bool) (d a : Reg) (b : XSrc)
  | lea (x : XG) (zx : Bool) (sh : BitVec 2) (d a : Reg) (b : XSrc) | li64 (x : XG) (d : Reg) (i : XImm)
  | sext (x : XG) (d a : Reg) (w : BitVec 5) | zext (x : XG) (d a : Reg) (w : BitVec 5)
  | cmp64 (x : XG) (cc : ICond) (pd : PReg) (a : Reg) (b : XSrc)
  | dsh (x : XG) (left clamp : Bool) (d a : Reg) (b : XSrc) (e : Reg) | bsel (x : XG) (d a : Reg) (b : XSrc) (e : Reg)
  -- XFP (06 R124-R126)
  | ffmaX (x : XG) (rm : Rm) (d a : Reg) (b : XSrc) (e : Reg)
  | faddX (x : XG) (rm : Rm) (d a : Reg) (b : XSrc) | fmulX (x : XG) (rm : Rm) (d a : Reg) (b : XSrc)
  | fdiv (x : XG) (rm : Rm) (d a : Reg) (b : XSrc) | fsqrt (x : XG) (d a : Reg)
  | fcvtX (x : XG) (rm : Rm) (cv : Cvt) (d a : Reg) | frnd (x : XG) (rm : Rm) (d a : Reg)
  | fldexp (x : XG) (rm : Rm) (d a : Reg) (b : XSrc) | ffrexp (x : XG) (d a e : Reg)
  | hfma2X (x : XG) (rm : Rm) (d a : Reg) (b : XSrc) (e : Reg) | fdot2 (x : XG) (rm : Rm) (d a : Reg) (b : XSrc) (e : Reg)
  -- XCOLL (06 R130, R134-R141)
  | shflX (x : XG) (op : ShflOp) (w : BitVec 3) (d a : Reg) (b : XSrc) (pv : PReg) (h : BitVec 5)
  | voteX (x : XG) (mode : VoteMode) (w : BitVec 3) (d : Reg) (ps pd : PReg) (h : BitVec 5)
  | reduxX (x : XG) (op : RedOp) (w : BitVec 3) (d a : Reg) (h : BitVec 5)
  | scan (x : XG) (op : RedOp) (ex : Bool) (w : BitVec 3) (d a : Reg) (h : BitVec 5)
  | peers (x : XG) (b64 all : Bool) (w : BitVec 3) (d a : Reg) (pd : PReg) (h : BitVec 5)
  | hset (x : XG) (mask : Bool) (h : BitVec 5) (v : XSrc) | hbarX (x : XG) (h : BitVec 5)
  | kset (x : XG) (k : Reg) (v : XSrc) (h : BitVec 5) | hq (x : XG) (d : Reg) (h : BitVec 5)
  -- XSPEC (05 R91-R97)
  | sread (x : XG) (d : Reg) (r : SReg) | swrite (x : XG) (r : SReg) (a : Reg)
  | grow (x : XG) (pd : PReg) (n : BitVec 2) (t : Bool) | shrink (x : XG) (n : BitVec 2)
  | kmov (x : XG) (d k : Reg) | pmovGet (x : XG) (d : Reg) | pmovSet (x : XG) (a : Reg) (mask : BitVec 7)
  -- XCAP (07 R147-R154)
  | capmint (x : XG) (rt : CapRight) (d a b : Reg) (pr : PReg) (n : BitVec 6)
  | caprevoke (x : XG) (a : Reg) (pr : PReg) | capinfo (x : XG) (d a : Reg)
  | putX (v : XA) (i : BitVec 5) (a b : Reg) (lane : Option (BitVec 5)) | putvX (v : XA) (i : BitVec 5) (a b : Reg)
  | putadd (v : XA) (f : Bool) (i : BitVec 5) (a b : Reg) (lane : Option (BitVec 5))
  | emptyX (x : XG) (d e : Reg) (n : BitVec 6)
  -- XMEM (10 R221-R226, 13 R282)
  | ld (x : XG) (sz : Size) (sx : Bool) (acq : Option Scope) (pol : Policy) (d : Reg) (m : Mem)
  | st (x : XG) (sz : Size) (rel : Option Scope) (pol : Policy) (m : Mem) (b : Reg)
  | atom (x : XG) (op : AtomOp) (sz : Size) (o : MemOrd) (sc : Scope) (d : Reg) (m : Mem) (b : Reg)
  | cas (x : XG) (sz : Size) (o : MemOrd) (sc : Scope) (d : Reg) (m : Mem) (b e : Reg)
  | prefetch (x : XG) (pol : Policy) (m : GMem) | cflush (x : XG) (m : GMem) (b : Reg)
  | cinval (x : XG) (all : Bool) (m : GMem) (b : Reg) | pin (x : XG) (pd : PReg) (m : GMem) (b e : Reg)
  | unpin (x : XG) (pd : PReg) (m : GMem) | fence (x : XG) (k : FenceKind) (sc : Scope)
  -- XTILE (08 R174-R180)
  | tdset (t : XT) (d a : Reg) | tdget (t : XT) (d a : Reg)
  | tload (t : XT) (cl : Bool) (d a : Reg) (disp : BitVec 21) | tstore (t : XT) (cl : Bool) (a b : Reg) (disp : BitVec 21)
  | tzero (t : XT) (d : Reg) | split (t : XT) (sat cl : Bool) (d a : Reg) (disp : BitVec 21)
  | azero (t : XT) (d : Reg) (m n : BitVec 2)
  | adrain (t : XT) (fmt : DrainFmt) (z : Bool) (mon : Option (BitVec 4)) (cl : Bool) (d a b : Reg) (disp : BitVec 21)
  | aread (t : XT) (d a b : Reg) | awrite (t : XT) (d a b : Reg) | ascale (t : XT) (d : Reg) (k : Word)
  | reefq (t : XT) (d a b : Reg)
  -- XMMA (09 R186) and tile engine steps
  | mmaS (t : XT) (d a b : Reg) | mmaB (t : XT) (d a b : Reg) | mmaE (t : XT) (d a b : Reg)
  | mmaprog (t : XT) (d a b : Reg) (n1 : BitVec 3)
  -- XENG (12 R255) and engine steps
  | copyLd (v : XA) (ring : Bool) (d a e : Reg) (h : BitVec 4) | copySt (v : XA) (d a e : Reg) (h : BitVec 4)
  | copymc (v : XA) (d a b e : Reg) (h : BitVec 4) (lw : BitVec 20)
  | gather (v : XA) (ring : Bool) (d a b e : Reg) (h : BitVec 4) | scatter (v : XA) (d a b e : Reg) (h : BitVec 4)
  | xform (v : XA) (ring : Bool) (op : XfOp) (d a b e : Reg) (h : BitVec 4) | lrec (x : XG) (a : Reg) (n : BitVec 4)
  -- XKV (11 R239) and KV engine steps
  | kvappend (v : XA) (pub : Bool) (d a e : Reg) (n : BitVec 9)
  | kvgather (v : XA) (part : KvPart) (ring : Bool) (d a b e : Reg) (n : BitVec 9)
  | kvlen (x : XG) (d a : Reg) | kvwin (v : XA) (a b : Reg) | kvtrim (v : XA) (a : Reg)
  | kvopen (x : XG) (w : Bool) (d a : Reg) | kvclose (x : XG) (a : Reg)
  -- XQ (14 R298-R307) and queue steps
  | rinit (x : XG) (a : Reg) (b : RSrc) (e : Reg) | rproduceClaim (x : XG) (d a : Reg) | rproduceFill (x : XG) (a : Reg) (b : RSrc)
  | rpeek (x : XG) (d a : Reg) (b : RSrc) | awaitX (x : XG) (d a : Reg) (b : RSrc) (try_ : Option PReg)
  | releaseX (x : XG) (a : Reg) (b : RSrc) | sendX (x : XG) (d c : Reg) (b : XSrc) | recvX (x : XG) (d c : Reg) (try_ : Option PReg)
  | enqX (x : XG) (sp : Space) (sz : BitVec 2) (pd : PReg) (a b : Reg) | deqX (x : XG) (sp : Space) (sz : BitVec 2) (d a : Reg) (pd : PReg)
  | spawnX (x : XG) (pd : PReg) (a : Reg) (k : BitVec 4) | pdkey (x : XG) (d : Reg) (k : BitVec 4) | pdkeyFlush (x : XG) (k : BitVec 4)
  -- XCNT (16 R345-R356)
  | waitX (x : XG) (ld st en tl pt : BitVec 6) | wtokX (x : XG) (mask : BitVec 16)
  | binit (x : XG) (a : Reg) (b : RSrc) | barrive (x : XG) (a : Reg) (b : RSrc) | bwait (x : XG) (d a : Reg) (b : RSrc)
  | bdue (x : XG) (a : Reg) (b : RSrc) (n : Byte) | clock (x : XG) (d : Reg) | retired (x : XG) (d : Reg)
  | perfcfg (x : XG) (k : BitVec 3) (b : RSrc) | perfrd (x : XG) (k : BitVec 3) (d : Reg)
  | fidrd (x : XG) (sel : FidSel) (clr : Bool) (s : BitVec 4) (d : Reg)
  -- XSYS (17 R367-R372), XMAC (15 R329)
  | eret (x : XG) | eretSkip (x : XG) | causeAddr (x : XG) (d : Reg) | causeLog (x : XG) (d : Reg) | causeLogn (x : XG) (d : Reg)
  | ppoint (x : XG) (park : Bool) (pd : PReg) | sleep (x : XG) (b : XSrc) | halt (x : XG)
  | mstore (x : XG) (m : BitVec 6) (a : Reg) (q : RSrc) (pr : PReg) | mread (x : XG) (m : BitVec 6) (d : Reg) (q : RSrc)
  | mcallX (x : XG) (m : BitVec 6) (d a : Reg) (b : RSrc) (e : Reg)
  -- the steps of engines, memories, controllers, fabric, host and firmware
  | putArrival | putAnswer | loadDataReturn | storeAck | sliceRequest | filterWindowEnd | mergeWindowEnd
  | pinRequestServe | pinFadeExpiry | pageIdleTimer | hbmRefresh | thermalCritical | thermalResume
  | temperatureLevelChange | walkStart | walkComplete | tileOpStart | tileOpRetire | engineOpStart
  | engineSegmentComplete | engineOpRetire | copymcLanding | kvOpStart | kvSegmentComplete | kvwinApply
  | kvtrimFree | kvOpRetire | channelEntryArrival | channelAck | channelResendTimer | paddockTimerExpiry
  | paddockLaunch | sleepExpiry | crewRelease | troopRetire | lqtailDoorbell | launchPacketCheck
  | dispatchDecision | gracePeriodExpiry | contextSave | contextRestore | linkLoss | loopPacketArrival
  | loopResendTimer | loopFailure | ualinkPortFailure | ualinkMemoryRequest | ualinkPutRequest | ualinkPutAnswer
  | ualinkChannelRequest | ualinkChannelAnswer | ualinkAtomicRequest | ualinkAtomicAnswer | hostApertureAccess
  | mbxdbDoorbell | pkgSet | asWrite | tlbInval | routeWrite | sliceWrite | hbmWrite | kvpoolInit | pinQuota
  | pinRelease | preempt | fwStage | fwActivate | evRing | vfWindow | fuseCommit | bootVerify | powerUp
  | functionLevelReset | doeAttestRequest | doeCertRequest | quietPoint | fwRevertTimeout | watchdogExpiry
  | xwdogWrite | xeventWrite | devqRead | devcntRead | mevqRead | placeWrite | saveWrite | restoreWrite
  | faultrespWrite | haltWrite | dmagoWrite | dmaComplete | lqadvWrite | lqerrWrite | mbxdoneWrite | pinansWrite
  | invgoWrite | invalidationComplete | freezeWrite | pkgsetWrite | doesendWrite | signgoWrite | signComplete
  | fusecommitWrite | correctedError | rasWindowEnd | registerWrite | notAnInstruction | operandAvailable
  | linkTraining | loopAcknowledgement | uncorrectableError
  deriving DecidableEq, Repr

end Sys2Proof
end

