-- ==== Sys2Proof/WellFormed.lean ====
section
/-! DEFINITION. WellFormed.lean: the instructions the encodings of spec/04_encoding.md admit (R80, R102, R221, R174, R239, R255, R304). What R81 calls an offending operand
is no matter of form: it is checked at execution. -/

namespace Sys2Proof

/-- R102: a unary or constant function leaves its unused predicate fields zero. -/
def popFieldsOk (fn : PopFn) (pa pb : PReg) : Bool :=
  match fn with
  | .mov | .not => pb == 0
  | .clr | .set => pa == 0 && pb == 0
  | .and | .or | .xor | .andn | .orn | .nand | .nor | .xnor => true

/-- R221: policies 1 and 2 belong to space 0 only. -/
def policyOk (sp : Space) (pol : Policy) : Bool := sp == .global || pol == .normal

/-- R221: an atomic has size 2 or 3. -/
def atomSizeOk (sz : Size) : Bool := sz == .b32 || sz == .b64

/-- A displacement of zero (R221, `cinval.all`). -/
def dispZero : Disp → Bool
  | .imm v => v == 0
  | .lit v => v == 0

/-- R263 Table 6: the transforms that name a record handle. -/
def xfHandle : XfOp → Bool
  | .tr | .bf2e4 | .bf2e5 | .e4bf | .e5bf => true
  | .rtr | .pack | .unpack | .zmap => false

/-- R239: a token count of 1 to 256. -/
def kvCountOk (n : BitVec 9) : Bool := decide (1 ≤ n.toNat) && decide (n.toNat ≤ 256)

/-- The indices of a register of R385 and R398-R408. -/
def hwRegOk : HwReg → Bool
  | .lqbase d q | .lqctl d q | .lqhead d q => decide (d < 8) && decide (q < 64)
  | .lotseed d | .gangrounds d | .devie d | .dmasrc d | .dmadst d | .dmalen d | .corral d => decide (d < 8)
  | .pwrlim | .tempmax | .mevie | .kvpoolbase | .kvpooln | .kvfree | .invas | .invva | .invlen | .signin | .signout
  | .bootstat => true
  | .xwdctl c => decide (c < 9)
  | .waymask n | .filtwin n | .mergewin n => decide (n < 64)
  | .pagectl n => decide (n < 12)
  | .asEntry e _ | .spanRoot e _ | .pinEntry e _ => decide (e < 64)
  | .routeMask p | .routeValid p => decide (p < 256)
  | .pageList _ => true
  | .ras i => decide (i < 1428)
  | .mbxBlock f w => decide (f < 32) && decide (w < 8)
  | .mbxstat f => decide (f < 32)
  | .msixTable f v _ => decide (f < 32) && decide (v < 66)

/-- The places of R218 Table 7. -/
def errLocOk : ErrLoc → Bool
  | .pool core slot _ | .tile core slot _ | .acc core slot _ => decide (core < 512) && decide (slot < 64)
  | .l1 core _ => decide (core < 512)
  | .line _ _ | .hbm _ => true
  | .loop i => decide (i < 72)
  | .lane _ => true
  | .reg x r => decide (x < 2 ^ 26) && decide (r < 128)

/-- The terms of `Instr` that some encoding gives; an event row has no encoding and carries no operand of its own. -/
def wellFormed : Instr → Bool
  | .pop _ fn _ pa pb => popFieldsOk fn pa pb
  | .ld _ sz sx _ pol _ m => policyOk m.space pol && (!sx || sz == .b8 || sz == .b16)
  | .st _ _ _ pol m _ => policyOk m.space pol
  | .atom _ op sz _ _ _ _ _ => atomSizeOk sz && (op != .fadd || sz == .b32)
  | .cas _ sz _ _ _ _ _ _ => atomSizeOk sz
  | .cinval _ all m b => !all || (m.a == 0 && b == 0 && dispZero m.disp)
  | .adrain _ fmt _ _ _ d _ _ _ => fmt == .reef || d == 0
  | .copyLd _ ring d _ _ _ => !ring || d == 0
  | .gather _ ring d _ _ _ _ => !ring || d == 0
  | .xform _ ring op d _ b _ h => (!ring || d == 0) && (op == .pack || b == 0) && (xfHandle op || h == 0)
  | .kvappend _ _ _ _ _ n => kvCountOk n
  | .kvgather _ _ ring d _ _ _ n => (!ring || d == 0) && kvCountOk n
  | .enqX _ _ sz _ _ _ => sz != 3
  | .deqX _ _ sz _ _ _ => sz != 3
  | .add .. | .addi .. | .sub .. | .mul .. | .mulhiS .. | .mulhiU .. | .mad .. | .and .. | .andi .. | .or ..
  | .ori .. | .xor .. | .xori .. | .shl .. | .shli .. | .shr .. | .shri .. | .sar .. | .sari .. | .minS ..
  | .minU .. | .maxS .. | .maxU .. | .clz .. | .popc .. | .brev .. | .bfe .. | .bfi .. | .mov .. | .li ..
  | .add64 .. | .cmp .. | .cmpi .. | .sel .. | .mcall .. | .spawn .. | .rein .. | .trigger .. | .bra .. | .call ..
  | .brx .. | .ret .. | .exit .. | .yield .. | .trap .. | .bkpt .. | .fadd .. | .fsub .. | .fmul .. | .ffma ..
  | .fmin .. | .fmax .. | .fcmp .. | .fsfu .. | .fcvt .. | .fabs .. | .fneg .. | .hadd2 .. | .hmul2 .. | .hfma2 ..
  | .hmax2 .. | .fclass .. | .shflIdx .. | .shflUp .. | .shflDown .. | .shflXor .. | .vote .. | .redux ..
  | .hbar .. | .vlane .. | .put .. | .putv .. | .empty .. | .fillq .. | .ldw .. | .stw .. | .lds .. | .sts ..
  | .ldp .. | .atomsAdd .. | .wait .. | .wtok .. | .await .. | .release .. | .send .. | .recv .. | .enq ..
  | .deq .. | .selX .. | .divS .. | .divU .. | .remS .. | .remU .. | .addc .. | .subb .. | .mul64 .. | .mulw ..
  | .lea .. | .li64 .. | .sext .. | .zext .. | .cmp64 .. | .dsh .. | .bsel .. | .ffmaX .. | .faddX .. | .fmulX ..
  | .fdiv .. | .fsqrt .. | .fcvtX .. | .frnd .. | .fldexp .. | .ffrexp .. | .hfma2X .. | .fdot2 .. | .shflX ..
  | .voteX .. | .reduxX .. | .scan .. | .peers .. | .hset .. | .hbarX .. | .kset .. | .hq .. | .sread ..
  | .swrite .. | .grow .. | .shrink .. | .kmov .. | .pmovGet .. | .pmovSet .. | .capmint .. | .caprevoke ..
  | .capinfo .. | .putX .. | .putvX .. | .putadd .. | .emptyX .. | .prefetch .. | .cflush .. | .pin .. | .unpin ..
  | .fence .. | .tdset .. | .tdget .. | .tload .. | .tstore .. | .tzero .. | .split .. | .azero .. | .aread ..
  | .awrite .. | .ascale .. | .reefq .. | .mmaS .. | .mmaB .. | .mmaE .. | .mmaprog .. | .copySt .. | .copymc ..
  | .scatter .. | .lrec .. | .kvlen .. | .kvwin .. | .kvtrim .. | .kvopen .. | .kvclose .. | .rinit ..
  | .rproduceClaim .. | .rproduceFill .. | .rpeek .. | .awaitX .. | .releaseX .. | .sendX .. | .recvX ..
  | .spawnX .. | .pdkey .. | .pdkeyFlush .. | .waitX .. | .wtokX .. | .binit .. | .barrive .. | .bwait ..
  | .bdue .. | .clock .. | .retired .. | .perfcfg .. | .perfrd .. | .fidrd .. | .eret .. | .eretSkip ..
  | .causeAddr .. | .causeLog .. | .causeLogn .. | .ppoint .. | .sleep .. | .halt .. | .mstore .. | .mread ..
  | .mcallX .. | .putArrival | .putAnswer | .loadDataReturn | .storeAck | .sliceRequest | .filterWindowEnd
  | .mergeWindowEnd | .pinRequestServe | .pinFadeExpiry | .pageIdleTimer | .hbmRefresh | .thermalCritical
  | .thermalResume | .temperatureLevelChange | .walkStart | .walkComplete | .tileOpStart | .tileOpRetire
  | .engineOpStart | .engineSegmentComplete | .engineOpRetire | .copymcLanding | .kvOpStart | .kvSegmentComplete
  | .kvwinApply | .kvtrimFree | .kvOpRetire | .channelEntryArrival | .channelAck | .channelResendTimer
  | .paddockTimerExpiry | .paddockLaunch | .sleepExpiry | .crewRelease | .troopRetire | .lqtailDoorbell
  | .launchPacketCheck | .dispatchDecision | .gracePeriodExpiry | .contextSave | .contextRestore | .linkLoss
  | .loopPacketArrival | .loopResendTimer | .loopFailure | .ualinkPortFailure | .ualinkMemoryRequest
  | .ualinkPutRequest | .ualinkPutAnswer | .ualinkChannelRequest | .ualinkChannelAnswer | .ualinkAtomicRequest
  | .ualinkAtomicAnswer | .hostApertureAccess | .mbxdbDoorbell | .pkgSet | .asWrite | .tlbInval | .routeWrite
  | .sliceWrite | .hbmWrite | .kvpoolInit | .pinQuota | .pinRelease | .preempt | .fwStage | .fwActivate | .evRing
  | .vfWindow | .fuseCommit | .bootVerify | .powerUp | .functionLevelReset | .doeAttestRequest | .doeCertRequest
  | .quietPoint | .fwRevertTimeout | .watchdogExpiry | .xwdogWrite | .xeventWrite | .devqRead | .devcntRead
  | .mevqRead | .placeWrite | .saveWrite | .restoreWrite | .faultrespWrite | .haltWrite | .dmagoWrite
  | .dmaComplete | .lqadvWrite | .lqerrWrite | .mbxdoneWrite | .pinansWrite | .invgoWrite | .invalidationComplete
  | .freezeWrite | .pkgsetWrite | .doesendWrite | .signgoWrite | .signComplete | .fusecommitWrite
  | .correctedError | .rasWindowEnd | .registerWrite | .notAnInstruction | .operandAvailable | .linkTraining
  | .loopAcknowledgement | .uncorrectableError => true

end Sys2Proof
end

