-- ==== Sys2Proof/Decode.lean ====
section
/-! DEFINITION. Decode.lean: from words to an instruction and back (spec/04_encoding.md R64-R81 and the encoding
tables of the chapters). A word sequence is first laid out as the fields of R68 and R73; `readFields` names the
instruction those fields select, `encodeFields` writes an instruction's own fields from the same tables, and
`decodeFields` accepts what `readFields` named only when its own fields are exactly the given ones: so any nonzero
bit in a field the instruction does not use is refused (R80). -/

namespace Sys2Proof

/-- Why a word sequence is no instruction (R80); every reason but `tooShort` is ILLEGAL_INSTR. -/
inductive Reject where
  | tooShort | reservedOp7 | majorInBaseFrame | unassignedSubop | unassignedCode | fieldNotUsed
  deriving DecidableEq, Repr

/-- The fields of the frames of R68 and R73; a field the frame lacks is zero. -/
structure Fields where
  len : BitVec 2
  op7 : BitVec 7
  g : BitVec 2 := 0
  d : BitVec 7 := 0
  a : BitVec 7 := 0
  b : BitVec 7 := 0
  subop : BitVec 8 := 0
  gp : BitVec 3 := 0
  gs : Bool := false
  e : BitVec 7 := 0
  mods : BitVec 5 := 0
  fmt8 : BitVec 8 := 0
  imm : BitVec 32 := 0
  lit : BitVec 64 := 0
  deriving DecidableEq, Repr

/-! ## Words and fields (R64, R68, R73) -/

/-- Words of a frame (R64 Table 1). -/
def frameWords (len : BitVec 2) : Nat :=
  match len.toNat with
  | 0 => 1 | 1 => 3 | 2 => 3 | _ => 5

/-- Word 0 of R68. -/
def fieldsWord0 (f : Fields) : Word := f.b ++ f.a ++ f.d ++ f.g ++ f.op7 ++ f.len
/-- Word 1 of R73. -/
def fieldsWord1 (f : Fields) : Word := f.fmt8 ++ f.mods ++ f.e ++ BitVec.ofBool f.gs ++ f.gp ++ f.subop

/-- The words of a frame, in order (R64). -/
def wordsOfFields (f : Fields) : List Word :=
  fieldsWord0 f :: (if f.len.getLsbD 1 then [fieldsWord1 f, f.imm] else [])
    ++ (if f.len.getLsbD 0 then [f.lit.extractLsb' 0 32, f.lit.extractLsb' 32 32] else [])

/-- Word 0 taken apart (R68). -/
def fieldsOfWord0 (w : Word) : Fields :=
  { len := w.extractLsb' 0 2, op7 := w.extractLsb' 2 7, g := w.extractLsb' 9 2, d := w.extractLsb' 11 7,
    a := w.extractLsb' 18 7, b := w.extractLsb' 25 7 }

/-- Words 1 and 2 added (R73). -/
def fieldsAddExt (f : Fields) (w1 w2 : Word) : Fields :=
  { f with subop := w1.extractLsb' 0 8, gp := w1.extractLsb' 8 3, gs := w1.getLsbD 11, e := w1.extractLsb' 12 7,
           mods := w1.extractLsb' 19 5, fmt8 := w1.extractLsb' 24 8, imm := w2 }

/-- The fields at the head of a word sequence, and the words after them (R64). -/
def fieldsOfWords : List Word → Except Reject (Fields × List Word)
  | [] => .error .tooShort
  | w0 :: ws =>
    let f := fieldsOfWord0 w0
    match f.len.toNat, ws with
    | 0, ws => .ok (f, ws)
    | 1, l :: h :: ws => .ok ({ f with lit := h ++ l }, ws)
    | 2, w1 :: w2 :: ws => .ok (fieldsAddExt f w1 w2, ws)
    | 3, w1 :: w2 :: l :: h :: ws => .ok ({ fieldsAddExt f w1 w2 with lit := h ++ l }, ws)
    | _, _ => .error .tooShort

/-! ## Codes -/

/-- The item a code names. -/
def codeItem {α : Type} (l : List α) (n : Nat) : Except Reject α :=
  match l[n]? with
  | some x => .ok x
  | none => .error .unassignedCode

/-- The code that names an item. -/
def itemCode {α : Type} [DecidableEq α] (l : List α) (x : α) (w : Nat) : BitVec w := BitVec.ofNat w (l.idxOf x)

def icondCodes : List ICond := [.eq, .ne, .lt, .le, .gt, .ge, .ltu, .leu, .gtu, .geu]
def fcondCodes : List FCond := [.eq, .ne, .lt, .le, .gt, .ge, .ord, .uno, .ueq, .une, .ult, .ule, .ugt, .uge]
def popCodes : List PopFn := [.and, .or, .xor, .andn, .orn, .nand, .nor, .xnor, .mov, .not, .clr, .set]
def sfuCodes : List SfuFn := [.rcp, .rsqrt, .exp2, .log2, .sinpi, .cospi, .tanh]
def cvtCodes : List Cvt := [.f32bf16, .bf16f32, .f32e4m3, .f32e5m2, .f32e5m2s, .e4m3f32, .e5m2f32,
  .f32i32, .f32u32, .i32f32, .u32f32, .e8m0f32, .f32i32z, .f32u32z]
def rmCodes : List Rm := [.rne, .rz, .rd, .ru]
def shflCodes : List ShflOp := [.idx, .up, .down, .xor]
def voteCodes : List VoteMode := [.and, .or, .same, .mask, .count]
def redCodes : List RedOp := [.fadd, .fmin, .fmax, .add, .mul, .minS, .maxS, .minU, .maxU, .and, .or, .xor]
def rightCodes : List CapRight := [.w1, .wm, .add]
def scopeCodes : List Scope := [.crew, .core, .die, .pkg, .span]
def policyCodes : List Policy := [.normal, .stream, .nl1]
def spaceCodes : List Space := [.global, .spm, .cluster]
def queueSpaceCodes : List Space := [.spm, .cluster, .global]
def sizeCodes : List Size := [.b8, .b16, .b32, .b64, .b128]
def orderCodes : List MemOrd := [.relaxed, .acq, .rel, .ar]
def atomCodes : List AtomOp := [.add, .minS, .maxS, .minU, .maxU, .and, .or, .xor, .exch, .fadd]
def drainCodes : List DrainFmt := [.f32, .bf16, .reef]
def xfCodes : List XfOp := [.tr, .rtr, .pack, .unpack, .bf2e4, .bf2e5, .e4bf, .e5bf, .zmap]
def partCodes : List KvPart := [.k, .v, .kv]
def fidCodes : List FidSel := [.exceed, .cnt, .flags]
/-- R97 Table 4. -/
def sregCodes : List (Option SReg) :=
  [some .lane, some .plane, some .quarter, some .crew, some .troop, some .herd, some .core, some .die, some .pkg,
   some .role, some .ncrews, some .extblk, some .sgw, none, none, none,
   some .trappcLo, some .trappcHi, some .cause, some .tval, none, none, none, none, some .fidrate, some .fidthr]
def sregItem (n : Nat) : Except Reject SReg :=
  match sregCodes[n]? with
  | some (some x) => .ok x
  | _ => .error .unassignedCode

/-! ## Reading operands from fields -/

/-- R70, R77. -/
def guardOf (f : Fields) : Guard :=
  if f.len.getLsbD 1 then .ext f.gp f.gs
  else match f.g.toNat with
    | 0 => .always | 1 => .p0 | 2 => .notP0 | _ => .p1
def isLit (f : Fields) : Bool := f.len.getLsbD 0
def bsrcOf (f : Fields) : BSrc := if isLit f then .lit f.lit else .reg f.b
def bimmOf (f : Fields) : BImm := if isLit f then .lit f.lit else .imm f.b
def wimmOf (f : Fields) : WImm := if isLit f then .lit f.lit else .imm (f.b ++ f.a)
def xgOf (f : Fields) : XG := ⟨f.gp, f.gs⟩
/-- R75: bit [51] selects the immediate or literal. -/
def xsrcOf (f : Fields) : XSrc :=
  if f.mods.getLsbD 0 then (if isLit f then .lit f.lit else .imm f.imm) else .reg f.b
/-- As `xsrcOf`, where the register stands in field a (R130, R134). -/
def xsrcAOf (f : Fields) : XSrc :=
  if f.mods.getLsbD 0 then (if isLit f then .lit f.lit else .imm f.imm) else .reg f.a
def rsrcOf (f : Fields) : RSrc := if f.mods.getLsbD 0 then .imm f.imm else .reg f.b
def ximmOf (f : Fields) : XImm := if isLit f then .lit f.lit else .imm f.imm
def dispOf (f : Fields) : Disp := if isLit f then .lit f.lit else .imm f.imm
def tokOf (f : Fields) : Option (BitVec 4) := if f.fmt8.getLsbD 7 then some (f.fmt8.extractLsb' 3 4) else none
def xaOf (f : Fields) : XA := ⟨xgOf f, tokOf f⟩
def xtOf (f : Fields) : XT := ⟨xgOf f, f.e.extractLsb' 0 5, tokOf f⟩
/-- R75, XC: hitch in fmt8[63:59], width code in [58:56]. -/
def hitchOf (f : Fields) : BitVec 5 := f.fmt8.extractLsb' 3 5
def widthOf (f : Fields) : BitVec 3 := f.fmt8.extractLsb' 0 3
/-- Modifiers [55:52]. -/
def modHi (f : Fields) : BitVec 4 := f.mods.extractLsb' 1 4
def modBit (f : Fields) (n : Nat) : Bool := f.mods.getLsbD (n - 51)
def rmOf (f : Fields) : Except Reject Rm := codeItem rmCodes (f.mods.extractLsb' 1 2).toNat
def memOf (f : Fields) : Except Reject Mem := do
  let sp ← codeItem spaceCodes (f.fmt8.extractLsb' 0 3).toNat
  .ok ⟨sp, f.a, dispOf f⟩
def gmemOf (f : Fields) : GMem := ⟨f.a, dispOf f⟩
def policyOf (f : Fields) : Except Reject Policy := codeItem policyCodes (f.fmt8.extractLsb' 3 2).toNat
def scopeOf (f : Fields) : Except Reject Scope := codeItem scopeCodes (f.fmt8.extractLsb' 5 3).toNat
def sizeOf' (f : Fields) : Except Reject Size := codeItem sizeCodes (f.mods.extractLsb' 2 3).toNat
def orderOf (f : Fields) : Except Reject MemOrd := codeItem orderCodes (f.mods.extractLsb' 0 2).toNat
/-- The lane select of R154. -/
def laneSelOf (f : Fields) : Option (BitVec 5) := if f.imm.getLsbD 5 then some (f.imm.extractLsb' 0 5) else none
/-- The `.try` option of R298 and R300. -/
def tryOf (f : Fields) : Option PReg := if modBit f 52 then some (f.e.extractLsb' 0 3) else none
def tdispOf (f : Fields) : BitVec 21 := f.imm.extractLsb' 0 21
def predD (f : Fields) : PReg := f.d.extractLsb' 0 3
def predE (f : Fields) : PReg := f.e.extractLsb' 0 3

/-- The base instruction op7 names (R72, R78). -/
def readBase (f : Fields) : Except Reject Instr :=
  let g := guardOf f; let d := f.d; let a := f.a; let b := bsrcOf f; let i := bimmOf f
  match f.op7.toNat with
  | 0x01 => .ok (.add g d a b) | 0x02 => .ok (.addi g d a i) | 0x03 => .ok (.sub g d a b) | 0x04 => .ok (.mul g d a b)
  | 0x05 => .ok (.mulhiS g d a b) | 0x06 => .ok (.mulhiU g d a b) | 0x07 => .ok (.mad g d a b)
  | 0x08 => .ok (.and g d a b) | 0x09 => .ok (.andi g d a i) | 0x0A => .ok (.or g d a b) | 0x0B => .ok (.ori g d a i)
  | 0x0C => .ok (.xor g d a b) | 0x0D => .ok (.xori g d a i) | 0x0E => .ok (.shl g d a b) | 0x0F => .ok (.shli g d a i)
  | 0x10 => .ok (.shr g d a b) | 0x11 => .ok (.shri g d a i) | 0x12 => .ok (.sar g d a b) | 0x13 => .ok (.sari g d a i)
  | 0x14 => .ok (.minS g d a b) | 0x15 => .ok (.minU g d a b) | 0x16 => .ok (.maxS g d a b) | 0x17 => .ok (.maxU g d a b)
  | 0x18 => .ok (.clz g d a) | 0x19 => .ok (.popc g d a) | 0x1A => .ok (.brev g d a)
  | 0x1B => .ok (.bfe g d a b) | 0x1C => .ok (.bfi g d a b) | 0x1D => .ok (.mov g d a) | 0x1E => .ok (.li g d (wimmOf f))
  | 0x1F => .ok (.add64 g d a b)
  | 0x20 => do .ok (.cmp g (← codeItem icondCodes (d.extractLsb' 3 4).toNat) (predD f) a b)
  | 0x21 => do .ok (.cmpi g (← codeItem icondCodes (d.extractLsb' 3 4).toNat) (predD f) a i)
  | 0x22 => do .ok (.pop g (← codeItem popCodes (d.extractLsb' 3 4).toNat) (predD f) (a.extractLsb' 0 3) (f.b.extractLsb' 0 3))
  | 0x23 => .ok (.sel g d a b)
  | 0x24 => .ok (.mcall g d a f.b) | 0x25 => .ok (.spawn g (predD f) a f.b) | 0x26 => .ok (.rein g) | 0x27 => .ok (.trigger g)
  | 0x28 => .ok (.bra g (f.b ++ f.a ++ f.d)) | 0x29 => .ok (.call g (f.b ++ f.a ++ f.d))
  | 0x2A => .ok (.brx g a) | 0x2B => .ok (.ret g) | 0x2C => .ok (.exit g) | 0x2D => .ok (.yield g)
  | 0x2E => .ok (.trap g (f.b ++ f.a)) | 0x2F => .ok (.bkpt g (f.b ++ f.a))
  | 0x30 => .ok (.fadd g d a b) | 0x31 => .ok (.fsub g d a b) | 0x32 => .ok (.fmul g d a b) | 0x33 => .ok (.ffma g d a b)
  | 0x34 => .ok (.fmin g d a b) | 0x35 => .ok (.fmax g d a b)
  | 0x36 => do .ok (.fcmp g (← codeItem fcondCodes (d.extractLsb' 3 4).toNat) (predD f) a b)
  | 0x37 => do .ok (.fsfu g (← codeItem sfuCodes f.b.toNat) d a)
  | 0x38 => do .ok (.fcvt g (← codeItem cvtCodes f.b.toNat) d a)
  | 0x39 => .ok (.fabs g d a) | 0x3A => .ok (.fneg g d a)
  | 0x3B => .ok (.hadd2 g d a b) | 0x3C => .ok (.hmul2 g d a b) | 0x3D => .ok (.hfma2 g d a b) | 0x3E => .ok (.hmax2 g d a b)
  | 0x3F => .ok (.fclass g d a)
  | 0x40 => .ok (.shflIdx g d a b) | 0x41 => .ok (.shflUp g d a b) | 0x42 => .ok (.shflDown g d a b) | 0x43 => .ok (.shflXor g d a b)
  | 0x44 => do .ok (.vote g (← codeItem voteCodes f.b.toNat) d (a.extractLsb' 0 3))
  | 0x45 => do .ok (.redux g (← codeItem redCodes f.b.toNat) d a)
  | 0x46 => .ok (.hbar g) | 0x47 => .ok (.vlane g d a)
  | 0x48 => .ok (.put g (d.extractLsb' 0 5) a b) | 0x49 => .ok (.putv g (d.extractLsb' 0 5) a f.b)
  | 0x4A => .ok (.empty g d f.b) | 0x4B => .ok (.fillq g (predD f) a)
  | 0x50 => .ok (.ldw g d a f.b) | 0x51 => .ok (.stw g d a f.b) | 0x52 => .ok (.lds g d a f.b) | 0x53 => .ok (.sts g d a f.b)
  | 0x54 => .ok (.ldp g d (f.b ++ f.a)) | 0x55 => .ok (.atomsAdd g d a b)
  | 0x58 => .ok (.wait g (a.extractLsb' 0 3) (f.b.extractLsb' 0 2 ++ a.extractLsb' 3 4))
  | 0x59 => .ok (.wtok g (d.extractLsb' 0 4))
  | 0x5A => .ok (.await g d a) | 0x5B => .ok (.release g a f.b) | 0x5C => .ok (.send g d a) | 0x5D => .ok (.recv g d a)
  | 0x5E => .ok (.enq g (predD f) a f.b) | 0x5F => .ok (.deq g d a (f.b.extractLsb' 0 3))
  | _ => .error .reservedOp7

/-- XALU (R104 Table 8). -/
def readXalu (f : Fields) : Except Reject Instr :=
  let x := xgOf f; let d := f.d; let a := f.a; let b := xsrcOf f; let w := f.fmt8
  match f.subop.toNat with
  | 0x00 => .ok (.selX x (w.extractLsb' 0 3) d a b)
  | 0x01 => .ok (.divS x d a b) | 0x02 => .ok (.divU x d a b) | 0x03 => .ok (.remS x d a b) | 0x04 => .ok (.remU x d a b)
  | 0x05 => .ok (.addc x d a b (w.extractLsb' 0 3) (w.extractLsb' 3 3))
  | 0x06 => .ok (.subb x d a b (w.extractLsb' 0 3) (w.extractLsb' 3 3))
  | 0x07 => .ok (.mul64 x d a b) | 0x08 => .ok (.mulw x (modBit f 52) d a b)
  | 0x09 => .ok (.lea x (modBit f 52) (w.extractLsb' 0 2) d a b) | 0x0A => .ok (.li64 x d (ximmOf f))
  | 0x0B => .ok (.sext x d a (w.extractLsb' 0 5)) | 0x0C => .ok (.zext x d a (w.extractLsb' 0 5))
  | 0x0D => do .ok (.cmp64 x (← codeItem icondCodes (w.extractLsb' 0 4).toNat) (predD f) a b)
  | 0x0E => .ok (.dsh x (modBit f 52) (modBit f 53) d a b f.e) | 0x0F => .ok (.bsel x d a b f.e)
  | _ => .error .unassignedSubop

/-- XFP (R124 Table 4). -/
def readXfp (f : Fields) : Except Reject Instr := do
  let x := xgOf f; let d := f.d; let a := f.a; let b := xsrcOf f; let rm ← rmOf f
  match f.subop.toNat with
  | 0x00 => .ok (.ffmaX x rm d a b f.e) | 0x01 => .ok (.faddX x rm d a b) | 0x02 => .ok (.fmulX x rm d a b)
  | 0x03 => .ok (.fdiv x rm d a b) | 0x04 => .ok (.fsqrt x d a)
  | 0x05 => do .ok (.fcvtX x rm (← codeItem cvtCodes f.fmt8.toNat) d a)
  | 0x06 => .ok (.frnd x rm d a) | 0x07 => .ok (.fldexp x rm d a b) | 0x08 => .ok (.ffrexp x d a f.e)
  | 0x09 => .ok (.hfma2X x rm d a b f.e) | 0x0A => .ok (.fdot2 x rm d a b f.e)
  | _ => .error .unassignedSubop

/-- XCOLL (R134 Table 8, R130). -/
def readXcoll (f : Fields) : Except Reject Instr :=
  let x := xgOf f; let d := f.d; let a := f.a; let h := hitchOf f; let w := widthOf f; let m := (modHi f).toNat
  match f.subop.toNat with
  | 0x00 => do .ok (.shflX x (← codeItem shflCodes m) w d a (xsrcOf f) (predE f) h)
  | 0x01 => do .ok (.voteX x (← codeItem voteCodes m) w d (a.extractLsb' 0 3) (predE f) h)
  | 0x02 => do .ok (.reduxX x (← codeItem redCodes m) w d a h)
  | 0x03 => do .ok (.scan x (← codeItem redCodes m) (f.e.getLsbD 0) w d a h)
  | 0x04 => .ok (.peers x (modBit f 52) (modBit f 53) w d a (predE f) h)
  | 0x05 => .ok (.hset x (modBit f 52) h (xsrcAOf f)) | 0x06 => .ok (.hbarX x h)
  | 0x07 => .ok (.kset x d (xsrcAOf f) h) | 0x08 => .ok (.hq x d h)
  | _ => .error .unassignedSubop

/-- XSPEC (R91 Table 3, R97 Table 5). -/
def readXspec (f : Fields) : Except Reject Instr :=
  let x := xgOf f
  match f.subop.toNat with
  | 0x00 => do .ok (.sread x f.d (← sregItem f.fmt8.toNat)) | 0x01 => do .ok (.swrite x (← sregItem f.fmt8.toNat) f.a)
  | 0x02 => .ok (.grow x (predD f) (f.fmt8.extractLsb' 0 2) (modBit f 52)) | 0x03 => .ok (.shrink x (f.fmt8.extractLsb' 0 2))
  | 0x04 => .ok (.kmov x f.d f.a)
  | 0x05 => if modBit f 52 then .ok (.pmovSet x f.a (f.fmt8.extractLsb' 0 7)) else .ok (.pmovGet x f.d)
  | _ => .error .unassignedSubop

/-- XCAP (R147, R150-R154). -/
def readXcap (f : Fields) : Except Reject Instr :=
  let x := xgOf f; let v := xaOf f; let i : BitVec 5 := f.d.extractLsb' 0 5
  match f.subop.toNat with
  | 0x00 => do .ok (.capmint x (← codeItem rightCodes (f.mods.extractLsb' 1 2).toNat) f.d f.a f.b (predE f) (f.imm.extractLsb' 0 6))
  | 0x01 => .ok (.caprevoke x f.a (predE f)) | 0x02 => .ok (.capinfo x f.d f.a)
  | 0x03 => .ok (.putX v i f.a f.b (laneSelOf f)) | 0x04 => .ok (.putvX v i f.a f.b)
  | 0x05 => .ok (.putadd v (modBit f 52) i f.a f.b (laneSelOf f)) | 0x06 => .ok (.emptyX x f.d f.e (f.imm.extractLsb' 0 6))
  | _ => .error .unassignedSubop

/-- An optional scope under an order code (R221 Table 8). -/
def scopeIf (f : Fields) (on : MemOrd) : Except Reject (Option Scope) := do
  let o ← orderOf f
  if o = on then .ok (some (← scopeOf f)) else .ok none

/-- XMEM (R76, R221 Table 8, R282). -/
def readXmem (f : Fields) : Except Reject Instr :=
  let x := xgOf f
  match f.subop.toNat with
  | 0x00 => do .ok (.ld x (← sizeOf' f) (f.e.getLsbD 0) (← scopeIf f .acq) (← policyOf f) f.d (← memOf f))
  | 0x01 => do .ok (.st x (← sizeOf' f) (← scopeIf f .rel) (← policyOf f) (← memOf f) f.b)
  | 0x02 => do .ok (.atom x (← codeItem atomCodes (f.e.extractLsb' 0 4).toNat) (← sizeOf' f) (← orderOf f) (← scopeOf f)
                      f.d (← memOf f) f.b)
  | 0x03 => do .ok (.cas x (← sizeOf' f) (← orderOf f) (← scopeOf f) f.d (← memOf f) f.b f.e)
  | 0x04 => do .ok (.prefetch x (← policyOf f) (gmemOf f)) | 0x05 => .ok (.cflush x (gmemOf f) f.b)
  | 0x06 => .ok (.cinval x (f.e.getLsbD 0) (gmemOf f) f.b) | 0x07 => .ok (.pin x (predD f) (gmemOf f) f.b f.e)
  | 0x08 => .ok (.unpin x (predD f) (gmemOf f))
  | 0x09 => do
    let k ← match (f.mods.extractLsb' 0 2).toNat with
      | 1 => .ok FenceKind.acq | 2 => .ok .rel | 3 => .ok .full | _ => .error .unassignedCode
    .ok (.fence x k (← scopeOf f))
  | _ => .error .unassignedSubop

/-- XTILE (R174 Table 6). -/
def readXtile (f : Fields) : Except Reject Instr :=
  let t := xtOf f; let cl := modBit f 51; let disp := tdispOf f
  match f.subop.toNat with
  | 0x00 => .ok (.tdset t f.d f.a) | 0x01 => .ok (.tdget t f.d f.a) | 0x02 => .ok (.tload t cl f.d f.a disp)
  | 0x03 => .ok (.tstore t cl f.a f.b disp) | 0x04 => .ok (.tzero t f.d) | 0x05 => .ok (.split t (modBit f 52) cl f.d f.a disp)
  | 0x06 => .ok (.azero t f.d (f.imm.extractLsb' 0 2) (f.imm.extractLsb' 2 2))
  | 0x07 => do
    let fm ← codeItem drainCodes (f.mods.extractLsb' 1 2).toNat
    .ok (.adrain t fm (modBit f 54) (if modBit f 55 then some (f.imm.extractLsb' 28 4) else none) cl f.d f.a f.b disp)
  | 0x08 => .ok (.aread t f.d f.a f.b) | 0x09 => .ok (.awrite t f.d f.a f.b) | 0x0A => .ok (.ascale t f.d f.imm)
  | 0x0B => .ok (.reefq t f.d f.a f.b)
  | _ => .error .unassignedSubop

/-- XMMA (R186 Table 3). -/
def readXmma (f : Fields) : Except Reject Instr :=
  let t := xtOf f
  match f.subop.toNat with
  | 0x00 => .ok (.mmaS t f.d f.a f.b) | 0x01 => .ok (.mmaB t f.d f.a f.b) | 0x02 => .ok (.mmaE t f.d f.a f.b)
  | 0x03 => .ok (.mmaprog t f.d f.a f.b (f.imm.extractLsb' 0 3))
  | _ => .error .unassignedSubop

/-- XENG (R255 Table 4). -/
def readXeng (f : Fields) : Except Reject Instr :=
  let v := xaOf f; let ring := f.fmt8.getLsbD 2; let h : BitVec 4 := f.imm.extractLsb' 0 4
  match f.subop.toNat with
  | 0x00 => if modBit f 51 then .ok (.copySt v f.d f.a f.e h) else .ok (.copyLd v ring f.d f.a f.e h)
  | 0x01 => .ok (.copymc v f.d f.a f.b f.e h (f.imm.extractLsb' 8 20))
  | 0x02 => .ok (.gather v ring f.d f.a f.b f.e h) | 0x03 => .ok (.scatter v f.d f.a f.b f.e h)
  | 0x04 => do .ok (.xform v ring (← codeItem xfCodes (f.imm.extractLsb' 4 4).toNat) f.d f.a f.b f.e h)
  | 0x05 => .ok (.lrec (xgOf f) f.a h)
  | _ => .error .unassignedSubop

/-- XKV (R239 Table 9). -/
def readXkv (f : Fields) : Except Reject Instr :=
  let v := xaOf f; let x := xgOf f; let n : BitVec 9 := f.imm.extractLsb' 0 9
  match f.subop.toNat with
  | 0x00 => .ok (.kvappend v (modBit f 51) f.d f.a f.e n)
  | 0x01 => do .ok (.kvgather v (← codeItem partCodes (f.mods.extractLsb' 0 2).toNat) (f.fmt8.getLsbD 2) f.d f.a f.b f.e n)
  | 0x02 => .ok (.kvlen x f.d f.a) | 0x03 => .ok (.kvwin v f.a f.b) | 0x04 => .ok (.kvtrim v f.a)
  | 0x05 => .ok (.kvopen x (modBit f 51) f.d f.a) | 0x06 => .ok (.kvclose x f.a)
  | _ => .error .unassignedSubop

/-- XQ (R298 Table 4, R300, R304, R306, R307). -/
def readXq (f : Fields) : Except Reject Instr :=
  let x := xgOf f; let b := rsrcOf f; let w := f.fmt8; let k : BitVec 4 := w.extractLsb' 0 4
  match f.subop.toNat with
  | 0x00 => .ok (.rinit x f.a b f.e)
  | 0x01 => if modBit f 52 then .ok (.rproduceFill x f.a b) else .ok (.rproduceClaim x f.d f.a)
  | 0x02 => .ok (.rpeek x f.d f.a b) | 0x03 => .ok (.awaitX x f.d f.a b (tryOf f)) | 0x04 => .ok (.releaseX x f.a b)
  | 0x05 => .ok (.sendX x f.d f.a (xsrcOf f)) | 0x06 => .ok (.recvX x f.d f.a (tryOf f))
  | 0x07 => do .ok (.enqX x (← codeItem queueSpaceCodes (w.extractLsb' 0 2).toNat) (w.extractLsb' 2 2) (predD f) f.a f.b)
  | 0x08 => do .ok (.deqX x (← codeItem queueSpaceCodes (w.extractLsb' 0 2).toNat) (w.extractLsb' 2 2) f.d f.a (predE f))
  | 0x09 => .ok (.spawnX x (predD f) f.a k)
  | 0x0A => if modBit f 52 then .ok (.pdkeyFlush x k) else .ok (.pdkey x f.d k)
  | _ => .error .unassignedSubop

/-- XCNT (R75 format XW, R347, R350 Table 3). -/
def readXcnt (f : Fields) : Except Reject Instr :=
  let x := xgOf f; let b := rsrcOf f; let i := f.imm
  match f.subop.toNat with
  | 0x00 => .ok (.waitX x (i.extractLsb' 0 6) (i.extractLsb' 6 6) (i.extractLsb' 12 6) (i.extractLsb' 18 6) (i.extractLsb' 24 6))
  | 0x01 => .ok (.wtokX x (i.extractLsb' 0 16))
  | 0x02 => .ok (.binit x f.a b) | 0x03 => .ok (.barrive x f.a b) | 0x04 => .ok (.bwait x f.d f.a b)
  | 0x05 => .ok (.bdue x f.a b f.fmt8) | 0x06 => .ok (.clock x f.d) | 0x07 => .ok (.retired x f.d)
  | 0x08 => .ok (.perfcfg x (f.fmt8.extractLsb' 0 3) b) | 0x09 => .ok (.perfrd x (f.fmt8.extractLsb' 0 3) f.d)
  | 0x0A => do .ok (.fidrd x (← codeItem fidCodes (f.mods.extractLsb' 2 2).toNat) (modBit f 52) (f.fmt8.extractLsb' 0 4) f.d)
  | _ => .error .unassignedSubop

/-- XSYS (R367 Table 4). -/
def readXsys (f : Fields) : Except Reject Instr :=
  let x := xgOf f
  match f.subop.toNat with
  | 0x00 => if modBit f 52 then .ok (.eretSkip x) else .ok (.eret x)
  | 0x01 => match (f.fmt8.extractLsb' 0 2).toNat with
    | 0 => .ok (.causeAddr x f.d) | 1 => .ok (.causeLog x f.d) | 2 => .ok (.causeLogn x f.d) | _ => .error .unassignedCode
  | 0x02 => .ok (.ppoint x (modBit f 52) (predD f)) | 0x03 => .ok (.sleep x (xsrcOf f)) | 0x04 => .ok (.halt x)
  | _ => .error .unassignedSubop

/-- XMAC (R329 Table 9). -/
def readXmac (f : Fields) : Except Reject Instr :=
  let x := xgOf f; let q := rsrcOf f; let m : BitVec 6 := f.fmt8.extractLsb' 0 6
  match f.subop.toNat with
  | 0x00 => .ok (.mstore x m f.a q (predE f)) | 0x01 => .ok (.mread x m f.d q) | 0x02 => .ok (.mcallX x m f.d f.a q f.e)
  | _ => .error .unassignedSubop

/-- The instruction fields name, before the check of the fields it does not use (R78, R79). -/
def readFields (f : Fields) : Except Reject Instr :=
  match f.op7.toNat with
  | 0x60 => readXalu f | 0x61 => readXfp f | 0x62 => readXcoll f | 0x63 => readXspec f | 0x64 => readXcap f
  | 0x65 => readXmem f | 0x66 => readXtile f | 0x67 => readXmma f | 0x68 => readXeng f | 0x69 => readXkv f
  | 0x6A => readXq f | 0x6B => readXcnt f | 0x6C => readXsys f | 0x6D => readXmac f
  | _ => readBase f

/-! ## Writing fields -/

/-- Word 0 of a base instruction, or of its guarded form (R68, R77). -/
def encB (g : Guard) (op : Nat) (d a b : BitVec 7) (lit : Option Dword := none) : Fields :=
  let l : Bool := lit.isSome
  let c (n : Nat) : Fields := { len := if l then 1 else 0, op7 := BitVec.ofNat 7 op, g := BitVec.ofNat 2 n, d, a, b, lit := lit.getD 0 }
  match g with
  | .always => c 0 | .p0 => c 1 | .notP0 => c 2 | .p1 => c 3
  | .ext p n => { len := if l then 3 else 2, op7 := BitVec.ofNat 7 op, d, a, b, gp := p, gs := n, lit := lit.getD 0 }

def encBR (g : Guard) (op : Nat) (d a : BitVec 7) : BSrc → Fields
  | .reg r => encB g op d a r
  | .lit v => encB g op d a 0 (some v)
def encBI (g : Guard) (op : Nat) (d a : BitVec 7) : BImm → Fields
  | .imm v => encB g op d a v
  | .lit v => encB g op d a 0 (some v)
def encBJ (g : Guard) (op : Nat) (v : BitVec 21) : Fields :=
  encB g op (v.extractLsb' 0 7) (v.extractLsb' 7 7) (v.extractLsb' 14 7)
/-- [31:18] of format BW. -/
def encBW (g : Guard) (op : Nat) (d : BitVec 7) (v : BitVec 14) : Fields := encB g op d (v.extractLsb' 0 7) (v.extractLsb' 7 7)

/-- The fields of an extended frame (R73). -/
structure XW where
  d : BitVec 7 := 0
  a : BitVec 7 := 0
  b : BitVec 7 := 0
  e : BitVec 7 := 0
  hi : BitVec 4 := 0       -- mods [55:52]
  sel : Bool := false      -- mods [51]
  fmt8 : BitVec 8 := 0
  imm : BitVec 32 := 0
  lit : Option Dword := none

def encX (op sub : Nat) (x : XG) (w : XW) : Fields :=
  { len := if w.lit.isSome then 3 else 2, op7 := BitVec.ofNat 7 op, d := w.d, a := w.a, b := w.b, subop := BitVec.ofNat 8 sub,
    gp := x.p, gs := x.neg, e := w.e, mods := w.hi ++ BitVec.ofBool w.sel, fmt8 := w.fmt8, imm := w.imm, lit := w.lit.getD 0 }

/-- Operand b of format XR or XC (R75). -/
def withX (w : XW) : XSrc → XW
  | .reg r => { w with b := r }
  | .imm v => { w with sel := true, imm := v }
  | .lit v => { w with sel := true, lit := some v }
def withXA (w : XW) : XSrc → XW
  | .reg r => { w with a := r }
  | .imm v => { w with sel := true, imm := v }
  | .lit v => { w with sel := true, lit := some v }
def withR (w : XW) : RSrc → XW
  | .reg r => { w with b := r }
  | .imm v => { w with sel := true, imm := v }
def withDisp (w : XW) : Disp → XW
  | .imm v => { w with imm := v }
  | .lit v => { w with lit := some v }
def withTry (w : XW) : Option PReg → XW
  | none => w
  | some p => { w with hi := 1, e := p.setWidth 7 }
def p7 (p : PReg) : BitVec 7 := p.setWidth 7
def bit (b : Bool) (n : Nat) : Nat := if b then 2 ^ n else 0
def hi4 (n : Nat) : BitVec 4 := BitVec.ofNat 4 n
def tokBits : Option (BitVec 4) → BitVec 5
  | none => 0
  | some t => BitVec.ofBool true ++ t
def encXA (op sub : Nat) (v : XA) (ring : Bool) (w : XW) : Fields :=
  encX op sub v.x { w with fmt8 := tokBits v.tok ++ BitVec.ofBool ring ++ (0 : BitVec 2) }
def encXT (op sub : Nat) (t : XT) (w : XW) : Fields :=
  encX op sub t.x { w with e := t.h.setWidth 7, fmt8 := tokBits t.tok ++ (0 : BitVec 3) }
def encXC (sub : Nat) (x : XG) (h : BitVec 5) (wc : BitVec 3) (w : XW) : Fields := encX 0x62 sub x { w with fmt8 := h ++ wc }
/-- The fields of format XM (R75 Table 8, R76 Table 9). -/
def encXM (sub : Nat) (x : XG) (sc pol sp sz o : Nat) (dp : Disp) (w : XW) : Fields :=
  let m : BitVec 5 := BitVec.ofNat 3 sz ++ BitVec.ofNat 2 o
  let w8 : BitVec 8 := BitVec.ofNat 3 sc ++ BitVec.ofNat 2 pol ++ BitVec.ofNat 3 sp
  encX 0x65 sub x (withDisp { w with hi := m.extractLsb' 1 4, sel := m.getLsbD 0, fmt8 := w8 } dp)
def laneImm : Option (BitVec 5) → BitVec 32
  | none => 0
  | some l => ((1 : BitVec 1) ++ l).setWidth 32
def condD (cc : Nat) (p : PReg) : BitVec 7 := BitVec.ofNat 4 cc ++ p
def scopeN (o : Option Scope) : Nat := match o with | none => 0 | some s => scopeCodes.idxOf s
def xrm (rm : Rm) (w : XW) : XW := { w with hi := itemCode rmCodes rm 4 }

/-- The fields of an instruction, from the tables `readFields` reads; none for a row that is no instruction of a strand. -/
def encodeFields : Instr → Option Fields
  | .add g d a b => some (encBR g 0x01 d a b) | .addi g d a i => some (encBI g 0x02 d a i)
  | .sub g d a b => some (encBR g 0x03 d a b) | .mul g d a b => some (encBR g 0x04 d a b)
  | .mulhiS g d a b => some (encBR g 0x05 d a b) | .mulhiU g d a b => some (encBR g 0x06 d a b)
  | .mad g d a b => some (encBR g 0x07 d a b)
  | .and g d a b => some (encBR g 0x08 d a b) | .andi g d a i => some (encBI g 0x09 d a i)
  | .or g d a b => some (encBR g 0x0A d a b) | .ori g d a i => some (encBI g 0x0B d a i)
  | .xor g d a b => some (encBR g 0x0C d a b) | .xori g d a i => some (encBI g 0x0D d a i)
  | .shl g d a b => some (encBR g 0x0E d a b) | .shli g d a i => some (encBI g 0x0F d a i)
  | .shr g d a b => some (encBR g 0x10 d a b) | .shri g d a i => some (encBI g 0x11 d a i)
  | .sar g d a b => some (encBR g 0x12 d a b) | .sari g d a i => some (encBI g 0x13 d a i)
  | .minS g d a b => some (encBR g 0x14 d a b) | .minU g d a b => some (encBR g 0x15 d a b)
  | .maxS g d a b => some (encBR g 0x16 d a b) | .maxU g d a b => some (encBR g 0x17 d a b)
  | .clz g d a => some (encB g 0x18 d a 0) | .popc g d a => some (encB g 0x19 d a 0) | .brev g d a => some (encB g 0x1A d a 0)
  | .bfe g d a b => some (encBR g 0x1B d a b) | .bfi g d a b => some (encBR g 0x1C d a b)
  | .mov g d a => some (encB g 0x1D d a 0)
  | .li g d i => some (match i with | .imm v => encBW g 0x1E d v | .lit v => encB g 0x1E d 0 0 (some v))
  | .add64 g d a b => some (encBR g 0x1F d a b)
  | .cmp g cc p a b => some (encBR g 0x20 (condD (icondCodes.idxOf cc) p) a b)
  | .cmpi g cc p a i => some (encBI g 0x21 (condD (icondCodes.idxOf cc) p) a i)
  | .pop g fn pd pa pb => some (encB g 0x22 (condD (popCodes.idxOf fn) pd) (p7 pa) (p7 pb))
  | .sel g d a b => some (encBR g 0x23 d a b)
  | .mcall g m a b => some (encB g 0x24 m a b) | .spawn g pd a b => some (encB g 0x25 (p7 pd) a b)
  | .rein g => some (encB g 0x26 0 0 0) | .trigger g => some (encB g 0x27 0 0 0)
  | .bra g v => some (encBJ g 0x28 v) | .call g v => some (encBJ g 0x29 v)
  | .brx g a => some (encB g 0x2A 0 a 0) | .ret g => some (encB g 0x2B 0 0 0) | .exit g => some (encB g 0x2C 0 0 0)
  | .yield g => some (encB g 0x2D 0 0 0) | .trap g c => some (encBW g 0x2E 0 c) | .bkpt g c => some (encBW g 0x2F 0 c)
  | .fadd g d a b => some (encBR g 0x30 d a b) | .fsub g d a b => some (encBR g 0x31 d a b)
  | .fmul g d a b => some (encBR g 0x32 d a b) | .ffma g d a b => some (encBR g 0x33 d a b)
  | .fmin g d a b => some (encBR g 0x34 d a b) | .fmax g d a b => some (encBR g 0x35 d a b)
  | .fcmp g cc p a b => some (encBR g 0x36 (condD (fcondCodes.idxOf cc) p) a b)
  | .fsfu g fn d a => some (encB g 0x37 d a (itemCode sfuCodes fn 7)) | .fcvt g cv d a => some (encB g 0x38 d a (itemCode cvtCodes cv 7))
  | .fabs g d a => some (encB g 0x39 d a 0) | .fneg g d a => some (encB g 0x3A d a 0)
  | .hadd2 g d a b => some (encBR g 0x3B d a b) | .hmul2 g d a b => some (encBR g 0x3C d a b)
  | .hfma2 g d a b => some (encBR g 0x3D d a b) | .hmax2 g d a b => some (encBR g 0x3E d a b)
  | .fclass g d a => some (encB g 0x3F d a 0)
  | .shflIdx g d a b => some (encBR g 0x40 d a b) | .shflUp g d a b => some (encBR g 0x41 d a b)
  | .shflDown g d a b => some (encBR g 0x42 d a b) | .shflXor g d a b => some (encBR g 0x43 d a b)
  | .vote g m d p => some (encB g 0x44 d (p7 p) (itemCode voteCodes m 7)) | .redux g o d a => some (encB g 0x45 d a (itemCode redCodes o 7))
  | .hbar g => some (encB g 0x46 0 0 0) | .vlane g d a => some (encB g 0x47 d a 0)
  | .put g i a b => some (encBR g 0x48 (i.setWidth 7) a b) | .putv g i a b => some (encB g 0x49 (i.setWidth 7) a b)
  | .empty g d n => some (encB g 0x4A d 0 n) | .fillq g p a => some (encB g 0x4B (p7 p) a 0)
  | .ldw g d a i => some (encB g 0x50 d a i) | .stw g d a i => some (encB g 0x51 d a i)
  | .lds g d a i => some (encB g 0x52 d a i) | .sts g d a i => some (encB g 0x53 d a i)
  | .ldp g d i => some (encBW g 0x54 d i) | .atomsAdd g d a b => some (encBR g 0x55 d a b)
  | .wait g c n => some (encB g 0x58 0 (n.extractLsb' 0 4 ++ c) ((n.extractLsb' 4 2).setWidth 7))
  | .wtok g w => some (encB g 0x59 (w.setWidth 7) 0 0)
  | .await g d a => some (encB g 0x5A d a 0) | .release g a b => some (encB g 0x5B 0 a b)
  | .send g d c => some (encB g 0x5C d c 0) | .recv g d c => some (encB g 0x5D d c 0)
  | .enq g p a b => some (encB g 0x5E (p7 p) a b) | .deq g d a p => some (encB g 0x5F d a (p7 p))
  -- XALU
  | .selX x p d a b => some (encX 0x60 0x00 x (withX { d, a, fmt8 := p.setWidth 8 } b))
  | .divS x d a b => some (encX 0x60 0x01 x (withX { d, a } b)) | .divU x d a b => some (encX 0x60 0x02 x (withX { d, a } b))
  | .remS x d a b => some (encX 0x60 0x03 x (withX { d, a } b)) | .remU x d a b => some (encX 0x60 0x04 x (withX { d, a } b))
  | .addc x d a b i o => some (encX 0x60 0x05 x (withX { d, a, fmt8 := (0 : BitVec 2) ++ o ++ i } b))
  | .subb x d a b i o => some (encX 0x60 0x06 x (withX { d, a, fmt8 := (0 : BitVec 2) ++ o ++ i } b))
  | .mul64 x d a b => some (encX 0x60 0x07 x (withX { d, a } b))
  | .mulw x s d a b => some (encX 0x60 0x08 x (withX { d, a, hi := hi4 (bit s 0) } b))
  | .lea x z sh d a b => some (encX 0x60 0x09 x (withX { d, a, hi := hi4 (bit z 0), fmt8 := sh.setWidth 8 } b))
  | .li64 x d i => some (encX 0x60 0x0A x (match i with | .imm v => { d, sel := true, imm := v } | .lit v => { d, sel := true, lit := some v }))
  | .sext x d a w => some (encX 0x60 0x0B x { d, a, fmt8 := w.setWidth 8 }) | .zext x d a w => some (encX 0x60 0x0C x { d, a, fmt8 := w.setWidth 8 })
  | .cmp64 x cc p a b => some (encX 0x60 0x0D x (withX { d := p7 p, a, fmt8 := itemCode icondCodes cc 8 } b))
  | .dsh x l c d a b e => some (encX 0x60 0x0E x (withX { d, a, e, hi := hi4 (bit l 0 + bit c 1) } b))
  | .bsel x d a b e => some (encX 0x60 0x0F x (withX { d, a, e } b))
  -- XFP
  | .ffmaX x rm d a b e => some (encX 0x61 0x00 x (xrm rm (withX { d, a, e } b)))
  | .faddX x rm d a b => some (encX 0x61 0x01 x (xrm rm (withX { d, a } b))) | .fmulX x rm d a b => some (encX 0x61 0x02 x (xrm rm (withX { d, a } b)))
  | .fdiv x rm d a b => some (encX 0x61 0x03 x (xrm rm (withX { d, a } b))) | .fsqrt x d a => some (encX 0x61 0x04 x { d, a })
  | .fcvtX x rm cv d a => some (encX 0x61 0x05 x (xrm rm { d, a, fmt8 := itemCode cvtCodes cv 8 }))
  | .frnd x rm d a => some (encX 0x61 0x06 x (xrm rm { d, a })) | .fldexp x rm d a b => some (encX 0x61 0x07 x (xrm rm (withX { d, a } b)))
  | .ffrexp x d a e => some (encX 0x61 0x08 x { d, a, e })
  | .hfma2X x rm d a b e => some (encX 0x61 0x09 x (xrm rm (withX { d, a, e } b)))
  | .fdot2 x rm d a b e => some (encX 0x61 0x0A x (xrm rm (withX { d, a, e } b)))
  -- XCOLL
  | .shflX x o w d a b pv h => some (encXC 0x00 x h w (withX { d, a, e := p7 pv, hi := itemCode shflCodes o 4 } b))
  | .voteX x m w d ps pd h => some (encXC 0x01 x h w { d, a := p7 ps, e := p7 pd, hi := itemCode voteCodes m 4 })
  | .reduxX x o w d a h => some (encXC 0x02 x h w { d, a, hi := itemCode redCodes o 4 })
  | .scan x o ex w d a h => some (encXC 0x03 x h w { d, a, e := (BitVec.ofBool ex).setWidth 7, hi := itemCode redCodes o 4 })
  | .peers x b64 all w d a pd h => some (encXC 0x04 x h w { d, a, e := p7 pd, hi := hi4 (bit b64 0 + bit all 1) })
  | .hset x m h v => some (encXC 0x05 x h 0 (withXA { hi := hi4 (bit m 0) } v)) | .hbarX x h => some (encXC 0x06 x h 0 {})
  | .kset x k v h => some (encXC 0x07 x h 0 (withXA { d := k } v)) | .hq x d h => some (encXC 0x08 x h 0 { d })
  -- XSPEC
  | .sread x d r => some (encX 0x63 0x00 x { d, fmt8 := itemCode sregCodes (some r) 8 })
  | .swrite x r a => some (encX 0x63 0x01 x { a, fmt8 := itemCode sregCodes (some r) 8 })
  | .grow x p n t => some (encX 0x63 0x02 x { d := p7 p, fmt8 := n.setWidth 8, hi := hi4 (bit t 0) })
  | .shrink x n => some (encX 0x63 0x03 x { fmt8 := n.setWidth 8 }) | .kmov x d k => some (encX 0x63 0x04 x { d, a := k })
  | .pmovGet x d => some (encX 0x63 0x05 x { d }) | .pmovSet x a m => some (encX 0x63 0x05 x { a, hi := 1, fmt8 := m.setWidth 8 })
  -- XCAP
  | .capmint x r d a b p n => some (encX 0x64 0x00 x { d, a, b, e := p7 p, hi := itemCode rightCodes r 4, imm := n.setWidth 32 })
  | .caprevoke x a p => some (encX 0x64 0x01 x { a, e := p7 p }) | .capinfo x d a => some (encX 0x64 0x02 x { d, a })
  | .putX v i a b l => some (encXA 0x64 0x03 v false { d := i.setWidth 7, a, b, imm := laneImm l })
  | .putvX v i a b => some (encXA 0x64 0x04 v false { d := i.setWidth 7, a, b })
  | .putadd v f i a b l => some (encXA 0x64 0x05 v false { d := i.setWidth 7, a, b, hi := hi4 (bit f 0), imm := laneImm l })
  | .emptyX x d e n => some (encX 0x64 0x06 x { d, e, imm := n.setWidth 32 })
  -- XMEM
  | .ld x sz sx acq pol d m => some (encXM 0x00 x (scopeN acq) (policyCodes.idxOf pol) (spaceCodes.idxOf m.space) (sizeCodes.idxOf sz)
      (if acq.isSome then 1 else 0) m.disp { d, a := m.a, e := (BitVec.ofBool sx).setWidth 7 })
  | .st x sz rel pol m b => some (encXM 0x01 x (scopeN rel) (policyCodes.idxOf pol) (spaceCodes.idxOf m.space) (sizeCodes.idxOf sz)
      (if rel.isSome then 2 else 0) m.disp { a := m.a, b })
  | .atom x op sz o sc d m b => some (encXM 0x02 x (scopeCodes.idxOf sc) 0 (spaceCodes.idxOf m.space) (sizeCodes.idxOf sz)
      (orderCodes.idxOf o) m.disp { d, a := m.a, b, e := itemCode atomCodes op 7 })
  | .cas x sz o sc d m b e => some (encXM 0x03 x (scopeCodes.idxOf sc) 0 (spaceCodes.idxOf m.space) (sizeCodes.idxOf sz)
      (orderCodes.idxOf o) m.disp { d, a := m.a, b, e })
  | .prefetch x pol m => some (encXM 0x04 x 0 (policyCodes.idxOf pol) 0 0 0 m.disp { a := m.a })
  | .cflush x m b => some (encXM 0x05 x 0 0 0 0 0 m.disp { a := m.a, b })
  | .cinval x all m b => some (encXM 0x06 x 0 0 0 0 0 m.disp { a := m.a, b, e := (BitVec.ofBool all).setWidth 7 })
  | .pin x p m b e => some (encXM 0x07 x 0 0 0 0 0 m.disp { d := p7 p, a := m.a, b, e })
  | .unpin x p m => some (encXM 0x08 x 0 0 0 0 0 m.disp { d := p7 p, a := m.a })
  | .fence x k sc => some (encXM 0x09 x (scopeCodes.idxOf sc) 0 0 0 (match k with | .acq => 1 | .rel => 2 | .full => 3) (.imm 0) {})
  -- XTILE
  | .tdset t d a => some (encXT 0x66 0x00 t { d, a }) | .tdget t d a => some (encXT 0x66 0x01 t { d, a })
  | .tload t cl d a dp => some (encXT 0x66 0x02 t { d, a, sel := cl, imm := dp.setWidth 32 })
  | .tstore t cl a b dp => some (encXT 0x66 0x03 t { a, b, sel := cl, imm := dp.setWidth 32 })
  | .tzero t d => some (encXT 0x66 0x04 t { d })
  | .split t s cl d a dp => some (encXT 0x66 0x05 t { d, a, sel := cl, hi := hi4 (bit s 0), imm := dp.setWidth 32 })
  | .azero t d m n => some (encXT 0x66 0x06 t { d, imm := (n ++ m).setWidth 32 })
  | .adrain t fm z mon cl d a b dp => 
    let hi := hi4 (drainCodes.idxOf fm + bit z 2 + bit mon.isSome 3)
    some (encXT 0x66 0x07 t { d, a, b, sel := cl, hi, imm := mon.getD 0 ++ (0 : BitVec 7) ++ dp })
  | .aread t d a b => some (encXT 0x66 0x08 t { d, a, b }) | .awrite t d a b => some (encXT 0x66 0x09 t { d, a, b })
  | .ascale t d k => some (encXT 0x66 0x0A t { d, imm := k }) | .reefq t d a b => some (encXT 0x66 0x0B t { d, a, b })
  | .mmaS t d a b => some (encXT 0x67 0x00 t { d, a, b }) | .mmaB t d a b => some (encXT 0x67 0x01 t { d, a, b })
  | .mmaE t d a b => some (encXT 0x67 0x02 t { d, a, b }) | .mmaprog t d a b n => some (encXT 0x67 0x03 t { d, a, b, imm := n.setWidth 32 })
  -- XENG
  | .copyLd v r d a e h => some (encXA 0x68 0x00 v r { d, a, e, imm := h.setWidth 32 })
  | .copySt v d a e h => some (encXA 0x68 0x00 v false { d, a, e, sel := true, imm := h.setWidth 32 })
  | .copymc v d a b e h lw => some (encXA 0x68 0x01 v false { d, a, b, e, imm := (lw ++ (0 : BitVec 4) ++ h).setWidth 32 })
  | .gather v r d a b e h => some (encXA 0x68 0x02 v r { d, a, b, e, imm := h.setWidth 32 })
  | .scatter v d a b e h => some (encXA 0x68 0x03 v false { d, a, b, e, imm := h.setWidth 32 })
  | .xform v r op d a b e h => some (encXA 0x68 0x04 v r { d, a, b, e, imm := (itemCode xfCodes op 4 ++ h).setWidth 32 })
  | .lrec x a n => some (encX 0x68 0x05 x { a, imm := n.setWidth 32 })
  -- XKV
  | .kvappend v p d a e n => some (encXA 0x69 0x00 v false { d, a, e, sel := p, imm := n.setWidth 32 })
  | .kvgather v pt r d a b e n =>
    let m : BitVec 5 := itemCode partCodes pt 5
    some (encXA 0x69 0x01 v r { d, a, b, e, hi := m.extractLsb' 1 4, sel := m.getLsbD 0, imm := n.setWidth 32 })
  | .kvlen x d a => some (encX 0x69 0x02 x { d, a }) | .kvwin v a b => some (encXA 0x69 0x03 v false { a, b })
  | .kvtrim v a => some (encXA 0x69 0x04 v false { a }) | .kvopen x w d a => some (encX 0x69 0x05 x { d, a, sel := w })
  | .kvclose x a => some (encX 0x69 0x06 x { a })
  -- XQ
  | .rinit x a b e => some (encX 0x6A 0x00 x (withR { a, e } b)) | .rproduceClaim x d a => some (encX 0x6A 0x01 x { d, a })
  | .rproduceFill x a b => some (encX 0x6A 0x01 x (withR { a, hi := 1 } b)) | .rpeek x d a b => some (encX 0x6A 0x02 x (withR { d, a } b))
  | .awaitX x d a b t => some (encX 0x6A 0x03 x (withTry (withR { d, a } b) t)) | .releaseX x a b => some (encX 0x6A 0x04 x (withR { a } b))
  | .sendX x d c b => some (encX 0x6A 0x05 x (withX { d, a := c } b)) | .recvX x d c t => some (encX 0x6A 0x06 x (withTry { d, a := c } t))
  | .enqX x sp sz p a b => some (encX 0x6A 0x07 x { d := p7 p, a, b, fmt8 := (sz ++ (itemCode queueSpaceCodes sp 2 : BitVec 2)).setWidth 8 })
  | .deqX x sp sz d a p => some (encX 0x6A 0x08 x { d, a, e := p7 p, fmt8 := (sz ++ (itemCode queueSpaceCodes sp 2 : BitVec 2)).setWidth 8 })
  | .spawnX x p a k => some (encX 0x6A 0x09 x { d := p7 p, a, fmt8 := k.setWidth 8 })
  | .pdkey x d k => some (encX 0x6A 0x0A x { d, fmt8 := k.setWidth 8 }) | .pdkeyFlush x k => some (encX 0x6A 0x0A x { hi := 1, fmt8 := k.setWidth 8 })
  -- XCNT
  | .waitX x l s e t p => some (encX 0x6B 0x00 x { imm := (0 : BitVec 2) ++ p ++ t ++ e ++ s ++ l })
  | .wtokX x m => some (encX 0x6B 0x01 x { imm := m.setWidth 32 })
  | .binit x a b => some (encX 0x6B 0x02 x (withR { a } b)) | .barrive x a b => some (encX 0x6B 0x03 x (withR { a } b))
  | .bwait x d a b => some (encX 0x6B 0x04 x (withR { d, a } b)) | .bdue x a b n => some (encX 0x6B 0x05 x (withR { a, fmt8 := n } b))
  | .clock x d => some (encX 0x6B 0x06 x { d }) | .retired x d => some (encX 0x6B 0x07 x { d })
  | .perfcfg x k b => some (encX 0x6B 0x08 x (withR { fmt8 := k.setWidth 8 } b)) | .perfrd x k d => some (encX 0x6B 0x09 x { d, fmt8 := k.setWidth 8 })
  | .fidrd x sl c s d => some (encX 0x6B 0x0A x { d, fmt8 := s.setWidth 8, hi := hi4 (bit c 0 + 2 * fidCodes.idxOf sl) })
  -- XSYS, XMAC
  | .eret x => some (encX 0x6C 0x00 x {}) | .eretSkip x => some (encX 0x6C 0x00 x { hi := 1 })
  | .causeAddr x d => some (encX 0x6C 0x01 x { d }) | .causeLog x d => some (encX 0x6C 0x01 x { d, fmt8 := 1 })
  | .causeLogn x d => some (encX 0x6C 0x01 x { d, fmt8 := 2 }) | .ppoint x k p => some (encX 0x6C 0x02 x { d := p7 p, hi := hi4 (bit k 0) })
  | .sleep x b => some (encX 0x6C 0x03 x (withX {} b)) | .halt x => some (encX 0x6C 0x04 x {})
  | .mstore x m a q p => some (encX 0x6D 0x00 x (withR { a, e := p7 p, fmt8 := m.setWidth 8 } q))
  | .mread x m d q => some (encX 0x6D 0x01 x (withR { d, fmt8 := m.setWidth 8 } q))
  | .mcallX x m d a b e => some (encX 0x6D 0x02 x (withR { d, a, e, fmt8 := m.setWidth 8 } b))
  -- events
  | .putArrival | .putAnswer | .loadDataReturn | .storeAck | .sliceRequest | .filterWindowEnd | .mergeWindowEnd
  | .pinRequestServe | .pinFadeExpiry | .pageIdleTimer | .hbmRefresh | .thermalCritical | .thermalResume
  | .temperatureLevelChange | .walkStart | .walkComplete | .tileOpStart | .tileOpRetire | .engineOpStart
  | .engineSegmentComplete | .engineOpRetire | .copymcLanding | .kvOpStart | .kvSegmentComplete | .kvwinApply
  | .kvtrimFree | .kvOpRetire | .channelEntryArrival | .channelAck | .channelResendTimer | .paddockTimerExpiry
  | .paddockLaunch | .sleepExpiry | .crewRelease | .troopRetire | .lqtailDoorbell | .launchPacketCheck
  | .dispatchDecision | .gracePeriodExpiry | .contextSave | .contextRestore | .linkLoss | .loopPacketArrival
  | .loopResendTimer | .loopFailure | .ualinkPortFailure | .ualinkMemoryRequest | .ualinkPutRequest | .ualinkPutAnswer
  | .ualinkChannelRequest | .ualinkChannelAnswer | .ualinkAtomicRequest | .ualinkAtomicAnswer | .hostApertureAccess
  | .mbxdbDoorbell | .pkgSet | .asWrite | .tlbInval | .routeWrite | .sliceWrite | .hbmWrite | .kvpoolInit | .pinQuota
  | .pinRelease | .preempt | .fwStage | .fwActivate | .evRing | .vfWindow | .fuseCommit | .bootVerify | .powerUp
  | .functionLevelReset | .doeAttestRequest | .doeCertRequest | .quietPoint | .fwRevertTimeout | .watchdogExpiry
  | .xwdogWrite | .xeventWrite | .devqRead | .devcntRead | .mevqRead | .placeWrite | .saveWrite | .restoreWrite
  | .faultrespWrite | .haltWrite | .dmagoWrite | .dmaComplete | .lqadvWrite | .lqerrWrite | .mbxdoneWrite
  | .pinansWrite | .invgoWrite | .invalidationComplete | .freezeWrite | .pkgsetWrite | .doesendWrite | .signgoWrite
  | .signComplete | .fusecommitWrite | .correctedError | .rasWindowEnd | .registerWrite | .notAnInstruction
  | .operandAvailable | .linkTraining | .loopAcknowledgement | .uncorrectableError => none

/-! ## Decoding -/

/-- R80: what the fields name, when it is well formed and uses exactly these fields. -/
def decodeFields (f : Fields) : Except Reject Instr :=
  if f.op7.toNat ≥ 0x60 && f.op7.toNat ≤ 0x6D && !f.len.getLsbD 1 then .error .majorInBaseFrame
  else match readFields f with
    | .error r => .error r
    | .ok i => if wellFormed i && encodeFields i == some f then .ok i else .error .fieldNotUsed

/-- The instruction at the head of a word sequence, and the words after it. -/
def decodeWords (ws : List Word) : Except Reject (Instr × List Word) :=
  match fieldsOfWords ws with
  | .error r => .error r
  | .ok (f, rest) => match decodeFields f with
    | .error r => .error r
    | .ok i => .ok (i, rest)

/-- The words of an instruction of a strand (R64). -/
def encodeWords (i : Instr) : Option (List Word) := (encodeFields i).map wordsOfFields

/-- A little-endian word of four bytes (R1, R86). -/
def wordOfBytes (b0 b1 b2 b3 : Byte) : Word := b3 ++ b2 ++ b1 ++ b0
/-- The words of a byte sequence; a remainder of one to three bytes is dropped. -/
def wordsOfBytes : List Byte → List Word
  | b0 :: b1 :: b2 :: b3 :: bs => wordOfBytes b0 b1 b2 b3 :: wordsOfBytes bs
  | _ => []
/-- The bytes of a word, lowest address first (R1). -/
def bytesOfWord (w : Word) : List Byte := [w.extractLsb' 0 8, w.extractLsb' 8 8, w.extractLsb' 16 8, w.extractLsb' 24 8]

/-- Decoding on any bytes. -/
def decodeBytes (bs : List Byte) : Except Reject (Instr × List Word) := decodeWords (wordsOfBytes bs)

/-- The five words of an instruction whose bits below `nbits` are those of `w` and whose bits above are zero. -/
def tableWords (nbits w : Nat) : List Word :=
  let v := w % 2 ^ nbits
  [BitVec.ofNat 32 v, BitVec.ofNat 32 (v >>> 32), BitVec.ofNat 32 (v >>> 64), BitVec.ofNat 32 (v >>> 96), BitVec.ofNat 32 (v >>> 128)]

/-- Their bytes as memory holds them. -/
def tableBytes (nbits w : Nat) : List Byte := (tableWords nbits w).flatMap bytesOfWord

/-- The instruction the decoder reads from a word numbered as spec/opcode_table.json numbers its bits. -/
def decodeTableWord (nbits w : Nat) : Option Instr :=
  match decodeBytes (tableBytes nbits w) with
  | .ok (i, _) => some i
  | .error _ => none

end Sys2Proof
end

