-- ==== Sys2Proof/Config.lean ====
section
/-! DEFINITION. Config.lean: what an implementation or the outside fixes and the spec leaves open: opaque constants,
of which no proof can know more than their type (log 3, log 10). -/

namespace Sys2Proof.Config

/-- The n-th free value: what stands where the spec leaves a value undefined or unstated (log 3). -/
opaque freeValue : Nat → BitVec 64
/-- Set index of a line in its slice, which R212 leaves to the implementation. -/
opaque sliceSet : Nat → Nat
/-- Row and bank of a physical address in its stack (R216). -/
opaque hbmBank : Nat → Nat
opaque hbmRow : Nat → Nat
/-- Host address an untranslated host page stands at, per function, PASID and page (R205: ATS is the host's). -/
opaque atsTranslate : Nat → Nat → Nat → Nat
/-- Which free granule the KV pool returns (R231), of the pool of n at its k-th request. -/
opaque kvPick : Nat → Nat → Nat
/-- SHAKE256 with a 64-byte result, and Falcon-1024 verification and signing, of the standards R400-R403 name. -/
opaque shake256 : List (BitVec 8) → BitVec 512
opaque falconVerify : BitVec 512 → List (BitVec 8) → List (BitVec 8) → Bool
/-- The n-th signature: its bytes over a message, and its length. -/
opaque falconSign : Nat → List (BitVec 8) → Nat → BitVec 8
opaque falconLen : Nat → Nat
/-- Fused digests of the key slots (R401). -/
opaque fusedKey : Nat → BitVec 512
/-- The certificate chain: how many certificates; of each its subject, its key, its lowest `svn`, and its signature with
the signature's length (R403). -/
opaque certCount : Nat
opaque certSubject : Nat → BitVec 128
opaque certKey : Nat → Nat → BitVec 8
opaque certSvn : BitVec 32
opaque certSig : Nat → Nat → BitVec 8
opaque certSigLen : Nat → Nat
/-- The format version of the handover block that an image knows (R405). -/
opaque handoverFormat : List (BitVec 8) → Nat
/-- Vendor and type numbers of the J3 attestation protocol on DOE (log 10). -/
opaque doeVendor : BitVec 16
opaque doeType : BitVec 8
/-- The boot ROM's own identity, which it measures first (R402): digest and `svn`. -/
opaque romDigest : BitVec 512
opaque romSvn : Nat

end Sys2Proof.Config
end

