-- ==== Sys2Proof/Machine/State.lean ====
section
/-! DEFINITION. State.lean: everything the spec gives the machine, as plain data, and the machine after reset.
Tables indexed by a number are lists of (number, entry) pairs in rising order (`Sparse`); an entry a table does not
list has the value the reader of the table names (Machine/Sparse.lean). A strand is numbered
((core * 64 + troop slot) * 64 + crew) * 32 + virtual lane, and its crew, troop and core are the quotients. -/

namespace Sys2Proof.Machine

/-- A table: entries by number, numbers strictly rising. -/
abbrev Sparse (α : Type) := List (Nat × α)
/-- Bytes by address; an unlisted byte reads 0 (log 2). -/
abbrev Memory := List Host.Cell

/-! ## Strands and crews (02 R41, 05 R88, 17 R360) -/

/-- R41 Table 4. -/
inductive Life where
  | eligible | pending | parked | signed | saved | exited
  deriving DecidableEq, Repr

/-- R20. -/
inductive Role where
  | access | matrix | vector
  deriving DecidableEq, Repr

/-- The classes of outstanding work (R342). -/
inductive Cls where
  | ld | st | en | tl | pt
  deriving DecidableEq, Repr

/-- A fault awaiting delivery to its strand (R363, R265, R159). -/
structure Deferred where
  cls : Cls
  time : Nat
  cause : Nat
  tval : Word
  taddr : Dword
  /-- Reason of a PAGE_FAULT. -/
  pfr : Nat := 0
  tok : Option Nat
  /-- Completion object of an engine op: ring, offset; and the ring's slot it filled. -/
  obj : Option (Bool × Nat)
  slot : Nat := 0
  deriving DecidableEq, Repr

/-- What a parked or pending strand waits for. -/
inductive Wait where
  | none
  | fill (regs : BitVec 128)             -- R146
  | result (regs : BitVec 128)           -- R171, R219
  | request (id : Nat)                   -- its own load, atomic or table request (R219, R226)
  | key (asid page : Nat) (need : Nat)   -- a translation (R206); need: 1 r, 2 w, 4 x
  | clock (at_ : Nat)                    -- R371
  | grow                                 -- R91
  | retry                                -- any other stall_until: the instruction is tried again
  deriving DecidableEq, Repr

/-- A translation (R336): base virtual page, size code, backing and rights. -/
structure Tlb where
  asid : Nat
  vbase : Nat
  size : Nat
  pa : Nat
  tgt : Nat
  pkg : Nat
  nocache : Bool
  r : Bool
  w : Bool
  x : Bool
  deriving DecidableEq, Repr

structure Strand where
  life : Life := .eligible
  stamp : Nat := 0
  pc : Dword := 0
  regs : Sparse Word := []
  fill : BitVec 128 := BitVec.allOnes 128
  pend : BitVec 128 := 0
  /-- Registers an arriving PUT filled from beyond the core and not yet read (R161). -/
  putAcq : BitVec 128 := 0
  preds : BitVec 7 := 0
  trappc : Dword := 0
  cause : Word := 0
  tval : Word := 0
  taddr : Dword := 0
  /-- Micro-op step, 63 outside a macro (R320). -/
  step : Nat := 63
  /-- The macro of the call it is within (R360). -/
  mindex : Nat := 0
  /-- Macro, step and `end` of the micro-op that trapped last (R332). -/
  mended : Option (Nat × Nat × Bool) := none
  nakMarks : BitVec 16 := 0
  faults : List Deferred := []
  /-- NAKs without a token: reason, index, time (R159). -/
  naks : List (Nat × Nat × Nat) := []
  trig : Bool := false
  /-- The datum a waiting instruction took at issue (R298, R371), or that its `grow` failed (R91). -/
  latch : Option Nat := none
  wait : Wait := .none
  /-- A refused walk: address space, page, reason (R206). -/
  refused : Option (Nat × Nat × Nat) := none
  /-- Translations its present instruction has been given (R206, R338). -/
  xl : List Tlb := []
  /-- The state held at save (R41). -/
  held : Life := .eligible
  /-- The team it first issued its present instruction in (R353). -/
  team : Option Nat := none
  /-- Stores of its core that its exit, a release, comes after (R39, R278): request numbers. -/
  after : List Nat := []
  /-- Registers whose words stand in error (R218). -/
  bad : BitVec 128 := 0
  /-- Lines of the instruction at this PC that came from beyond HBM4 and slice scratch (R66). -/
  fetched : Option (Dword × Sparse (BitVec 1024)) := none
  deriving DecidableEq, Repr

/-- R346. -/
inductive TokStatus where
  | ok | fault (cause : Nat) | nak (reason index : Nat) (merged : Bool)
  deriving DecidableEq, Repr

structure Token where
  cnt : Nat := 0
  status : TokStatus := .ok
  /-- An op of it that retired wrote global memory (R289). -/
  wrote : Bool := false
  deriving DecidableEq, Repr

/-- Where an access goes: a troop's scratchpad (space 1, 2), or global memory by physical backing (R205). -/
inductive Target where
  | spm (troop : Nat)
  | dev                     -- HBM4 or slice scratch
  | host (asid : Nat)
  | remote (pkg : Nat)
  deriving DecidableEq, Repr

/-- A store in a crew's queue (R273). -/
structure StoreEnt where
  /-- Its request number on the core, kept when it leaves the queue. -/
  id : Nat := 0
  tgt : Target
  /-- Virtual address of a global store, for forwarding within the crew. -/
  va : Nat
  addr : Nat
  data : List Byte
  strand : Nat
  /-- Cluster store: the window address (R203). -/
  cluster : Bool := false
  pol : Policy := .normal
  nocache : Bool := false
  /-- Size code of the page that translated it (R339). -/
  pg : Nat := 0
  /-- The half of a 128-bit store that has updated the L1: the high one (R270). -/
  half : Option Bool := none
  deriving DecidableEq, Repr

/-- A signature of a hitch phase (R30, R133). -/
structure Sig where
  x : Nat
  contrib : Bool
  vals : List Word := []
  dsts : List Nat := []
  preds : List Bool := []
  pdst : Nat := 7
  tok : Option Nat := none
  /-- The signer's own engine instruction (R169). -/
  ins : Option Instr := none
  /-- Its crew has released its slot (R42): its number may be another strand's. -/
  gone : Bool := false
  /-- Round, issue unit, turn and lane of a signature in a deterministic troop (R143). -/
  key : Nat := 0
  deriving DecidableEq, Repr

/-- What a phase's first guard-true signature fixes (R131), with the op of an engine collective. -/
structure OpKind where
  coll : Nat
  width : Nat := 32
  fn : Nat := 0
  deriving DecidableEq, Repr

structure Phase where
  parity : Bool := false
  kind : Option OpKind := none
  sigs : List Sig := []
  deriving DecidableEq, Repr

/-- R129: undeclared, a count, or a mask with its declaring crew. -/
inductive Decl where
  | undeclared | count (n : Nat) | mask (m : BitVec 32) (crew : Nat)
  deriving DecidableEq, Repr

structure Hitch where
  decl : Decl := .undeclared
  pend : Option Decl := none
  phase : Phase := {}
  deriving DecidableEq, Repr

/-- Residency of a crew or troop (R373-R376). -/
inductive Res where
  | resident | saved | gone
  deriving DecidableEq, Repr

structure Crew where
  role : Role := .vector
  unit : Nat := 0
  slot : Nat := 0
  res : Res := .resident
  k : Sparse Word := []
  ext : Nat := 0
  /-- `grow`: target and time of request (R91). -/
  grow : Option (Nat × Nat) := none
  ld : Nat := 0
  st : Nat := 0
  en : Nat := 0
  tl : Nat := 0
  pt : Nat := 0
  toks : Sparse Token := []
  /-- An engine op of it that retired wrote global memory (R289). -/
  wrote : Bool := false
  log : List Dword := []
  lost : Nat := 0
  sq : List StoreEnt := []
  retired : Nat := 0
  counted : List Nat := []
  h0 : Phase := {}
  /-- Cycles since a crew-level save request (R374). -/
  saveReq : Option Nat := none
  /-- Its save has begun: no strand issues (R375). -/
  saving : Bool := false
  deriving DecidableEq, Repr

/-! ## Ops of the engines (08 R166-R173, 11 R229-R248, 12 R251-R266, 15 R323) -/

/-- A range-scoreboard entry (R323): granule intervals, exclusive upper bounds. -/
structure Score where
  troop : Nat
  eng : Nat
  opid : Nat
  wlo : Nat
  whi : Nat
  rlo : Nat
  rhi : Nat
  /-- The stage ring its op fills, and the part of the write interval outside the ring (R287). -/
  ring : Option Nat := none
  plo : Nat := 0
  phi : Nat := 0
  /-- Stores of its troop issued before it and not yet at their bank (R286): request numbers. -/
  before : List Nat := []
  deriving DecidableEq, Repr

/-- A tile-engine op (R169, R170): what it is, its leader's operands, its contributing signers. -/
structure TileOp where
  troop : Nat
  opid : Nat
  sub : Instr
  sigs : List Sig
  /-- Crews whose TL it counts in, and their tokens. -/
  crews : List (Nat × Option Nat)
  scored : Bool := false
  running : Bool := false
  /-- Inserted by the anchor of a held fault (R172 step 4). -/
  inserted : Bool := false
  /-- Stopped at a boundary: it resumes from the progress word (R196). -/
  part : Bool := false
  /-- Cycle of its start, and its cycles of max(0, Rc - D) (R355 events 8 and 9). -/
  began : Nat := 0
  excess : Nat := 0
  deriving DecidableEq, Repr

/-- A held tile fault of a troop (R172): newest first in its stack. -/
structure TileFault where
  op : TileOp
  anchor : Nat
  cause : Nat
  tval : Word
  taddr : Dword
  time : Nat
  delivered : Bool := false
  deriving DecidableEq, Repr

/-- A streamer or transform op (R256, R264, R265). -/
structure EngOp where
  id : Nat
  troop : Nat
  strand : Nat
  opid : Nat
  sub : Instr
  record : BitVec 512
  handle : Nat
  dst : Nat
  src : Nat
  coords : List Int
  mask : BitVec 64 := 0
  desc : Dword := 0
  lw : Nat := 0
  objRing : Bool
  obj : Nat
  tok : Option Nat
  active : Bool := false
  /-- The next segment; bytes credited so far. -/
  seg : Nat := 0
  credited : Nat := 0
  /-- Claimed slot of a ring. -/
  slot : Nat := 0
  idx : List Int := []
  /-- Receivers of a `copymc` still to be served, receivers refused. -/
  todo : List Nat := []
  /-- Writes to other packages not yet acknowledged: number, package, virtual address (R264). -/
  outs : List (Nat × Nat × Nat × Nat) := []
  /-- Translations its present segment has been given (R206, R338). -/
  xl : List Tlb := []
  /-- Suspended on a translation: address space, page, need. -/
  susp : Option (Nat × Nat × Nat) := none
  /-- The address that missed. -/
  suspVa : Nat := 0
  bad : Bool := false
  fault : Option (Nat × Word × Dword) := none
  /-- Reason of a PAGE_FAULT (R360). -/
  pfr : Nat := 0
  /-- It ended by a fault, and what its object takes when it retires: the bytes not credited (R265). -/
  failed : Bool := false
  owed : Nat := 0
  result : List Byte := []
  deriving DecidableEq, Repr

/-- A KV engine op (11 R240-R248). -/
structure KvOp where
  id : Nat
  troop : Nat
  strand : Nat
  opid : Nat
  sub : Instr
  handle : Nat
  layer : Nat := 0
  head : Nat := 0
  first : Nat := 0
  n : Nat := 0
  dst : Nat := 0
  win : Nat := 0
  objRing : Bool := false
  obj : Nat := 0
  hasObj : Bool := false
  tok : Option Nat
  active : Bool := false
  /-- Stores of its core before a `kvwin`, a release at package scope (R277): request numbers. -/
  after : List Nat := []
  /-- `count`, `win` and `epoch` have been read at start (R243, R244); what was read. -/
  read : Bool := false
  count : Nat := 0
  win0 : Nat := 0
  epoch : Bool := false
  /-- Its `gin` counts it (R244). -/
  counted : Bool := false
  seg : Nat := 0
  credited : Nat := 0
  slot : Nat := 0
  /-- Suspended on a fault handed to the dispatch controller, with its cause and TVAL (R248). -/
  susp : Option (Nat × Word) := none
  fault : Option (Nat × Word × Dword) := none
  deriving DecidableEq, Repr

/-- A KV binding of a troop (11 R238): package and sequence, root, writer flag, geometry as read at opening. -/
structure KvBind where
  pkg : Nat
  seq : Nat
  root : Dword
  writer : Bool
  layers : Nat
  heads : Nat
  dcode : Nat
  e4m3 : Bool
  dir : Nat
  deriving DecidableEq, Repr

/-- R181. -/
structure FidStream where
  cnt : Nat := 0
  flag : Bool := false
  exceed : Nat := 0
  deriving DecidableEq, Repr

/-- R299: occupancy and order of a channel; its entries stand in the scratchpad. -/
structure Chan where
  occ : Nat := 0
  head : Nat := 0
  /-- An access touched the buffer: the contents are undefined (R299). -/
  touched : Bool := false
  /-- Of each entry, oldest first: its sender stands beyond the core (R302). -/
  far : List Bool := []
  deriving DecidableEq, Repr

/-- R321. -/
structure Rot where
  turn : Nat := 0
  round : Nat := 0
  crews : List Nat := []
  /-- Round and turn of the team issued last: the key of its atomics (R37). -/
  lastRound : Nat := 0
  lastTurn : Nat := 0
  /-- The turn has issued its team; it ends when none of the team stalls (log 26). -/
  busy : Bool := false
  /-- `crews` is the list of the present round (R36). -/
  fixed : Bool := false
  deriving DecidableEq, Repr

/-- R306. -/
structure Bin where
  troop : Nat
  key : Nat
  reqs : List (List Word)
  /-- Cycles or retired instructions left, 64 to a unit; none never expires. -/
  timer : Option Nat
  due : Bool := false
  deriving DecidableEq, Repr

structure Troop where
  lid : Nat := 0
  index : Nat := 0
  herd : Nat := 0
  ncrews : Nat := 1
  sgw : Word := 0
  res : Res := .resident
  spm : Memory := []
  /-- Byte b of tile slot t at t * 2^16 + b. -/
  tiles : Memory := []
  desc : Sparse Dword := []
  /-- Element (i, j) of c at c * 4096 + 64 * i + j. -/
  acc : Sparse Word := []
  shapes : Sparse (BitVec 4) := []
  progress : Dword := 0
  fid : Sparse FidStream := []
  fidrate : Word := 0
  fidthr : Word := 0
  hitches : Sparse Hitch := []
  recs : Sparse (BitVec 512) := []
  kv : Sparse KvBind := []
  /-- By offset of a buoy: an op credited to it wrote global memory, in the present phase and in the last (R289). -/
  bwrote : Sparse (Bool × Bool) := []
  chans : Sparse Chan := []
  /-- Entries its crews have sent, by crew, channel and destination (R394 Table 18). -/
  chanSeq : Sparse Nat := []
  keys : Sparse (BitVec 128) := []
  /-- Rein pairs: crew, crew, holder (R35). -/
  reins : List (Nat × Nat × Nat) := []
  rots : Sparse Rot := []
  /-- The quarter of a deterministic troop's matrix and vector crews (R414). -/
  quarter : Option Nat := none
  tfaults : List TileFault := []
  theld : List TileOp := []
  tilelost : Bool := false
  opseq : Nat := 0
  saveReq : Option Nat := none
  saving : Bool := false
  /-- Its area is being written or read: the header's `state` is 3 (R378). -/
  writing : Bool := false
  /-- A saved troop's tile queue image and suspended ops (R182, R266). -/
  timage : List TileOp := []
  eimage : List EngOp := []
  kimage : List KvOp := []
  simage : List Score := []
  bimage : List Bin := []
  /-- The op at the head of its part of the tile queue when its save began (R182). -/
  saveHead : Option Nat := none
  deriving DecidableEq, Repr

/-- What a troop that has retired leaves in the granules and lanes it held, until another takes its place (R199, R412). -/
structure Past where
  spm : Memory := []
  tiles : Memory := []
  acc : Sparse Word := []
  hitches : Sparse Hitch := []
  strands : Sparse Strand := []
  deriving DecidableEq, Repr

/-! ## Cores (15) -/

structure L1Line where
  data : BitVec 1024
  first : Bool := false
  deriving DecidableEq, Repr

/-- A key of a core's miss table: address space and va[56:12] (R338). -/
structure Miss where
  asid : Nat
  page : Nat
  deriving DecidableEq, Repr

/-- R325. -/
structure Cap where
  live : Bool := false
  gen : Nat := 0
  /-- The first cycle of its core from which it can be minted again (R326). -/
  from_ : Nat := 0
  rights : Nat := 0
  crew : Nat := 0
  base : Nat := 0
  count : Nat := 1
  lanes : BitVec 32 := 0
  deriving DecidableEq, Repr

/-- A micro-op under way (R331): the macro, its `end` mark, the frame of the `mcall`. -/
structure Mop where
  idx : Nat
  last : Bool
  len : BitVec 2
  deriving DecidableEq, Repr

/-- The kinds of a request beyond the core (R219, R304, R224-R226). -/
inductive ReqKind where
  | load (sz : Nat) (sx : Bool) (pol : Policy) (acq : Bool)
  | store
  | atom (op : AtomOp) (sz : Nat)
  | cas (sz : Nat)
  | enq (sz : Nat)
  | deq (sz : Nat)
  | flush (len : Nat)
  | prefetch (pol : Policy)
  | fetch
  deriving DecidableEq, Repr

structure Req where
  id : Nat
  kind : ReqKind
  strand : Nat
  tgt : Target
  addr : Nat
  va : Nat := 0
  /-- Bytes from `va` that its translations cover, beyond its own size (R225). -/
  vlen : Nat := 0
  /-- Size code of the largest page that translated it (R339). -/
  pg : Nat := 0
  cluster : Bool := false
  pol : Policy := .normal
  nocache : Bool := false
  dsts : List Nat := []
  pdst : Nat := 7
  data : List Byte := []
  cmp : List Byte := []
  /-- Physical lines a `cflush` covers: first line and count of each page. -/
  lines : List (Nat × Nat) := []
  order : MemOrd := .relaxed
  scope : Scope := .crew
  /-- A load's line may fill the L1 when it returns. -/
  fill : Bool := true
  /-- A load whose strand has gone on: its destinations are pending (R219). -/
  late : Bool := false
  /-- The range scoreboard holds it at its bank (R284). -/
  held : Bool := false
  /-- When a task-queue action arrived at its header's bank or slice (R419). -/
  arr : Option Nat := none
  /-- The frame and micro-op of the instruction that waits for it. -/
  len : BitVec 2 := 0
  mop : Option Mop := none
  /-- It has left by UALink. -/
  sent : Bool := false
  /-- The package whose answer it then waits for, and the port it left by (R392). -/
  via : Nat := 0
  port : Nat := 0
  /-- The tag of its record at the atomic port (R394). -/
  tag : Nat := 0
  /-- The half of a 128-bit load its point has read: the high one, and its bytes (R270). -/
  half : Option (Bool × List Byte) := none
  /-- Its point has performed it; what it returns (bytes, flag). -/
  done : Bool := false
  val : List Byte := []
  ok : Bool := true
  /-- A fault met at its point: cause, reason; cause 0 is an entry of a task queue, at this offset, not translated. -/
  err : Option (Nat × Nat) := none
  deriving DecidableEq, Repr

/-- A directory or page entry in the KV translation cache: the troop and handle it serves, its address, its value (R229,
R245). -/
structure KvPtr where
  troop : Nat
  handle : Nat
  addr : Nat
  val : Nat
  deriving DecidableEq, Repr

structure Core where
  cycle : Nat := 0
  l1 : Sparse L1Line := []
  tlb : List Tlb := []
  miss : List Miss := []
  score : List Score := []
  /-- Strands waiting for an entry, by age of first attempt (R324). -/
  scoreWait : List Nat := []
  caps : Sparse Cap := []
  capnext : Nat := 0
  /-- Record q of macro m at 32 * m + q; owner of m: troop slot. -/
  macros : Sparse Dword := []
  mowner : Sparse Nat := []
  /-- Count, configuration, and the troop whose `perfcfg` set it (R355). -/
  perf : Sparse (Dword × Word × Nat) := []
  bins : Sparse Bin := []
  tq : List TileOp := []
  sqe : List EngOp := []
  xqe : List EngOp := []
  kq : List KvOp := []
  kvcache : List KvPtr := []
  remap : Sparse (BitVec 16) := []
  reqs : List Req := []
  nextReq : Nat := 0
  retiredGran : Nat := 0
  /-- Granules that retire with the troop that holds them (R357). -/
  badGran : List Nat := []
  deriving DecidableEq, Repr

/-- An issue unit (R25): 5 * core + unit. -/
structure IssueUnit where
  stampCtr : Nat := 0
  issueCount : Nat := 0
  /-- Strands of the team being issued that have not moved yet, and the stamp counter when the team was formed. -/
  team : List Nat := []
  base : Nat := 0
  /-- The deterministic troop the unit offers the next cycle to (R36). -/
  nextDet : Nat := 0
  deriving DecidableEq, Repr

/-! ## Dies, dispatch, launches (14 R309-R317) -/

structure LaunchQ where
  base : Dword := 0
  ctl : Word := 0
  head : Nat := 0
  tail : Nat := 0
  deriving DecidableEq, Repr

structure Launch where
  lid : Nat
  die : Nat
  queue : Nat
  packet : BitVec 1024
  ext : List Byte
  /-- Troops placed: shared counter, or per die rank for a gang. -/
  placed : Nat := 0
  herds : List Nat := []
  retired : List Nat := []
  /-- Failed gang rounds by die (R315). -/
  rounds : Sparse Nat := []
  tilelost : Bool := false
  /-- Its packet stands at its queue's head (R309). -/
  headed : Bool := true
  /-- The status it ends with other than 1, once it places no further troop (R316, R317, R381). -/
  closing : Option Nat := none
  /-- Every strand has triggered or exited, and the event of it was posted (R399). -/
  trigNoted : Bool := false
  deriving DecidableEq, Repr

/-- A table pointer in the walk cache of a die: it leads to the table of level `lvl` for the addresses with this prefix
(R336, R338). -/
structure WPtr where
  asid : Nat
  lvl : Nat
  pre : Nat
  ptr : Nat
  deriving DecidableEq, Repr

/-- A translation fault handed to a dispatch controller (R206, R399). -/
structure WalkFault where
  tag : Nat
  asid : Nat
  page : Nat
  need : Nat
  reason : Nat
  /-- Cores whose miss tables wait on the key. -/
  cores : List Nat
  deriving DecidableEq, Repr

/-- A key at a die, with the need of the access that missed first (R206, R338; log 22). -/
structure Walk where
  asid : Nat
  page : Nat
  need : Nat
  cores : List Nat
  deriving DecidableEq, Repr

structure Die where
  lq : Sparse LaunchQ := []
  lotseed : Word := 1
  gangrounds : Nat := 16
  corral : Option (BitVec 8 × Nat) := none
  /-- Hardware events, oldest first, and whether one was lost (R399). -/
  devq : List Dword := []
  devLost : Bool := false
  devie : Dword := 0
  placeStat : Dword := 0
  dmasrc : Dword := 0
  dmadst : Dword := 0
  dmalen : Dword := 0
  dmaBusy : Bool := false
  dmaErr : Bool := false
  tlb : List Tlb := []
  wcache : List WPtr := []
  /-- Its contexts are frozen by its own temperature (R408). -/
  hot : Bool := false
  /-- Keys that have reached the die, oldest first, and walks under way. -/
  keys : List Walk := []
  walks : List Walk := []
  wfaults : List WalkFault := []
  /-- KV faults handed to the controller: tag, core, op (R248). -/
  kfaults : List (Nat × Nat × Nat) := []
  nextTag : Nat := 0
  /-- Saved contexts awaiting restore: troop, or crew of it. -/
  savedCtx : List (Nat × Option Nat) := []
  deriving DecidableEq, Repr

/-! ## The package (10, 11, 18) -/

structure SliceLine where
  dirty : Bool := false
  pinned : Bool := false
  data : BitVec 1024
  stamp : Nat := 0
  way : Nat := 0
  deriving DecidableEq, Repr

structure Slice where
  waymask : BitVec 16 := 0xFFFF
  filtwin : Nat := 16
  mergewin : Nat := 0
  filter : List Nat := []
  misses : Nat := 0
  lines : Sparse SliceLine := []
  /-- Lines whose reads an open merge window serves together, oldest first (R213). -/
  merging : List Nat := []
  /-- Ways that lasting faults have retired (R357). -/
  dead : BitVec 16 := 0
  /-- The traffic class whose request it served last (R14). -/
  served : Option Nat := none
  deriving DecidableEq, Repr

structure Pin where
  func : Nat
  asid : Nat
  counter : Nat
  unit : Nat
  fade : Nat
  units : Nat
  vbase : Nat
  pages : List Nat
  /-- Slice accesses since the last decrement (R215). -/
  since : Nat := 0
  deriving DecidableEq, Repr

/-- A request at the pin table: make, or release (R226). -/
structure PinReq where
  strand : Nat
  release : Bool
  asid : Nat
  va : Nat
  units : Nat
  unit : Nat
  fade : Nat
  pages : List Nat
  /-- Size code of the largest page that translated it (R339). -/
  pg : Nat := 0
  pdst : Nat
  len : BitVec 2 := 2
  /-- Tag of its event (R399). -/
  tag : Nat := 0
  deriving DecidableEq, Repr

structure Stack where
  pagectl : Word := 0x80000100
  open_ : Sparse Nat := []
  timers : Sparse Nat := []
  /-- The traffic class whose request each bank served last (R14). -/
  served : Sparse Nat := []
  selfRef : Bool := false
  deriving DecidableEq, Repr

/-- A PUT on its way (R155): `lanes` 0 means every lane the entry covers. -/
structure PutMsg where
  id : Nat
  word : Dword
  idx : Nat
  lanes : BitVec 32
  val : Word
  /-- 0 put, 1 putv, 2 putadd.i, 3 putadd.f (R394 Table 17). -/
  kind : Nat
  /-- The sending strand; of a PUT from another package, its `src` field. -/
  src : Nat
  /-- It came from another package, with this tag. -/
  tag : Option Dword := none
  /-- It was handed to a UALink port, and to which. -/
  out : Bool := false
  port : Nat := 0
  tok : Option Nat := none
  /-- The stores of the sender's core it may not overtake (R161): request numbers. -/
  after : List Nat := []
  deriving DecidableEq, Repr

structure PutAns where
  id : Nat
  src : Nat
  tok : Option Nat
  idx : Nat
  /-- 0 acknowledged, else the NAK reason (R158). -/
  reason : Nat
  deriving DecidableEq, Repr

/-- A channel entry in its send window (R301). -/
structure ChanMsg where
  id : Nat
  crew : Nat
  strand : Nat
  chan : Nat
  pkg : Nat
  lid : Nat
  span : Nat
  troop : Nat
  seq : Nat := 0
  data : List Word
  /-- 0 in flight, 1 refused, 2 accepted, 3 lost. -/
  st : Nat := 0
  /-- The core's cycle at its refusal, and the back-off code of its launch. -/
  time : Nat := 0
  chbk : Nat := 0
  /-- It was handed to this UALink port. -/
  out : Option Nat := none
  after : List Nat := []
  deriving DecidableEq, Repr

structure Port where
  live : Bool := false
  fast : Bool := false
  lanes : BitVec 3 := 0
  /-- Lanes it can train to: 4, and 2 or 1 after lane retirement (R391). -/
  width : BitVec 3 := 4
  deriving DecidableEq, Repr

structure Loop where
  failed : Bool := false
  drops : Nat := 0
  deriving DecidableEq, Repr

/-- A packet a loop stop retains until acknowledged (R395). `kind` is its class (R14): 0 strand memory, 3 PUT and channel,
4 control. -/
structure LoopPkt where
  id : Nat
  /-- Of a memory request: its core, its number, and whether it is the answer. -/
  req : Option (Nat × Nat × Bool) := none
  src : Nat
  dst : Nat
  loop : Nat
  seq : Nat
  kind : Nat
  /-- The destination holds it, ahead of its turn; the destination has accepted it, in order. -/
  early : Bool := false
  got : Bool := false
  /-- Its loop's clock when it was last sent (R396). -/
  sent : Nat := 0
  deriving DecidableEq, Repr

/-- What leaves by a UALink port: kind 0 write, 1 PUT, 2 channel, 3 atomic, 4 answer, 5 read, 6 error answer (R393, R394). -/
structure UaMsg where
  id : Nat
  kind : Nat
  pkg : Nat
  addr : Nat
  data : List Byte
  tag : Dword := 0
  /-- Its port (R392). -/
  port : Nat := 0
  /-- Bytes of a read or write request from `addr`, and where `data` begins in them (R391). -/
  len : Nat := 0
  first : Nat := 0
  /-- Of an atomic: operation code (10 is `cas`), size, order (R223, R394). -/
  op : Option (Nat × Nat × Nat) := none
  deriving DecidableEq, Repr

structure Mbx where
  block : BitVec 512 := 0
  stat : Word := 0
  deriving DecidableEq, Repr

structure EvRing where
  base : Nat := 0
  size : Nat := 0
  index : Nat := 0
  vector : Nat := 0
  deriving DecidableEq, Repr

/-- A controller (R397-R399, R404, R406): its SRAM, its RISC-V hart's registers, its vendor registers (log 11). -/
structure Ctl where
  sram : Memory := []
  pc : Dword := 0
  /-- Privilege mode: 0 user, 1 supervisor, 3 machine. -/
  mode : BitVec 2 := 3
  x : Sparse Dword := []
  /-- Control and status registers that hold what was written, by number. -/
  csr : Sparse Dword := []
  /-- Its timer (R397). -/
  time : Nat := 0
  /-- Bytes of SRAM its last load-reserved holds: offset and number. -/
  resv : Option (Nat × Nat) := none
  /-- What its last read of the device window or of a control register returned. -/
  rdata : Dword := 0
  xwdog : Nat := 0
  xwdctl : Dword := 0x01000000
  /-- The watchdog counts: `xwdog` has been written. -/
  wdOn : Bool := false
  /-- A switch is requested. -/
  xquiet : Bool := false
  xlevel : Dword := 0
  /-- The last step its watchdog took (R406); steps 4 and 5 do not reset it (log 5). -/
  rung : Nat := 0
  /-- Cycles since its last watchdog step. -/
  since : Option Nat := none
  /-- It runs the image of a switch under way. -/
  fresh : Bool := false
  /-- Cycles since it started that image, until its first quiet point. -/
  age : Option Nat := none
  deriving DecidableEq, Repr

/-- An uncorrectable error that stands (R218). -/
structure ErrRec where
  loc : ErrLoc
  /-- Bytes written since, of a dirty line (R218). -/
  written : List Nat := []
  deriving DecidableEq, Repr

/-! ## The issue under way, and the order in which agents move -/

/-- The issue being executed: the strand, word 0 and the micro-op. -/
structure Cur where
  strand : Nat := 0
  word0 : Word := 0
  mop : Option Mop := none
  deriving DecidableEq, Repr

/-- Which agent moves (log 1). -/
inductive Move where
  | issue (unit : Nat)
  | drain (crew : Nat)
  /-- The same, when the store to the core's own scratchpad reaches its bank only later (R276). -/
  | drainLate (crew : Nat)
  | wake (strand : Nat)
  | tick (core : Nat) (n : Nat)
  | event (i : Instr) (a : EvArgs)
  /-- The host reads, or writes, bytes at an offset of a function's control BAR (R385). -/
  | hostRead (f off n : Nat)
  | hostWrite (f off n v : Nat)
  /-- A controller loads from, or stores to, its device window, reads or writes a control register, or takes its external
  interrupt (R397-R399). -/
  | winRead (c off w : Nat)
  | winWrite (c off w : Nat) (v : Dword)
  | csrRead (c n : Nat)
  | csrWrite (c n : Nat) (v : Dword)
  | interrupt (c : Nat)
  /-- A controller runs the instruction at its pc (R397). -/
  | hart (c : Nat)
  /-- DOE discovery; a page request of a function on a die, and its answer (R383). -/
  | doeDiscovery (i : Nat)
  | pageRequest (f d : Nat)
  | pageResponse (f d : Nat)
  deriving DecidableEq, Repr

/-- RAS tracking of one domain (R357): resources with their counts in the present window, the clock at its start, the
clock of a domain whose clock is no core's, and the resources retired. -/
structure RasTrack where
  counts : List (Nat × Nat) := []
  start : Nat := 0
  clock : Nat := 0
  gone : List Nat := []
  deriving DecidableEq, Repr

structure State where
  -- order of moves, and the issue under way (the model's own: log 1, log 3)
  agenda : List Move := []
  focus : Nat := 0
  cur : Cur := {}
  ev : EvArgs := {}
  freeCtr : Nat := 0
  nextId : Nat := 0
  -- strands to cores
  strands : Sparse Strand := []
  crews : Sparse Crew := []
  troops : Sparse Troop := []
  past : Sparse Past := []
  cores : Sparse Core := []
  units : Sparse IssueUnit := []
  -- dies and launches
  dies : Sparse Die := []
  launches : Sparse Launch := []
  -- memory
  pmem : Memory := []
  hostMem : Memory := []
  errs : List ErrRec := []
  slices : Sparse Slice := []
  hbmStacks : Sparse Stack := []
  pins : Sparse Pin := []
  pinReqs : List PinReq := []
  quotas : Sparse Nat := []
  pageLists : Sparse Dword := []
  frozen : Bool := false
  /-- Sensors, dies 0-7 then stacks 8-19: degrees and level (R399 Table 16). -/
  sensors : Sparse (Nat × Nat) := []
  -- package tables
  pkg : BitVec 8 := 0
  spaces : Sparse (BitVec 128) := []
  routes : Sparse (Dword × Bool) := []
  spanRoots : Sparse (BitVec 128) := []
  kvpoolbase : Dword := 0
  kvpooln : Dword := 0
  kvfree : Dword := 0
  -- fabric
  ports : Sparse Port := []
  loops : Sparse Loop := []
  loopSeq : Sparse Nat := []
  loopSeen : Sparse Nat := []
  loopPkts : List LoopPkt := []
  puts : List PutMsg := []
  putAns : List PutAns := []
  chanMsgs : List ChanMsg := []
  /-- The next sequence number of a sender of another package: launch, troop, channel, source, number (R394). -/
  chanNext : List (Nat × Nat × Nat × Nat × Nat) := []
  uaOut : List UaMsg := []
  /-- What the last read of the host through a BAR returned. -/
  hostOut : List Byte := []
  -- host, controllers, firmware
  ctls : Sparse Ctl := []
  mbx : Sparse Mbx := []
  /-- Functions whose commands wait, in order of doorbell (R387). -/
  mbxq : List Nat := []
  evrings : Sparse EvRing := []
  vfwin : Sparse Dword := []
  /-- MSI-X messages sent, by function and vector; the tables, by 128 * function + vector; the pending bits (R383). -/
  msix : List (Nat × Nat) := []
  msixTab : Sparse (BitVec 128) := []
  msixPend : List (Nat × Nat) := []
  /-- Errors reported through AER; page request groups outstanding, by function and die (R383). -/
  aer : List ErrLoc := []
  pageGroups : List (Nat × Nat) := []
  bootctl : Dword := 0
  bootstat : Word := 1
  measure : BitVec 512 := 0
  /-- Type, `svn` and digest of each measured event (R402). -/
  measureLog : List (Nat × Nat × BitVec 512) := []
  revoked : Nat := 0
  minSvn : Nat := 0
  svn : Nat := 0
  /-- The running image, and a verified one (R404). -/
  image : List Byte := []
  staged : Option (List Byte) := none
  switching : Bool := false
  reverting : Bool := false
  ras : Sparse Dword := []
  rasTrack : Sparse RasTrack := []
  pwrlim : Word := 3900
  tempmax : Word := 0
  mevq : List Dword := []
  mevLost : Bool := false
  mevTag : Nat := 0
  mevie : Dword := 0
  invas : Dword := 0
  invva : Dword := 0
  invlen : Dword := 0
  invBusy : Bool := false
  /-- The function whose `tlb_inval` is under way. -/
  invFor : Option Nat := none
  signin : Dword := 0
  signout : Dword := 0
  signgo : Dword := 0
  doeReq : List Byte := []
  doeAns : List Byte := []
  deriving DecidableEq, Repr

/-- The machine after function-level reset and power-up, as R198, R293, R318 and R401 give it: no launch is
accepted, every table is empty, the boot ROM waits (BOOTSTAT 1). Where the spec gives no value, log 5 names it. -/
def State.reset : State := {}

/-- Why a step stops. -/
inductive Fault where
  /-- An access to a physical address R390 (18) reserves at or above 0x104_0000_0000: the spec gives it no
  behaviour. Raised by the steps that perform an access at a physical address. Safe: the machine stops where the
  hardware does something the spec does not say. -/
  | reservedPhysical
  deriving DecidableEq, Repr

/-- Why an instruction has no meaning here. -/
inductive Refusal where
  /-- An instruction not modelled yet, by its mnemonic; raised by an arm of `exec`. Safe: nothing is claimed of it. -/
  | notModelled (mnemonic : String)
  deriving DecidableEq, Repr

end Sys2Proof.Machine
end

