-- ==== Sys2Proof/Machine/Sparse.lean ====
section
/-! DEFINITION. Sparse.lean: tables and memories as lists in rising order, and the byte order of memory (R1). -/

namespace Sys2Proof.Machine

/-- The entry of a table at `k`. -/
def sfind {α : Type} : Sparse α → Nat → Option α
  | [], _ => none
  | (j, v) :: t, k => if j = k then some v else sfind t k

/-- The entry at `k`, or the value an unlisted number has. -/
def sget {α : Type} (m : Sparse α) (dflt : α) (k : Nat) : α := (sfind m k).getD dflt

/-- Entry `k` becomes `v`. -/
def sput {α : Type} (m : Sparse α) (k : Nat) (v : α) : Sparse α :=
  match m with
  | [] => [(k, v)]
  | (j, w) :: t => if k < j then (k, v) :: (j, w) :: t else if k = j then (k, v) :: t else (j, w) :: sput t k v

/-- Entry `k` is no longer listed. -/
def sdel {α : Type} (m : Sparse α) (k : Nat) : Sparse α := m.filter (fun e => decide (e.1 ≠ k))

/-- Entry `k` becomes `v`, which is not listed when it is the value of an unlisted number. -/
def sset {α : Type} [DecidableEq α] (m : Sparse α) (dflt : α) (k : Nat) (v : α) : Sparse α :=
  if v = dflt then sdel m k else sput m k v

/-- Numbers strictly rise. -/
def srising {α : Type} : Sparse α → Bool
  | [] => true
  | (i, _) :: t => (match t with | [] => true | (j, _) :: _ => decide (i < j)) && srising t

/-- The canonical form of a memory: addresses rise and no listed byte is the 0 of an unlisted one. -/
def Memory.wf (m : Memory) : Bool := srising m && m.all (fun c => decide (c.2 ≠ 0))

/-- The byte at `a` (log 2: 0 where nothing is listed). -/
def mbyte (m : Memory) (a : Nat) : Byte := sget m 0 a
/-- The byte at `a` becomes `v`. -/
def mset (m : Memory) (a : Nat) (v : Byte) : Memory := sset m 0 a v
/-- `n` bytes from `a`, lowest first. -/
def mread (m : Memory) (a n : Nat) : List Byte := (List.range n).map (fun i => mbyte m (a + i))
/-- Bytes written from `a` upward. -/
def mwrite : Memory → Nat → List Byte → Memory
  | m, _, [] => m
  | m, a, v :: vs => mwrite (mset m a v) (a + 1) vs

/-- The value of bytes, lowest first (R1). -/
def leNat : List Byte → Nat
  | [] => 0
  | b :: bs => b.toNat + 256 * leNat bs
/-- The low `n` bytes of a value, lowest first (R1). -/
def leBytes : Nat → Nat → List Byte
  | 0, _ => []
  | n + 1, v => BitVec.ofNat 8 v :: leBytes n (v / 256)

def mnat (m : Memory) (a n : Nat) : Nat := leNat (mread m a n)

/-- Field [hi : lo] of a number. -/
def bits (v hi lo : Nat) : Nat := (v >>> lo) % 2 ^ (hi + 1 - lo)
def bitOf (v i : Nat) : Bool := v.testBit i
/-- The number whose bits are set where the list says. -/
def natOfBits : List Bool → Nat
  | [] => 0
  | b :: bs => (if b then 1 else 0) + 2 * natOfBits bs
/-- `lo` to `hi - 1`. -/
def span (lo hi : Nat) : List Nat := (List.range (hi - lo)).map (· + lo)

/-- Insertion by a key, earlier first among equals. -/
def insertBy {α : Type} (key : α → Nat) (x : α) : List α → List α
  | [] => [x]
  | y :: ys => if key x < key y then x :: y :: ys else y :: insertBy key x ys
/-- A list in rising order of a key, stable. -/
def sortBy {α : Type} (key : α → Nat) (l : List α) : List α := l.foldl (fun acc x => insertBy key x acc) []
/-- The first item of least key. -/
def leastBy {α : Type} (key : α → Nat) : List α → Option α
  | [] => none
  | x :: xs => match leastBy key xs with
    | none => some x
    | some y => if key y < key x then some y else some x

/-- Sign extension of the low `w` bits of a number to an integer. -/
def sextInt (w v : Nat) : Int := if (v % 2 ^ w).testBit (w - 1) then (v % 2 ^ w : Int) - 2 ^ w else (v % 2 ^ w : Int)
/-- An integer modulo 2^w. -/
def wrapNat (w : Nat) (v : Int) : Nat := (v % (2 ^ w : Int)).toNat

end Sys2Proof.Machine
end

