-- ==== Sys2Proof/Machine/Access.lean ====
section
/-! DEFINITION. Access.lean: the one way each piece of state is read and written. A table entry nobody has written
reads as the entry after placement or reset. -/

namespace Sys2Proof.Machine

/-- What a meaning answers. -/
abbrev Out := Host.Outcome State Fault Refusal

/-! ## Numbering (State.lean) -/

def crewOf (x : Nat) : Nat := x / 32
def laneOf (x : Nat) : Nat := x % 32
def troopOf (x : Nat) : Nat := x / 2048
/-- A number at or above 2^26 is a strand whose place was given up (`ghost`); its core is still known. -/
def coreOf (x : Nat) : Nat := x / 131072 % 512
def troopOfCrew (c : Nat) : Nat := c / 64
def crewIdx (c : Nat) : Nat := c % 64
def coreOfTroop (t : Nat) : Nat := t / 64 % 512
def slotOfTroop (t : Nat) : Nat := t % 64
def dieOfCore (k : Nat) : Nat := k / 64
/-- What names a strand, or a crew, whose crew has given up its slot while something of it is still under way. -/
def ghost (x : Nat) : Nat := if x < 67108864 then x + 67108864 else x
/-- The number a ghost had. -/
def realX (x : Nat) : Nat := x % 67108864
def ghostCrew (c : Nat) : Nat := if c < 2097152 then c + 2097152 else c

/-! ## Records by number -/

def State.strand (s : State) (x : Nat) : Strand := sget s.strands {} x
def State.setStrand (s : State) (x : Nat) (v : Strand) : State := { s with strands := sput s.strands x v }
def State.modStrand (s : State) (x : Nat) (f : Strand → Strand) : State := s.setStrand x (f (s.strand x))
def State.crew (s : State) (c : Nat) : Crew := sget s.crews {} c
def State.setCrew (s : State) (c : Nat) (v : Crew) : State := { s with crews := sput s.crews c v }
def State.modCrew (s : State) (c : Nat) (f : Crew → Crew) : State := s.setCrew c (f (s.crew c))
def State.troop (s : State) (t : Nat) : Troop := sget s.troops {} t
def State.setTroop (s : State) (t : Nat) (v : Troop) : State := { s with troops := sput s.troops t v }
def State.modTroop (s : State) (t : Nat) (f : Troop → Troop) : State := s.setTroop t (f (s.troop t))
def State.core (s : State) (k : Nat) : Core := sget s.cores {} k
def State.setCore (s : State) (k : Nat) (v : Core) : State := { s with cores := sput s.cores k v }
def State.modCore (s : State) (k : Nat) (f : Core → Core) : State := s.setCore k (f (s.core k))
def State.unit (s : State) (u : Nat) : IssueUnit := sget s.units {} u
def State.setUnit (s : State) (u : Nat) (v : IssueUnit) : State := { s with units := sput s.units u v }
def State.modUnit (s : State) (u : Nat) (f : IssueUnit → IssueUnit) : State := s.setUnit u (f (s.unit u))
def State.die (s : State) (d : Nat) : Die := sget s.dies {} d
def State.setDie (s : State) (d : Nat) (v : Die) : State := { s with dies := sput s.dies d v }
def State.modDie (s : State) (d : Nat) (f : Die → Die) : State := s.setDie d (f (s.die d))
def State.slice (s : State) (n : Nat) : Slice := sget s.slices {} n
def State.setSlice (s : State) (n : Nat) (v : Slice) : State := { s with slices := sput s.slices n v }
def State.modSlice (s : State) (n : Nat) (f : Slice → Slice) : State := s.setSlice n (f (s.slice n))
def State.ctl (s : State) (c : Nat) : Ctl := sget s.ctls {} c
/-- A controller is in machine mode. -/
def Ctl.machine (q : Ctl) : Bool := q.mode == 3
def State.modCtl (s : State) (c : Nat) (f : Ctl → Ctl) : State := { s with ctls := sput s.ctls c (f (s.ctl c)) }
def State.launchAt (s : State) (lid : Nat) : Option Launch := sfind s.launches lid
def State.modLaunch (s : State) (lid : Nat) (f : Launch → Launch) : State :=
  match sfind s.launches lid with
  | some l => { s with launches := sput s.launches lid (f l) }
  | none => s

/-- A free value (log 3), and the state whose counter has moved on. -/
def State.free (s : State) : Dword × State := (Config.freeValue s.freeCtr, { s with freeCtr := s.freeCtr + 1 })
/-- The n-th of several free values taken at once. -/
def State.freeN (s : State) (n : Nat) : List Dword × State :=
  ((List.range n).map (fun i => Config.freeValue (s.freeCtr + i)), { s with freeCtr := s.freeCtr + n })
/-- n free bytes. -/
def State.freeBytes (s : State) (n : Nat) : List Byte × State :=
  let fv := s.freeN ((n + 7) / 8)
  ((fv.1.flatMap (fun v => (List.range 8).map (fun i => v.extractLsb' (8 * i) 8))).take n, fv.2)
/-- A fresh number for a message. -/
def State.newId (s : State) : Nat × State := (s.nextId, { s with nextId := s.nextId + 1 })

/-! ## Registers of a strand (R88, R95, R144) -/

def setBit {w : Nat} (v : BitVec w) (i : Nat) : BitVec w := v ||| BitVec.twoPow w i
def clrBit {w : Nat} (v : BitVec w) (i : Nat) : BitVec w := v &&& ~~~(BitVec.twoPow w i)
def putBit {w : Nat} (v : BitVec w) (i : Nat) (b : Bool) : BitVec w := if b then setBit v i else clrBit v i

/-- R146, R218: a write sets the fill bit, and an error of the register goes. -/
def Strand.wr (t : Strand) (r : Nat) (v : Word) : Strand :=
  { t with regs := sset t.regs 0 r v, fill := setBit t.fill r, pend := clrBit t.pend r, bad := clrBit t.bad r }
/-- R95: `p7` discards a write. -/
def Strand.wrP (t : Strand) (p : Nat) (v : Bool) : Strand := if p < 7 then { t with preds := putBit t.preds p v } else t
def Strand.prd (t : Strand) (p : Nat) : Bool := if p < 7 then t.preds.getLsbD p else true

/-- The strand whose instruction is being executed. -/
def State.x (s : State) : Nat := s.cur.strand
def State.rdX (s : State) (x r : Nat) : Word := sget (s.strand x).regs 0 r
def State.rd (s : State) (r : Nat) : Word := s.rdX s.x r
/-- The pair `sr:sr+1`, low word in `sr` (R88). -/
def State.rd64 (s : State) (r : Nat) : Dword := s.rd (r + 1) ++ s.rd r
def State.wrX (s : State) (x r : Nat) (v : Word) : State := s.modStrand x (fun t => t.wr r v)
def State.wr (s : State) (r : Nat) (v : Word) : State := s.wrX s.x r v
def State.wr64 (s : State) (r : Nat) (v : Dword) : State := (s.wr r (v.extractLsb' 0 32)).wr (r + 1) (v.extractLsb' 32 32)
def State.pr (s : State) (p : PReg) : Bool := (s.strand s.x).prd p.toNat
def State.wrP (s : State) (p : PReg) (v : Bool) : State := s.modStrand s.x (fun t => t.wrP p.toNat v)
/-- Words to consecutive registers. -/
def State.wrListX (s : State) (x : Nat) : Nat → List Word → State
  | _, [] => s
  | r, v :: vs => (s.wrX x r v).wrListX x (r + 1) vs
def State.wrList (s : State) (r : Nat) (vs : List Word) : State := s.wrListX s.x r vs
def State.rdList (s : State) (r n : Nat) : List Word := (List.range n).map (fun i => s.rd (r + i))
/-- Little-endian words of bytes, and bytes of words. -/
def wordsOf : List Byte → List Word
  | b0 :: b1 :: b2 :: b3 :: bs => (b3 ++ b2 ++ b1 ++ b0) :: wordsOf bs
  | _ => []
def bytesOf (ws : List Word) : List Byte := ws.flatMap (fun w => leBytes 4 w.toNat)

/-! ## The issuing strand's crew, troop, core -/

def State.myCrew (s : State) : Crew := s.crew (crewOf s.x)
def State.modMyCrew (s : State) (f : Crew → Crew) : State := s.modCrew (crewOf s.x) f
def State.myTroop (s : State) : Troop := s.troop (troopOf s.x)
def State.modMyTroop (s : State) (f : Troop → Troop) : State := s.modTroop (troopOf s.x) f
def State.myCore (s : State) : Core := s.core (coreOf s.x)
def State.modMyCore (s : State) (f : Core → Core) : State := s.modCore (coreOf s.x) f
def State.myStrand (s : State) : Strand := s.strand s.x
def State.modMe (s : State) (f : Strand → Strand) : State := s.modStrand s.x f

/-- The issue unit a crew stands in: 5 * core + quarter, or + 4 for the front end. -/
def State.unitOfCrew (s : State) (c : Nat) : Nat := 5 * (c / 4096) + (s.crew c).unit
/-- Physical lane of a virtual lane (R24, R322). -/
def State.plane (s : State) (x : Nat) : Nat := (laneOf x + 8 * ((s.crew (crewOf x)).slot % 4)) % 32

/-- The strand exists and has not exited. -/
def State.alive (s : State) (x : Nat) : Bool :=
  match sfind s.strands x with
  | some t => t.life != .exited
  | none => false
/-- Strands of a crew that exist and have not exited, ascending lane (R32, R34). -/
def State.liveLanes (s : State) (c : Nat) : List Nat :=
  ((List.range 32).map (fun l => 32 * c + l)).filter s.alive
/-- The crew holds its slot or is saved. -/
def State.hasCrew (s : State) (c : Nat) : Bool := (sfind s.crews c).isSome
/-- Crews of a troop that exist, ascending index. -/
def State.crewsOf (s : State) (t : Nat) : List Nat := (s.crews.map (·.1)).filter (fun c => c / 64 == t)
/-- Troops of a core that exist. -/
def State.troopsOn (s : State) (k : Nat) : List Nat := (s.troops.map (·.1)).filter (fun t => t / 64 == k)

/-! ## Launch packet fields (R310 Table 8) -/

/-- An address as a PC: a multiple of 4, as the packet's checks have it; of a placement record or a save area, which nothing
checks, its two low bits are dropped (R66; DESIGN CHOICE, log 24). -/
def pcOf (a : Nat) : Dword := BitVec.ofNat 64 (a / 4 * 4)
def pk (l : Launch) (hi lo : Nat) : Nat := bits l.packet.toNat hi lo
def Launch.entry (l : Launch) : Nat := pk l 63 0
def Launch.args (l : Launch) : Nat := pk l 127 64
def Launch.handler (l : Launch) : Nat := pk l 191 128
def Launch.save (l : Launch) : Nat := pk l 255 192
def Launch.kvroot (l : Launch) : Nat := pk l 319 256
def Launch.crec (l : Launch) : Nat := pk l 383 320
def Launch.extAddr (l : Launch) : Nat := pk l 447 384
def Launch.role (l : Launch) (c : Nat) : Nat := pk l (449 + 2 * c) (448 + 2 * c)
def Launch.sgw (l : Launch) : Nat := pk l 543 512
def Launch.ncrews (l : Launch) : Nat := pk l 548 544 + 1
def Launch.streamer (l : Launch) : Nat := pk l 553 549
def Launch.det (l : Launch) : Bool := l.packet.getLsbD 554
def Launch.gang (l : Launch) : Bool := l.packet.getLsbD 555
def Launch.dies (l : Launch) : Nat := pk l 567 560
def Launch.troops (l : Launch) : Nat := (pk l 599 576 + 1) * (pk l 615 600 + 1) * (pk l 631 616 + 1)
def Launch.reinAt (l : Launch) (k : Nat) : Nat := pk l (650 + 11 * k) (640 + 11 * k)
def Launch.chbk (l : Launch) : Nat := pk l 687 684
def Launch.argw (l : Launch) : Nat := pk l 703 688
def Launch.chan (l : Launch) (c : Nat) : Nat := pk l (715 + 12 * c) (704 + 12 * c)
def Launch.spanId (l : Launch) : Nat := pk l 959 928
def Launch.dep (l : Launch) (k : Nat) : Nat := pk l (991 + 32 * k) (960 + 32 * k)

/-- A packet of zeros: what stands where no launch is accepted. -/
def noLaunch : Launch := { lid := 0, die := 0, queue := 0, packet := 0, ext := [] }
/-- The launch of a troop. -/
def State.launchOf (s : State) (t : Nat) : Launch := (sfind s.launches (s.troop t).lid).getD noLaunch
def State.myLaunch (s : State) : Launch := s.launchOf (troopOf s.x)
/-- Address-space entry a troop translates through: its queue's number (R333). -/
def State.asidOf (s : State) (t : Nat) : Nat := (s.launchOf t).queue

/-! ## Partition word (R200 Table 3) -/

def sgwSpm (w : Nat) : Nat := bits w 27 20
def sgwAcc (w : Nat) : Nat := bits w 19 14
def sgwTile (w : Nat) : Nat := bits w 13 8
def sgwReg (w : Nat) : Nat := bits w 7 0
/-- Bytes of a troop's scratchpad (R202). -/
def State.spmSize (s : State) (t : Nat) : Nat := sgwSpm (s.troop t).sgw.toNat * 16384
def State.tileSlot (s : State) (t : Nat) : Nat := sgwTile (s.troop t).sgw.toNat * 1024
def State.accSlot (s : State) (t : Nat) : Nat := sgwAcc (s.troop t).sgw.toNat * 1024

/-- R217, R408: the contexts of a core stand still. -/
def State.still (s : State) (k : Nat) : Bool := s.frozen || (s.die (dieOfCore k)).hot

/-- R401: nothing is served before Run. -/
def State.booted (s : State) : Bool := s.bootstat.extractLsb' 0 3 == 4 && !s.bootstat.getLsbD 31
/-- Step 5 of the watchdog ladder: the device answers nothing but configuration space (R406). -/
def State.silent (s : State) : Bool := s.bootstat.getLsbD 31

/-! ## A controller's hart (R397-R399; the standard privileged architecture, log 11) -/

def Ctl.csrAt (q : Ctl) (n : Nat) : Dword := sget q.csr 0 n
/-- Bits of a register replaced. -/
def setField (v : Dword) (hi lo x : Nat) : Dword :=
  BitVec.ofNat 64 (v.toNat - bits v.toNat hi lo * 2 ^ lo + x % 2 ^ (hi + 1 - lo) * 2 ^ lo)
def csrStatus : Nat := 0x300
def codeIllegal : Nat := 2
def codeLoadFault : Nat := 5
def codeStoreFault : Nat := 7
def codeExternal : Nat := 11
/-- An exception or interrupt is taken: to supervisor mode when it is delegated from a lower mode, else to machine mode.
The pc, its cause and its value are saved, the mode and its interrupt enable move into the status, and the pc goes to the
vector. -/
def Ctl.trapTo (q : Ctl) (intr : Bool) (code : Nat) (tval : Dword) : Ctl :=
  let deleg := q.mode != 3 && (q.csrAt (if intr then 0x303 else 0x302)).getLsbD code
  let base := if deleg then 0x100 else 0x300
  let v := q.csrAt (base + 5)
  let st := q.csrAt csrStatus
  let st1 := if deleg then setField (setField (setField st 8 8 q.mode.toNat) 5 5 (bits st.toNat 1 1)) 1 1 0
    else setField (setField (setField st 12 11 q.mode.toNat) 7 7 (bits st.toNat 3 3)) 3 3 0
  let c1 := sput (sput (sput q.csr (base + 0x41) q.pc) (base + 0x42) (BitVec.ofNat 64 (code + (if intr then 2 ^ 63 else 0)))) (base + 0x43) tval
  { q with csr := sput c1 csrStatus st1, mode := if deleg then 1 else 3,
           pc := BitVec.ofNat 64 (v.toNat / 4 * 4 + (if intr && v.getLsbD 0 then 4 * code else 0)) }
/-- A synchronous exception of a controller. -/
def State.hartTrap (s : State) (c code : Nat) (tval : Dword) : State := s.modCtl c (fun q => q.trapTo false code tval)
/-- An address of the device window. -/
def winAddr (off : Nat) : Dword := BitVec.ofNat 64 (0x40000000 + off)
/-- A window store, or load, of controller `c` at an offset: its effect in machine mode, else the access fault (R399). -/
def State.winStore (s : State) (c off : Nat) (t : State) : State :=
  if (s.ctl c).machine then t else s.hartTrap c codeStoreFault (winAddr off)
def State.winLoad (s : State) (c off : Nat) (t : State) : State :=
  if (s.ctl c).machine then t else s.hartTrap c codeLoadFault (winAddr off)
/-- A vendor control register is written: in machine mode, else an illegal instruction (R398). -/
def State.vendor (s : State) (c : Nat) (t : State) : State :=
  if (s.ctl c).machine then t else s.hartTrap c codeIllegal 0

/-! ## MSI-X (R383, R386) -/

def msixReset : BitVec 128 := BitVec.twoPow 128 96
def State.msixEntry (s : State) (f v : Nat) : BitVec 128 := sget s.msixTab msixReset (128 * f + v)
/-- Vector `v` of a function is signalled: its message is sent, or pends while its entry is masked. -/
def State.signal (s : State) (f v : Nat) : State :=
  if (s.msixEntry f v).getLsbD 96 then { s with msixPend := if s.msixPend.contains (f, v) then s.msixPend else s.msixPend ++ [(f, v)] }
  else { s with msix := s.msix ++ [(f, v)] }
/-- A table entry is written; a pending vector that it unmasks is sent. -/
def State.setMsix (s : State) (f v : Nat) (e : BitVec 128) : State :=
  let s1 := { s with msixTab := sput s.msixTab (128 * f + v) e }
  if !e.getLsbD 96 && s.msixPend.contains (f, v) then { s1 with msixPend := s1.msixPend.erase (f, v), msix := s1.msix ++ [(f, v)] } else s1

/-! ## Events of the controllers (R399) -/

def devRecord (kind slot tag v : Nat) : Dword :=
  BitVec.ofNat 64 (kind % 256 + slot % 256 * 2 ^ 8 + tag % 65536 * 2 ^ 16 + v % 2 ^ 32 * 2 ^ 32)
/-- A hardware event of a die joins `DEVQ`, or is lost when 4,096 wait there. -/
def State.devEvent (s : State) (d kind slot tag v : Nat) : State :=
  s.modDie d (fun q => if q.devq.length < 4096 then { q with devq := q.devq ++ [devRecord kind slot tag v] } else { q with devLost := true })
/-- The same of the management controller. -/
def State.mevEvent (s : State) (kind slot tag v : Nat) : State :=
  if s.mevq.length < 4096 then { s with mevq := s.mevq ++ [devRecord kind slot tag v] } else { s with mevLost := true }
/-- The next tag of a die's fault events. -/
def State.newTag (s : State) (d : Nat) : Nat × State :=
  ((s.die d).nextTag, s.modDie d (fun q => { q with nextTag := (q.nextTag + 1) % 65536 }))

/-! ## Error counts (R357 Table 7) -/

def rasDefault : Dword := BitVec.ofNat 64 (8 * 2 ^ 48 + 24 * 2 ^ 43)
def State.rasAt (s : State) (i : Nat) : Dword := sget s.ras rasDefault i
def rasThresh (v : Dword) : Nat := bits v.toNat 63 48
def rasWin (v : Dword) : Nat := bits v.toNat 47 43
def rasRetired (v : Dword) : Nat := bits v.toNat 39 32
def rasUcnt (v : Dword) : Nat := bits v.toNat 31 16
def rasCcnt (v : Dword) : Nat := bits v.toNat 15 0
/-- The register with its three counts replaced. -/
def rasPut (v : Dword) (retired ucnt ccnt : Nat) : Dword :=
  BitVec.ofNat 64 (v.toNat / 2 ^ 40 * 2 ^ 40 + min 255 retired * 2 ^ 32 + min 65535 ucnt * 2 ^ 16 + min 65535 ccnt)
def State.setRas (s : State) (i : Nat) (v : Dword) : State := { s with ras := sput s.ras i v }
def State.countCorrected (s : State) (i : Nat) : State :=
  let v := s.rasAt i
  s.setRas i (rasPut v (rasRetired v) (rasUcnt v) (rasCcnt v + 1))
def State.countUncorrected (s : State) (i : Nat) : State :=
  let v := s.rasAt i
  s.setRas i (rasPut v (rasRetired v) (rasUcnt v + 1) (rasCcnt v))

/-! ## Performance counters (R355) -/

/-- Event `e` of troop `t` counted `n` times on its core; bit 8 of a configuration counts only the troop that set it,
but for event 1 (core cycles), which ignores it. -/
def State.perf (s : State) (k e t n : Nat) : State :=
  if (s.core k).perf.isEmpty then s
  else s.modCore k (fun c => { c with perf := c.perf.map (fun p =>
    let cfg := p.2.2.1.toNat
    if bits cfg 7 0 = e ∧ e ≠ 0 ∧ (!bitOf cfg 8 || e == 1 || p.2.2.2 == t)
    then (p.1, (p.2.1 + BitVec.ofNat 64 n, p.2.2)) else p) })

end Sys2Proof.Machine
end

