-- ==== Sys2Proof/Machine/Fp.lean ====
section
/-! DEFINITION. Fp.lean: the floating-point formats and their exact arithmetic, rounded once (spec/03_numbers.md
R46-R52, R125, R126). A finite value is its sign, an integer and a power of two. -/

namespace Sys2Proof.Machine

/-- What a code means (R46): a NaN keeps its own bits. -/
inductive FVal where
  | nan (w : Nat)
  | inf (neg : Bool)
  | fin (neg : Bool) (m : Nat) (e : Int)
  deriving DecidableEq, Repr

/-- A format with infinities (R46 Table 1): exponent and mantissa widths, bias. -/
structure Fmt where
  ew : Nat
  mw : Nat
  bias : Nat
  deriving DecidableEq, Repr

def fp32 : Fmt := ⟨8, 23, 127⟩
def fpBf16 : Fmt := ⟨8, 7, 127⟩
def fpE5m2 : Fmt := ⟨5, 2, 15⟩
def fpE4m3 : Fmt := ⟨4, 3, 7⟩

/-- Exponent of one unit of the smallest subnormal. -/
def fmtEmin (f : Fmt) : Int := 1 - (f.bias : Int) - f.mw
def fmtInf (f : Fmt) (neg : Bool) : Nat := (if neg then 2 ^ (f.ew + f.mw) else 0) + (2 ^ f.ew - 1) * 2 ^ f.mw
def fmtMax (f : Fmt) (neg : Bool) : Nat := fmtInf f neg - 1

/-- The value of a code of a format with infinities (R46). -/
def fdecode (f : Fmt) (w : Nat) : FVal :=
  let m := w % 2 ^ f.mw
  let e := (w >>> f.mw) % 2 ^ f.ew
  let neg := w.testBit (f.ew + f.mw)
  if e = 2 ^ f.ew - 1 then (if m = 0 then .inf neg else .nan w)
  else if e = 0 then .fin neg m (fmtEmin f)
  else .fin neg (m + 2 ^ f.mw) (fmtEmin f + e - 1)

/-- E4M3 has no infinity, and its top exponent is ordinary but for M = 7 (R46). -/
def e4m3decode (w : Nat) : FVal :=
  let m := w % 8
  let e := (w / 8) % 16
  let neg := w.testBit 7
  if e = 15 ∧ m = 7 then .nan w
  else if e = 0 then .fin neg m (-9)
  else .fin neg (m + 8) (e - 10)

/-- FP32 value of a register. -/
def fval (w : Word) : FVal := fdecode fp32 w.toNat

/-! ## Rounding -/

/-- A quotient n / d rounded to an integer: `odd` parity of the floor, by mode (R47, R125). -/
def roundUp (rm : Rm) (neg : Bool) (q r d : Nat) : Bool :=
  match rm with
  | .rne => decide (2 * r > d) || (decide (2 * r = d) && q % 2 == 1)
  | .rz => false
  | .rd => neg && decide (r ≠ 0)
  | .ru => !neg && decide (r ≠ 0)

/-- n / d * 2^e, nonzero, on the grid of a format with no upper limit: mantissa and exponent (R49, unbounded). -/
def roundGrid (f : Fmt) (rm : Rm) (neg : Bool) (n d : Nat) (e : Int) : Nat × Int :=
  let l : Int := (n.log2 : Int) - d.log2
  let ge : Bool := if 0 ≤ l then decide (n ≥ d <<< l.toNat) else decide (n <<< (-l).toNat ≥ d)
  let top : Int := (if ge then l else l - 1) + e
  let t : Int := max (top - f.mw) (fmtEmin f)
  let k := e - t
  let n' := if 0 ≤ k then n <<< k.toNat else n
  let d' := if 0 ≤ k then d else d <<< (-k).toNat
  let q := n' / d'
  let q := if roundUp rm neg q (n' % d') d' then q + 1 else q
  if q = 2 ^ (f.mw + 1) then (2 ^ f.mw, t + 1) else (q, t)

/-- Overflow of a format with infinities by mode (R47, R125). -/
def overflowTo (f : Fmt) (rm : Rm) (neg : Bool) : Nat :=
  match rm with
  | .rne => fmtInf f neg
  | .rz => fmtMax f neg
  | .rd => if neg then fmtInf f neg else fmtMax f neg
  | .ru => if neg then fmtMax f neg else fmtInf f neg

/-- The code of a grid point (q, t). -/
def packGrid (f : Fmt) (rm : Rm) (neg : Bool) (q : Nat) (t : Int) : Nat :=
  let s := if neg then 2 ^ (f.ew + f.mw) else 0
  if q < 2 ^ f.mw then s + q
  else
    let ex := (t - fmtEmin f + 1).toNat
    if ex ≥ 2 ^ f.ew - 1 then overflowTo f rm neg else s + ex * 2 ^ f.mw + (q - 2 ^ f.mw)

/-- n / d * 2^e rounded once into a format; `n = 0` gives the zero of the sign. -/
def roundQ (f : Fmt) (rm : Rm) (neg : Bool) (n d : Nat) (e : Int) : Nat :=
  if n = 0 then (if neg then 2 ^ (f.ew + f.mw) else 0)
  else let g := roundGrid f rm neg n d e; packGrid f rm neg g.1 g.2

/-! ## NaNs (R50-R52) -/

/-- R51: the NaN an operation generates. -/
def nan32 (source cause : Nat) : Word := BitVec.ofNat 32 (0x7FC00000 + source * 8 + cause)
/-- R50: M[22] set, every other bit kept. -/
def quiet (w : Word) : Word := w ||| 0x00400000
def isNan (w : Word) : Bool := match fval w with | .nan _ => true | _ => false
def isSnan (w : Word) : Bool := isNan w && !w.getLsbD 22
/-- The first NaN of a list of operands, made quiet (R52). -/
def firstNan : List Word → Option Word
  | [] => none
  | w :: ws => if isNan w then some (quiet w) else firstNan ws

/-! ## Exact sums and products -/

/-- A signed integer times a power of two, with the sign a zero carries. -/
structure Exact where
  neg : Bool
  m : Nat
  e : Int
  deriving DecidableEq, Repr

def exactInt (x : Exact) (e : Int) : Int :=
  let v : Int := (x.m <<< (x.e - e).toNat : Nat)
  if x.neg then -v else v

/-- Sum of exact values; `neg` of a zero sum follows R47: two zeros of one sign keep it, any other exact zero is +0,
but -0 towards minus infinity. -/
def exactSum (rm : Rm) (xs : List Exact) : Exact :=
  let e := xs.foldl (fun a x => min a x.e) (match xs with | [] => 0 | x :: _ => x.e)
  let s := xs.foldl (fun a x => a + exactInt x e) (0 : Int)
  if s = 0 then
    let allZero := xs.all (fun x => x.m == 0)
    let n := if allZero && xs.all (·.neg) && !xs.isEmpty then true
      else if allZero && xs.all (fun x => !x.neg) then false else rm == .rd
    ⟨n, 0, e⟩
  else ⟨decide (s < 0), s.natAbs, e⟩

def exactMul (a b : Exact) : Exact := ⟨a.neg != b.neg, a.m * b.m, a.e + b.e⟩
def roundExact (f : Fmt) (rm : Rm) (x : Exact) : Nat := roundQ f rm x.neg x.m 1 x.e

/-- The product of two values that are no NaN: none for zero times infinity. -/
def valMul : FVal → FVal → Option FVal
  | .fin n1 m1 e1, .fin n2 m2 e2 => some (.fin (n1 != n2) (m1 * m2) (e1 + e2))
  | .inf n1, .inf n2 => some (.inf (n1 != n2))
  | .inf n1, .fin n2 m _ => if m = 0 then none else some (.inf (n1 != n2))
  | .fin n1 m _, .inf n2 => if m = 0 then none else some (.inf (n1 != n2))
  | .nan w, _ => some (.nan w)
  | _, .nan w => some (.nan w)

/-- What a sum of values that are no NaN comes to: an infinity, opposite infinities, or an exact value. -/
inductive SumVal where
  | inf (neg : Bool) | clash | exact (x : Exact)
  deriving DecidableEq, Repr

def valSum (rm : Rm) (vs : List FVal) : SumVal :=
  let pos := vs.any (fun v => v == .inf false)
  let neg := vs.any (fun v => v == .inf true)
  if pos && neg then .clash else if pos then .inf false else if neg then .inf true
  else .exact (exactSum rm (vs.filterMap (fun v => match v with | .fin n m e => some ⟨n, m, e⟩ | _ => none)))

/-- A sum rounded once into a format; the clash of infinities is cause 3 with the given source (R51). -/
def roundSum (f : Fmt) (rm : Rm) (clash : Nat) (vs : List FVal) : Nat :=
  match valSum rm vs with
  | .inf n => fmtInf f n
  | .clash => clash
  | .exact x => roundExact f rm x

/-! ## FP32 operations of strands (R117, R118, R125, R126) -/

def w32 (n : Nat) : Word := BitVec.ofNat 32 n
def negBits (w : Word) : Word := w ^^^ 0x80000000

/-- `fadd` and, with the second operand's sign inverted, `fsub`: a NaN operand is returned as it came. -/
def f32addSrc (rm : Rm) (a b : Word) (source : Nat) : Word :=
  match firstNan [a, b] with
  | some n => n
  | none => w32 (roundSum fp32 rm (nan32 source 3).toNat [fval a, fval b])
def f32add (rm : Rm) (a b : Word) : Word := f32addSrc rm a b 0
def f32sub (a b : Word) : Word :=
  match firstNan [a, b] with
  | some n => n
  | none => f32add .rne a (negBits b)
def f32mulSrc (rm : Rm) (a b : Word) (source : Nat) : Word :=
  match firstNan [a, b] with
  | some n => n
  | none => match valMul (fval a) (fval b) with
    | none => nan32 source 4
    | some v => w32 (roundSum fp32 rm 0 [v])
def f32mul (rm : Rm) (a b : Word) : Word := f32mulSrc rm a b 0
/-- a * b + c with one rounding; NaN order a, b, c. -/
def f32fma (rm : Rm) (a b c : Word) : Word :=
  match firstNan [a, b, c] with
  | some n => n
  | none => match valMul (fval a) (fval b) with
    | none => nan32 0 4
    | some v => w32 (roundSum fp32 rm (nan32 0 3).toNat [v, fval c])

/-- Order of two values that are no NaN; -0 equals +0. -/
def valLt : FVal → FVal → Bool
  | .inf n1, .inf n2 => n1 && !n2
  | .inf n, _ => n
  | _, .inf n => !n
  | .fin n1 m1 e1, .fin n2 m2 e2 => let e := min e1 e2; decide (exactInt ⟨n1, m1, e1⟩ e < exactInt ⟨n2, m2, e2⟩ e)
  | _, _ => false
def valNeg : FVal → Bool
  | .nan w => w.testBit 31
  | .inf n => n
  | .fin n _ _ => n
/-- As `valLt`, with -0 below +0 (R118, `fmin` and `fmax`). -/
def valLtZ (a b : FVal) : Bool := valLt a b || (!valLt b a && valNeg a && !valNeg b)
def f32min (a b : Word) : Word :=
  match firstNan [a, b] with
  | some n => n
  | none => if valLtZ (fval b) (fval a) then b else a
def f32max (a b : Word) : Word :=
  match firstNan [a, b] with
  | some n => n
  | none => if valLtZ (fval a) (fval b) then b else a

/-- R71 Table 5, float column. -/
def fcmpRel (cc : FCond) (a b : Word) : Bool :=
  let uno := isNan a || isNan b
  let lt := !uno && valLt (fval a) (fval b)
  let gt := !uno && valLt (fval b) (fval a)
  let eq := !uno && !lt && !gt
  match cc with
  | .eq => eq | .ne => lt || gt | .lt => lt | .le => lt || eq | .gt => gt | .ge => gt || eq
  | .ord => !uno | .uno => uno | .ueq => uno || eq | .une => uno || lt || gt
  | .ult => uno || lt | .ule => uno || lt || eq | .ugt => uno || gt | .uge => uno || gt || eq

/-- R120: the class bit. -/
def f32class (a : Word) : Word :=
  match fval a with
  | .nan _ => if isSnan a then 0x100 else 0x200
  | .inf n => if n then 0x1 else 0x80
  | .fin n m _ =>
    if m = 0 then (if n then 0x8 else 0x10)
    else if m < 2 ^ 23 then (if n then 0x4 else 0x20)
    else (if n then 0x2 else 0x40)

/-- Integer square root by 200 binary digits, high to low. -/
def isqrtGo (n : Nat) : Nat → Nat → Nat
  | 0, r => r
  | k + 1, r => let t := r + 2 ^ k; isqrtGo n k (if t * t ≤ n then t else r)
def isqrt (n : Nat) : Nat := isqrtGo n (n.log2 / 2 + 1) 0

/-- Square root of m * 2^e, m nonzero, with a sticky bit: r and the exponent of r. -/
def sqrtSticky (m : Nat) (e : Int) : Nat × Int :=
  let k : Int := if (e - 80) % 2 = 0 then 80 else 81
  let n := m <<< k.toNat
  let r := isqrt n
  (2 * r + (if r * r = n then 0 else 1), (e - k) / 2 - 1)

def f32sqrt (a : Word) : Word :=
  match fval a with
  | .nan _ => quiet a
  | .inf n => if n then nan32 0 0 else a
  | .fin n m e =>
    if m = 0 then a else if n then nan32 0 0
    else let s := sqrtSticky m e; w32 (roundQ fp32 .rne false s.1 1 s.2)

def f32div (rm : Rm) (a b : Word) : Word :=
  match firstNan [a, b] with
  | some n => n
  | none => match fval a, fval b with
    | .inf _, .inf _ => nan32 0 0
    | .inf n1, v => w32 (fmtInf fp32 (n1 != valNeg v))
    | v, .inf n2 => w32 (roundQ fp32 rm (valNeg v != n2) 0 1 0)
    | .fin n1 m1 e1, .fin n2 m2 e2 =>
      if m2 = 0 then (if m1 = 0 then nan32 0 0 else w32 (fmtInf fp32 (n1 != n2)))
      else w32 (roundQ fp32 rm (n1 != n2) m1 m2 (e1 - e2))
    | _, _ => nan32 0 0

/-- An exact value rounded to an integer by mode: magnitude. -/
def roundInt (rm : Rm) (neg : Bool) (m : Nat) (e : Int) : Nat :=
  if 0 ≤ e then m <<< e.toNat
  else
    let d := 2 ^ (-e).toNat
    let q := m / d
    if roundUp rm neg q (m % d) d then q + 1 else q

/-- R126 `frnd`. -/
def f32rnd (rm : Rm) (a : Word) : Word :=
  match fval a with
  | .nan _ => quiet a
  | .inf _ => a
  | .fin n m e => w32 (roundQ fp32 .rne n (roundInt rm n m e) 1 0)

/-- R126 `fldexp`; an exponent beyond 1,000 in magnitude rounds as 1,000 does. -/
def f32ldexp (rm : Rm) (a : Word) (k : Int) : Word :=
  match fval a with
  | .nan _ => quiet a
  | .inf _ => a
  | .fin n m e => w32 (roundQ fp32 rm n m 1 (e + max (-1000) (min 1000 k)))

/-- R126 `ffrexp`: significand and exponent. -/
def f32frexp (a : Word) : Word × Word :=
  match fval a with
  | .nan _ => (quiet a, 0)
  | .inf _ => (a, 0)
  | .fin n m e =>
    if m = 0 then (a, 0)
    else
      let l : Int := (m.log2 : Int) + 1
      (w32 (roundQ fp32 .rne n m 1 (-l)), BitVec.ofInt 32 (e + l))

/-! ## Conversions (R49, R50, R122, R125) -/

/-- FP32 to BF16 under a mode; NaN by R50. -/
def toBf16 (rm : Rm) (a : Word) : Nat :=
  match fval a with
  | .nan w => (if w.testBit 31 then 0x8000 else 0) + 0x7FC0 + w % 32
  | .inf n => fmtInf fpBf16 n
  | .fin n m e => roundQ fpBf16 rm n m 1 e
/-- BF16 to FP32 (R50). -/
def ofBf16 (h : Nat) : Word :=
  match fdecode fpBf16 (h % 65536) with
  | .nan w => w32 ((if w.testBit 15 then 0x80000000 else 0) + 0x7FC00000 + w % 32)
  | _ => w32 ((h % 65536) * 65536)
/-- FP32 to E4M3: saturates at 448 in every mode; infinities and NaN become the NaN of the sign. -/
def toE4m3 (rm : Rm) (a : Word) : Nat :=
  match fval a with
  | .nan w => if w.testBit 31 then 0xFF else 0x7F
  | .inf n => if n then 0xFF else 0x7F
  | .fin n m e =>
    let s := if n then 0x80 else 0
    if m = 0 then s
    else
      let g := roundGrid fpE4m3 rm n m 1 e
      if g.1 < 8 then s + g.1
      else
        let ex := (g.2 + 10).toNat
        if ex > 15 ∨ (ex = 15 ∧ g.1 = 15) then s + 0x7E else s + ex * 8 + (g.1 - 8)
/-- FP32 to E5M2: overflow by mode, or saturating at 57,344. -/
def toE5m2 (rm : Rm) (sat : Bool) (a : Word) : Nat :=
  match fval a with
  | .nan w => (if w.testBit 31 then 0x80 else 0) + 0x7E
  | .inf n => fmtInf fpE5m2 n
  | .fin n m e =>
    if m = 0 then (if n then 0x80 else 0)
    else
      let g := roundGrid fpE5m2 rm n m 1 e
      if sat ∧ packGrid fpE5m2 .rne n g.1 g.2 % 128 ≥ 0x7C then (if n then 0x80 else 0) + 0x7B
      else packGrid fpE5m2 rm n g.1 g.2
/-- An exact value as FP32 bits. -/
def f32OfVal (source : Nat) : FVal → Word
  | .nan _ => nan32 source 1
  | .inf n => w32 (fmtInf fp32 n)
  | .fin n m e => w32 (roundQ fp32 .rne n m 1 e)
def ofE4m3 (source w : Nat) : Word := f32OfVal source (e4m3decode (w % 256))
def ofE5m2 (source w : Nat) : Word := f32OfVal source (fdecode fpE5m2 (w % 256))
def ofE8m0 (source w : Nat) : Word :=
  if w % 256 = 255 then nan32 source 2 else w32 (roundQ fp32 .rne false 1 1 ((w % 256 : Int) - 127))
/-- FP32 to a 32-bit integer within [lo, hi], saturating; NaN gives 0. -/
def toInt32 (rm : Rm) (lo hi : Int) (a : Word) : Word :=
  match fval a with
  | .nan _ => 0
  | .inf n => BitVec.ofInt 32 (if n then lo else hi)
  | .fin n m e =>
    let e' := min e 40
    let q : Int := roundInt rm n m e'
    BitVec.ofInt 32 (max lo (min hi (if n then -q else q)))
def ofInt (rm : Rm) (v : Int) : Word := w32 (roundQ fp32 rm (decide (v < 0)) v.natAbs 1 0)

/-- R122 Table 3 and R125. -/
def fconvert (cv : Cvt) (rm : Rm) (a : Word) : Word :=
  match cv with
  | .f32bf16 => w32 (toBf16 rm a)
  | .bf16f32 => ofBf16 a.toNat
  | .f32e4m3 => w32 (toE4m3 rm a)
  | .f32e5m2 => w32 (toE5m2 rm false a)
  | .f32e5m2s => w32 (toE5m2 rm true a)
  | .e4m3f32 => ofE4m3 0 a.toNat
  | .e5m2f32 => ofE5m2 0 a.toNat
  | .f32i32 => toInt32 rm (-2147483648) 2147483647 a
  | .f32u32 => toInt32 rm 0 4294967295 a
  | .i32f32 => ofInt rm a.toInt
  | .u32f32 => ofInt rm a.toNat
  | .e8m0f32 => ofE8m0 0 a.toNat
  | .f32i32z => toInt32 .rz (-2147483648) 2147483647 a
  | .f32u32z => toInt32 .rz 0 4294967295 a

/-! ## Packed BF16 (R123, R126 `fdot2`) -/

def bfIsNan (h : Nat) : Bool := match fdecode fpBf16 h with | .nan _ => true | _ => false
def bfFirstNan : List Nat → Option Nat
  | [] => none
  | h :: hs => if bfIsNan h then some (h ||| 0x40) else bfFirstNan hs
def bfAdd (rm : Rm) (a b : Nat) : Nat :=
  match bfFirstNan [a, b] with
  | some n => n
  | none => roundSum fpBf16 rm 0x7FC3 [fdecode fpBf16 a, fdecode fpBf16 b]
def bfMul (rm : Rm) (a b : Nat) : Nat :=
  match bfFirstNan [a, b] with
  | some n => n
  | none => match valMul (fdecode fpBf16 a) (fdecode fpBf16 b) with
    | none => 0x7FC4
    | some v => roundSum fpBf16 rm 0 [v]
def bfFma (rm : Rm) (a b c : Nat) : Nat :=
  match bfFirstNan [a, b, c] with
  | some n => n
  | none => match valMul (fdecode fpBf16 a) (fdecode fpBf16 b) with
    | none => 0x7FC4
    | some v => roundSum fpBf16 rm 0x7FC3 [v, fdecode fpBf16 c]
def bfMax (a b : Nat) : Nat :=
  match bfFirstNan [a, b] with
  | some n => n
  | none => if valLtZ (fdecode fpBf16 a) (fdecode fpBf16 b) then b else a

def loH (w : Word) : Nat := w.toNat % 65536
def hiH (w : Word) : Nat := w.toNat / 65536
def packH (hi lo : Nat) : Word := w32 (hi * 65536 + lo)
def map2 (f : Nat → Nat → Nat) (a b : Word) : Word := packH (f (hiH a) (hiH b)) (f (loH a) (loH b))
def map3 (f : Nat → Nat → Nat → Nat) (a b c : Word) : Word := packH (f (hiH a) (hiH b) (hiH c)) (f (loH a) (loH b) (loH c))

/-- R126 `fdot2`: products and sum exact, one rounding. -/
def f32dot2 (rm : Rm) (a b c : Word) : Word :=
  let al := loH a; let ah := hiH a; let bl := loH b; let bh := hiH b
  match [al, ah, bl, bh].find? bfIsNan with
  | some h => ofBf16 h
  | none => if isNan c then quiet c else
    match valMul (fdecode fpBf16 al) (fdecode fpBf16 bl), valMul (fdecode fpBf16 ah) (fdecode fpBf16 bh) with
    | some x, some y => w32 (roundSum fp32 rm (nan32 0 3).toNat [fval c, x, y])
    | _, _ => nan32 0 4

end Sys2Proof.Machine
end

