-- ==== Sys2Proof/Machine/Reef.lean ====
section
/-! DEFINITION. Reef.lean: reef-form images (spec/03_numbers.md R48, R53-R63). An image is held as the number its
bytes make, lowest first. -/

namespace Sys2Proof.Machine

/-- What fixes an image (R53): body width, block edge, rows, columns, C, S and the scale mode. -/
structure Geo where
  w : Nat
  e : Nat
  rows : Nat
  cols : Nat
  cap : Nat
  spill : Nat
  smode : Nat
  deriving DecidableEq, Repr

def pad32 (n : Nat) : Nat := (n + 31) / 32 * 32
def geoQmax (g : Geo) : Nat := 2 ^ (g.w - 1) - 1
/-- Blocks in a row of blocks; blocks; sub-blocks of a block (R53). -/
def geoBc (g : Geo) : Nat := g.cols / g.e
def geoNb (g : Geo) : Nat := (g.rows / g.e) * (g.cols / g.e)
def geoNs (g : Geo) : Nat := (g.e / 8) * (g.e / 8)
/-- Section offsets of R55 Table 7. -/
def oScale : Nat := 32
def oZmap (g : Geo) : Nat := oScale + pad32 (geoNb g)
def oCount (g : Geo) : Nat := oZmap g + pad32 ((geoNb g * geoNs g + 7) / 8)
def oBody (g : Geo) : Nat := oCount g + pad32 (geoNb g)
def bodyBytes (g : Geo) : Nat := g.e * g.e * g.w / 8
def oReef (g : Geo) : Nat := oBody g + geoNb g * bodyBytes g
/-- The footprint F (R55). -/
def footprint (g : Geo) : Nat := oReef g + pad32 (4 * g.cap * geoNb g)

/-- Rows, columns and capacity within R53. -/
def geoOk (g : Geo) : Bool :=
  (g.e == 16 || g.e == 32) && g.rows % g.e == 0 && g.cols % g.e == 0 && decide (g.e ≤ g.rows) && decide (g.rows ≤ 16384)
    && decide (g.e ≤ g.cols) && decide (g.cols ≤ 16384) && decide (g.cap ≤ if g.e = 16 then 16 else 63)

/-- R54 Table 6. -/
def headerNat (g : Geo) : Nat :=
  (if g.w = 3 then 3 else 4) + (if g.e = 32 then 2 ^ 11 else 0) + g.smode * 2 ^ 12 + g.cap * 2 ^ 14 + g.spill * 2 ^ 20
    + g.rows * 2 ^ 32 + g.cols * 2 ^ 48
/-- The geometry a header gives, or none where R54 finds it bad (reason 2). -/
def headerGeo (h : Nat) : Option Geo :=
  let f := bits h 7 0
  let g : Geo := { w := f, e := if bitOf h 11 then 32 else 16, rows := bits h 47 32, cols := bits h 63 48,
                   cap := bits h 19 14, spill := bits h 21 20, smode := bits h 13 12 }
  if (f = 3 ∨ f = 4) ∧ bits h 10 8 = 0 ∧ bits h 31 22 = 0 ∧ bits h 255 64 = 0 ∧ g.smode < 2 ∧ geoOk g then some g else none

/-! ## Reading an image -/

def imgByte (img i : Nat) : Nat := (img >>> (8 * i)) % 256
def imgScale (img b : Nat) : Nat := imgByte img (oScale + b)
def imgZbit (g : Geo) (img b q : Nat) : Bool := img.testBit (8 * oZmap g + b * geoNs g + q)
def imgCount (g : Geo) (img b : Nat) : Nat := imgByte img (oCount g + b)
def imgEntry (g : Geo) (img b q : Nat) : Nat := (img >>> (8 * (oReef g + 4 * g.cap * b + 4 * q))) % 2 ^ 32
def entryVal (en : Nat) : Nat := bits en 15 0
def entryRow (en : Nat) : Nat := bits en 20 16
def entryCol (en : Nat) : Nat := bits en 25 21
/-- Sub-block of element (i, j) of a block. -/
def subOf (g : Geo) (i j : Nat) : Nat := (i / 8) * (g.e / 8) + j / 8
/-- The stored code, as its integer (R48). -/
def imgCode (g : Geo) (img b i j : Nat) : Int :=
  sextInt g.w ((img >>> (8 * (oBody g + b * bodyBytes g) + g.w * (g.e * i + j))) % 2 ^ g.w)
/-- The code as every reader takes it (R57). -/
def imgCodeZ (g : Geo) (img b i j : Nat) : Int := if imgZbit g img b (subOf g i j) then 0 else imgCode g img b i j
/-- The entries in use of a block. -/
def imgEntries (g : Geo) (img b : Nat) : List Nat := (List.range (imgCount g img b)).map (imgEntry g img b)

/-- R56: reason 3 a count above C, reason 4 a bad entry in use; the lowest that occurs, or 0. -/
def imgFault (g : Geo) (img : Nat) : Nat :=
  let bs := List.range (geoNb g)
  if bs.any (fun b => decide (g.cap < imgCount g img b)) then 3
  else if bs.any (fun b => (imgEntries g img b).any (fun en => decide (bits en 31 26 ≠ 0 ∨ g.e ≤ entryRow en ∨ g.e ≤ entryCol en)))
  then 4 else 0

/-- c * 2^k rounded to FP32; a zero is +0. -/
def scaled32 (c : Int) (k : Int) : Word := w32 (roundQ fp32 .rne (decide (c < 0)) c.natAbs 1 k)
/-- The body value of element (i, j) of block b (R58 before the entries). -/
def imgBody (g : Geo) (img src b i j : Nat) : Word :=
  let sc := imgScale img b
  if sc = 255 then nan32 src 2 else scaled32 (imgCodeZ g img b i j) ((sc : Int) - 127)
/-- R58: one entry folded into the value. -/
def foldEntry (src : Nat) (v r : Word) : Word :=
  if isNan v then v else if isNan r then quiet r else f32addSrc .rne v r src
/-- The decoded value of element (i, j) of block b (R58). -/
def imgElemB (g : Geo) (img src b i j : Nat) : Word :=
  ((imgEntries g img b).filter (fun en => entryRow en == i && entryCol en == j)).foldl
    (fun v en => foldEntry src v (ofBf16 (entryVal en))) (imgBody g img src b i j)
/-- Block of global element (r, c). -/
def blockOf (g : Geo) (r c : Nat) : Nat := (r / g.e) * geoBc g + c / g.e
def imgElem (g : Geo) (img src r c : Nat) : Word := imgElemB g img src (blockOf g r c) (r % g.e) (c % g.e)

/-! ## Encoding (R60-R62) -/

/-- A block encoded: scale, codes row-major, entries, and the zero map. -/
structure Blk where
  scale : Nat
  codes : List Int
  entries : List Nat
  zmap : List Bool
  deriving DecidableEq, Repr

def nonFinite (w : Word) : Bool := match fval w with | .fin _ _ _ => false | _ => true
/-- Magnitudes of FP32 numbers order as their bits without the sign. -/
def magBits (w : Word) : Nat := w.toNat % 2 ^ 31
/-- 2^k * q ≥ m * 2^e. -/
def scaleCovers (q m : Nat) (e k : Int) : Bool :=
  let d := k - e
  if 0 ≤ d then decide (m ≤ q <<< d.toNat) else decide (m <<< (-d).toNat ≤ q)
/-- R60, derived mode. -/
def derivedScale (g : Geo) (xs : List Word) : Nat :=
  let n := (xs.filter nonFinite).length
  if g.cap < n then 255
  else
    let fin := sortBy (fun v => 2 ^ 32 - v) ((xs.filter (fun x => !nonFinite x && magBits x != 0)).map magBits)
    match fin.getLast? with
    | none => 0
    | some least =>
      match fval (w32 (fin.getD (g.cap + g.spill - n) least)) with
      | .fin _ m e =>
        let k0 : Int := (m.log2 : Int) + e - 4
        let j : Nat := ((List.range 8).find? (fun (i : Nat) => scaleCovers (geoQmax g) m e (k0 + (i : Int)))).getD 8
        let k : Int := k0 + j
        (max k (-127) + 127).toNat
      | _ => 0

/-- |x| / 2^(sc-127) ≥ qmax + 1/2 for a finite x. -/
def beyond (g : Geo) (sc : Nat) (x : Word) : Bool :=
  match fval x with
  | .fin _ m e =>
    let d : Int := (sc : Int) - 127 - e
    let t := 2 * geoQmax g + 1
    if 0 ≤ d then decide (t <<< d.toNat ≤ 2 * m) else decide (t ≤ (2 * m) <<< (-d).toNat)
  | _ => true
/-- rne(x / 2^(sc-127)). -/
def codeOf (sc : Nat) (x : Word) : Int :=
  match fval x with
  | .fin n m e => let q : Int := roundInt .rne n m (e - ((sc : Int) - 127)); if n then -q else q
  | _ => 0

def setAt {α : Type} : List α → Nat → α → List α
  | [], _, _ => []
  | _ :: t, 0, v => v :: t
  | x :: t, n + 1, v => x :: setAt t n v

/-- R61: one block under its scale code, or the number of candidates on overflow. -/
def encodeBlock (g : Geo) (sc : Nat) (xs : List Word) : Except Nat Blk :=
  let n := g.e * g.e
  if sc = 255 then .ok ⟨255, List.replicate n 0, [], List.replicate (geoNs g) false⟩
  else
    let ix := xs.zipIdx
    let cand := sortBy (fun p => if nonFinite p.1 then 0 else 2 ^ 32 - magBits p.1) (ix.filter (fun p => beyond g sc p.1))
    let k := cand.length
    if g.cap + g.spill < k ∨ (cand.drop g.cap).any (fun p => nonFinite p.1) then .error k
    else
      let base := xs.map (fun x => if beyond g sc x then 0 else codeOf sc x)
      let codes := (cand.drop g.cap).foldl
        (fun cs p => setAt cs p.2 (if p.1.getLsbD 31 then -(geoQmax g : Int) else geoQmax g)) base
      let entries := (cand.take g.cap).map (fun p => toBf16 .rne p.1 + (p.2 / g.e) * 2 ^ 16 + (p.2 % g.e) * 2 ^ 21)
      let cx := codes.zipIdx
      let zmap := (List.range (geoNs g)).map (fun q => cx.all (fun p => p.1 == 0 || subOf g (p.2 / g.e) (p.2 % g.e) != q))
      .ok ⟨sc, codes, entries, zmap⟩

/-- The code stream of a block as a number. -/
def codesNat (w : Nat) : List Int → Nat
  | [] => 0
  | c :: cs => wrapNat w c + 2 ^ w * codesNat w cs
def padTo (n : Nat) (bs : List Byte) : List Byte := bs ++ List.replicate (n - bs.length) 0
def byteOf (n : Nat) : Byte := BitVec.ofNat 8 n

/-- The image of encoded blocks (R55). -/
def imageOf (g : Geo) (bl : List Blk) : List Byte :=
  leBytes 32 (headerNat g)
    ++ padTo (pad32 (geoNb g)) (bl.map (fun b => byteOf b.scale))
    ++ leBytes (pad32 ((geoNb g * geoNs g + 7) / 8)) (natOfBits (bl.flatMap (·.zmap)))
    ++ padTo (pad32 (geoNb g)) (bl.map (fun b => byteOf b.entries.length))
    ++ bl.flatMap (fun b => leBytes (bodyBytes g) (codesNat g.w b.codes))
    ++ padTo (pad32 (4 * g.cap * geoNb g)) (bl.flatMap (fun b => padTo (4 * g.cap) (b.entries.flatMap (leBytes 4))))

/-- The elements of block b, row-major, from a reader of global elements. -/
def blockElems (g : Geo) (elem : Nat → Nat → Word) (b : Nat) : List Word :=
  (List.range (g.e * g.e)).map (fun j => elem ((b / geoBc g) * g.e + j / g.e) ((b % geoBc g) * g.e + j % g.e))

/-- Encode a matrix (R60-R62): the image, or the lowest overflowing block with its candidate count. -/
def encodeImage (g : Geo) (supplied : List Nat) (elem : Nat → Nat → Word) : Except (Nat × Nat) (List Byte) :=
  let rec go : List Nat → Except (Nat × Nat) (List Blk)
    | [] => .ok []
    | b :: bs =>
      let xs := blockElems g elem b
      let sc := if g.smode = 0 then supplied.getD b 0 else derivedScale g xs
      match encodeBlock g sc xs with
      | .error k => .error (b, k)
      | .ok v => match go bs with
        | .error e => .error e
        | .ok vs => .ok (v :: vs)
  match go (List.range (geoNb g)) with
  | .error e => .error e
  | .ok bl => .ok (imageOf g bl)

/-- TVAL of REEF_OVERFLOW (R62). -/
def overflowTval (b k : Nat) : Word := w32 (b * 2 ^ 11 + k)

/-- An image taken apart, for the transforms that keep its codes. -/
def imgBlock (g : Geo) (img b : Nat) : Blk :=
  { scale := imgScale img b
    codes := (List.range (g.e * g.e)).map (fun j => imgCode g img b (j / g.e) (j % g.e))
    entries := imgEntries g img b
    zmap := (List.range (geoNs g)).map (imgZbit g img b) }

/-- R59: the transpose. -/
def transposeImage (g : Geo) (img : Nat) : List Byte :=
  let g' := { g with rows := g.cols, cols := g.rows }
  imageOf g' ((List.range (geoNb g)).map (fun b =>
    let src := (b % geoBc g') * geoBc g + b / geoBc g'
    let k := imgBlock g img src
    let h := g.e / 8
    { scale := k.scale
      codes := (List.range (g.e * g.e)).map (fun j => imgCode g img src (j % g.e) (j / g.e))
      entries := k.entries.map (fun en => entryVal en + entryCol en * 2 ^ 16 + entryRow en * 2 ^ 21)
      zmap := (List.range (geoNs g)).map (fun q => imgZbit g img src ((q % h) * h + q / h)) }))

/-- R263 `.zmap`: the same image, each zero-map bit saying whether its stored codes are all zero. -/
def remapImage (g : Geo) (img : Nat) : List Byte :=
  let zs := (List.range (geoNb g)).flatMap (fun b =>
    let cx := (imgBlock g img b).codes.zipIdx
    (List.range (geoNs g)).map (fun q => cx.all (fun p => p.1 == 0 || subOf g (p.2 / g.e) (p.2 % g.e) != q)))
  let lo := 8 * oZmap g
  let n := geoNb g * geoNs g
  let kept := img % 2 ^ lo + ((img >>> (lo + n)) <<< (lo + n))
  leBytes (footprint g) (kept + natOfBits zs * 2 ^ lo)

end Sys2Proof.Machine
end

