-- ==== Sys2Proof/Machine/TileGeom.lean ====
section
/-! DEFINITION. TileGeom.lean: tile descriptors and the scratchpad intervals of tile ops (spec/08_registers_tile.md
R168, R170, R176, R177, R180; spec/13_memory_model.md R283). -/

namespace Sys2Proof.Machine

/-! ## Descriptors (R168 Table 3) -/

def dsFormat (d : Dword) : Nat := bits d.toNat 7 0
def dsRows (d : Dword) : Nat := (bits d.toNat 19 16 + 1) * 16
def dsCols (d : Dword) : Nat := (bits d.toNat 23 20 + 1) * 16
def dsScOff (d : Dword) : Nat := bits d.toNat 63 48 * 32
def dsReef (d : Dword) : Bool := dsFormat d == 3 || dsFormat d == 4
/-- Bytes of a dense element. -/
def dsEbytes (d : Dword) : Nat := if dsFormat d = 0x10 then 2 else 1
/-- The geometry of a reef-form descriptor. -/
def dsGeo (d : Dword) : Geo :=
  { w := dsFormat d, e := if d.getLsbD 32 then 32 else 16, rows := dsRows d, cols := dsCols d,
    cap := bits d.toNat 39 34, spill := bits d.toNat 41 40, smode := bits d.toNat 33 33 }
/-- Footprint of the bytes a descriptor describes. -/
def dsFoot (d : Dword) : Nat :=
  if dsFormat d = 0 then 0 else if dsReef d then footprint (dsGeo d) else dsRows d * dsCols d * dsEbytes d
/-- R168: validity against a slot of `slot` bytes. -/
def dsValid (slot : Nat) (d : Dword) : Bool :=
  let f := dsFormat d
  if f = 0 then d == 0
  else
    (f == 3 || f == 4 || f == 0x10 || f == 0x11 || f == 0x12)
      && decide (bits d.toNat 19 16 ≤ 7) && decide (bits d.toNat 23 20 ≤ 7)
      && bits d.toNat 15 8 == 0 && bits d.toNat 31 24 == 0 && bits d.toNat 47 42 == 0
      && (if dsReef d then geoOk (dsGeo d) else bits d.toNat 63 48 == 0 && bits d.toNat 41 32 == 0)
      && decide (dsFoot d ≤ slot)
/-- Bytes of the supplied scales a reef-form descriptor reads: none in derived mode. -/
def dsScaleBytes (d : Dword) : Nat := if dsReef d ∧ (dsGeo d).smode = 0 then geoNb (dsGeo d) else 0

/-- Accumulator shape codes (R174): 16, 32, 48, 64. -/
def shapeM (c : BitVec 4) : Nat := (bits c.toNat 1 0 + 1) * 16
def shapeN (c : BitVec 4) : Nat := (bits c.toNat 3 2 + 1) * 16
def Troop.descOf (t : Troop) (n : Nat) : Dword := sget t.desc 0 n
def Troop.shapeOf (t : Troop) (n : Nat) : BitVec 4 := sget t.shapes 0 n

/-! ## What stands at an op's place in the queue (R170) -/

def sigWord (g : Sig) (i : Nat) : Nat := (g.vals.getD i 0).toNat
def sigPair (g : Sig) : Dword := g.vals.getD 1 0 ++ g.vals.getD 0 0
/-- R169: the leader, the contributing signer of lowest crew and lane. -/
def leaderOf (gs : List Sig) : Option Sig := leastBy (fun g => g.x) (gs.filter (·.contrib))
def opLeader (o : TileOp) : Sig := (leaderOf o.sigs).getD { x := 0, contrib := true }

/-- Descriptor of a tile after the `tdset`s of some ops. -/
def descAfter (ops : List TileOp) (v : Troop) (n : Nat) : Dword :=
  ops.foldl (fun d o => match o.sub with
    | .tdset _ dn _ => if dn.toNat = n then sigPair (opLeader o) else d
    | _ => d) (v.descOf n)
/-- Shape of an accumulator after the `azero`s of some ops. -/
def shapeAfter (ops : List TileOp) (v : Troop) (n : Nat) : BitVec 4 :=
  ops.foldl (fun c o => match o.sub with
    | .azero _ dn m k => if dn.toNat = n then k ++ m else c
    | _ => c) (v.shapeOf n)
/-- Tile ops of a troop that stand ahead of a new one, in order: its queued ops, and, unless the anchor of a held fault
inserts it (R172 step 4), the held ones. -/
def State.tileAhead (s : State) (t : Nat) (alone : Bool) : List TileOp :=
  ((s.core (coreOfTroop t)).tq.filter (fun o => o.troop == t)) ++ (if alone then [] else (s.troop t).theld)
def State.descAt (s : State) (t : Nat) (alone : Bool) (n : Nat) : Dword := descAfter (s.tileAhead t alone) (s.troop t) n
def State.shapeAt (s : State) (t : Nat) (alone : Bool) (n : Nat) : BitVec 4 := shapeAfter (s.tileAhead t alone) (s.troop t) n

/-- Bytes an `adrain` writes. -/
def drainBytes (fmt : DrainFmt) (shape : BitVec 4) (d : Dword) : Nat :=
  match fmt with
  | .f32 => shapeM shape * shapeN shape * 4
  | .bf16 => shapeM shape * shapeN shape * 2
  | .reef => dsFoot d

/-- An interval of bytes, [lo, hi); empty when lo = hi. -/
abbrev Ival := Nat × Nat
/-- The bounding interval of two. -/
def hull (a b : Ival) : Ival := if a.1 = a.2 then b else if b.1 = b.2 then a else (min a.1 b.1, max a.2 b.2)
/-- R283: whole 64-byte granules. -/
def granules (a : Ival) : Ival := if a.1 = a.2 then (0, 0) else (a.1 / 64, (a.2 + 63) / 64)
def ivalMeet (a b : Ival) : Bool := decide (a.1 < b.2) && decide (b.1 < a.2)

/-- Read and write intervals of a tile op in its troop's own scratchpad (R176, R177, R180); cluster operands count
nothing (R170). -/
def tileIvals (desc : Nat → Dword) (shape : Nat → BitVec 4) (g : Sig) (sub : Instr) : Ival × Ival :=
  let a := sigWord g 0
  match sub with
  | .tload _ cl d _ _ => (if cl then (0, 0) else (a, a + dsFoot (desc d.toNat)), (0, 0))
  | .tstore _ cl _ b _ => ((0, 0), if cl then (0, 0) else (a, a + dsFoot (desc b.toNat)))
  | .split _ _ cl d _ _ =>
    let ds := desc d.toNat
    (hull (if cl then (0, 0) else (a, a + 4 * dsRows ds * dsCols ds)) (dsScOff ds, dsScOff ds + dsScaleBytes ds), (0, 0))
  | .adrain _ fmt _ _ cl d _ b _ =>
    let ds := desc d.toNat
    let n := drainBytes fmt (shape b.toNat) ds
    (if fmt = .reef then (dsScOff ds, dsScOff ds + dsScaleBytes ds) else (0, 0), if cl then (0, 0) else (a, a + n))
  | _ => ((0, 0), (0, 0))

end Sys2Proof.Machine
end

