-- ==== Sys2Proof/Machine/Ring.lean ====
section
/-! DEFINITION. Ring.lean: the stage ring object and its updates (spec/14_queues.md R295-R297), and what a ring's data
area exempts from the range scoreboard (spec/13_memory_model.md R287). -/

namespace Sys2Proof.Machine

/-- R295 Table 3. -/
structure Ring where
  base : Nat
  ssz : Nat
  n : Nat
  wi : Nat
  ri : Nat
  fault : Bool
  bad : Bool
  fph : BitVec 64
  rph : BitVec 64
  deriving DecidableEq, Repr

def ringOf (v : Nat) : Ring :=
  { base := bits v 31 0, ssz := bits v 44 32, n := bits v 54 48, wi := bits v 70 64, ri := bits v 78 72,
    fault := bitOf v 96, bad := bitOf v 97, fph := BitVec.ofNat 64 (bits v 191 128), rph := BitVec.ofNat 64 (bits v 255 192) }
def ringNat (r : Ring) : Nat :=
  r.base + r.ssz * 2 ^ 32 + r.n * 2 ^ 48 + r.wi * 2 ^ 64 + r.ri * 2 ^ 72 + (if r.fault then 2 ^ 96 else 0)
    + (if r.bad then 2 ^ 97 else 0) + r.fph.toNat * 2 ^ 128 + r.rph.toNat * 2 ^ 192
def Ring.slotBytes (r : Ring) : Nat := r.ssz * 64
def Ring.bytes (r : Ring) : Nat := r.n * r.slotBytes
/-- Limits of `base` and of the geometry, against a partition of `size` bytes. -/
def ringBaseOk (size base bytes : Nat) : Bool := base % 64 == 0 && decide (base + bytes ≤ size)
def ringGeoOk (ssz n : Nat) : Bool := decide (1 ≤ ssz ∧ ssz ≤ 4096) && decide (1 ≤ n ∧ n ≤ 64)
/-- R296: reserved fields zero, limits held, counters below 2 * nslot. -/
def ringValid (size v : Nat) : Bool :=
  let r := ringOf v
  ringNat r == v && ringGeoOk r.ssz r.n && ringBaseOk size r.base r.bytes
    && decide (r.wi < 2 * r.n) && decide (r.ri < 2 * r.n)

/-! ## The updates of R296 -/

def Ring.lap (r : Ring) (j : Nat) : Bool := (j / r.n) % 2 == 1
def Ring.free (r : Ring) (j : Nat) : Bool :=
  r.fph.getLsbD (j % r.n) == r.lap j && r.rph.getLsbD (j % r.n) == r.fph.getLsbD (j % r.n)
def Ring.filled (r : Ring) (j : Nat) : Bool := r.fph.getLsbD (j % r.n) != r.lap j
def Ring.released (r : Ring) (s : Nat) : Bool := r.rph.getLsbD s == r.fph.getLsbD s
/-- wi - ri modulo 2 * nslot. -/
def Ring.held (r : Ring) : Nat := (r.wi + 2 * r.n - r.ri) % (2 * r.n)
/-- Claim of the slot `wi` names, which is free. -/
def Ring.claim (r : Ring) : Ring := { r with wi := (r.wi + 1) % (2 * r.n) }
/-- A slot some index of [ri, wi) claims and nothing has filled. -/
def Ring.claimed (r : Ring) (s : Nat) : Bool :=
  (List.range r.held).any (fun i => (r.ri + i) % r.n == s && r.fph.getLsbD s == r.lap ((r.ri + i) % (2 * r.n)))
def Ring.fill (r : Ring) (s : Nat) : Ring := { r with fph := r.fph ^^^ BitVec.twoPow 64 s }
/-- `ri` passes released slots in order. -/
def Ring.pass : Nat → Ring → Ring
  | 0, r => r
  | k + 1, r =>
    if r.ri ≠ r.wi ∧ r.filled r.ri ∧ r.released (r.ri % r.n) then Ring.pass k { r with ri := (r.ri + 1) % (2 * r.n) } else r
def Ring.release (r : Ring) (s : Nat) : Ring :=
  if r.released s then r
  else Ring.pass (2 * r.n) { r with rph := r.rph ^^^ BitVec.twoPow 64 s }

/-! ## Entries whose op fills a ring (R287) -/

def State.ringAt (s : State) (t off : Nat) : Nat := mnat (s.troop t).spm off 32
/-- A granule of a slot the ring shows filled and not yet released. -/
def ringHolds (size v : Nat) (g : Nat) : Bool :=
  let r := ringOf v
  ringValid size v && decide (r.base ≤ 64 * g) && decide (64 * g < r.base + r.bytes) &&
    !r.released ((64 * g - r.base) / r.slotBytes)
def entryRd (e : Score) : Ival := (e.rlo, e.rhi)
def entryWr (e : Score) : Ival := (e.wlo, e.whi)
/-- A granule interval meets the write interval of an entry, but for what R287 exempts. -/
def State.meetsWr (s : State) (iv : Ival) (e : Score) : Bool :=
  match e.ring with
  | none => ivalMeet iv (entryWr e)
  | some off =>
    ivalMeet iv (e.plo, e.phi) ||
      (ivalMeet iv (entryWr e) &&
        let v := s.ringAt e.troop off
        (span (max iv.1 e.wlo) (min iv.2 e.whi)).any (fun g => !ringHolds (s.spmSize e.troop) v g))
/-- R285 for two entries of a troop; ops that fill one ring are ordered by its slots (R287, R298; DEDUCED, log 25). -/
def State.conflict (s : State) (me e : Score) : Bool :=
  s.meetsWr (entryRd me) e || ivalMeet (entryWr me) (entryRd e) ||
    (if me.ring.isSome && me.ring == e.ring then ivalMeet (me.plo, me.phi) (e.plo, e.phi) else s.meetsWr (entryWr me) e)

end Sys2Proof.Machine
end

