-- ==== Sys2Proof/Machine/Phase.lean ====
section
/-! DEFINITION. Phase.lean: strands becoming Eligible, and hitch phases: who has signed, when a phase executes, and
what each collective gives its signers (spec/02_execution.md R25, R30-R33; spec/06_registers_vector.md R127-R141). -/

namespace Sys2Proof.Machine

/-! ## Eligible again (R25, R41) -/

/-- A strand enters the Eligible state, or stays in it, with a new stamp of its unit. -/
def State.toEligible (s : State) (x : Nat) : State :=
  let u := s.unitOfCrew (crewOf x)
  let n := (s.unit u).stampCtr
  (s.modStrand x (fun t => { t with life := .eligible, stamp := n, wait := .none })).modUnit u
    (fun v => { v with stampCtr := v.stampCtr + 1 })

/-- The order of stamps taken together: ascending slot, then physical lane (R25). -/
def State.stampKey (s : State) (x : Nat) : Nat := ((s.crew (crewOf x)).unit * 64 + (s.crew (crewOf x)).slot) * 32 + s.plane x
def State.wakeAll (s : State) (xs : List Nat) : State := (sortBy s.stampKey xs).foldl State.toEligible s

/-! ## The phase a hitch number names (R127) -/

def State.hitch (s : State) (t h : Nat) : Hitch := sget (s.troop t).hitches {} h
def State.modHitch (s : State) (t h : Nat) (f : Hitch → Hitch) : State :=
  s.modTroop t (fun v => { v with hitches := sput v.hitches h (f (sget v.hitches {} h)) })
/-- A phase is named by a crew and a hitch: `h0` is the crew's own, the others are the troop's. -/
def State.phase (s : State) (c h : Nat) : Phase := if h = 0 then (s.crew c).h0 else (s.hitch (troopOfCrew c) h).phase
def State.modPhase (s : State) (c h : Nat) (f : Phase → Phase) : State :=
  if h = 0 then s.modCrew c (fun v => { v with h0 := f v.h0 })
  else s.modHitch (troopOfCrew c) h (fun v => { v with phase := f v.phase })

def signedIn (p : Phase) (x : Nat) : Bool := p.sigs.any (fun g => g.x == x && !g.gone)
/-- R131, R32, R377: the participants have all signed, and no signer is saved. -/
def State.phaseReady (s : State) (c h : Nat) : Bool :=
  let p := s.phase c h
  !p.sigs.isEmpty && p.sigs.all (fun g => g.gone || (s.strand g.x).life != .saved) && (if h = 0 then (s.liveLanes c).all (signedIn p)
    else match (s.hitch (troopOfCrew c) h).decl with
      | .undeclared => false
      | .count n => decide (n ≤ p.sigs.length)
      | .mask m owner => (s.liveLanes owner).all (fun x => !m.getLsbD (laneOf x) || signedIn p x))

/-- The phase is over: parity flips, signatures go, a pending declaration applies (R129, R130). -/
def State.endPhase (s : State) (c h : Nat) : State :=
  let s := s.modPhase c h (fun p => { parity := !p.parity, kind := none, sigs := [] })
  if h = 0 then s
  else s.modHitch (troopOfCrew c) h (fun v => match v.pend with
    | some d => { v with decl := d, pend := none }
    | none => v)

/-! ## Results of the collectives that return data (R132-R141) -/

def sigVal (g : Sig) : Word := g.vals.getD 0 0
/-- R135. -/
def shflSrc (op : Nat) (w l x : Nat) : Option Nat :=
  let base := l - l % w
  match op with
  | 0 => some (base + x % w)
  | 1 => if x ≤ l % w then some (l - x) else none
  | 2 => if l % w + x < w then some (l + x) else none
  | _ => some (base + ((l % w) ^^^ (x % w)))

/-- R137: the operation and its identity. -/
def redApply (op : Nat) (a b : Word) : Word :=
  match op with
  | 0 => f32add .rne a b | 1 => f32min a b | 2 => f32max a b | 3 => a + b | 4 => a * b
  | 5 => if b.slt a then b else a | 6 => if a.slt b then b else a
  | 7 => if b.ult a then b else a | 8 => if a.ult b then b else a
  | 9 => a &&& b | 10 => a ||| b | _ => a ^^^ b
def redIdentity (op : Nat) : Word :=
  match op with
  | 0 => 0x80000000 | 1 => 0x7F800000 | 2 => 0xFF800000 | 3 => 0 | 4 => 1 | 5 => 0x7FFFFFFF | 6 => 0x80000000
  | 7 => 0xFFFFFFFF | 8 => 0 | 9 => 0xFFFFFFFF | 10 => 0 | _ => 0
def redFold (op : Nat) (vs : List Word) : Word := vs.foldl (redApply op) (redIdentity op)

/-- What a contributing signer receives: words for its destination registers, and a predicate. -/
def collResult (k : OpKind) (sigs : List Sig) (me : Sig) : List Word × Option Bool :=
  let l := laneOf me.x
  let grp := sortBy (fun g => laneOf g.x) (sigs.filter (fun g =>
    g.contrib && crewOf g.x == crewOf me.x && laneOf g.x / k.width == l / k.width))
  let trues := grp.filter (fun g => g.preds.getD 0 false)
  match k.coll with
  | 0 =>
    let src := (shflSrc k.fn k.width l (me.vals.getD 1 0).toNat).bind (fun j => grp.find? (fun g => laneOf g.x == j))
    match src with
    | some g => ([sigVal g], some true)
    | none => ([sigVal me], some false)
  | 1 =>
    let v : Word := match k.fn with
      | 0 => if trues.length = grp.length then 1 else 0
      | 1 => if trues.isEmpty then 0 else 1
      | 2 => if trues.isEmpty || trues.length == grp.length then 1 else 0
      | 3 => w32 (trues.foldl (fun a g => a + 2 ^ laneOf g.x) 0)
      | _ => w32 trues.length
    ([v], some (v != 0))
  | 2 => ([redFold k.fn (grp.map sigVal)], none)
  | 3 =>
    let below := grp.filter (fun g => if k.fn % 2 = 1 then decide (laneOf g.x < l) else decide (laneOf g.x ≤ l))
    ([redFold (k.fn / 2) (below.map sigVal)], none)
  | 4 =>
    let peers := grp.filter (fun g => g.vals == me.vals)
    let lead := match peers with | g :: _ => laneOf g.x == l | [] => true
    ([w32 (peers.foldl (fun a g => a + 2 ^ laneOf g.x) 0)],
     some (if k.fn / 2 = 1 then peers.length == grp.length else lead))
  | 8 =>
    let all := sortBy (·.key) (sigs.filter (·.contrib))
    ([w32 (all.findIdx (fun g => g.x == me.x) + 65536 * all.length)], none)
  | _ => ([], none)

/-- R140: the value of the contributing signer of lowest lane, in the register it names: N is no part of the kind of operation,
and which register signers that name different ones set is a DESIGN CHOICE (log 23). -/
def State.runKset (s : State) (sigs : List Sig) : State :=
  match leastBy (fun g => laneOf g.x) (sigs.filter (·.contrib)) with
  | some g => s.modCrew (crewOf g.x) (fun v => { v with k := sset v.k 0 (g.dsts.getD 0 0) (sigVal g) })
  | none => s

def State.giveResult (s : State) (x : Nat) (dsts : List Nat) (pdst : Nat) (r : List Word × Option Bool) : State :=
  let s := (dsts.zip r.1).foldl (fun s p => s.wrX x p.1 p.2) s
  match r.2 with
  | some b => s.modStrand x (fun t => t.wrP pdst b)
  | none => s

/-- A result-returning phase executes (R30): results, and the Signed signers become Eligible. -/
def State.runResult (s : State) (c h : Nat) : State :=
  let p := s.phase c h
  let k := p.kind.getD { coll := 6 }
  let s1 := if k.coll = 7 then s.runKset p.sigs
    else (p.sigs.filter (·.contrib)).foldl (fun s g => s.giveResult g.x g.dsts g.pdst (collResult k p.sigs g)) s
  let woken := (p.sigs.filter (fun g => g.contrib && !g.gone && (s.strand g.x).life == .signed)).map (·.x)
  (s1.wakeAll woken).endPhase c h

/-! ## The range scoreboard (R283-R286, R323, R324) -/

/-- Issue sequence `seq` lies fewer than 256 steps after the troop's oldest outstanding entry. -/
def State.scoreOpen (s : State) (t seq : Nat) : Bool :=
  match leastBy (·.opid) ((s.core (coreOfTroop t)).score.filter (fun e => e.troop == t)) with
  | some e => decide (seq < e.opid + 256)
  | none => true
/-- What waits for an entry: a strand, or a complete phase `h` of crew `c` (R169), whose number lies above the strands'. -/
def phaseWaiter (c h : Nat) : Nat := 2 ^ 27 + 32 * (if h = 0 then c else c / 64 * 64) + h
def waiterTroop (x : Nat) : Nat := troopOf (x % 2 ^ 26)
/-- A waiter that could take an entry: its strand is parked, or woken and about to try again, its crew issues, and its troop's
sequence is not the obstacle. -/
def State.scoreWaits (s : State) (x : Nat) : Bool :=
  (decide (2 ^ 27 ≤ x) || ((s.strand x).life == .parked || (s.strand x).life == .eligible) && !(s.crew (crewOf x)).saving) && !(s.troop (waiterTroop x)).saving
    && (s.troop (waiterTroop x)).res == .resident && s.scoreOpen (waiterTroop x) (s.troop (waiterTroop x)).opseq
/-- Room for one more entry of a troop whose op has sequence `seq`; older waiting commands go first. -/
def State.scoreRoom (s : State) (t seq : Nat) (x : Nat) : Bool :=
  let k := s.core (coreOfTroop t)
  decide (k.score.length + (k.scoreWait.takeWhile (· != x)).countP s.scoreWaits < 48) && s.scoreOpen t seq

/-- A command that cannot take an entry keeps the place of its first attempt (R324). -/
def State.scoreQueue (s : State) (x : Nat) : State :=
  let k := s.core (coreOf x)
  if k.scoreWait.contains x then s
  else (s.setCore (coreOf x) { k with scoreWait := k.scoreWait ++ [x] }).perf (coreOf x) 7 (waiterTroop x) 1
def State.scoreUnqueue (s : State) (x : Nat) : State :=
  if (s.core (coreOf x)).scoreWait.contains x then
    s.modCore (coreOf x) (fun k => { k with scoreWait := k.scoreWait.filter (· != x) })
  else s

/-- The entry of an op over its intervals. -/
def scoreEntry (t eng opid : Nat) (rd wr : Ival) : Score :=
  let r := granules rd; let w := granules wr
  { troop := t, eng := eng, opid := opid, wlo := w.1, whi := w.2, rlo := r.1, rhi := r.2 }
/-- Accesses of a troop's strands to its own scratchpad that have not reached their bank (R286): request numbers. -/
def State.bankStores (s : State) (t : Nat) : List Nat :=
  ((s.crews.filter (fun c => c.1 / 64 == t)).flatMap (fun c => (c.2.sq.filter (fun e => e.tgt == .spm t)).map (·.id)))
    ++ (((s.core (coreOfTroop t)).reqs.filter (fun r => r.tgt == .spm t && troopOf (realX r.strand) == t)).map (·.id))
/-- An entry is made, with the stores that were issued before it (R286). -/
def State.scoreAdd (s : State) (e : Score) : State :=
  let ids := s.bankStores e.troop
  s.modCore (coreOfTroop e.troop) (fun k => { k with score := k.score ++ [{ e with before := ids }] })
def State.scoreDel (s : State) (t opid : Nat) : State :=
  s.modCore (coreOfTroop t) (fun k => { k with score := k.score.filter (fun e => !(e.troop == t && e.opid == opid)) })
/-- R285: an older entry of the troop that the op conflicts with. -/
def State.scoreBlocked (s : State) (t opid : Nat) : Bool :=
  let es := (s.core (coreOfTroop t)).score.filter (fun e => e.troop == t)
  match es.find? (fun e => e.opid == opid) with
  | none => false
  | some me => es.any (fun e => decide (e.opid < opid) && s.conflict me e)

/-! ## Engine collectives enter the tile queue (R169, R170, R172) -/

/-- Entries of the core's tile queue in use: its ops, and the place of each faulted op, kept for its return (log 27). -/
def State.queueUse (s : State) (k : Nat) : Nat :=
  (s.core k).tq.length
    + (((s.troopsOn k).filter (fun t => (s.troop t).res == .resident)).map (fun t => (s.troop t).tfaults.length)).sum
/-- The same, with the held ops that are to come back. -/
def State.tileCount (s : State) (k : Nat) : Nat :=
  s.queueUse k + (((s.troopsOn k).filter (fun t => (s.troop t).res == .resident)).map (fun t => (s.troop t).theld.length)).sum

/-- R172 step 4: the anchor of the newest held fault, alone, goes ahead of the held ops. -/
def State.anchorAlone (s : State) (t : Nat) (sigs : List Sig) : Bool :=
  match (s.troop t).tfaults with
  | f :: _ => sigs.all (fun g => g.x == f.anchor)
  | [] => false

/-- The op of a phase, whose leader's instruction and operands it takes. -/
def State.tileOpOf (s : State) (c : Nat) (sigs : List Sig) : Option TileOp :=
  (leaderOf sigs).bind (fun g => g.ins.map (fun i =>
    let t := troopOfCrew c
    let firsts := sigs.filter (·.contrib)
    let crews := (firsts.map (fun g => crewOf g.x)).eraseDups
    let alone := s.anchorAlone t sigs
    let iv := tileIvals (s.descAt t alone) (s.shapeAt t alone) g i
    { troop := t, opid := (s.troop t).opseq, sub := i, sigs := firsts,
      crews := crews.map (fun q => (q, ((firsts.find? (fun g => crewOf g.x == q)).map (·.tok)).getD none)),
      scored := iv.1.1 != iv.1.2 || iv.2.1 != iv.2.2 }))

/-- The last signature waits for a queue entry and a scoreboard entry (R169). Held ops count against every phase but
those the anchor inserts ahead of them (log 27). -/
def State.tileRoom (s : State) (c : Nat) (sigs : List Sig) (x : Nat) : Bool :=
  match s.tileOpOf c sigs with
  | none => true
  | some o =>
    let k := coreOfTroop o.troop
    let n := if s.anchorAlone o.troop sigs then s.queueUse k else s.tileCount k
    decide (n < 16) && (!o.scored || s.scoreRoom o.troop o.opid x)

/-- R170, R172: the entries of a troop's queued and held ops follow the descriptors and shapes at their places. -/
def State.refit (s : State) (t : Nat) : State :=
  let ops := s.tileAhead t false
  let v := s.troop t
  let fit := ops.zipIdx.map (fun p =>
    let iv := tileIvals (descAfter (ops.take p.2) v) (shapeAfter (ops.take p.2) v) (opLeader p.1) p.1.sub
    scoreEntry t 4 p.1.opid iv.1 iv.2)
  s.modCore (coreOfTroop t) (fun k => { k with score := k.score.map (fun e =>
    if e.troop = t ∧ e.eng = 4 then ((fit.find? (fun q => q.opid == e.opid)).map (fun q => { q with before := e.before })).getD e else e) })
def State.enterTile (s : State) (o : TileOp) (alone : Bool) : State :=
  let t := o.troop
  let g := opLeader o
  let iv := tileIvals (s.descAt t alone) (s.shapeAt t alone) g o.sub
  let s := if o.scored then s.scoreAdd (scoreEntry t 4 o.opid iv.1 iv.2) else s
  let held := !(s.troop t).tfaults.isEmpty || !(s.troop t).theld.isEmpty
  let s := s.modTroop t (fun v => { v with opseq := v.opseq + 1,
                                           theld := if held && !alone then v.theld ++ [o] else v.theld })
  if held && !alone then s
  else
    let s := s.modCore (coreOfTroop t) (fun k => { k with tq := k.tq ++ [{ o with inserted := held }] })
    if held then s.refit t else s

def isEngineKind (k : OpKind) : Bool := decide (0x100 ≤ k.coll)

/-- A complete phase executes, exactly once (R30). -/
def State.runPhase (s : State) (c h : Nat) : State :=
  let p := s.phase c h
  match p.kind with
  | some k =>
    if isEngineKind k then
      let s := s.scoreUnqueue (phaseWaiter c h)
      match s.tileOpOf c p.sigs with
      | some o => (s.enterTile o (s.anchorAlone o.troop p.sigs)).endPhase c h
      | none => s.endPhase c h
    else s.runResult c h
  | none => s.endPhase c h

/-- Execute a phase that is complete, unless its op finds no room: then it waits, with its place among those that wait
for an entry (R169, R324). -/
def State.tryPhase (s : State) (c h : Nat) : State :=
  let sigs := (s.phase c h).sigs
  if !s.phaseReady c h then s
  else if s.tileRoom c sigs (phaseWaiter c h) then s.runPhase c h
  else if (s.tileOpOf c sigs).any (·.scored) then s.scoreQueue (phaseWaiter c h) else s

/-- After an exit or a retirement: every phase of a troop that has become complete (R32). -/
def State.pumpPhases (s : State) (t : Nat) : State :=
  if (s.troop t).res = .resident then
    let s := (s.crewsOf t).foldl (fun s c => s.tryPhase c 0) s
    ((s.troop t).hitches.map (·.1)).foldl (fun s h => s.tryPhase (64 * t) h) s
  else s

end Sys2Proof.Machine
end

