-- ==== Sys2Proof/Machine/Ops.lean ====
section
/-! DEFINITION. Ops.lean: what every strand instruction shares: advancing the PC, retiring, parking, taking a trap
(spec/17_traps_context.md R359-R362), exiting, class counters and tokens (spec/16_counters.md R344, R346), the
allocator of register blocks (spec/05_registers_strand.md R91, R92), and the order of checks at issue
(spec/04_encoding.md R82). -/

namespace Sys2Proof.Machine

/-! ## Frames and guards -/

/-- The guard of an instruction and its frame code (R64, R70, R74). -/
structure Fr where
  p : Nat
  neg : Bool
  len : BitVec 2
  deriving DecidableEq, Repr

/-- A base instruction, `lit` when it has a literal; a guarded form is an extended frame (R77). -/
def baseFr (g : Guard) (lit : Bool) : Fr :=
  match g with
  | .always => ⟨7, false, if lit then 1 else 0⟩
  | .p0 => ⟨0, false, if lit then 1 else 0⟩
  | .notP0 => ⟨0, true, if lit then 1 else 0⟩
  | .p1 => ⟨1, false, if lit then 1 else 0⟩
  | .ext p n => ⟨p.toNat, n, if lit then 3 else 2⟩
def extFr (x : XG) (lit : Bool) : Fr := ⟨x.p.toNat, x.neg, if lit then 3 else 2⟩
def bsrcLit : BSrc → Bool | .lit _ => true | .reg _ => false
def bimmLit : BImm → Bool | .lit _ => true | .imm _ => false
def wimmLit : WImm → Bool | .lit _ => true | .imm _ => false
def xsrcLit : XSrc → Bool | .lit _ => true | .reg _ | .imm _ => false
def ximmLit : XImm → Bool | .lit _ => true | .imm _ => false
def dispLit : Disp → Bool | .lit _ => true | .imm _ => false

/-- The guard is true for the issuing strand. -/
def State.guardOk (s : State) (f : Fr) : Bool := s.myStrand.prd f.p != f.neg

/-! ## Advancing and retiring -/

/-- The PC moves past the instruction; a micro-op moves its step, and past the `mcall` at the end (R331). -/
def State.advance (s : State) (len : BitVec 2) : State :=
  let s := s.modMe (fun t => { t with refused := none, latch := none, xl := [] })
  match s.cur.mop with
  | none => s.modMe (fun t => { t with pc := t.pc + BitVec.ofNat 64 (4 * frameWords len), fetched := none })
  | some m =>
    if m.last || s.myStrand.step == 31 then
      s.modMe (fun t => { t with pc := t.pc + BitVec.ofNat 64 (4 * frameWords m.len), step := 63, fetched := none })
    else s.modMe (fun t => { t with step := t.step + 1 })

/-- R306: the timers of a troop's bins on its core count down. -/
def State.tickBins (s : State) (t n : Nat) : State :=
  if (s.core (coreOfTroop t)).bins.isEmpty then s
  else s.modCore (coreOfTroop t) (fun c => { c with bins := c.bins.map (fun b =>
    if b.2.troop = t then (b.1, { b.2 with timer := b.2.timer.map (· - n) }) else b) })
/-- One more retired instruction of a crew; the bins of a deterministic troop count it (R37). -/
def State.countRetired (s : State) (c : Nat) : State :=
  let s := s.modCrew c (fun v => { v with retired := v.retired + 1 })
  if (s.launchOf (troopOfCrew c)).det then s.tickBins (troopOfCrew c) 1 else s
/-- R353: once for each team whose instruction retires for at least one of the crew's strands. -/
def State.retire (s : State) : State :=
  let c := crewOf s.x
  match s.myStrand.team with
  | none => s.countRetired c
  | some n =>
    let s := s.modMe (fun t => { t with team := none })
    let held := (s.liveLanes c).filterMap (fun x => (s.strand x).team)
    let old := (s.crew c).counted
    let s := if old.contains n then s else s.countRetired c
    s.modCrew c (fun v => { v with counted := (if old.contains n then old else n :: old).filter (held.contains ·) })

/-- The crew's retired count as the team of the strand finds it: the team's own retirement counts after it (R26, R353). -/
def State.retiredNow (s : State) : Nat :=
  let c := s.crew (crewOf s.x)
  match s.myStrand.team with
  | some n => if c.counted.contains n then c.retired - 1 else c.retired
  | none => c.retired
/-- The PC moves past an instruction that does not count as retired (R331). -/
def State.passOver (s : State) (len : BitVec 2) : State :=
  ((s.advance len).modMe (fun t => { t with team := none })).toEligible s.x

/-- The instruction is done and its strand stays Eligible. -/
def State.finish (s : State) (len : BitVec 2) : State := ((s.advance len).retire).toEligible s.x

/-- The strand leaves the ready set and tries its instruction again later (R29, log 6). -/
def State.park (s : State) (w : Wait) : State := s.modMe (fun t => { t with life := .parked, wait := w })
/-- The strand waits for a result of its own earlier instruction (R41, R171). -/
def State.pending (s : State) (regs : BitVec 128) : State :=
  s.modMe (fun t => { t with life := .pending, wait := .result regs })

/-! ## Event log (R364 Table 3) -/

def logRecord (kind info die core lane reg val : Nat) : Dword :=
  BitVec.ofNat 64 (kind % 16 * 2 ^ 60 + info % 256 * 2 ^ 52 + die % 8 * 2 ^ 49 + core % 64 * 2 ^ 43 + lane % 32 * 2 ^ 38
    + reg % 128 * 2 ^ 31 + val % 2 ^ 31)
def State.addLog (s : State) (c : Nat) (r : Dword) : State :=
  s.modCrew c (fun v => if v.log.length < 8 then { v with log := v.log ++ [r] } else { v with lost := min 255 (v.lost + 1) })

/-! ## Class counters and tokens (R344, R346) -/

def clsCount (c : Crew) : Cls → Nat
  | .ld => c.ld | .st => c.st | .en => c.en | .tl => c.tl | .pt => c.pt
def setCls (c : Crew) (k : Cls) (n : Nat) : Crew :=
  match k with
  | .ld => { c with ld := n } | .st => { c with st := n } | .en => { c with en := n }
  | .tl => { c with tl := n } | .pt => { c with pt := n }
def State.incCls (s : State) (c : Nat) (k : Cls) : State := s.modCrew c (fun v => setCls v k (clsCount v k + 1))
/-- One less outstanding, while the crew still stands (R42). -/
def State.decCls (s : State) (c : Nat) (k : Cls) : State :=
  if s.hasCrew c then s.modCrew c (fun v => setCls v k (clsCount v k - 1)) else s

def State.token (s : State) (c w : Nat) : Token := sget (s.crew c).toks {} w
def State.setToken (s : State) (c w : Nat) (v : Token) : State :=
  s.modCrew c (fun q => { q with toks := sset q.toks {} w v })
/-- An operation attaches: at count 0 the status is ok again and every strand's nak mark is clear. -/
def State.tokAttach (s : State) (c : Nat) (w : Option (BitVec 4)) : State :=
  match w with
  | none => s
  | some b =>
    let k := s.token c b.toNat
    if k.cnt = 0 then
      (s.liveLanes c).foldl (fun s x => s.modStrand x (fun t => { t with nakMarks := clrBit t.nakMarks b.toNat }))
        (s.setToken c b.toNat { cnt := 1, status := .ok })
    else s.setToken c b.toNat { k with cnt := k.cnt + 1 }
/-- An operation of the token is over, with its outcome, and whether it wrote global memory. -/
def State.tokDone (s : State) (c : Nat) (w : Option Nat) (st : TokStatus) (wrote : Bool := false) : State :=
  match w with
  | none => s
  | some n =>
    let k := s.token c n
    if !s.hasCrew c then s
    else s.setToken c n { cnt := k.cnt - 1, wrote := k.wrote || wrote, status := match k.status, st with
      | .ok, st => st
      | .nak r i _, .nak _ _ _ => .nak r i true
      | old, _ => old }
/-- Room in a token for one more operation. -/
def State.tokRoom (s : State) (c : Nat) (w : Option (BitVec 4)) : Bool :=
  match w with
  | none => true
  | some b => decide ((s.token c b.toNat).cnt < 63)

/-! ## Register blocks (R90-R93) -/

/-- Registers of the extension blocks above count `lo` up to count `hi`. -/
def blockRegs (lo hi : Nat) : List Nat := span (32 * (lo + 1)) (min (32 * (hi + 1)) 126)
/-- A crew's extension count becomes `n`; the registers of blocks gained or lost read zero with fill bits set. -/
def State.setExt (s : State) (c n : Nat) : State :=
  let old := (s.crew c).ext
  let rs := blockRegs (min old n) (max old n)
  let s := s.modCrew c (fun v => { v with ext := n })
  (s.liveLanes c).foldl (fun s x => s.modStrand x (fun t =>
    { t with regs := t.regs.filter (fun e => !rs.contains e.1), fill := rs.foldl setBit t.fill,
             bad := rs.foldl clrBit t.bad })) s
/-- Free register blocks of a troop: four to a granule, less each resident crew's base and extension blocks. -/
def State.freeBlocks (s : State) (t : Nat) : Nat :=
  4 * sgwReg (s.troop t).sgw.toNat
    - (((s.crewsOf t).filter (fun c => (s.crew c).res == .resident)).map (fun c => 1 + (s.crew c).ext)).sum
/-- Waiting requests of a troop, oldest first, then by crew index. -/
def State.growReqs (s : State) (t : Nat) : List (Nat × Nat × Nat) :=
  sortBy (fun r => r.2.2) ((s.crewsOf t).filterMap (fun c => (s.crew c).grow.map (fun g => (c, g.1, g.2))))
/-- R91: each request the free blocks cover is granted, oldest first. -/
def State.grantAll (s : State) (t : Nat) : State :=
  (s.growReqs t).foldl (fun s r =>
    if r.2.1 ≤ (s.crew r.1).ext then s.modCrew r.1 (fun v => { v with grow := none })
    else if r.2.1 - (s.crew r.1).ext ≤ s.freeBlocks t then
      (s.modCrew r.1 (fun v => { v with grow := none })).setExt r.1 r.2.1
    else s) s
/-- Parked in `grow` with its crew's request waiting: not granted, failed or withdrawn. -/
def State.inGrow (s : State) (x : Nat) : Bool :=
  (s.strand x).life == .parked && (s.strand x).wait == .grow && (s.strand x).latch == none && (s.crew (crewOf x)).grow.isSome
/-- The crew has no live strand and nothing in flight: it is about to give up its blocks (R42). -/
def State.crewEnding (s : State) (c : Nat) : Bool :=
  let v := s.crew c
  (s.liveLanes c).isEmpty && v.ld == 0 && v.st == 0 && v.pt == 0
/-- R92: every live strand of the troop is parked in `grow`, and no block is about to be freed; the youngest request
fails, at equal times the one of the higher crew index. -/
def State.growDeadlock (s : State) (t : Nat) : State :=
  let reqs := s.growReqs t
  let live := (s.crewsOf t).flatMap s.liveLanes
  if reqs.isEmpty || live.isEmpty || !live.all s.inGrow || (s.crewsOf t).any s.crewEnding then s
  else match reqs.getLast? with
    | none => s
    | some r =>
      ((s.liveLanes r.1).filter s.inGrow).foldl (fun s x => s.modStrand x (fun v => { v with latch := some 1 }))
        (s.modCrew r.1 (fun v => { v with grow := none }))
def State.allocate (s : State) (t : Nat) : State := (s.grantAll t).growDeadlock t

/-! ## Held tile faults (R172, R173) -/

/-- The last held fault of a troop has been returned from: no op of it is one its anchor inserted any more. -/
def State.plainOps (s : State) (t : Nat) : State :=
  let k := coreOfTroop t
  if (s.troop t).theld.any (·.inserted) || (s.core k).tq.any (fun o => o.troop == t && o.inserted) then
    (s.modTroop t (fun v => { v with theld := v.theld.map (fun o => { o with inserted := false }) })).modCore k (fun c =>
      { c with tq := c.tq.map (fun o => if o.troop = t then { o with inserted := false } else o) })
  else s
/-- The held ops of a troop are queued again once no fault is held, as many as find an entry (log 27). -/
def State.releaseHeld (s0 : State) (t : Nat) : State :=
  if (s0.troop t).tfaults.isEmpty then
    let s := s0.plainOps t
    if (s.troop t).theld.isEmpty then s
    else
      let n := 16 - s.queueUse (coreOfTroop t)
      let ops := (s.troop t).theld.take n
      (s.modTroop t (fun v => { v with theld := v.theld.drop n })).modCore (coreOfTroop t) (fun k => { k with tq := k.tq ++ ops })
  else s0
/-- Entries of a core's queues have come free: held ops and complete phases that waited for one take it. -/
def State.pumpCore (s : State) (k : Nat) : State :=
  ((s.troopsOn k).filter (fun t => (s.troop t).res == .resident)).foldl (fun s t => (s.releaseHeld t).pumpPhases t) s
/-- A tile op's outcome reaches its crews and its scoreboard entry. -/
def State.tileDone (s : State) (o : TileOp) (st : TokStatus) : State :=
  let s := o.crews.foldl (fun s q => (s.decCls q.1 .tl).tokDone q.1 q.2 st) s
  s.scoreDel o.troop o.opid
/-- A faulted op is discarded: fault status, and its destinations are no longer pending, with the values they held,
and a progress word kept at its resumption stays (DESIGN CHOICE, log 27: R172 and R196 say nothing of them). -/
def State.tileDiscard (s : State) (f : TileFault) : State :=
  let s := (f.op.sigs.filter (fun g => !g.gone && s.alive g.x)).foldl (fun s g => s.modStrand g.x (fun t => { t with pend := g.dsts.foldl clrBit t.pend })) s
  s.tileDone f.op (.fault f.cause)
/-- R173: an anchor exits; its faults pass to the next live signer, or their ops are discarded and noted. -/
def State.anchorExit (s : State) (x : Nat) : State :=
  let t := troopOf x
  let mine := (s.troop t).tfaults.filter (fun f => f.anchor == x)
  if mine.isEmpty then s
  else
    let heir (f : TileFault) : Option Nat :=
      if f.delivered then none
      else leastBy id (((f.op.sigs.filter (fun g => !g.gone)).map (·.x)).filter (fun y => decide (x < y) && s.alive y))
    let s1 := s.modTroop t (fun v =>
      { v with tfaults := v.tfaults.filterMap (fun f =>
                 if f.anchor = x then (heir f).map (fun y => { f with anchor := y }) else some f),
               tilelost := v.tilelost || mine.any (fun f => (heir f).isNone) })
    ((mine.filter (fun f => (heir f).isNone)).foldl State.tileDiscard s1).pumpCore (coreOfTroop t)

/-! ## Keys and stores of a strand (R37, R161) -/

/-- R37: the key (round, turn) a strand of a deterministic troop issued under, held, doubled, from its first
attempt. -/
def State.detKey (s : State) : Nat :=
  let r := sget s.myTroop.rots {} s.myCrew.unit
  s.myStrand.latch.getD (2 * (r.lastRound * 64 + r.lastTurn)) / 2
/-- Crews of a deterministic troop in a unit with a strand that has not exited, by index. -/
def State.rotCrews (s : State) (t u : Nat) : List Nat :=
  ((s.crewsOf t).filter (fun c => (s.crew c).unit == u % 5 && !(s.liveLanes c).isEmpty)).map crewIdx
/-- No earlier key of the troop can still arrive: neither of a lower lane of the strand's own team that stalls, nor of
another issue unit that holds crews of it. -/
def State.detReady (s : State) : Bool :=
  let u := s.myCrew.unit
  let round := s.detKey / 64
  let team := s.myStrand.team
  (s.liveLanes (crewOf s.x)).all (fun y => !(decide (y < s.x) && team.isSome && (s.strand y).team == team)) &&
  s.myTroop.rots.all (fun e => e.1 == u || (s.rotCrews (troopOf s.x) e.1).isEmpty || decide (round < e.2.round) ||
    (e.2.round == round && decide (u < e.1)))
def State.parkDet (s : State) : State := let k := s.detKey; (s.modMe (fun t => { t with latch := some (2 * k) })).park .retry
/-- A crew whose strands may issue: it holds its slot and no save of it has begun (R375). -/
def State.mayIssue (s : State) (c : Nat) : Bool :=
  (s.crew c).res == .resident && !(s.crew c).saving && (s.troop (troopOfCrew c)).res == .resident && !(s.troop (troopOfCrew c)).saving
def isEligible (t : Strand) : Bool := t.life == .eligible
/-- The issue key of a strand. -/
def State.issueKey (s : State) (x : Nat) : Dword × Nat := ((s.strand x).pc, (s.strand x).step)
/-- The next turn; after the last, the next round, counted modulo 2^32 (R321). -/
def Rot.advance (r0 : Rot) : Rot :=
  let r := { r0 with busy := false }
  if r.crews.length ≤ r.turn + 1 then { r with turn := 0, round := (r.round + 1) % 2 ^ 32, fixed := false }
  else { r with turn := r.turn + 1 }
/-- The crews of a round are fixed at its start; a round does not start while the unit has none. -/
def State.rotStart (s : State) (t u : Nat) (r : Rot) : Rot :=
  if r.fixed then r else { r with crews := s.rotCrews t u, fixed := !(s.rotCrews t u).isEmpty }
/-- R36: turns whose crew has only hitch waits pass; then the team of the turn's crew, when all of it can issue. Strands
of it that stall issue again in the same turn (log 26). -/
def State.detTurn (s : State) (t u : Nat) : Nat → Rot → Rot × List Nat
  | 0, r => (r, [])
  | n + 1, r0 =>
    let r := s.rotStart t u r0
    match r.crews[r.turn]? with
    | none => (r, [])
    | some i =>
      let live := (s.liveLanes (64 * t + i)).filter (fun x => (s.strand x).life != .signed)
      let tm := match live with
        | [] => []
        | v :: _ => if r.busy then live.filter (fun x => (s.strand x).team.isSome) else live.filter (fun x => s.issueKey x == s.issueKey v)
      if tm.isEmpty then s.detTurn t u n r.advance
      else if tm.all (fun x => isEligible (s.strand x)) && s.mayIssue (64 * t + i) then
        ({ r with busy := true, lastRound := r.round, lastTurn := r.turn }, tm)
      else (r, [])
/-- R143: a team of the troop that can issue now, in another unit, has an earlier key, so its signatures come first (log 26). -/
def State.earlierIssues (s : State) : Bool :=
  let round := s.detKey / 64
  s.myTroop.rots.any (fun e =>
    let r := s.detTurn (troopOf s.x) e.1 65 e.2
    e.1 != s.myCrew.unit && !r.2.isEmpty && (decide (r.1.round < round) || r.1.round == round && decide (e.1 < s.myCrew.unit)))
/-- A signature of hitch `h`, which another unit's strands may sign too, has to wait. -/
def State.signHeld (s : State) (h : Nat) : Bool := decide (h ≠ 0) && s.myLaunch.det && s.earlierIssues
/-- Numbers of the core's stores that their points have not acknowledged (R161). -/
def State.storesOf (s : State) (k : Nat) : List Nat :=
  ((s.crews.filter (fun c => c.1 / 4096 == k)).flatMap (fun c => c.2.sq.map (·.id)))
    ++ (((s.core k).reqs.filter (fun r => match r.kind with | .store => true | _ => false)).map (·.id))

/-- Every load of the strand has returned (R277, R282). -/
def State.loadsIn (s : State) : Bool := (s.core (coreOf s.x)).reqs.all (fun r => !(r.late && r.strand == s.x))
/-- A request of the crew at a bank has not been answered. -/
def State.bankWaits (s : State) (c : Nat) : Bool :=
  (s.core (c / 4096 % 512)).reqs.any (fun r => crewOf r.strand == c && (match r.tgt, r.kind with
    | .spm _, .store => false
    | .spm _, _ => true
    | .dev, _ | .host _, _ | .remote _, _ => false))
/-- Some of these stores of a core have not been performed. -/
def State.storesLeft (s : State) (ids : List Nat) (k : Nat) : Bool := ids.any ((s.storesOf k).contains ·)

/-! ## Exit (R32, R42, R113) -/

/-- No troop of the launch is left to place (R312, R314). -/
def Launch.allPlaced (l : Launch) : Bool :=
  if l.gang then decide (((List.range 8).filter (l.dies.testBit ·)).length ≤ l.herds.length) else decide (l.troops ≤ l.placed)
/-- A strand has triggered, or exited, with the stores its exit comes after performed (R39, R278). -/
def State.triggered (s : State) (x : Nat) (t : Strand) : Bool :=
  t.trig || (t.life == .exited && !s.storesLeft t.after (coreOf x))
/-- Every strand of a launch has triggered or exited, also those of crews that have been released (R39). -/
def State.allTriggered (s : State) (lid : Nat) : Bool :=
  s.strands.all (fun x => (s.troop (troopOf x.1)).lid != lid || s.triggered x.1 x.2) &&
  s.past.all (fun p => (s.troop p.1).lid != lid || p.2.strands.all (fun x => s.triggered x.1 x.2))
/-- R399: the event of kind 3 of a launch, posted once. -/
def State.noteLaunch (s : State) (lid : Nat) : State :=
  match s.launchAt lid with
  | none => s
  | some l => if l.trigNoted || !l.allPlaced || !s.allTriggered lid then s
    else (s.modLaunch lid (fun l => { l with trigNoted := true })).devEvent l.die 3 l.queue 0 lid
def State.noteTrig (s : State) (t : Nat) : State := s.noteLaunch (s.troop t).lid
/-- A strand leaves its crew's live set. Undelivered engine faults leave kind-2 records (R364; log 24). -/
def State.exitStrand (s : State) (x : Nat) : State :=
  let t := s.strand x
  let s := (t.faults.filter (fun f => f.cls == .en)).foldl (fun s f =>
    s.addLog (crewOf x) (logRecord 2 f.cause 0 0 (laneOf x) 0 f.tval.toNat)) s
  let out := s.storesOf (coreOf x)
  let s := s.modStrand x (fun t =>
    { t with life := .exited, wait := .none, faults := [], naks := [], team := none, latch := none, xl := [], fetched := none, after := out })
  let s := ((s.scoreUnqueue x).anchorExit x).allocate (troopOf x)
  (s.pumpPhases (troopOf x)).noteTrig (troopOf x)

/-! ## Taking a trap (R359-R363) -/

/-- What a trap reports (R359 Table 1). -/
structure Trap where
  code : Nat
  tval : Word := 0
  taddr : Dword := 0
  pfr : Nat := 0
  defer : Bool := false
  nofetch : Bool := false
  deriving DecidableEq, Repr

def causeIllegalInstr : Nat := 0x01
def causeIllegalOperand : Nat := 0x02
def causeRole : Nat := 0x03
def causeRegRange : Nat := 0x04
def causeUniform : Nat := 0x05
def causeHitchDouble : Nat := 0x06
def causeHitchMismatch : Nat := 0x07
def causeTileShape : Nat := 0x08
def causeReefOverflow : Nat := 0x09
def causePageFault : Nat := 0x0A
def causeKvFault : Nat := 0x0B
def causeKvExhausted : Nat := 0x0C
def causeSpmAccess : Nat := 0x0D
def causeCopyAddr : Nat := 0x0E
def causePutNak : Nat := 0x0F
def causeGrowDeadlock : Nat := 0x11
def causeEcc : Nat := 0x12
def causeLinklost : Nat := 0x13
def causeSoftware : Nat := 0x14
def causeBreakpoint : Nat := 0x15

/-- R360 Table 2. -/
def causeWord (t : Trap) (flen : BitVec 2) (step mindex : Nat) : Word :=
  BitVec.ofNat 32 (2 ^ 31 + (if t.defer then 2 ^ 30 else 0) + step % 64 * 2 ^ 24
    + (if step < 32 then mindex % 64 else 0) * 2 ^ 18 + (if t.nofetch then 2 ^ 17 else 0) + flen.toNat * 2 ^ 15
    + t.pfr % 8 * 2 ^ 8 + t.code % 256)

/-- R361, R362: the strand enters the launch's handler, or, in its handler already, exits with a kind-3 record. -/
def State.trapLen (s : State) (len : BitVec 2) (t : Trap) : State :=
  let me := s.myStrand
  let len := match s.cur.mop with
    | some m => m.len
    | none => len
  if me.cause.getLsbD 31 then
    (s.addLog (crewOf s.x) (logRecord 3 t.code 0 0 (laneOf s.x) 0 me.pc.toNat)).exitStrand s.x
  else
    let idx := match s.cur.mop with
      | some m => m.idx
      | none => me.mindex
    ((s.scoreUnqueue s.x).modMe (fun v =>
      { v with trappc := v.pc, cause := causeWord t len v.step idx, tval := t.tval, taddr := t.taddr,
               mended := s.cur.mop.map (fun m => (m.idx % 64, v.step, m.last)),
               pc := pcOf s.myLaunch.handler, step := 63, team := none, latch := none,
               refused := none, xl := [], fetched := none })).toEligible s.x
def State.trap (s : State) (f : Fr) (t : Trap) : State := s.trapLen f.len t
/-- ILLEGAL_OPERAND with an operand number (R81). -/
def State.illegalOp (s : State) (f : Fr) (n : Nat) : State := s.trap f { code := causeIllegalOperand, tval := w32 n }

/-! ## The checks at issue (R82) -/

/-- What the checks look at: role rights, operand tests with their numbers in the order of R81, the registers read,
the registers written, and registers named without being read or written. -/
structure Chk where
  role : Bool := true
  ops : List (Bool × Nat) := []
  srcs : List Nat := []
  dsts : List Nat := []
  names : List Nat := []
  deriving DecidableEq, Repr

/-- R90: a register outside the crew's allocation. -/
def State.regBad (s : State) (r : Nat) : Bool := decide (32 * (s.myCrew.ext + 1) ≤ r) && decide (r < 126)
/-- Registers as a mask. -/
def regMask (rs : List Nat) : BitVec 128 := rs.foldl setBit 0
/-- R207: every line of the core's L1 goes, and a line on its way does not fill it (log 8). -/
def State.invL1 (s : State) (k : Nat) : State :=
  s.modCore k (fun c => { c with l1 := [], reqs := c.reqs.map (fun r => { r with fill := false }) })
/-- R161: the first read of a register a PUT from beyond the core filled invalidates the L1. -/
def State.readAcquire (s : State) (rs : List Nat) : State :=
  if rs.any (fun r => s.myStrand.putAcq.getLsbD r) then
    (s.modMe (fun t => { t with putAcq := rs.foldl clrBit t.putAcq })).invL1 (coreOf s.x)
  else s

/-- Checks 4 to 6 of R82, then the waits of R146 and R171, then an error of a register read (R218; log 21), then the
effect. An order the spec leaves open is log 23. -/
def State.checked (s : State) (f : Fr) (c : Chk) (body : State → State) : State :=
  if !c.role then s.trap f { code := causeRole, tval := s.cur.word0 }
  else match c.ops.find? (fun o => !o.1) with
    | some o => s.illegalOp f o.2
    | none =>
      match leastBy id ((c.srcs ++ c.dsts ++ c.names).filter s.regBad) with
      | some r => s.trap f { code := causeRegRange, tval := w32 r }
      | none =>
        let empties := c.srcs.filter (fun r => !s.myStrand.fill.getLsbD r)
        let pends := (c.srcs ++ c.dsts).filter (fun r => s.myStrand.pend.getLsbD r)
        if !empties.isEmpty then (s.park (.fill (regMask empties))).perf (coreOf s.x) 0x10 (troopOf s.x) 1
        else if !pends.isEmpty then s.pending (regMask pends)
        else match leastBy id (c.srcs.filter (fun r => s.myStrand.bad.getLsbD r)) with
          | some r => s.trap f { code := causeEcc, tval := w32 r, taddr := BitVec.ofNat 64 r }
          | none => body (s.readAcquire c.srcs)

/-- The registers of an operand can be read: in the crew's allocation, filled, not pending, and not in error (R90, R146,
R171, R218). -/
def State.readable (s : State) (rs : List Nat) : Bool :=
  rs.all (fun r => !s.regBad r && s.myStrand.fill.getLsbD r && !s.myStrand.pend.getLsbD r && !s.myStrand.bad.getLsbD r)
def aligned (a n : Nat) : Bool := a % n == 0
/-- The checks `c` with a test of what operand `n` holds in its registers `rs`, at its place in the order of the
operands (R81, R82). Registers that cannot be read yet are not tested here: the instruction does not get past its
checks, or waits and issues again. -/
def State.withVal (s : State) (c : Chk) (rs : List Nat) (n : Nat) (ok : Bool) : Chk :=
  { c with ops := c.ops.filter (fun o => decide (o.2 ≤ n)) ++ [(!s.readable rs || ok, n)] ++
                  c.ops.filter (fun o => decide (n < o.2)) }

/-- An instruction at issue: a false guard only advances (R27), otherwise the checks and the effect. -/
def State.issue (s : State) (f : Fr) (c : Chk) (body : State → State) : State :=
  if s.guardOk f then s.checked f c body else s.finish f.len

/-- An instruction whose effect writes registers or other state and is done. -/
def State.issueSimple (s : State) (f : Fr) (c : Chk) (eff : State → State) : State :=
  s.issue f c (fun s => (eff s).finish f.len)

/-! ## Roles (R20) -/

def State.isAccess (s : State) : Bool := s.myCrew.role == .access
def State.isMatrix (s : State) : Bool := s.myCrew.role == .matrix
def State.isStreamer (s : State) : Bool := s.isAccess && crewIdx (crewOf s.x) == s.myLaunch.streamer

end Sys2Proof.Machine
end

