-- ==== Sys2Proof/Machine/Operands.lean ====
section
/-! DEFINITION. Operands.lean: the operand forms of R65, R69, R75 and R76: which registers a form names, whether it
meets the limits of R81, and the value it gives. -/

namespace Sys2Proof.Machine

/-! ## Limits (R65, R81) -/

/-- R65: the upper half of a literal that a 32-bit operand uses. -/
def lit32Ok (v : Dword) : Bool :=
  v.extractLsb' 32 32 == 0 || (v.extractLsb' 32 32 == BitVec.allOnes 32 && v.getLsbD 31)
/-- A register pair starts at an even register. -/
def pairOk (r : Reg) : Bool := !r.getLsbD 0
/-- A quad starts at a multiple of 4. -/
def quadOk (r : Reg) : Bool := r.extractLsb' 0 2 == 0
/-- A tile or accumulator field names 0-15 (R75). -/
def tileOk (r : Reg) : Bool := decide (r.toNat < 16)
def pairRegs (r : Reg) : List Nat := [r.toNat, r.toNat + 1]
def quadRegs (r : Reg) : List Nat := [r.toNat, r.toNat + 1, r.toNat + 2, r.toNat + 3]

/-! ## Operand b of BR and BC, the immediates of BI and BW -/

def bsrcRegs : BSrc → List Nat | .reg r => [r.toNat] | .lit _ => []
def bsrcPair : BSrc → List Nat | .reg r => pairRegs r | .lit _ => []
def bsrcOk : BSrc → Bool | .reg _ => true | .lit v => lit32Ok v
def bsrcPairOk : BSrc → Bool | .reg r => pairOk r | .lit _ => true
def State.bsrc (s : State) : BSrc → Word | .reg r => s.rd r.toNat | .lit v => v.extractLsb' 0 32
def State.bsrc64 (s : State) : BSrc → Dword | .reg r => s.rd64 r.toNat | .lit v => v
def bimmOk : BImm → Bool | .imm _ => true | .lit v => lit32Ok v
/-- `sext7(i)`, or the literal (R99). -/
def bimmVal : BImm → Word | .imm v => v.signExtend 32 | .lit v => v.extractLsb' 0 32
def wimmOk : WImm → Bool | .imm _ => true | .lit v => lit32Ok v
def wimmVal : WImm → Word | .imm v => v.signExtend 32 | .lit v => v.extractLsb' 0 32
/-- The shift count of an immediate shift: 0-31 (R72, R99). -/
def shiftImm : BImm → Nat | .imm v => v.toNat | .lit v => (v.extractLsb' 0 32).toNat
def shiftImmOk (i : BImm) : Bool := bimmOk i && decide (shiftImm i < 32)
/-- Operand number of an immediate of format BI: the field, or the literal (R81). -/
def bimmNo : BImm → Nat | .imm _ => 3 | .lit _ => 5

/-! ## "b or imm" of XR and XC (R75) -/

def xsrcRegs : XSrc → List Nat | .reg r => [r.toNat] | .imm _ | .lit _ => []
def xsrcPair : XSrc → List Nat | .reg r => pairRegs r | .imm _ | .lit _ => []
def xsrcOk : XSrc → Bool | .reg _ | .imm _ => true | .lit v => lit32Ok v
def xsrcPairOk : XSrc → Bool | .reg r => pairOk r | .imm _ | .lit _ => true
def State.xsrc (s : State) : XSrc → Word | .reg r => s.rd r.toNat | .imm v => v | .lit v => v.extractLsb' 0 32
def State.xsrc64 (s : State) : XSrc → Dword
  | .reg r => s.rd64 r.toNat | .imm v => v.signExtend 64 | .lit v => v
/-- A 32-bit b, immediate or literal, extended to 64 bits: the literal gives all of them (R108). -/
def State.xsrcExt (s : State) (zx : Bool) : XSrc → Dword
  | .reg r => if zx then (s.rd r.toNat).zeroExtend 64 else (s.rd r.toNat).signExtend 64
  | .imm v => if zx then v.zeroExtend 64 else v.signExtend 64
  | .lit v => v
def rsrcRegs : RSrc → List Nat | .reg r => [r.toNat] | .imm _ => []
def State.rsrc (s : State) : RSrc → Word | .reg r => s.rd r.toNat | .imm v => v
def ximmVal : XImm → Dword | .imm v => v.signExtend 64 | .lit v => v

/-! ## Displacements of XM (R76) -/

def dispVal : Disp → Dword | .imm v => v.signExtend 64 | .lit v => v

/-! ## Usual check lists -/

/-- d, a, and a 32-bit operand b of format BR. -/
def chkBR (d a : Reg) (b : BSrc) : Chk :=
  { ops := [(bsrcOk b, 5)], srcs := a.toNat :: bsrcRegs b, dsts := [d.toNat] }
/-- As `chkBR`, with the old d read as well (R98). -/
def chkBRd (d a : Reg) (b : BSrc) : Chk :=
  { ops := [(bsrcOk b, 5)], srcs := d.toNat :: a.toNat :: bsrcRegs b, dsts := [d.toNat] }
def chkBI (d a : Reg) (i : BImm) : Chk := { ops := [(bimmOk i, 5)], srcs := [a.toNat], dsts := [d.toNat] }
def chkSh (d a : Reg) (i : BImm) : Chk := { ops := [(shiftImmOk i, bimmNo i)], srcs := [a.toNat], dsts := [d.toNat] }
def chkUn (d a : Reg) : Chk := { srcs := [a.toNat], dsts := [d.toNat] }
/-- d, a, and a 32-bit "b or imm". -/
def chkXR (d a : Reg) (b : XSrc) : Chk :=
  { ops := [(xsrcOk b, 5)], srcs := a.toNat :: xsrcRegs b, dsts := [d.toNat] }
/-- d, a, b and e. -/
def chkXRe (d a : Reg) (b : XSrc) (e : Reg) : Chk :=
  { ops := [(xsrcOk b, 5)], srcs := a.toNat :: e.toNat :: xsrcRegs b, dsts := [d.toNat] }

end Sys2Proof.Machine
end

