-- ==== Sys2Proof/Machine/Flags.lean ====
section
/-! DEFINITION. Flags.lean: the predicates the integer instructions compute (R71 Table 5, R102 Table 7, R106). Nulyn
has no status flags: a relation or a carry goes to a named predicate. -/

namespace Sys2Proof.Machine

/-- The relation of an integer condition at any width (R71). -/
def icond {w : Nat} (cc : ICond) (a b : BitVec w) : Bool :=
  match cc with
  | .eq => a == b | .ne => a != b
  | .lt => a.slt b | .le => a.sle b | .gt => b.slt a | .ge => b.sle a
  | .ltu => a.ult b | .leu => a.ule b | .gtu => b.ult a | .geu => b.ule a

/-- R102 Table 7. -/
def popVal (fn : PopFn) (a b : Bool) : Bool :=
  match fn with
  | .and => a && b | .or => a || b | .xor => a != b | .andn => a && !b | .orn => a || !b | .nand => !(a && b)
  | .nor => !(a || b) | .xnor => a == b | .mov => a | .not => !a | .clr => false | .set => true

/-- R106: the sum with its carry out. -/
def addCarry (a b : Word) (cin : Bool) : Word × Bool :=
  let t := a.toNat + b.toNat + (if cin then 1 else 0)
  (BitVec.ofNat 32 t, decide (2 ^ 32 ≤ t))
/-- R106: the difference with its borrow out. -/
def subBorrow (a b : Word) (cin : Bool) : Word × Bool :=
  let k := if cin then 1 else 0
  (a - b - BitVec.ofNat 32 k, decide (a.toNat < b.toNat + k))

end Sys2Proof.Machine
end

