-- ==== Sys2Proof/Machine/Int.lean ====
section
/-! DEFINITION. Int.lean: integer, address, compare, predicate and select instructions
(spec/05_registers_strand.md R98-R110). -/

namespace Sys2Proof.Machine


/-- A BR instruction that writes one register. -/
def aluBR (g : Guard) (d a : Reg) (b : BSrc) (op : Word → Word → Word) (s : State) : Out :=
  .next (s.issueSimple (baseFr g (bsrcLit b)) (chkBR d a b) (fun s => s.wr d.toNat (op (s.rd a.toNat) (s.bsrc b))))
/-- A BR instruction that also reads the old d. -/
def aluBRd (g : Guard) (d a : Reg) (b : BSrc) (op : Word → Word → Word → Word) (s : State) : Out :=
  .next (s.issueSimple (baseFr g (bsrcLit b)) (chkBRd d a b)
    (fun s => s.wr d.toNat (op (s.rd a.toNat) (s.bsrc b) (s.rd d.toNat))))
/-- A BI instruction with `sext7(i)`. -/
def aluBI (g : Guard) (d a : Reg) (i : BImm) (op : Word → Word → Word) (s : State) : Out :=
  .next (s.issueSimple (baseFr g (bimmLit i)) (chkBI d a i) (fun s => s.wr d.toNat (op (s.rd a.toNat) (bimmVal i))))
/-- An immediate shift. -/
def aluShI (g : Guard) (d a : Reg) (i : BImm) (op : Word → Nat → Word) (s : State) : Out :=
  .next (s.issueSimple (baseFr g (bimmLit i)) (chkSh d a i) (fun s => s.wr d.toNat (op (s.rd a.toNat) (shiftImm i))))
/-- One source, one destination. -/
def aluUn (g : Guard) (d a : Reg) (op : Word → Word) (s : State) : Out :=
  .next (s.issueSimple (baseFr g false) (chkUn d a) (fun s => s.wr d.toNat (op (s.rd a.toNat))))
/-- An XALU instruction of d, a and b. -/
def aluXR (x : XG) (d a : Reg) (b : XSrc) (op : Word → Word → Word) (s : State) : Out :=
  .next (s.issueSimple (extFr x (xsrcLit b)) (chkXR d a b) (fun s => s.wr d.toNat (op (s.rd a.toNat) (s.xsrc b))))
/-- An XALU or XFP instruction of d, a, b and e. -/
def aluXRe (x : XG) (d a : Reg) (b : XSrc) (e : Reg) (op : Word → Word → Word → Word) (s : State) : Out :=
  .next (s.issueSimple (extFr x (xsrcLit b)) (chkXRe d a b e)
    (fun s => s.wr d.toNat (op (s.rd a.toNat) (s.xsrc b) (s.rd e.toNat))))
/-- One source in an extended frame. -/
def aluXUn (x : XG) (d a : Reg) (op : Word → Word) (s : State) : Out :=
  .next (s.issueSimple (extFr x false) (chkUn d a) (fun s => s.wr d.toNat (op (s.rd a.toNat))))

/-! ## What the instructions compute (R99, R100, R105-R110) -/

def sh5 (b : Word) : Nat := b.toNat % 32
def mulhiSV (a b : Word) : Word := BitVec.ofInt 32 (a.toInt * b.toInt / 2 ^ 32)
def mulhiUV (a b : Word) : Word := BitVec.ofNat 32 (a.toNat * b.toNat / 2 ^ 32)
def minSV (a b : Word) : Word := if b.slt a then b else a
def maxSV (a b : Word) : Word := if a.slt b then b else a
def minUV (a b : Word) : Word := if b.ult a then b else a
def maxUV (a b : Word) : Word := if a.ult b then b else a
def clzV (a : Word) : Word := if a = 0 then 32 else w32 (31 - a.toNat.log2)
def popcV (a : Word) : Word := w32 ((List.range 32).countP (fun i => a.getLsbD i))
def brevV (a : Word) : Word := w32 (natOfBits ((List.range 32).map (fun i => a.getLsbD (31 - i))))
def bfLen (b : Word) : Nat := b.toNat / 256 % 32
def bfeV (a b : Word) : Word := (a >>> sh5 b) &&& w32 (2 ^ bfLen b - 1)
def bfiV (a b d : Word) : Word :=
  let m := w32 ((2 ^ bfLen b - 1) * 2 ^ sh5 b)
  (d &&& ~~~m) ||| ((a <<< sh5 b) &&& m)
def divSV (a b : Word) : Word := if b = 0 then 0xFFFFFFFF else BitVec.ofInt 32 (a.toInt.tdiv b.toInt)
def remSV (a b : Word) : Word := if b = 0 then a else BitVec.ofInt 32 (a.toInt.tmod b.toInt)
def divUV (a b : Word) : Word := if b = 0 then 0xFFFFFFFF else w32 (a.toNat / b.toNat)
def remUV (a b : Word) : Word := if b = 0 then a else w32 (a.toNat % b.toNat)
def mulwV (sgn : Bool) (a b : Word) : Dword :=
  if sgn then BitVec.ofInt 64 (a.toInt * b.toInt) else BitVec.ofNat 64 (a.toNat * b.toNat)
/-- R109, with the width field w - 1. -/
def sextV (a : Word) (w : BitVec 5) : Word := BitVec.ofInt 32 (sextInt (w.toNat + 1) a.toNat)
def zextV (a : Word) (w : BitVec 5) : Word := w32 (a.toNat % 2 ^ (w.toNat + 1))
def dshV (left clamp : Bool) (lo n hi : Word) : Word :=
  let k := if clamp then min n.toNat 64 else n.toNat % 64
  let v := hi.toNat * 2 ^ 32 + lo.toNat
  if left then w32 (v * 2 ^ k % 2 ^ 64 / 2 ^ 32) else w32 (v / 2 ^ k)
/-- R110: one result byte of `bsel`, by the bullets of the rule and not its example (DEDUCED, log 28). -/
def bselByte (v b : Nat) (i : Nat) : Nat :=
  let src := v >>> (8 * bits b (3 * i + 2) (3 * i)) % 256
  if bitOf b (12 + i) then 0 else if bitOf b (16 + i) then (if 128 ≤ src then 255 else 0) else src
def bselV (a b e : Word) : Word :=
  let v := e.toNat * 2 ^ 32 + a.toNat
  w32 (bselByte v b.toNat 0 + 2 ^ 8 * bselByte v b.toNat 1 + 2 ^ 16 * bselByte v b.toNat 2 + 2 ^ 24 * bselByte v b.toNat 3)

/-! ## The base instructions (R99-R103) -/

def execAdd (g : Guard) (d a : Reg) (b : BSrc) (s : State) : Out := aluBR g d a b (· + ·) s
def execAddi (g : Guard) (d a : Reg) (i : BImm) (s : State) : Out := aluBI g d a i (· + ·) s
def execSub (g : Guard) (d a : Reg) (b : BSrc) (s : State) : Out := aluBR g d a b (· - ·) s
def execMul (g : Guard) (d a : Reg) (b : BSrc) (s : State) : Out := aluBR g d a b (· * ·) s
def execMulhiS (g : Guard) (d a : Reg) (b : BSrc) (s : State) : Out := aluBR g d a b mulhiSV s
def execMulhiU (g : Guard) (d a : Reg) (b : BSrc) (s : State) : Out := aluBR g d a b mulhiUV s
def execMad (g : Guard) (d a : Reg) (b : BSrc) (s : State) : Out := aluBRd g d a b (fun x y z => x * y + z) s
def execAnd (g : Guard) (d a : Reg) (b : BSrc) (s : State) : Out := aluBR g d a b (· &&& ·) s
def execAndi (g : Guard) (d a : Reg) (i : BImm) (s : State) : Out := aluBI g d a i (· &&& ·) s
def execOr (g : Guard) (d a : Reg) (b : BSrc) (s : State) : Out := aluBR g d a b (· ||| ·) s
def execOri (g : Guard) (d a : Reg) (i : BImm) (s : State) : Out := aluBI g d a i (· ||| ·) s
def execXor (g : Guard) (d a : Reg) (b : BSrc) (s : State) : Out := aluBR g d a b (· ^^^ ·) s
def execXori (g : Guard) (d a : Reg) (i : BImm) (s : State) : Out := aluBI g d a i (· ^^^ ·) s
def execShl (g : Guard) (d a : Reg) (b : BSrc) (s : State) : Out := aluBR g d a b (fun x y => x <<< sh5 y) s
def execShli (g : Guard) (d a : Reg) (i : BImm) (s : State) : Out := aluShI g d a i (fun x n => x <<< n) s
def execShr (g : Guard) (d a : Reg) (b : BSrc) (s : State) : Out := aluBR g d a b (fun x y => x >>> sh5 y) s
def execShri (g : Guard) (d a : Reg) (i : BImm) (s : State) : Out := aluShI g d a i (fun x n => x >>> n) s
def execSar (g : Guard) (d a : Reg) (b : BSrc) (s : State) : Out := aluBR g d a b (fun x y => x.sshiftRight (sh5 y)) s
def execSari (g : Guard) (d a : Reg) (i : BImm) (s : State) : Out := aluShI g d a i (fun x n => x.sshiftRight n) s
def execMinS (g : Guard) (d a : Reg) (b : BSrc) (s : State) : Out := aluBR g d a b minSV s
def execMinU (g : Guard) (d a : Reg) (b : BSrc) (s : State) : Out := aluBR g d a b minUV s
def execMaxS (g : Guard) (d a : Reg) (b : BSrc) (s : State) : Out := aluBR g d a b maxSV s
def execMaxU (g : Guard) (d a : Reg) (b : BSrc) (s : State) : Out := aluBR g d a b maxUV s
def execClz (g : Guard) (d a : Reg) (s : State) : Out := aluUn g d a clzV s
def execPopc (g : Guard) (d a : Reg) (s : State) : Out := aluUn g d a popcV s
def execBrev (g : Guard) (d a : Reg) (s : State) : Out := aluUn g d a brevV s
def execBfe (g : Guard) (d a : Reg) (b : BSrc) (s : State) : Out := aluBR g d a b bfeV s
def execBfi (g : Guard) (d a : Reg) (b : BSrc) (s : State) : Out := aluBRd g d a b bfiV s
def execMov (g : Guard) (d a : Reg) (s : State) : Out := aluUn g d a id s
def execLi (g : Guard) (d : Reg) (i : WImm) (s : State) : Out :=
  .next (s.issueSimple (baseFr g (wimmLit i)) { ops := [(wimmOk i, 5)], dsts := [d.toNat] }
    (fun s => s.wr d.toNat (wimmVal i)))
def execAdd64 (g : Guard) (d a : Reg) (b : BSrc) (s : State) : Out :=
  .next (s.issueSimple (baseFr g (bsrcLit b))
    { ops := [(pairOk d, 1), (pairOk a, 2), (bsrcPairOk b, 3)], srcs := pairRegs a ++ bsrcPair b, dsts := pairRegs d }
    (fun s => s.wr64 d.toNat (s.rd64 a.toNat + s.bsrc64 b)))
def execCmp (g : Guard) (cc : ICond) (pd : PReg) (a : Reg) (b : BSrc) (s : State) : Out :=
  .next (s.issueSimple (baseFr g (bsrcLit b)) { ops := [(bsrcOk b, 5)], srcs := a.toNat :: bsrcRegs b }
    (fun s => s.wrP pd (icond cc (s.rd a.toNat) (s.bsrc b))))
def execCmpi (g : Guard) (cc : ICond) (pd : PReg) (a : Reg) (i : BImm) (s : State) : Out :=
  .next (s.issueSimple (baseFr g (bimmLit i)) { ops := [(bimmOk i, 5)], srcs := [a.toNat] }
    (fun s => s.wrP pd (icond cc (s.rd a.toNat) (bimmVal i))))
def execPop (g : Guard) (fn : PopFn) (pd pa pb : PReg) (s : State) : Out :=
  .next (s.issueSimple (baseFr g false) {} (fun s => s.wrP pd (popVal fn (s.pr pa) (s.pr pb))))
def execSel (g : Guard) (d a : Reg) (b : BSrc) (s : State) : Out :=
  .next (s.issueSimple (baseFr g (bsrcLit b)) (chkBR d a b)
    (fun s => s.wr d.toNat (if s.pr 0 then s.rd a.toNat else s.bsrc b)))

/-! ## The XALU instructions (R103-R110) -/

def execSelX (x : XG) (p : PReg) (d a : Reg) (b : XSrc) (s : State) : Out :=
  .next (s.issueSimple (extFr x (xsrcLit b)) (chkXR d a b)
    (fun s => s.wr d.toNat (if s.pr p then s.rd a.toNat else s.xsrc b)))
def execDivS (x : XG) (d a : Reg) (b : XSrc) (s : State) : Out := aluXR x d a b divSV s
def execDivU (x : XG) (d a : Reg) (b : XSrc) (s : State) : Out := aluXR x d a b divUV s
def execRemS (x : XG) (d a : Reg) (b : XSrc) (s : State) : Out := aluXR x d a b remSV s
def execRemU (x : XG) (d a : Reg) (b : XSrc) (s : State) : Out := aluXR x d a b remUV s
/-- d and a predicate together, from a, b and a predicate. -/
def aluCarry (x : XG) (d a : Reg) (b : XSrc) (pin pout : PReg) (op : Word → Word → Bool → Word × Bool) (s : State) : Out :=
  .next (s.issueSimple (extFr x (xsrcLit b)) (chkXR d a b) (fun s =>
    let r := op (s.rd a.toNat) (s.xsrc b) (s.pr pin)
    (s.wr d.toNat r.1).wrP pout r.2))
def execAddc (x : XG) (d a : Reg) (b : XSrc) (pin pout : PReg) (s : State) : Out := aluCarry x d a b pin pout addCarry s
def execSubb (x : XG) (d a : Reg) (b : XSrc) (pin pout : PReg) (s : State) : Out := aluCarry x d a b pin pout subBorrow s
def execMul64 (x : XG) (d a : Reg) (b : XSrc) (s : State) : Out :=
  .next (s.issueSimple (extFr x (xsrcLit b))
    { ops := [(pairOk d, 1), (pairOk a, 2), (xsrcPairOk b, 3)], srcs := pairRegs a ++ xsrcPair b, dsts := pairRegs d }
    (fun s => s.wr64 d.toNat (s.rd64 a.toNat * s.xsrc64 b)))
def execMulw (x : XG) (sgn : Bool) (d a : Reg) (b : XSrc) (s : State) : Out :=
  .next (s.issueSimple (extFr x (xsrcLit b))
    { ops := [(pairOk d, 1), (xsrcOk b, 5)], srcs := a.toNat :: xsrcRegs b, dsts := pairRegs d }
    (fun s => s.wr64 d.toNat (mulwV sgn (s.rd a.toNat) (s.xsrc b))))
def execLea (x : XG) (zx : Bool) (sh : BitVec 2) (d a : Reg) (b : XSrc) (s : State) : Out :=
  .next (s.issueSimple (extFr x (xsrcLit b))
    { ops := [(pairOk d, 1), (pairOk a, 2)], srcs := pairRegs a ++ xsrcRegs b, dsts := pairRegs d }
    (fun s => s.wr64 d.toNat (s.rd64 a.toNat + (s.xsrcExt zx b <<< sh.toNat))))
def execLi64 (x : XG) (d : Reg) (i : XImm) (s : State) : Out :=
  .next (s.issueSimple (extFr x (ximmLit i)) { ops := [(pairOk d, 1)], dsts := pairRegs d }
    (fun s => s.wr64 d.toNat (ximmVal i)))
def execSext (x : XG) (d a : Reg) (w : BitVec 5) (s : State) : Out := aluXUn x d a (fun v => sextV v w) s
def execZext (x : XG) (d a : Reg) (w : BitVec 5) (s : State) : Out := aluXUn x d a (fun v => zextV v w) s
def execCmp64 (x : XG) (cc : ICond) (pd : PReg) (a : Reg) (b : XSrc) (s : State) : Out :=
  .next (s.issueSimple (extFr x (xsrcLit b))
    { ops := [(pairOk a, 2), (xsrcPairOk b, 3)], srcs := pairRegs a ++ xsrcPair b }
    (fun s => s.wrP pd (icond cc (s.rd64 a.toNat) (s.xsrc64 b))))
def execDsh (x : XG) (left clamp : Bool) (d a : Reg) (b : XSrc) (e : Reg) (s : State) : Out :=
  aluXRe x d a b e (dshV left clamp) s
def execBsel (x : XG) (d a : Reg) (b : XSrc) (e : Reg) (s : State) : Out := aluXRe x d a b e bselV s

end Sys2Proof.Machine
end

