-- ==== Sys2Proof/Machine/Coll.lean ====
section
/-! DEFINITION. Coll.lean: signing a hitch, and the collectives that return data or declare a hitch
(spec/02_execution.md R30-R32; spec/06_registers_vector.md R127-R143). -/

namespace Sys2Proof.Machine

/-! ## Signing (R30-R32, R131) -/

/-- A hitch that can be signed: `h0`, or a declared one. -/
def State.declared (s : State) (h : Nat) : Bool := decide (h = 0) || (s.hitch (troopOf s.x) h).decl != .undeclared
/-- R143: in a deterministic troop signatures rank by the key (round, issue unit, turn, lane) of R37 (log 26). -/
def State.signKey (s : State) : Nat :=
  if s.myLaunch.det then ((s.detKey / 64 * 8 + s.myCrew.unit) * 64 + s.detKey % 64) * 32 + laneOf s.x else 0
/-- The signature is recorded; the first with a true guard fixes the kind of operation. -/
def State.sign (s : State) (h : Nat) (g : Sig) (k : OpKind) : State :=
  s.modPhase (crewOf s.x) h (fun p =>
    { p with sigs := p.sigs ++ [{ g with key := s.signKey }], kind := match p.kind with
      | some old => some old
      | none => if g.contrib then some k else none })
/-- Under a false guard: sign without contributing, unless the hitch is undeclared or signed already; go on. -/
def State.signFalse (s : State) (f : Fr) (h : Nat) (k : OpKind) : State :=
  let s1 := s.finish f.len
  if s.declared h && !signedIn (s.phase (crewOf s.x) h) s.x then
    if s.signHeld h then s.parkDet else (s1.sign h { x := s.x, contrib := false } k).tryPhase (crewOf s.x) h
  else s1
/-- Why a strand with a true guard may not sign (R31, R131). -/
def State.signBad (s : State) (h : Nat) (k : OpKind) : Option Trap :=
  let p := s.phase (crewOf s.x) h
  if signedIn p s.x then some { code := causeHitchDouble, tval := w32 h }
  else match p.kind with
    | some old => if old = k then none else some { code := causeHitchMismatch, tval := w32 h }
    | none => none
/-- A signer of a result-returning collective waits Signed; the instruction itself is done (R30). -/
def State.signResult (s : State) (f : Fr) (h : Nat) (k : OpKind) (g : Sig) : State :=
  let s := ((s.advance f.len).retire).modMe (fun t => { t with life := .signed, wait := .none })
  (s.sign h g k).tryPhase (crewOf s.x) h

/-- A result-returning collective on hitch `h`, whose field is operand `no`: `pre` is a fault or a wait of its own. -/
def State.collective (s : State) (f : Fr) (h no : Nat) (k : OpKind) (c : Chk) (pre : State → Option Trap)
    (ready : State → Bool) (mk : State → Sig) : State :=
  if !s.guardOk f then s.signFalse f h k
  else s.checked f { c with ops := c.ops ++ [(s.declared h, no)] } (fun s =>
    match pre s with
    | some t => s.trap f t
    | none => if s.signHeld h then s.parkDet else match s.signBad h k with
      | some t => s.trap f t
      | none => if ready s then s.signResult f h k (mk s) else s.park .retry)

def noTrap (_ : State) : Option Trap := none
def noWait (_ : State) : Bool := true

/-- Subgroup width of a width code; codes 6 and 7 are no width (R75). -/
def widthOfCode (w : BitVec 3) : Nat := 2 ^ w.toNat
def widthOk (w : BitVec 3) : Bool := decide (w.toNat ≤ 5)
/-- A check list with the width code's test (operand 5). -/
def chkW (c : Chk) (w : BitVec 3) : Chk := { c with ops := c.ops ++ [(widthOk w, 5)] }

/-! ## The collectives -/

def shflK (op w : Nat) : OpKind := { coll := 0, width := w, fn := op }
/-- A base shuffle: `h0`, width 32, validity discarded (R134). -/
def shflBase (g : Guard) (op : Nat) (d a : Reg) (b : BSrc) (s : State) : Out :=
  .next (s.collective (baseFr g (bsrcLit b)) 0 5 (shflK op 32) (chkBR d a b) noTrap noWait
    (fun s => { x := s.x, contrib := true, vals := [s.rd a.toNat, s.bsrc b], dsts := [d.toNat] }))
def execShflIdx (g : Guard) (d a : Reg) (b : BSrc) (s : State) : Out := shflBase g 0 d a b s
def execShflUp (g : Guard) (d a : Reg) (b : BSrc) (s : State) : Out := shflBase g 1 d a b s
def execShflDown (g : Guard) (d a : Reg) (b : BSrc) (s : State) : Out := shflBase g 2 d a b s
def execShflXor (g : Guard) (d a : Reg) (b : BSrc) (s : State) : Out := shflBase g 3 d a b s
def execShflX (x : XG) (op : ShflOp) (w : BitVec 3) (d a : Reg) (b : XSrc) (pv : PReg) (h : BitVec 5) (s : State) : Out :=
  .next (s.collective (extFr x (xsrcLit b)) h.toNat 5 (shflK (shflCodes.idxOf op) (widthOfCode w)) (chkW (chkXR d a b) w) noTrap noWait
    (fun s => { x := s.x, contrib := true, vals := [s.rd a.toNat, s.xsrc b], dsts := [d.toNat], pdst := pv.toNat }))

def voteSig (d : Reg) (ps pd : PReg) (s : State) : Sig :=
  { x := s.x, contrib := true, dsts := [d.toNat], preds := [s.pr ps], pdst := pd.toNat }
def execVote (g : Guard) (mode : VoteMode) (d : Reg) (ps : PReg) (s : State) : Out :=
  .next (s.collective (baseFr g false) 0 5 { coll := 1, fn := voteCodes.idxOf mode } { dsts := [d.toNat] } noTrap noWait
    (voteSig d ps 7))
def execVoteX (x : XG) (mode : VoteMode) (w : BitVec 3) (d : Reg) (ps pd : PReg) (h : BitVec 5) (s : State) : Out :=
  .next (s.collective (extFr x false) h.toNat 5 { coll := 1, width := widthOfCode w, fn := voteCodes.idxOf mode }
    (chkW { dsts := [d.toNat] } w) noTrap noWait (voteSig d ps pd))

def unSig (d a : Reg) (s : State) : Sig := { x := s.x, contrib := true, vals := [s.rd a.toNat], dsts := [d.toNat] }
def execRedux (g : Guard) (op : RedOp) (d a : Reg) (s : State) : Out :=
  .next (s.collective (baseFr g false) 0 5 { coll := 2, fn := redCodes.idxOf op } (chkUn d a) noTrap noWait (unSig d a))
def execReduxX (x : XG) (op : RedOp) (w : BitVec 3) (d a : Reg) (h : BitVec 5) (s : State) : Out :=
  .next (s.collective (extFr x false) h.toNat 5 { coll := 2, width := widthOfCode w, fn := redCodes.idxOf op } (chkW (chkUn d a) w)
    noTrap noWait (unSig d a))
/-- Scan and exclusive scan count as different kinds of operation (DESIGN CHOICE, log 23: R131 says "operation, mode or function
code", and `ex` is a bit of field e). -/
def execScan (x : XG) (op : RedOp) (ex : Bool) (w : BitVec 3) (d a : Reg) (h : BitVec 5) (s : State) : Out :=
  .next (s.collective (extFr x false) h.toNat 5
    { coll := 3, width := widthOfCode w, fn := 2 * redCodes.idxOf op + (if ex then 1 else 0) } (chkW (chkUn d a) w)
    noTrap noWait (unSig d a))
def execPeers (x : XG) (b64 all : Bool) (w : BitVec 3) (d a : Reg) (pd : PReg) (h : BitVec 5) (s : State) : Out :=
  .next (s.collective (extFr x false) h.toNat 5
    { coll := 4, width := widthOfCode w, fn := (if b64 then 1 else 0) + (if all then 2 else 0) }
    (chkW { ops := [(!b64 || pairOk a, 2)], srcs := if b64 then pairRegs a else [a.toNat], dsts := [d.toNat] } w) noTrap noWait
    (fun s => { x := s.x, contrib := true, vals := s.rdList a.toNat (if b64 then 2 else 1), dsts := [d.toNat],
                pdst := pd.toNat }))

/-- R139: a signature of `hbar` is a release at core scope, so it waits until the strand's loads have returned and the crew's
stores have passed the core order point: releases are cumulative (R278; log 13). -/
def State.storesOut (s : State) : Bool := s.myCrew.sq.isEmpty && s.loadsIn
def barSig (s : State) : Sig := { x := s.x, contrib := true }
def execHbar (g : Guard) (s : State) : Out :=
  .next (s.collective (baseFr g false) 0 5 { coll := 6 } {} noTrap State.storesOut barSig)
def execHbarX (x : XG) (h : BitVec 5) (s : State) : Out :=
  .next (s.collective (extFr x false) h.toNat 5 { coll := 6 } {} noTrap State.storesOut barSig)

/-- R140: the hitch names every live strand of the crew. -/
def State.uniform (s : State) (h : Nat) : Bool :=
  decide (h = 0) || match (s.hitch (troopOf s.x) h).decl with
    | .mask m c => c == crewOf s.x && (s.liveLanes c).all (fun y => m.getLsbD (laneOf y))
    | .undeclared | .count _ => false
def execKset (x : XG) (k : Reg) (v : XSrc) (h : BitVec 5) (s : State) : Out :=
  .next (s.collective (extFr x (xsrcLit v)) h.toNat 5 { coll := 7 }
    { ops := [(decide (k.toNat < 32), 1), (xsrcOk v, 5)], srcs := xsrcRegs v }
    (fun s => if s.uniform h.toNat then none else some { code := causeUniform, tval := w32 h.toNat }) noWait
    (fun s => { x := s.x, contrib := true, vals := [s.xsrc v], dsts := [k.toNat] }))
def execHq (x : XG) (d : Reg) (h : BitVec 5) (s : State) : Out :=
  .next (s.collective (extFr x false) h.toNat 5 { coll := 8 } { dsts := [d.toNat] } noTrap noWait
    (fun s => { x := s.x, contrib := true, dsts := [d.toNat] }))

/-- R130. The value stands in field a, or is the immediate. -/
def execHset (x : XG) (mask : Bool) (h : BitVec 5) (v : XSrc) (s : State) : Out :=
  let f := extFr x (xsrcLit v)
  let no := match v with | .reg _ => 2 | .imm _ | .lit _ => 5
  .next (s.issue f { ops := [(xsrcOk v, 5), (h != 0 || (xsrcRegs v).any (fun r => !s.regBad r), 5)], srcs := xsrcRegs v } (fun s =>
    let n := (s.xsrc v).toNat
    if !(if mask then decide (n ≠ 0) else decide (1 ≤ n ∧ n ≤ 2048)) then s.illegalOp f no
    else if h = 0 then s.illegalOp f 5
    else
      let d : Decl := if mask then .mask (s.xsrc v) (crewOf s.x) else .count n
      (s.modHitch (troopOf s.x) h.toNat (fun t =>
        if t.phase.sigs.isEmpty then { t with decl := d } else { t with pend := some d })).finish f.len))

/-- R142: from the lane remap table's entry of the crew's slot. -/
def remapIndex (unit slot : Nat) : Nat := if unit = 4 then 56 + slot else 14 * unit + slot
def State.laneOff (s : State) (c : Nat) : Nat :=
  (sget (s.core (c / 4096)).remap 0 (remapIndex (s.crew c).unit (s.crew c).slot)).toNat % 8
def execVlane (g : Guard) (d a : Reg) (s : State) : Out :=
  .next (s.issueSimple (baseFr g false) (chkUn d a) (fun s =>
    let v := (s.rd a.toNat).toNat
    s.wr d.toNat (if 32 ≤ v then 0xFFFFFFFF else w32 ((v + 8 * s.laneOff (crewOf s.x)) % 32))))

end Sys2Proof.Machine
end

