-- ==== Sys2Proof/Machine/Loop.lean ====
section
/-! DEFINITION. Loop.lean: packets of memory requests and their answers, of PUTs and of channel entries on the interposer
loops: retention, sequence, resending, and the loss of a loop (spec/18_outside.md R395, R396; spec/01_device.md R14). -/

namespace Sys2Proof.Machine

/-- R209: the slice of a line. -/
def sliceOf (l : Nat) : Nat := (l % 64) ^^^ (l / 64 % 64) ^^^ (l / 4096 % 64)
/-- Loop stop of a core: 8 a die, 8 cores a stop (R395). -/
def stopOf (core : Nat) : Nat := core / 64 * 8 + core % 64 / 8
def dieOfStop (m : Nat) : Nat := m / 8
/-- Loop stop of a slice, after the 64 of the dies; 16 on each base tile (R395). -/
def sliceStop (n : Nat) : Nat := 64 + n
def tileOfStop (m : Nat) : Nat := (m - 64) / 16
def partner (l : Nat) : Nat := if l % 2 = 0 then l + 1 else l - 1
def State.loopOk (s : State) (l : Nat) : Bool := !(sget s.loops {} l).failed
/-- What covers some line. -/
def Req.hasLine (r : Req) (p : Nat → Bool) : Bool :=
  match r.kind with
  | .flush _ => r.lines.any (fun q => (List.range q.2).any (fun i => p (q.1 + i)))
  | .load _ _ _ _ | .atom _ _ | .cas _ | .store | .enq _ | .deq _ | .prefetch _ | .fetch => p (r.addr / 128)
/-- Bytes a request covers at its address. -/
def Req.size (r : Req) : Nat :=
  match r.kind with
  | .load sz _ _ _ | .atom _ sz | .cas sz => sz
  | .store => r.data.length
  | .enq _ | .deq _ => 16
  | .flush _ => 0
  | .prefetch _ | .fetch => 128
/-- It may write its location. -/
def Req.writes (r : Req) : Bool :=
  match r.kind with
  | .load _ _ _ _ | .flush _ | .prefetch _ | .fetch => false
  | .store | .atom _ _ | .cas _ | .enq _ | .deq _ => true
/-- A task-queue action. -/
def Req.isTq (r : Req) : Bool :=
  match r.kind with
  | .enq _ | .deq _ => true
  | .load _ _ _ _ | .atom _ _ | .cas _ | .store | .flush _ | .prefetch _ | .fetch => false
/-- R395: the loop a packet takes between two stops. DESIGN CHOICE: of the two loops of a die and a tile the even one, and
between two stops of one die the loop to tile `d / 2` (log 16). -/
def State.loopFor (s : State) (src dst : Nat) : Nat :=
  let d := dieOfStop src
  let e := dieOfStop dst
  let l := if 64 ≤ src then 2 * (4 * e + tileOfStop src)
    else if 64 ≤ dst then 2 * (4 * d + tileOfStop dst)
    else if d = e then 2 * (4 * d + d / 2)
    else
      let up := (e + 8 - d) % 8
      64 + 2 * (src % 8 / 2) + (if up ≤ 8 - up then 0 else 1)
  if s.loopOk l then l else partner l
/-- Some loop carries what goes between two stops (R396). -/
def State.pathOk (s : State) (src dst : Nat) : Bool := src == dst || s.loopOk (s.loopFor src dst)
/-- Traffic classes of R14. -/
def clsMem : Nat := 0
def clsEng : Nat := 1
def clsKv : Nat := 2
def clsPut : Nat := 3
def clsCtl : Nat := 4
def pairKey (src dst cls : Nat) : Nat := (src * 256 + dst) * 8 + cls
/-- The clock of a loop's stops (R395). -/
def State.loopClock (s : State) (l : Nat) : Nat := (sget s.rasTrack {} (1100 + l)).clock
/-- The source stop keeps a copy of a packet between two stops, with the next number of its pair and class. -/
def State.loopPost (s : State) (id src dst cls : Nat) (req : Option (Nat × Nat × Bool)) : State :=
  if src = dst then s
  else
    let key := pairKey src dst cls
    let q := sget s.loopSeq 0 key
    let l := s.loopFor src dst
    let p : LoopPkt := { id := id, req := req, src := src, dst := dst, loop := l, seq := q, kind := cls, sent := s.loopClock l }
    { s with loopSeq := sput s.loopSeq key (q + 1), loopPkts := s.loopPkts ++ [p] }
/-- The packet of a PUT or channel entry. -/
def State.loopSend (s : State) (id src dst : Nat) : State := s.loopPost id src dst clsPut none
/-- Stops of the points of a request: the slice of its line, each slice of a flush's lines, or the core of its bank; none off
the loops. -/
def pointStops (r : Req) : List Nat :=
  match r.tgt with
  | .dev => ((List.range 64).filter (fun n => r.hasLine (fun l => sliceOf l == n))).map sliceStop
  | .spm q => [stopOf (coreOfTroop q)]
  | .host _ | .remote _ => []
def reqClass (r : Req) : Nat :=
  match r.kind with
  | .flush _ => clsCtl
  | .load _ _ _ _ | .atom _ _ | .cas _ | .store | .enq _ | .deq _ | .prefetch _ | .fetch => clsMem
/-- The packets of a request to its points, or (`back`) of its answers. -/
def State.reqPost (s : State) (k : Nat) (r : Req) (back : Bool) : State :=
  (pointStops r).foldl (fun s m =>
    let id := s.newId
    if back then id.2.loopPost id.1 m (stopOf k) (reqClass r) (some (k, r.id, true))
    else id.2.loopPost id.1 (stopOf k) m (reqClass r) (some (k, r.id, false))) s
/-- A request, or its answer, is still on its way. -/
def State.reqOnLoop (s : State) (k id : Nat) (back : Bool) : Bool := s.loopPkts.any (fun p => p.req == some (k, id, back) && !p.got)
/-- A message is still on its way over the loops. -/
def State.onLoop (s : State) (id : Nat) : Bool := s.loopPkts.any (fun p => p.id == id && p.req.isNone && !p.got)
def State.findPkt (s : State) (id : Nat) : Option LoopPkt := s.loopPkts.find? (fun p => p.id == id)
def State.setPkt (s : State) (p : LoopPkt) : State := { s with loopPkts := s.loopPkts.map (fun q => if q.id = p.id then p else q) }

/-- A task-queue action has arrived at its point (R419). -/
def State.noteArrival (s : State) (k id : Nat) : State :=
  let n := s.newId
  n.2.modCore k (fun c => { c with reqs := c.reqs.map (fun r => if r.id = id ∧ r.isTq = true then { r with arr := some n.1 } else r) })
/-- A packet is accepted. -/
def State.accepted (s : State) (p : LoopPkt) : State :=
  match p.req with
  | some (k, id, false) => if (s.core k).reqs.any (fun r => r.id == id && r.isTq) then s.noteArrival k id else s
  | some (_, _, true) | none => s
/-- Packets held early that are now next in order are accepted. -/
def State.acceptEarly : Nat → Nat → State → State
  | 0, _, s => s
  | n + 1, key, s =>
    let q := sget s.loopSeen 0 key
    match s.loopPkts.find? (fun p => pairKey p.src p.dst p.kind == key && p.early && p.seq == q) with
    | none => s
    | some p => State.acceptEarly n key (({ s with loopSeen := sput s.loopSeen key (q + 1) }.setPkt { p with early := false, got := true }).accepted p)
/-- Packet `item` arrives at its destination stop, by a loop that has not failed: accepted in order, held when early, discarded when seen before. -/
def execLoopPacketArrival (s : State) : Out :=
  .next (match s.findPkt s.ev.item with
    | none => s
    | some p =>
      let key := pairKey p.src p.dst p.kind
      let q := sget s.loopSeen 0 key
      let held := s.loopPkts.countP (fun u => pairKey u.src u.dst u.kind == key && u.early)
      if p.got || !s.loopOk p.loop then s
      else if p.seq = q then
        State.acceptEarly 64 key (({ s with loopSeen := sput s.loopSeen key (q + 1) }.setPkt { p with early := false, got := true }).accepted p)
      else if q < p.seq ∧ !p.early ∧ held < 64 then s.setPkt { p with early := true }
      else s)
/-- The acknowledgement of packet `item` reaches its source, which drops its copy. -/
def execLoopAcknowledgement (s : State) : Out :=
  .next (match s.findPkt s.ev.item with
    | some p => if p.got then { s with loopPkts := s.loopPkts.filter (fun q => q.id != p.id) } else s
    | none => s)
/-- A loop is retired: its pairs go to its partner, and unacknowledged packets are resent there (R396). -/
def State.failLoop (s : State) (l : Nat) : State :=
  let go (p : LoopPkt) : LoopPkt := if p.loop = l then { p with loop := partner l, sent := s.loopClock (partner l) } else p
  { s with loops := sput s.loops l { sget s.loops {} l with failed := true }, loopPkts := s.loopPkts.map go }
/-- A loop drops one more packet; after 8 in a window it hands its pairs to its partner. -/
def State.loopDrop (s : State) (l : Nat) : State :=
  let v := sget s.loops {} l
  let s1 := { s with loops := sput s.loops l { v with drops := v.drops + 1 } }
  if 8 ≤ v.drops + 1 ∧ !v.failed then (s1.failLoop l).mevEvent 4 l 0 l else s1
/-- Packet `item` has waited 4,096 cycles of its stop's clock for its acknowledgement: it is sent again, on the partner after
8 drops in a window. With `flag`, a packet of an engine, a KV op or a controller, which this model keeps no copy of, was
dropped by loop `unit` (log 16). -/
def execLoopResendTimer (s : State) : Out :=
  .next (if s.ev.flag then (if 72 ≤ s.ev.unit then s else s.loopDrop s.ev.unit)
    else match s.findPkt s.ev.item with
    | none => s
    | some p =>
      if p.got || p.early || decide (s.loopClock p.loop < p.sent + 4096) then s
      else (s.setPkt { p with sent := s.loopClock p.loop }).loopDrop p.loop)
/-- Loop `unit` fails. -/
def execLoopFailure (s : State) : Out :=
  .next (if 72 ≤ s.ev.unit || !s.loopOk s.ev.unit then s else (s.failLoop s.ev.unit).mevEvent 4 s.ev.unit 0 s.ev.unit)

end Sys2Proof.Machine
end

