-- ==== Sys2Proof/Machine/Mem.lean ====
section
/-! DEFINITION. Mem.lean: the memories a strand reaches and what stands between: slices and HBM4, soft errors, the
L1, translation, store queues, the strand checks of the range scoreboard, and requests beyond the core
(spec/10_memories.md R202-R219; spec/13_memory_model.md R273-R284; spec/15_tables.md R336-R338; spec/18_outside.md R390). -/

namespace Sys2Proof.Machine

/-! ## The physical map (R209, R211, R390) -/

def hbmTop : Nat := 0xC000000000
def scrBase : Nat := 0x10000000000
def scrTop : Nat := 0x10400000000
/-- R9: the base tile of a slice. -/
def tileOfSlice (n : Nat) : Nat := n / 16
/-- R9: each of a slice's 16 ways of 16 MiB holds 131,072 lines, one of each set. -/
def setOf (l : Nat) : Nat := Config.sliceSet l % 131072
/-- R390 gives no behaviour at and above this address. -/
def reserved (pa n : Nat) : Bool := decide (scrTop < pa + n)
/-- R211: a slice-scratch address whose way is not a cache way. -/
def State.scratchLive (s : State) (pa : Nat) : Bool :=
  let w := (pa - scrBase) / 2 ^ 24
  !(s.slice (w / 16)).waymask.getLsbD (w % 16) && !(s.slice (w / 16)).dead.getLsbD (w % 16)
def lineByte (d : BitVec 1024) (i : Nat) : Byte := d.extractLsb' (8 * i) 8
def lineSet (d : BitVec 1024) (i : Nat) (v : Byte) : BitVec 1024 :=
  (d &&& ~~~(BitVec.ofNat 1024 (255 * 2 ^ (8 * i)))) ||| BitVec.ofNat 1024 (v.toNat * 2 ^ (8 * i))
def lineOfBytes (bs : List Byte) : BitVec 1024 := BitVec.ofNat 1024 (leNat bs)

/-- The byte at a physical address: the slice's line, else HBM4; scratch; zero (R209, R211, R390). -/
def State.pbyte (s : State) (pa : Nat) : Byte :=
  if pa < hbmTop then
    match sfind (s.slice (sliceOf (pa / 128))).lines (pa / 128) with
    | some l => lineByte l.data (pa % 128)
    | none => mbyte s.pmem pa
  else if scrBase ≤ pa ∧ pa < scrTop ∧ s.scratchLive pa then mbyte s.pmem pa
  else 0
def State.pread (s : State) (pa n : Nat) : List Byte := (List.range n).map (fun i => s.pbyte (pa + i))
def State.pnat (s : State) (pa n : Nat) : Nat := leNat (s.pread pa n)

/-! ## Soft errors (R218) -/

/-- The space of the tile slots and of the accumulators of a troop; a scratchpad's is the troop's number. -/
def tileSpace (t : Nat) : Nat := 2 ^ 40 + t
def accSpace (t : Nat) : Nat := 2 ^ 41 + t
/-- The unit an error covers: space, or none beyond the cores; first byte; bytes (log 21). -/
def errUnit : ErrLoc → Option (Option Nat × Nat × Nat)
  | .pool core slot off => some (some (core * 64 + slot), off / 8 * 8, 8)
  | .tile core slot off => some (some (tileSpace (core * 64 + slot)), off / 8 * 8, 8)
  | .acc core slot off => some (some (accSpace (core * 64 + slot)), off / 8 * 8, 8)
  | .line l _ => some (none, l * 128, 128)
  | .hbm pa => some (none, pa / 64 * 64, 64)
  | .l1 _ _ | .loop _ | .lane _ | .reg _ _ => none
/-- An error after one write of `n` bytes of a space from `a`: it goes when the write covers its unit; a dirty line's
goes when all 128 bytes have been written since. -/
def errAfter (sp : Option Nat) (a n : Nat) (e : ErrRec) : Option ErrRec :=
  match errUnit e.loc with
  | none => some e
  | some (q, b, k) =>
    if q ≠ sp ∨ a + n ≤ b ∨ b + k ≤ a then some e
    else if a ≤ b ∧ b + k ≤ a + n then none
    else match e.loc with
      | .line _ _ =>
        let w := e.written ++ (span (max a b) (min (a + n) (b + k))).filter (fun i => !e.written.contains i)
        if w.length = k then none else some { e with written := w }
      | _ => some e
/-- One write of `n` bytes of a space from `a`. -/
def State.errWriteAll (s : State) (sp : Option Nat) (a n : Nat) : State :=
  if s.errs.isEmpty then s else { s with errs := s.errs.filterMap (errAfter sp a n) }
/-- Lowest byte of a range that a reader finds in error. -/
def State.errRead (s : State) (sp : Option Nat) (a n : Nat) : Option Nat :=
  leastBy id (s.errs.filterMap (fun e => match errUnit e.loc with
    | some (q, b, k) =>
      let cached := match e.loc with
        | .hbm pa => (sfind (s.slice (sliceOf (pa / 128))).lines (pa / 128)).isSome
        | _ => false
      if q = sp ∧ a < b + k ∧ b < a + n ∧ !cached then some (max a b) else none
    | none => none))

/-! ## Slices (R209-R215) -/

/-- R214, R215: a pin ends when its fade counter reaches zero, though its entry stands until the table is told. -/
def Pin.live (p : Pin) : Bool := p.fade == 0 || p.counter != 0
/-- R214: the live pin a line belongs to. -/
def State.pinOf (s : State) (l : Nat) : Option Nat := (s.pins.find? (fun p => p.2.live && p.2.pages.contains (l / 32))).map (·.1)
/-- R215: an access of a slice reloads the pin it hits and counts against the others. -/
def State.pinCount (s : State) (l : Nat) : State :=
  { s with pins := s.pins.map (fun p =>
      let v := p.2
      if !v.live then p
      else if v.pages.contains (l / 32) then (p.1, { v with counter := v.fade })
      else if v.since + 1 < 2 ^ v.unit then (p.1, { v with since := v.since + 1 })
      else (p.1, { v with since := 0, counter := v.counter - 1 })) }

/-- R216: an access to the HBM4 stack of a line opens its row and loads the bank's timer; the policy that precharges after
every access loads it with 0. -/
def State.hbmAccess (s : State) (l : Nat) : State :=
  let k := l % 12
  let v := sget s.hbmStacks {} k
  let b := Config.hbmBank (l * 128)
  let n := if v.pagectl.getLsbD 31 then v.pagectl.toNat % 65536 else 0
  { s with hbmStacks := sput s.hbmStacks k { v with open_ := sput v.open_ b (Config.hbmRow (l * 128)), timers := sput v.timers b n } }

/-- A line leaves its slice; a dirty one reaches HBM4 (R209). -/
def State.dropLine (s : State) (l : Nat) : State :=
  let n := sliceOf l
  match sfind (s.slice n).lines l with
  | none => s
  | some v =>
    let s := s.modSlice n (fun q => { q with lines := sdel q.lines l })
    if v.dirty then
      let stays (e : ErrRec) : Bool := match e.loc with
        | .hbm pa => pa / 128 != l
        | _ => true
      ({ s with pmem := mwrite s.pmem (l * 128) (leBytes 128 v.data.toNat), errs := s.errs.filter stays }).hbmAccess l
    else s

/-- A line takes a free cache way of its set, or the way of the least recently used unpinned line, which leaves; at most
12 are pinned (R212). A line HBM4 holds in error is not allocated (log 21). -/
def State.fillLine (s : State) (l : Nat) (pinned : Bool) : State :=
  let n := sliceOf l
  let sl := s.slice n
  let set := sl.lines.filter (fun e => setOf e.1 == setOf l)
  let pin := pinned && decide (set.countP (fun e => e.2.pinned) < 12)
  let add (s : State) (w : Nat) : State :=
    let id := s.newId
    let v : SliceLine := { pinned := pin, data := lineOfBytes (mread s.pmem (l * 128) 128), stamp := id.1, way := w }
    id.2.modSlice n (fun q => { q with lines := sput q.lines l v })
  let s1 := s.hbmAccess l
  if (s.errRead none (l * 128) 128).isSome then s1
  else match (List.range 16).find? (fun w => sl.waymask.getLsbD w && set.all (fun e => e.2.way != w)) with
    | some w => add s1 w
    | none => match leastBy (fun e => e.2.stamp) (set.filter (fun e => !e.2.pinned && sl.waymask.getLsbD e.2.way)) with
      | some e => add (s1.dropLine e.1) e.2.way
      | none => s1

def filtHash (l : Nat) : List Nat := [l % 65536, l / 65536 % 65536, (l % 65536 + l / 65536 % 65536 + l / 2 ^ 32 % 32) % 65536]

/-- An access reaches a line's slice: recency, or on a miss the allocation of R212. `pf` marks a prefetch of policy 2,
which allocates in the slice. -/
def State.touchLine (s : State) (l : Nat) (stream pf : Bool) : State :=
  let n := sliceOf l
  match sfind (s.slice n).lines l with
  | some v =>
    let id := s.newId
    id.2.modSlice n (fun q => { q with lines := sput q.lines l { v with stamp := id.1 } })
  | none =>
    let sl := s.slice n
    let hit := (filtHash l).all (sl.filter.contains ·)
    let pin := s.pinOf l
    let marks := if pin.isSome || stream || pf || hit then [] else (filtHash l).eraseDups.filter (fun b => !sl.filter.contains b)
    let window (q : Slice) : Slice :=
      if 2 ^ q.filtwin ≤ q.misses + 1 then { q with filter := [], misses := 0 }
      else { q with misses := q.misses + 1, filter := q.filter ++ marks }
    let s1 := s.modSlice n window
    if pin.isSome then s1.fillLine l true
    else if stream then s1.hbmAccess l
    else if pf || hit then s1.fillLine l false
    else s1.hbmAccess l
/-- The lines that meet a range. -/
def linesOf (pa n : Nat) : List Nat := if n = 0 then [] else span (pa / 128) ((pa + n + 127) / 128)
/-- Every line of a physical range is accessed at its slice (R212, R215); slice scratch of a cache way counts as a corrected
error of the slice's domain (R211; log 21). -/
def State.touch (s : State) (pa n : Nat) (stream pf : Bool) : State :=
  (linesOf pa n).foldl (fun s l =>
    if l * 128 < hbmTop then (s.pinCount l).touchLine l stream pf
    else if scrBase ≤ l * 128 ∧ l * 128 < scrTop then
      let s1 := s.pinCount l
      if s.scratchLive (l * 128) then s1 else s1.countCorrected (1024 + (l * 128 - scrBase) / 2 ^ 24 / 16)
    else s) s
/-- One byte written at its slice (R209, R211, R390). -/
def State.pset (s : State) (pa : Nat) (v : Byte) : State :=
  if pa < hbmTop then
    let n := sliceOf (pa / 128)
    match sfind (s.slice n).lines (pa / 128) with
    | some l =>
      let w := { l with dirty := true, data := lineSet l.data (pa % 128) v }
      s.modSlice n (fun q => { q with lines := sput q.lines (pa / 128) w })
    | none => { s with pmem := mset s.pmem pa v }
  else if scrBase ≤ pa ∧ pa < scrTop ∧ s.scratchLive pa then { s with pmem := mset s.pmem pa v }
  else s
def State.psetFrom (s : State) : Nat → List Byte → State
  | _, [] => s
  | pa, v :: vs => (s.pset pa v).psetFrom (pa + 1) vs
/-- One write of these bytes. -/
def State.psetAll (s : State) (pa : Nat) (bs : List Byte) : State := (s.errWriteAll none pa bs.length).psetFrom pa bs
/-- R213: an engine's read of a line opens its merge window, and a write to the line ends it. -/
def State.openMerge (s : State) (pa n : Nat) : State :=
  (linesOf pa n).foldl (fun s l =>
    let q := s.slice (sliceOf l)
    if 0 < q.mergewin ∧ !q.merging.contains l then s.modSlice (sliceOf l) (fun q => { q with merging := q.merging ++ [l] }) else s) s
def State.closeMerge (s : State) (pa n : Nat) : State :=
  (linesOf pa n).foldl (fun s l =>
    if (s.slice (sliceOf l)).merging.contains l then s.modSlice (sliceOf l) (fun q => { q with merging := q.merging.filter (· != l) })
    else s) s
def State.pwrite (s : State) (pa : Nat) (bs : List Byte) (stream : Bool) : State :=
  ((s.touch pa bs.length stream false).closeMerge pa bs.length).psetAll pa bs

/-! ## Any target (R205) -/

/-- Host address of an address of a space, by ATS. -/
def State.hostAddr (s : State) (asid a : Nat) : Nat :=
  let e := (sget s.spaces 0 asid).toNat
  Config.atsTranslate (bits e 126 122) (bits e 121 102) (a / 4096) * 4096 + a % 4096
/-- Bytes at a target, as its own point holds them; those of another package are not in this state. -/
def State.tread (s : State) (t : Target) (a n : Nat) : List Byte :=
  match t with
  | .spm q => mread (s.troop q).spm a n
  | .dev => s.pread a n
  | .host asid => (List.range n).map (fun i => mbyte s.hostMem (s.hostAddr asid (a + i)))
  | .remote _ => []
/-- Slots and bytes of a launch's channel, and where its buffer begins in a partition (R299). -/
def chanSlots (l : Launch) (c : Nat) : Nat := bits (l.chan c) 9 4 + 1
def chanBytes (l : Launch) (c : Nat) : Nat := (bits (l.chan c) 3 0 + 1) * 16
def chanOn (l : Launch) (c : Nat) : Bool := decide (c < 16) && bitOf (l.chan c) 11
def chanSize (l : Launch) (c : Nat) : Nat := if chanOn l c then chanSlots l c * chanBytes l c else 0
def chanBase (l : Launch) (size c : Nat) : Nat := size - ((List.range (c + 1)).map (chanSize l)).sum
/-- R299: an access to a channel's buffer leaves its contents undefined. -/
def State.chanTouch (s : State) (t a n : Nat) : State :=
  if (s.troop t).chans.isEmpty then s
  else
    let l := s.launchOf t
    let sz := s.spmSize t
    s.modTroop t (fun v => { v with chans := v.chans.map (fun c =>
      let b := chanBase l sz c.1
      if 0 < c.2.occ ∧ a < b + chanSize l c.1 ∧ b < a + n then (c.1, { c.2 with touched := true }) else c) })
def State.spmWrite (s : State) (t a : Nat) (bs : List Byte) : State :=
  let s := s.errWriteAll (some t) a bs.length
  (s.modTroop t (fun v => { v with spm := mwrite v.spm a bs })).chanTouch t a bs.length
/-- An access that writes nothing reaches its point (R212, R215). -/
def State.taccess (s : State) (t : Target) (a n : Nat) (stream pf : Bool) : State :=
  match t with
  | .dev => s.touch a n stream pf
  | .spm q => s.chanTouch q a n
  | .host _ | .remote _ => s
def State.hostSet (s : State) (asid : Nat) : Nat → List Byte → State
  | _, [] => s
  | a, v :: vs => ({ s with hostMem := mset s.hostMem (s.hostAddr asid a) v }).hostSet asid (a + 1) vs
def State.twrite (s : State) (t : Target) (a : Nat) (bs : List Byte) (stream : Bool) : State :=
  match t with
  | .spm q => s.spmWrite q a bs
  | .dev => s.pwrite a bs stream
  | .host asid => s.hostSet asid a bs
  | .remote _ => s
/-- An access the spec gives no behaviour (R390). -/
def targetReserved (t : Target) (a n : Nat) : Bool :=
  match t with
  | .dev => reserved a n
  | .spm _ | .host _ | .remote _ => false
/-- The space of a target's soft errors. -/
def State.targetErr (s : State) (t : Target) (a n : Nat) : Option Nat :=
  match t with
  | .spm q => s.errRead (some q) a n
  | .dev => s.errRead none a n
  | .host _ | .remote _ => none

/-! ## Remote packages (R366, R392) -/

/-- Package of a capability word, and die and core together: the core's number in it (R149). -/
def cwPkg (w : Dword) : Nat := bits w.toNat 63 56
def cwCore (w : Dword) : Nat := bits w.toNat 55 47
/-- Live ports of a package's route, ascending. -/
def State.livePorts (s : State) (pkg : Nat) : List Nat :=
  let r := sget s.routes (0, false) pkg
  if r.2 then (List.range 64).filter (fun i => r.1.getLsbD i && (sget s.ports {} i).live) else []
def State.routeOk (s : State) (pkg : Nat) : Bool := !(s.livePorts pkg).isEmpty
/-- The port for requests of core `k` to core `tc` of a package; `tc` is 0 for memory, and for channel entries, whose target
core the sender does not know (log 17). -/
def State.portFor (s : State) (k tc pkg : Nat) : Nat :=
  let ps := s.livePorts pkg
  ps.getD ((256 * k + tc) % ps.length) 0
/-- Ports on which requests of a pair wait for their answers. -/
def State.pairPorts (s : State) (k tc pkg : Nat) : List Nat :=
  (s.puts.filter (fun m => m.out && coreOf m.src == k && cwPkg m.word == pkg && cwCore m.word == tc)).map (·.port) ++
  (if tc = 0 then
    ((s.core k).reqs.filter (fun r => r.sent && !r.done && r.via == pkg)).map (·.port)
      ++ ((s.core k).sqe.flatMap (fun o => o.outs.filter (fun w => w.2.1 == pkg))).map (·.2.2.2)
      ++ s.chanMsgs.filterMap (fun m => if coreOf m.strand = k ∧ m.pkg = pkg ∧ m.st = 0 then m.out else none)
   else [])
/-- The port of a pair has changed, and requests of it are still to be answered on the one that failed. -/
def State.pairHeld (s : State) (k tc pkg : Nat) : Bool := (s.pairPorts k tc pkg).any (· != s.portFor k tc pkg)

/-! ## The L1 (R207) -/

/-- The key of a line: its target and line number. -/
def lineKey (t : Target) (a : Nat) : Nat :=
  match t with
  | .dev => a / 128
  | .host asid => 2 ^ 60 + asid * 2 ^ 50 + a / 128
  | .remote pkg => 2 ^ 61 + pkg * 2 ^ 50 + a / 128
  | .spm q => 2 ^ 62 + q * 2 ^ 30 + a / 128
/-- A line enters the L1 of 1,024 lines; a line marked first for eviction goes before the others, and which of the
others goes is a free choice (log 3). -/
def State.fillL1 (s : State) (k key : Nat) (data : BitVec 1024) (first : Bool) : State :=
  let c := s.core k
  let full := decide (1024 ≤ c.l1.length) && (sfind c.l1 key).isNone
  let victim := match c.l1.find? (fun e => e.2.first) with
    | some e => e.1
    | none => (c.l1.getD (s.free.1.toNat % c.l1.length) (0, { data := 0 })).1
  let s := if full then s.free.2 else s
  s.modCore k (fun c => { c with l1 := sput (if full then sdel c.l1 victim else c.l1) key { data := data, first := first } })
def State.readL1 (s : State) (k : Nat) (t : Target) (a n : Nat) : Option (List Byte) :=
  (sfind (s.core k).l1 (lineKey t a)).map (fun l => (List.range n).map (fun i => lineByte l.data (a % 128 + i)))
/-- A store of the core updates the bytes of a line that is present, and a line on its way is not filled. -/
def State.updateL1 (s : State) (k : Nat) (t : Target) (a : Nat) (bs : List Byte) : State :=
  let key := lineKey t a
  let put (l : L1Line) : L1Line :=
    { l with data := (List.range bs.length).foldl (fun d i => lineSet d (a % 128 + i) (bs.getD i 0)) l.data }
  s.modCore k (fun c =>
    { c with l1 := match sfind c.l1 key with
               | some l => sput c.l1 key (put l)
               | none => c.l1,
             reqs := c.reqs.map (fun r => if lineKey r.tgt r.addr = key then { r with fill := false } else r) })
/-- One line goes. -/
def State.invLine (s : State) (k key : Nat) : State :=
  s.modCore k (fun c =>
    { c with l1 := sdel c.l1 key,
             reqs := c.reqs.map (fun r => if lineKey r.tgt r.addr = key then { r with fill := false } else r) })

/-! ## Translation (R205, R206, R337, R338) -/

/-- R205. -/
def canonical (a : Dword) : Bool := a.extractLsb' 56 8 == 0 || a.extractLsb' 56 8 == 0xFF
def pageBytes (size : Nat) : Nat :=
  match size with
  | 0 => 2 ^ 12 | 1 => 2 ^ 14 | 2 => 2 ^ 16 | 3 => 2 ^ 18 | 4 => 2 ^ 21 | 5 => 2 ^ 25 | _ => 2 ^ 30
/-- The 57 bits a walk indexes by. -/
def va57 (a : Dword) : Nat := a.toNat % 2 ^ 57
def needR : Nat := 1
def needW : Nat := 2
def needX : Nat := 4
/-- R337: a translation gives the permissions needed. -/
def Tlb.grants (t : Tlb) (need : Nat) : Bool :=
  (!bitOf need 0 || t.r) && (!bitOf need 1 || t.w) && (!bitOf need 2 || t.x)
def Tlb.covers (t : Tlb) (asid va : Nat) : Bool :=
  t.asid == asid && decide (t.vbase ≤ va) && decide (va < t.vbase + pageBytes t.size)
def Tlb.target (t : Tlb) : Target := if t.tgt = 0 then .dev else if t.tgt = 1 then .host t.asid else .remote t.pkg
/-- The translation of an address in the core's TLB, when it stands there with the permissions needed. -/
def State.tlbHit (s : State) (k asid : Nat) (a : Dword) (need : Nat) : Option Tlb :=
  (s.core k).tlb.find? (fun t => t.covers asid (va57 a) && t.grants need)
def Tlb.addr (t : Tlb) (a : Dword) : Nat := t.pa + (va57 a - t.vbase)

/-- A miss enters the core's miss table of 256 keys and goes on to the die, or joins the entry that stands; none when the
table is full. A key the controller has not answered yet is joined there. -/
def State.missKey (s : State) (k asid page need : Nat) : Option State :=
  let c := s.core k
  let d := dieOfCore k
  let here := c.miss.any (fun m => m.asid == asid && m.page == page)
  if here then some s
  else if 256 ≤ c.miss.length then none
  else
    let s := (s.setCore k { c with miss := c.miss ++ [{ asid := asid, page := page }] })
    let join (w : Walk) : Walk :=
      if w.asid = asid ∧ w.page = page ∧ !w.cores.contains k then { w with cores := w.cores ++ [k] } else w
    let v := s.die d
    let asked (f : WalkFault) : WalkFault :=
      if f.asid = asid ∧ f.page = page ∧ !f.cores.contains k then { f with cores := f.cores ++ [k] } else f
    let known := (v.keys ++ v.walks).any (fun w => w.asid == asid && w.page == page)
      || v.wfaults.any (fun f => f.asid == asid && f.page == page)
    some (s.setDie d (if known then { v with keys := v.keys.map join, walks := v.walks.map join, wfaults := v.wfaults.map asked }
      else { v with keys := v.keys ++ [{ asid := asid, page := page, need := need, cores := [k] }] }))

/-- R360, R365: PAGE_FAULT at the access, with its address. -/
def pageFault (a : Dword) (reason : Nat) : Trap :=
  { code := causePageFault, tval := a.extractLsb' 0 32, taddr := a, pfr := reason }

/-- What a strand's access does with its translation: a fault, a wait, or the place. -/
inductive Xl where
  | fault (t : Trap)
  | wait (s : State)
  | at_ (t : Tlb)

/-- R205, R206: the translation of a strand access at global address `a`, by the TLB or as its own miss was answered. -/
def State.xlate (s : State) (a : Dword) (need : Nat) : Xl :=
  let k := coreOf s.x
  let asid := s.asidOf (troopOf s.x)
  let page := va57 a / 4096
  if !canonical a then .fault (pageFault a 0)
  else match (s.tlbHit k asid a need).or (s.myStrand.xl.find? (fun t => t.covers asid (va57 a) && t.grants need)) with
    | some t => .at_ t
    | none =>
      match s.myStrand.refused.filter (fun r => r.1 == asid && r.2.1 == page) with
      | some r => .fault (pageFault a r.2.2)
      | none => match s.missKey k asid page need with
        | some s1 => .wait ((s1.perf k 5 (troopOf s.x) 1).park (.key asid page need))
        | none => .wait (s.park .retry)

/-! ## Scratchpads (R202, R203, R284) -/

/-- R202: the bytes lie in the troop's partition. -/
def State.spmIn (s : State) (t a n : Nat) : Bool := decide (a + n ≤ s.spmSize t)
/-- R203: the troop and offset a window address names, for accesses by troop `t` of `n` bytes. -/
def State.window (s : State) (t a n : Nat) : Option (Nat × Nat) :=
  let core := coreOfTroop t / 64 * 64 + bits a 26 21
  let off := a % 2 ^ 21
  if 2 ^ 27 ≤ a then none
  else match (s.troopsOn core).find? (fun q => (s.troop q).lid == (s.troop t).lid && (s.troop q).res == .resident) with
    | some q => if s.spmIn q off n then some (q, off) else none
    | none => none
/-- R284: an outstanding entry of the owning troop that a strand access of these bytes must wait for. -/
def State.spmBlocked (s : State) (t a n : Nat) (write : Bool) : Bool :=
  let iv := granules (a, a + n)
  (s.core (coreOfTroop t)).score.any (fun e => e.troop == t &&
    (s.meetsWr iv e || (write && ivalMeet iv (entryRd e))))
/-- The same of an access that has reached its bank: entries made after an access of their own troop's strands wait
for it (R286). -/
def State.bankBlocked (s : State) (t a n : Nat) (write own : Bool) (id : Nat) : Bool :=
  let iv := granules (a, a + n)
  (s.core (coreOfTroop t)).score.any (fun e => e.troop == t && !(own && e.before.contains id) &&
    (s.meetsWr iv e || (write && ivalMeet iv (entryRd e))))
/-- A strand access parks on the scoreboard (R284). -/
def State.parkScore (s : State) : State := (s.perf (coreOf s.x) 6 (troopOf s.x) 1).park .retry

/-! ## Store queues (R219, R273) -/

/-- What the crew's queue holds for a load of these bytes: nothing, the bytes, or only part of them. -/
inductive Fwd where
  | none
  | bytes (bs : List Byte)
  | partly
  deriving DecidableEq, Repr
def fwdFrom : List StoreEnt → Target → Nat → Nat → Fwd
  | [], _, _, _ => .none
  | e :: es, t, a, n =>
    if e.tgt = t ∧ e.addr < a + n ∧ a < e.addr + e.data.length then
      if e.addr ≤ a ∧ a + n ≤ e.addr + e.data.length then .bytes ((e.data.drop (a - e.addr)).take n) else .partly
    else fwdFrom es t a n
/-- The youngest queued store decides. -/
def State.queued (s : State) (t : Target) (a n : Nat) : Fwd := fwdFrom s.myCrew.sq.reverse t a n
/-- A request to this location. -/
def Req.hits (r : Req) (t : Target) (a n : Nat) : Bool :=
  match t with
  | .spm _ => r.tgt == t && decide (r.addr < a + n) && decide (a < r.addr + r.size)
  | .dev | .host _ | .remote _ => lineKey r.tgt r.addr == lineKey t a
/-- A request of the core to the location has not been performed (R204, R275). -/
def State.bankOut (s : State) (k : Nat) (t : Target) (a n : Nat) : Bool :=
  (s.core k).reqs.any (fun r => !r.done && r.hits t a n)
/-- What the crew's queue, and the requests on their way to a bank, leave of a load of these bytes. -/
def State.forward (s : State) (t : Target) (a n : Nat) : Fwd :=
  match t, s.queued t a n with
  | .spm _, .none => if s.bankOut (coreOf s.x) t a n then .partly else .none
  | _, f => f
/-- A store enters its crew's queue with the next request number of its core. -/
def State.enqueueStore (s : State) (e : StoreEnt) : State :=
  let id := s.myCore.nextReq
  (s.modMyCrew (fun c => { c with sq := c.sq ++ [{ e with id := id }] })).modMyCore (fun k => { k with nextReq := k.nextReq + 1 })

/-! ## Requests beyond the core -/

/-- A request of a core goes out to its point; one that no loop carries is there. -/
def State.pushReq (s : State) (k : Nat) (r : Req) : State :=
  let s1 := (s.modCore k (fun c => { c with reqs := c.reqs ++ [r] })).reqPost k r false
  if r.isTq && !s1.reqOnLoop k r.id false then s1.noteArrival k r.id else s1
/-- A request of a core takes the next number. -/
def State.addReq (s : State) (k : Nat) (r : Req) : State :=
  (s.modCore k (fun c => { c with nextReq := c.nextReq + 1 })).pushReq k { r with id := (s.core k).nextReq }
def State.delReq (s : State) (k id : Nat) : State :=
  s.modCore k (fun c => { c with reqs := c.reqs.filter (fun r => r.id != id) })
def State.findReq (s : State) (k id : Nat) : Option Req := (s.core k).reqs.find? (fun r => r.id == id)
/-- The issuing strand waits for the request it makes. -/
def State.askReq (s : State) (r : Req) : State :=
  (s.addReq (coreOf s.x) { r with strand := s.x, mop := s.cur.mop }).park (.request s.myCore.nextReq)
/-- The same of a request that counts in LD. -/
def State.sendReq (s : State) (r : Req) : State := (s.incCls (crewOf s.x) .ld).askReq r
/-- The strand goes on, with its destinations pending until the load returns (R219). -/
def State.sendLate (s : State) (r : Req) : State :=
  ((s.addReq (coreOf s.x) { r with strand := s.x, late := true }).modMe (fun t => { t with pend := r.dsts.foldl setBit t.pend })).finish r.len
def reqIsStore (r : Req) : Bool :=
  match r.kind with
  | .store | .flush _ => true
  | _ => false
/-- R219, R273: a store of the core to the line that its slice has not acknowledged. -/
def State.lineUnacked (s : State) (k : Nat) (t : Target) (a : Nat) : Bool :=
  (s.core k).reqs.any (fun r => reqIsStore r && lineKey r.tgt r.addr == lineKey t a) ||
  s.crews.any (fun c => c.1 / 4096 == k && c.2.sq.any (fun e => lineKey e.tgt e.addr == lineKey t a))

/-! ## Turns at a slice and at a bank (R14) -/

def lineOf (a : Nat) : Nat := a / 128 * 128
/-- An earlier request of the core to the line, or to the bytes of a scratchpad, has not been performed. -/
def State.reqBehind (s : State) (k : Nat) (r : Req) : Bool :=
  (s.core k).reqs.any (fun q => decide (q.id < r.id) && !q.done && q.hits r.tgt r.addr r.size)
/-- An action on the header that arrived before this one has not been performed (R419). -/
def State.tqBehind (s : State) (r : Req) : Bool :=
  r.isTq && s.cores.any (fun c => c.2.reqs.any (fun q => q.isTq && !q.done && q.tgt == r.tgt && q.addr == r.addr &&
    (match q.arr, r.arr with
     | some a, some b => decide (a < b)
     | some _, none => true
     | none, _ => false)))
/-- A task-queue action that awaits its entry from another package holds the header's line. -/
def Req.locks (q : Req) (key : Nat) : Bool :=
  q.sent && !q.done && lineKey q.tgt q.addr == key &&
    (match q.tgt with
     | .remote _ => false
     | .dev | .host _ | .spm _ => true)
def State.lineHeld (s : State) (k : Nat) (r : Req) : Bool :=
  s.cores.any (fun c => c.2.reqs.any (fun q => (q.id != r.id || c.1 != k) && q.locks (lineKey r.tgt r.addr)))
/-- Stack and bank of a line. -/
def bankOf (l : Nat) : Nat × Nat := (l % 12, Config.hbmBank (l * 128))
/-- The line is not in its slice: an access of it reaches HBM4. -/
def State.lineMiss (s : State) (l : Nat) : Bool := decide (l * 128 < hbmTop) && (sfind (s.slice (sliceOf l)).lines l).isNone
/-- A request of another class than `cls` waits at memory, for a line of `p`. -/
def State.othersWait (s : State) (cls : Nat) (p : Nat → Bool) : Bool :=
  s.cores.any (fun c => !s.still c.1 && c.2.reqs.any (fun q =>
    q.tgt == .dev && !q.done && !q.sent && reqClass q != cls && q.hasLine p && !s.reqOnLoop c.1 q.id false && !s.reqBehind c.1 q && !s.lineHeld c.1 q))
/-- The slice of a line, or the HBM4 bank an access of it reaches, served this class last, and a request of another class
waits there: it goes first. -/
def State.turnTaken (s : State) (cls l : Nat) : Bool :=
  s.othersWait cls (fun m => sliceOf m == sliceOf l) && (s.slice (sliceOf l)).served == some cls ||
  s.othersWait cls (fun m => bankOf m == bankOf l && s.lineMiss m) && s.lineMiss l
    && sfind (sget s.hbmStacks {} (bankOf l).1).served (bankOf l).2 == some cls
/-- The slice, and the bank, note the class they serve. -/
def State.noteTurn (s : State) (cls l : Nat) : State :=
  let s1 := s.modSlice (sliceOf l) (fun q => { q with served := some cls })
  if s.lineMiss l then
    let v := sget s.hbmStacks {} (bankOf l).1
    { s1 with hbmStacks := sput s1.hbmStacks (bankOf l).1 { v with served := sput v.served (bankOf l).2 cls } }
  else s1
/-- A request has to let one of another class go first. -/
def State.turnHeld (s : State) (r : Req) : Bool :=
  match r.tgt with
  | .host _ | .remote _ | .spm _ => false
  | .dev => r.hasLine (s.turnTaken (reqClass r))
/-- Lines of a request for memory. -/
def Req.allLines (r : Req) : List Nat :=
  match r.kind with
  | .flush _ => r.lines.flatMap (fun q => (List.range q.2).map (q.1 + ·))
  | .load _ _ _ _ | .atom _ _ | .cas _ | .store | .enq _ | .deq _ | .prefetch _ | .fetch => [r.addr / 128]
def State.noteClass (s : State) (r : Req) : State :=
  match r.tgt with
  | .host _ | .remote _ | .spm _ => s
  | .dev => if r.sent then s else r.allLines.foldl (fun s l => s.noteTurn (reqClass r) l) s
/-- Lines that an access of a class by an engine or a controller at a stop cannot reach yet: no loop carries it, another class
goes first, or a task-queue action holds the line (R14, R304, R396). -/
def State.linesHeld (s : State) (stop cls pa n : Nat) : Bool :=
  (linesOf pa n).any (fun l => !s.pathOk stop (sliceStop (sliceOf l)) || s.turnTaken cls l
    || s.cores.any (fun c => c.2.reqs.any (fun q => q.locks l)))
def State.noteTurns (s : State) (cls pa n : Nat) : State := (linesOf pa n).foldl (fun s l => s.noteTurn cls l) s

/-! ## Releases (R277, R282) -/

def scopeNum : Scope → Nat
  | .crew => 0 | .core => 1 | .die => 2 | .pkg => 3 | .span => 4
def scopeWide (o : Option Scope) : Bool :=
  match o with
  | some sc => decide (2 ≤ scopeNum sc)
  | none => false
/-- The strand's loads have returned, and earlier stores have been performed at the scope: entered, past the core order point,
or acknowledged. Releases are cumulative, so the whole crew's or core's stores are awaited (log 13), and at span scope the writes to other packages of
the troop's engine ops, whose completion the strand may have observed (R267). -/
def State.relReady (s : State) (sc : Scope) : Bool :=
  s.loadsIn && match sc with
  | .crew => true
  | .core => s.myCrew.sq.isEmpty
  | .die | .pkg | .span =>
    let k := coreOf s.x
    s.crews.all (fun c => c.1 / 4096 != k || c.2.sq.isEmpty) && (s.core k).reqs.all (fun r => !reqIsStore r)
      && (sc != .span || (s.core k).sqe.all (fun o => o.troop != troopOf s.x || o.outs.isEmpty))

end Sys2Proof.Machine
end

