-- ==== Sys2Proof/Machine/LdSt.lean ====
section
/-! DEFINITION. LdSt.lean: loads, stores, atomics, cache and pin instructions and `fence`
(spec/10_memories.md R219-R226; spec/13_memory_model.md R273-R284; spec/02_execution.md R37). -/

namespace Sys2Proof.Machine

/-! ## Sizes and destinations (R76, R222) -/

def sizeBytes : Size → Nat | .b8 => 1 | .b16 => 2 | .b32 => 4 | .b64 => 8 | .b128 => 16
/-- A data operand of a size: an even pair for 64 bits, a quad for 128. -/
def sizeRegOk (sz : Size) (r : Reg) : Bool :=
  match sz with
  | .b64 => pairOk r
  | .b128 => quadOk r
  | .b8 | .b16 | .b32 => true
def sizeRegs (sz : Size) (r : Reg) : List Nat :=
  match sz with
  | .b64 => pairRegs r
  | .b128 => quadRegs r
  | .b8 | .b16 | .b32 => [r.toNat]
/-- R222: the words a load of these bytes writes. -/
def loadWords (sz : Nat) (sx : Bool) (bs : List Byte) : List Word :=
  match sz with
  | 1 => [if sx then BitVec.ofInt 32 (sextInt 8 (leNat bs)) else w32 (leNat bs)]
  | 2 => [if sx then BitVec.ofInt 32 (sextInt 16 (leNat bs)) else w32 (leNat bs)]
  | _ => wordsOf bs
/-- Bytes a store of this size writes. -/
def State.storeBytes (s : State) (sz : Nat) (r : Reg) : List Byte := (bytesOf (s.rdList r.toNat ((sz + 3) / 4))).take sz

/-- The address of format XM (R76). -/
def State.gaddr (s : State) (a : Reg) (d : Disp) : Dword := s.rd64 a.toNat + dispVal d
def State.saddr (s : State) (a : Reg) (d : Disp) : Nat := (s.rd a.toNat + (dispVal d).extractLsb' 0 32).toNat
def spaceRegOk (sp : Space) (a : Reg) : Bool := sp != .global || pairOk a
def spaceRegs (sp : Space) (a : Reg) : List Nat := if sp = .global then pairRegs a else [a.toNat]

/-! ## Faults of an access -/

def spmFault (a : Nat) : Trap := { code := causeSpmAccess, tval := w32 a }
def eccFault (a : Nat) : Trap := { code := causeEcc, tval := w32 a, taddr := BitVec.ofNat 64 a }
def linklost (a : Dword) : Trap := { code := causeLinklost, tval := a.extractLsb' 0 32, taddr := a }
/-- Remote memory with no path left (R366). -/
def State.lost (s : State) (t : Target) : Bool :=
  match t with
  | .remote p => !s.routeOk p
  | .spm _ | .dev | .host _ => false

/-- A load is done: destinations, and the invalidation of an acquire of die scope or wider. -/
def State.loaded (s : State) (len : BitVec 2) (d : Nat) (ws : List Word) (acq : Bool) : State :=
  let s := s.wrList d ws
  (if acq then s.invL1 (coreOf s.x) else s).finish len

/-- Half of sixteen bytes: the high one, or the low one. -/
def half16 (hi : Bool) (bs : List Byte) : List Byte := if hi then bs.drop 8 else bs.take 8
/-- Sixteen bytes, one half of which was read apart. -/
def patch16 (h : Option (Bool × List Byte)) (bs : List Byte) : List Byte :=
  match h with
  | none => bs
  | some (hi, mine) => if hi then bs.take 8 ++ mine else mine ++ bs.drop 8
/-- The half a waiting 128-bit load has read. -/
def heldHalf (v : Nat) : Bool × List Byte := (v % 2 == 1, leBytes 8 (v / 2))
/-- A load served at issue. R270: one of 128 bits reads its halves apart, in an order that is a free choice, and holds the
first until it has the other. -/
def State.serve (s : State) (len : BitVec 2) (sz : Nat) (sx : Bool) (d : Nat) (bs : List Byte) (acq : Bool) : State :=
  if sz ≠ 16 then s.loaded len d (loadWords sz sx bs) acq
  else match s.myStrand.latch with
    | some v => s.loaded len d (wordsOf (patch16 (some (heldHalf v)) bs)) acq
    | none =>
      let hi := s.free.1.getLsbD 0
      (s.free.2.modMe (fun t => { t with latch := some (2 * leNat (half16 hi bs) + (if hi then 1 else 0)) })).park .retry

/-! ## Global loads and stores (R219, R222) -/

def State.loadGlobal (s : State) (f : Fr) (sz : Nat) (sx : Bool) (pol : Policy) (acq : Bool) (d : Nat) (a : Dword) : State :=
  if a.toNat % sz ≠ 0 then s.illegalOp f 2
  else match s.xlate a needR with
    | .fault t => s.trap f t
    | .wait s1 => s1
    | .at_ t =>
      let tg := t.target
      let ad := t.addr a
      if 63 ≤ s.myCrew.ld then s.park .retry
      else match s.forward tg ad sz with
        | .bytes bs => s.serve f.len sz sx d bs acq
        | .partly => s.park .retry
        | .none =>
          if s.lost tg then s.trap f (linklost a)
          else
            let cached := if pol == .nl1 || acq then none else s.readL1 (coreOf s.x) tg ad sz
            match cached with
            | some bs => s.serve f.len sz sx d bs acq
            | none =>
              if s.lineUnacked (coreOf s.x) tg ad then s.park .retry
              else (s.perf (coreOf s.x) 4 (troopOf s.x) (if pol == .nl1 then 0 else 1)).sendReq
                { id := 0, kind := .load sz sx pol acq, strand := s.x, tgt := tg, addr := ad, va := a.toNat, pg := t.size, pol := pol,
                  nocache := t.nocache, dsts := [d], len := f.len }

/-- A store whose path is lost leaves a kind-4 record (R364, R366). -/
def State.dropStore (s : State) (x : Nat) (va : Nat) : State :=
  if s.hasCrew (crewOf x) then s.addLog (crewOf x) (logRecord 4 0 0 0 (laneOf x) 0 va) else s

def State.storeGlobal (s : State) (f : Fr) (sz : Nat) (pol : Policy) (rel : Option Scope) (b : Reg) (a : Dword) : State :=
  if a.toNat % sz ≠ 0 then s.illegalOp f 2
  else match s.xlate a needW with
    | .fault t => s.trap f t
    | .wait s1 => s1
    | .at_ t =>
      let rdy := match rel with
        | some sc => s.relReady sc
        | none => true
      if 63 ≤ s.myCrew.st || 32 ≤ s.myCrew.sq.length || !rdy then s.park .retry
      else if s.lost t.target then (s.dropStore s.x a.toNat).finish f.len
      else
        ((s.incCls (crewOf s.x) .st).enqueueStore
          { tgt := t.target, va := a.toNat, pg := t.size, addr := t.addr a, data := s.storeBytes sz b, strand := s.x, pol := pol,
            nocache := t.nocache }).finish f.len

/-! ## Scratchpad loads and stores (R202, R203, R284) -/

/-- The troop and offset of a scratchpad or window address. -/
def State.spmPlace (s : State) (sp : Space) (a n : Nat) : Option (Nat × Nat) :=
  if sp = .cluster then s.window (troopOf s.x) a n
  else if s.spmIn (troopOf s.x) a n then some (troopOf s.x, a) else none

/-- A load through the window is a request to its bank, performed at any later time (R276): the strand goes on, or waits when
the load is an acquire. -/
def State.loadBank (s : State) (f : Fr) (sz : Nat) (sx : Bool) (acq : Option Scope) (d : Nat) (a : Nat) (p : Nat × Nat) : State :=
  match s.queued (.spm p.1) p.2 sz with
  | .bytes bs => s.serve f.len sz sx d bs (scopeWide acq)
  | .partly => s.park .retry
  | .none => match s.errRead (some p.1) p.2 sz with
    | some _ => s.trap f (eccFault a)
    | none =>
      let r : Req :=
        { id := 0, kind := .load sz sx .normal (scopeWide acq), strand := s.x, tgt := .spm p.1, addr := p.2, va := a, cluster := true, fill := false,
          dsts := span d (d + (sz + 3) / 4), half := s.myStrand.latch.map heldHalf, len := f.len }
      if acq.isSome then s.askReq r else s.sendLate r
def State.loadSpm (s : State) (f : Fr) (sp : Space) (sz : Nat) (sx : Bool) (acq : Option Scope) (d : Nat) (a : Nat) : State :=
  if a % sz ≠ 0 then s.illegalOp f 2
  else match s.spmPlace sp a sz with
    | none => s.trap f (spmFault a)
    | some p =>
      if sp = .cluster then s.loadBank f sz sx acq d a p
      else if s.spmBlocked p.1 p.2 sz false then s.parkScore
      else match s.forward (.spm p.1) p.2 sz with
        | .bytes bs => s.serve f.len sz sx d bs (scopeWide acq)
        | .partly => s.park .retry
        | .none => match s.errRead (some p.1) p.2 sz with
          | some _ => s.trap f (eccFault a)
          | none => (s.chanTouch p.1 p.2 sz).serve f.len sz sx d (mread (s.troop p.1).spm p.2 sz) (scopeWide acq)

def State.storeSpm (s : State) (f : Fr) (sp : Space) (sz : Nat) (rel : Option Scope) (b : Reg) (a : Nat) : State :=
  if a % sz ≠ 0 then s.illegalOp f 2
  else match s.spmPlace sp a sz with
    | none => s.trap f (spmFault a)
    | some p =>
      let rdy := match rel with
        | some sc => s.relReady sc
        | none => true
      if sp != .cluster && s.spmBlocked p.1 p.2 sz true then s.parkScore
      else if 32 ≤ s.myCrew.sq.length || !rdy then s.park .retry
      else (s.enqueueStore { tgt := .spm p.1, va := a, addr := p.2, data := s.storeBytes sz b, strand := s.x,
                             cluster := sp == .cluster }).finish f.len

/-! ## Atomics (R223, R274, R281) -/

/-- R223 Table 9. -/
def atomNew (op : AtomOp) (sz : Nat) (old b : Nat) : Nat :=
  let w := 8 * sz
  let lt := decide (sextInt w b < sextInt w old)
  match op with
  | .add => (old + b) % 2 ^ w
  | .minS => if lt then b else old
  | .maxS => if lt then old else b
  | .minU => min old b
  | .maxU => max old b
  | .and => old &&& b
  | .or => old ||| b
  | .xor => old ^^^ b
  | .exch => b
  | .fadd => (f32add .rne (BitVec.ofNat 32 old) (BitVec.ofNat 32 b)).toNat

/-- The value an `atom` or `cas` writes, or none to leave its location. -/
def rmwNew (k : ReqKind) (data cmp : List Byte) (old : Nat) : Option Nat :=
  match k with
  | .atom op sz => some (atomNew op sz old (leNat data))
  | .cas _ => if old = leNat cmp then some (leNat data) else none
  | .load _ _ _ _ | .store | .flush _ | .prefetch _ | .fetch | .enq _ | .deq _ => none
def ordAcq (o : MemOrd) : Bool := o == .acq || o == .ar
def ordRel (o : MemOrd) : Bool := o == .rel || o == .ar

/-- A scratchpad read-modify-write at its bank; through the window, as a request the strand waits for, which is checked there
(R203, R284). -/
def State.rmwSpm (s : State) (f : Fr) (sp : Space) (k : ReqKind) (sz : Nat) (o : MemOrd) (sc : Scope) (d : Nat) (a : Nat)
    (data cmp : List Byte) : State :=
  if a % sz ≠ 0 then s.illegalOp f 2
  else match s.spmPlace sp a sz with
    | none => s.trap f (spmFault a)
    | some p =>
      let first := if sp = .cluster then s.queued (.spm p.1) p.2 sz else s.forward (.spm p.1) p.2 sz
      if sp != .cluster && s.spmBlocked p.1 p.2 sz true then s.parkScore
      else if s.myCrew.sq.any (fun e => e.strand == s.x) || first != .none || (ordRel o && !s.relReady sc) then s.park .retry
      else if sp = .cluster then s.askReq
        { id := 0, kind := k, strand := s.x, tgt := .spm p.1, addr := p.2, va := a, cluster := true, fill := false, dsts := [d], data := data,
          cmp := cmp, order := o, scope := sc, len := f.len }
      else if s.myLaunch.det && !s.detReady then s.parkDet
      else match s.errRead (some p.1) p.2 sz with
        | some _ => s.trap f (eccFault a)
        | none =>
          let bs := mread (s.troop p.1).spm p.2 sz
          let s1 := match rmwNew k data cmp (leNat bs) with
            | some v => s.spmWrite p.1 p.2 (leBytes sz v)
            | none => s.chanTouch p.1 p.2 sz
          s1.loaded f.len d (wordsOf bs) (ordAcq o && scopeWide (some sc))

/-- A global read-modify-write is sent to its home, past the L1, whose line goes (R207, R219, R223). -/
def State.rmwGlobal (s : State) (f : Fr) (k : ReqKind) (sz : Nat) (o : MemOrd) (sc : Scope) (d : Nat) (a : Dword)
    (data cmp : List Byte) : State :=
  if a.toNat % sz ≠ 0 then s.illegalOp f 2
  else match s.xlate a (needR + needW) with
    | .fault t => s.trap f t
    | .wait s1 => s1
    | .at_ t =>
      let queued := s.myCrew.sq.any (fun e => e.strand == s.x) || s.lineUnacked (coreOf s.x) t.target (t.addr a)
      if 63 ≤ s.myCrew.ld || queued || (ordRel o && !s.relReady sc) then s.park .retry
      else if s.lost t.target then s.trap f (linklost a)
      else (s.invLine (coreOf s.x) (lineKey t.target (t.addr a))).sendReq
        { id := 0, kind := k, strand := s.x, tgt := t.target, addr := t.addr a, va := a.toNat, pg := t.size, nocache := t.nocache,
          dsts := [d], data := data, cmp := cmp, order := o, scope := sc, len := f.len }

/-- The address of an operand of format XM is a multiple of `n` (R219). -/
def State.memAligned (s : State) (m : Mem) (n : Nat) : Bool :=
  aligned (if m.space = .global then (s.gaddr m.a m.disp).toNat else s.saddr m.a m.disp) n

/-! ## The base access instructions (R220) -/

/-- imm7 of an access: a displacement of 4 bytes a unit. -/
def disp4 (i : BitVec 7) : Dword := i.signExtend 64 * 4
def execLdw (g : Guard) (d a : Reg) (i : BitVec 7) (s : State) : Out :=
  let f := baseFr g false
  let c : Chk := { ops := [(pairOk a, 2)], srcs := pairRegs a, dsts := [d.toNat] }
  .next (s.issue f (s.withVal c (pairRegs a) 2 (aligned (s.rd64 a.toNat + disp4 i).toNat 4))
    (fun s => s.loadGlobal f 4 false .normal false d.toNat (s.rd64 a.toNat + disp4 i)))
def execStw (g : Guard) (d a : Reg) (i : BitVec 7) (s : State) : Out :=
  let f := baseFr g false
  let c : Chk := { ops := [(pairOk a, 2)], srcs := d.toNat :: pairRegs a }
  .next (s.issue f (s.withVal c (pairRegs a) 2 (aligned (s.rd64 a.toNat + disp4 i).toNat 4))
    (fun s => s.storeGlobal f 4 .normal none d (s.rd64 a.toNat + disp4 i)))
def execLds (g : Guard) (d a : Reg) (i : BitVec 7) (s : State) : Out :=
  let f := baseFr g false
  .next (s.issue f (s.withVal (chkUn d a) [a.toNat] 2 (aligned (s.rd a.toNat + (disp4 i).extractLsb' 0 32).toNat 4))
    (fun s => s.loadSpm f .spm 4 false none d.toNat (s.rd a.toNat + (disp4 i).extractLsb' 0 32).toNat))
def execSts (g : Guard) (d a : Reg) (i : BitVec 7) (s : State) : Out :=
  let f := baseFr g false
  .next (s.issue f (s.withVal { srcs := [d.toNat, a.toNat] } [a.toNat] 2
      (aligned (s.rd a.toNat + (disp4 i).extractLsb' 0 32).toNat 4))
    (fun s => s.storeSpm f .spm 4 none d (s.rd a.toNat + (disp4 i).extractLsb' 0 32).toNat))
def execLdp (g : Guard) (d : Reg) (i : BitVec 14) (s : State) : Out :=
  let f := baseFr g false
  .next (s.issue f { ops := [(decide (i.toNat < s.myLaunch.argw), 5)], dsts := [d.toNat] }
    (fun s => s.loadGlobal f 4 false .normal false d.toNat (BitVec.ofNat 64 (s.myLaunch.args + 4 * i.toNat))))
def execAtomsAdd (g : Guard) (d a : Reg) (b : BSrc) (s : State) : Out :=
  let f := baseFr g (bsrcLit b)
  .next (s.issue f (s.withVal (chkBR d a b) [a.toNat] 2 (aligned (s.rd a.toNat).toNat 4))
    (fun s => s.rmwSpm f .spm (.atom .add 4) 4 .relaxed .crew d.toNat (s.rd a.toNat).toNat (leBytes 4 (s.bsrc b).toNat) []))

/-! ## XMEM (R221-R226) -/

def execLd (x : XG) (sz : Size) (sx : Bool) (acq : Option Scope) (pol : Policy) (d : Reg) (m : Mem) (s : State) : Out :=
  let f := extFr x (dispLit m.disp)
  let c : Chk := { ops := [(sizeRegOk sz d, 1), (spaceRegOk m.space m.a, 2)], srcs := spaceRegs m.space m.a,
                   dsts := sizeRegs sz d }
  .next (s.issue f (s.withVal c (spaceRegs m.space m.a) 2 (s.memAligned m (sizeBytes sz)))
    (fun s => if m.space = .global then s.loadGlobal f (sizeBytes sz) sx pol (scopeWide acq) d.toNat (s.gaddr m.a m.disp)
      else s.loadSpm f m.space (sizeBytes sz) sx acq d.toNat (s.saddr m.a m.disp)))
def execSt (x : XG) (sz : Size) (rel : Option Scope) (pol : Policy) (m : Mem) (b : Reg) (s : State) : Out :=
  let f := extFr x (dispLit m.disp)
  let c : Chk := { ops := [(spaceRegOk m.space m.a, 2), (sizeRegOk sz b, 3)],
                   srcs := spaceRegs m.space m.a ++ sizeRegs sz b }
  .next (s.issue f (s.withVal c (spaceRegs m.space m.a) 2 (s.memAligned m (sizeBytes sz)))
    (fun s => if m.space = .global then s.storeGlobal f (sizeBytes sz) pol rel b (s.gaddr m.a m.disp)
      else s.storeSpm f m.space (sizeBytes sz) rel b (s.saddr m.a m.disp)))
def execAtom (x : XG) (op : AtomOp) (sz : Size) (o : MemOrd) (sc : Scope) (d : Reg) (m : Mem) (b : Reg) (s : State) : Out :=
  let f := extFr x (dispLit m.disp)
  let n := sizeBytes sz
  let c : Chk := { ops := [(sizeRegOk sz d, 1), (spaceRegOk m.space m.a, 2), (sizeRegOk sz b, 3)],
                   srcs := spaceRegs m.space m.a ++ sizeRegs sz b, dsts := sizeRegs sz d }
  .next (s.issue f (s.withVal c (spaceRegs m.space m.a) 2 (s.memAligned m n))
    (fun s => if m.space = .global then
        s.rmwGlobal f (.atom op n) n o sc d.toNat (s.gaddr m.a m.disp) (s.storeBytes n b) []
      else s.rmwSpm f m.space (.atom op n) n o sc d.toNat (s.saddr m.a m.disp) (s.storeBytes n b) []))
def execCas (x : XG) (sz : Size) (o : MemOrd) (sc : Scope) (d : Reg) (m : Mem) (b e : Reg) (s : State) : Out :=
  let f := extFr x (dispLit m.disp)
  let n := sizeBytes sz
  let c : Chk := { ops := [(sizeRegOk sz d, 1), (spaceRegOk m.space m.a, 2), (sizeRegOk sz b, 3), (sizeRegOk sz e, 4)],
                   srcs := spaceRegs m.space m.a ++ sizeRegs sz b ++ sizeRegs sz e, dsts := sizeRegs sz d }
  .next (s.issue f (s.withVal c (spaceRegs m.space m.a) 2 (s.memAligned m n))
    (fun s => if m.space = .global then
        s.rmwGlobal f (.cas n) n o sc d.toNat (s.gaddr m.a m.disp) (s.storeBytes n b) (s.storeBytes n e)
      else s.rmwSpm f m.space (.cas n) n o sc d.toNat (s.saddr m.a m.disp) (s.storeBytes n b) (s.storeBytes n e)))

/-- R224: a prefetch that would fault is dropped. -/
def execPrefetch (x : XG) (pol : Policy) (m : GMem) (s : State) : Out :=
  let f := extFr x (dispLit m.disp)
  .next (s.issue f { ops := [(pairOk m.a, 2)], srcs := pairRegs m.a } (fun s =>
    let a := s.gaddr m.a m.disp
    match s.xlate a needR with
    | .fault _ => s.finish f.len
    | .wait s1 => s1
    | .at_ t =>
      if s.lost t.target then s.finish f.len
      else
        let miss := pol != .nl1 && (s.readL1 (coreOf s.x) t.target (t.addr a) 1).isNone
        ((s.perf (coreOf s.x) 4 (troopOf s.x) (if miss then 1 else 0)).addReq (coreOf s.x)
        { id := 0, kind := .prefetch pol, strand := s.x, tgt := t.target, addr := t.addr a / 128 * 128, va := a.toNat, pg := t.size,
          pol := pol, nocache := t.nocache }).finish f.len))

/-- The lines that meet [a, a + n), as addresses of their first bytes page by page: (address, lines) (R225). -/
def linePages (a : Dword) (n : Nat) : List (Dword × Nat) :=
  if n = 0 then []
  else
    let lo := a.toNat / 128
    let hi := (a.toNat + n + 127) / 128
    (span (lo / 32) ((hi + 31) / 32)).map (fun p => (BitVec.ofNat 64 (max lo (p * 32) * 128), min hi (p * 32 + 32) - max lo (p * 32)))
/-- Every covered page translated, or the first fault or wait. `got` are the translations found so far; a strand that has
to wait keeps them for this instruction, so that any number of pages can be covered (log 7). -/
def State.xlateFrom (s : State) (got : List Tlb) : List (Dword × Nat) → Except Xl (List (Tlb × Nat × Nat))
  | [] => .ok []
  | p :: ps => match s.xlate p.1 needR with
    | .at_ t => match s.xlateFrom (if got.contains t then got else t :: got) ps with
      | .ok r => .ok ((t, t.addr p.1, p.2) :: r)
      | .error e => .error e
    | .wait s1 => .error (.wait (s1.modMe (fun v => { v with xl := got })))
    | .fault t => .error (.fault t)
def State.xlatePages (s : State) (ps : List (Dword × Nat)) : Except Xl (List (Tlb × Nat × Nat)) := s.xlateFrom s.myStrand.xl ps
def State.stopXl (s : State) (f : Fr) : Xl → State
  | .fault t => s.trap f t
  | .wait s1 => s1
  | .at_ _ => s
/-- Size code of the largest page of some translations. -/
def largest (ps : List (Tlb × Nat × Nat)) : Nat := (ps.map (·.1.size)).foldl max 0
/-- The lines of translated pages leave the core's L1. -/
def State.invPages (s : State) (ps : List (Tlb × Nat × Nat)) : State :=
  ps.foldl (fun s p => (List.range p.2.2).foldl (fun s i => s.invLine (coreOf s.x) (lineKey p.1.target (p.2.1 + 128 * i))) s) s

def execCflush (x : XG) (m : GMem) (b : Reg) (s : State) : Out :=
  let f := extFr x (dispLit m.disp)
  .next (s.issue f { ops := [(pairOk m.a, 2)], srcs := b.toNat :: pairRegs m.a } (fun s =>
    let a := s.gaddr m.a m.disp
    match s.xlatePages (linePages a (s.rd b.toNat).toNat) with
    | .error e => s.stopXl f e
    | .ok ps =>
      if 63 ≤ s.myCrew.st then s.park .retry
      else
        let dev := ps.filter (fun p => p.1.tgt == 0)
        (((s.invPages ps).incCls (crewOf s.x) .st).addReq (coreOf s.x)
          { id := 0, kind := .flush dev.length, strand := s.x, tgt := .dev, addr := 2 ^ 45, va := a.toNat, vlen := (s.rd b.toNat).toNat, pg := largest ps,
            lines := dev.map (fun p => (p.2.1 / 128, p.2.2)) }).finish f.len))
def execCinval (x : XG) (all : Bool) (m : GMem) (b : Reg) (s : State) : Out :=
  let f := extFr x (dispLit m.disp)
  .next (if all then s.issueSimple f {} (fun s => s.invL1 (coreOf s.x))
    else s.issue f { ops := [(pairOk m.a, 2)], srcs := b.toNat :: pairRegs m.a } (fun s =>
      match s.xlatePages (linePages (s.gaddr m.a m.disp) (s.rd b.toNat).toNat) with
      | .error e => s.stopXl f e
      | .ok ps => (s.invPages ps).finish f.len))

/-- R226: the window rounded outward to 64 KiB, as pages of 4 KiB. -/
def pinPages (a : Dword) (n : Nat) : List (Dword × Nat) :=
  let lo := a.toNat / 65536 * 65536
  let hi := (a.toNat + n + 65535) / 65536 * 65536
  (List.range ((hi - lo) / 4096)).map (fun i => (BitVec.ofNat 64 (lo + 4096 * i), 32))
def pinUnits (a : Dword) (n : Nat) : Nat := (a.toNat + n + 65535) / 65536 - a.toNat / 65536
/-- A request goes to the management controller, with its event, and the strand waits for the answer. -/
def State.askPin (s : State) (r : PinReq) (kind : Nat) : State :=
  let f := bits (sget s.spaces 0 r.asid).toNat 126 122
  let s1 := { s with pinReqs := s.pinReqs ++ [r], mevTag := (s.mevTag + 1) % 65536 }
  (s1.mevEvent kind f r.tag 0).park (.request 0)
def execPin (x : XG) (pd : PReg) (m : GMem) (b e : Reg) (s : State) : Out :=
  let f := extFr x (dispLit m.disp)
  let c : Chk := { ops := [(pairOk m.a, 2)], srcs := b.toNat :: e.toNat :: pairRegs m.a }
  let c1 := s.withVal c (b.toNat :: pairRegs m.a) 3
    (let n := (s.rd b.toNat).toNat; decide (n ≠ 0 ∧ pinUnits (s.gaddr m.a m.disp) n ≤ 16384))
  .next (s.issue f (s.withVal c1 [e.toNat] 4 (bits (s.rd e.toNat).toNat 31 20 == 0)) (fun s =>
    let a := s.gaddr m.a m.disp
    let n := (s.rd b.toNat).toNat
    let v := (s.rd e.toNat).toNat
    if n = 0 ∨ 16384 < pinUnits a n then s.illegalOp f 3
    else if bits v 31 20 ≠ 0 then s.illegalOp f 4
    else match s.xlatePages (pinPages a n) with
      | .error e => s.stopXl f e
      | .ok ps =>
        let r : PinReq :=
          { strand := s.x, release := false, asid := s.asidOf (troopOf s.x), va := va57 a / 65536 * 65536,
            len := f.len, units := pinUnits a n, unit := bits v 19 16, fade := bits v 15 0,
            pages := (ps.filter (fun p => p.1.tgt == 0)).map (fun p => p.2.1 / 4096), pg := largest ps, pdst := pd.toNat, tag := s.mevTag }
        s.askPin r 5))
def execUnpin (x : XG) (pd : PReg) (m : GMem) (s : State) : Out :=
  let f := extFr x (dispLit m.disp)
  .next (s.issue f { ops := [(pairOk m.a, 2)], srcs := pairRegs m.a } (fun s =>
    let r : PinReq :=
      { strand := s.x, release := true, asid := s.asidOf (troopOf s.x), va := va57 (s.gaddr m.a m.disp), len := f.len,
        units := 0, unit := 0, fade := 0, pages := [], pdst := pd.toNat, tag := s.mevTag }
    s.askPin r 6))

/-- R282. -/
def execFence (x : XG) (k : FenceKind) (sc : Scope) (s : State) : Out :=
  let f := extFr x false
  .next (s.issue f {} (fun s =>
    if if k = .acq then !s.loadsIn else !s.relReady sc then s.park .retry
    else (if k != .rel && scopeWide (some sc) then s.invL1 (coreOf s.x) else s).finish f.len))

end Sys2Proof.Machine
end

