-- ==== Sys2Proof/Machine/Control.lean ====
section
/-! DEFINITION. Control.lean: branches, exit, software traps, `rein` and `trigger`
(spec/05_registers_strand.md R111-R116; spec/02_execution.md R35, R39; spec/14_queues.md R308). -/

namespace Sys2Proof.Machine

/-- The instruction is done and the PC goes to an address. -/
def State.jump (s : State) (target : Dword) : State :=
  ((s.modMe (fun t => { t with pc := target, step := 63, refused := none, latch := none, xl := [], fetched := none })).retire).toEligible s.x
/-- Target of format BJ: the first word's address plus 4 times imm21. -/
def State.bjTarget (s : State) (off : BitVec 21) : Dword := s.myStrand.pc + off.signExtend 64 * 4
/-- R111: the address after the instruction, canonical in 57 bits. -/
def State.linkAddr (s : State) (len : BitVec 2) : Dword :=
  ((s.myStrand.pc + BitVec.ofNat 64 (4 * frameWords len)).extractLsb' 0 57).signExtend 64

def execBra (g : Guard) (off : BitVec 21) (s : State) : Out :=
  .next (s.issue (baseFr g false) {} (fun s => s.jump (s.bjTarget off)))
def execCall (g : Guard) (off : BitVec 21) (s : State) : Out :=
  let f := baseFr g false
  .next (s.issue f { dsts := [126, 127] } (fun s =>
    let t := s.bjTarget off
    (s.wr64 126 (s.linkAddr f.len)).jump t))
/-- R112: a target whose low bits are not zero is refused; any other is jumped to. -/
def State.jumpTo (s : State) (f : Fr) (target : Dword) : State :=
  if target.extractLsb' 0 2 != 0 then s.illegalOp f 2 else s.jump target
def execBrx (g : Guard) (a : Reg) (s : State) : Out :=
  let f := baseFr g false
  .next (s.issue f { ops := [(pairOk a, 2)], srcs := pairRegs a } (fun s => s.jumpTo f (s.rd64 a.toNat)))
def execRet (g : Guard) (s : State) : Out :=
  let f := baseFr g false
  .next (s.issue f { srcs := [126, 127] } (fun s => s.jumpTo f (s.rd64 126)))
def execExit (g : Guard) (s : State) : Out :=
  .next (s.issue (baseFr g false) {} (fun s => s.retire.exitStrand s.x))
/-- R114: the new stamp every finished instruction takes is the whole effect. -/
def execYield (g : Guard) (s : State) : Out := .next (s.issueSimple (baseFr g false) {} id)
def execTrap (g : Guard) (code : BitVec 14) (s : State) : Out :=
  let f := baseFr g false
  .next (s.issue f {} (fun s => s.trap f { code := causeSoftware, tval := code.zeroExtend 32 }))
def execBkpt (g : Guard) (code : BitVec 14) (s : State) : Out :=
  let f := baseFr g false
  .next (s.issue f {} (fun s => s.trap f { code := causeBreakpoint, tval := code.zeroExtend 32 }))

/-- R35: the holder passes the rein to its partner; a crew outside any pair has no right to `rein`. -/
def execRein (g : Guard) (s : State) : Out :=
  let me := crewIdx (crewOf s.x)
  let inPair (p : Nat × Nat × Nat) : Bool := p.1 == me || p.2.1 == me
  .next (s.issueSimple (baseFr g false) { role := s.isMatrix && s.myTroop.reins.any inPair } (fun s =>
    s.modMyTroop (fun t => { t with reins := t.reins.map (fun p =>
      if p.2.2 = me then (p.1, p.2.1, if p.1 = me then p.2.1 else p.1) else p) })))
/-- R39: a release at package scope, then the strand has triggered. -/
def execTrigger (g : Guard) (s : State) : Out :=
  let f := baseFr g false
  .next (s.issue f {} (fun s =>
    if s.relReady .pkg then ((s.modMe (fun t => { t with trig := true })).noteTrig (troopOf s.x)).finish f.len else s.park .retry))

end Sys2Proof.Machine
end

