-- ==== Sys2Proof/Machine/Special.lean ====
section
/-! DEFINITION. Special.lean: special registers, crew registers, predicates as a word, and register blocks
(spec/05_registers_strand.md R91-R97). -/

namespace Sys2Proof.Machine

def roleNum : Role → Nat | .access => 0 | .matrix => 1 | .vector => 2

/-- R97 Table 4: the value of a special register of the issuing strand. -/
def State.sreg (s : State) (r : SReg) : Word :=
  match r with
  | .lane => w32 (laneOf s.x)
  | .plane => w32 (s.plane s.x)
  | .quarter => w32 s.myCrew.unit
  | .crew => w32 (crewIdx (crewOf s.x))
  | .troop => w32 s.myTroop.index
  | .herd => w32 s.myTroop.herd
  | .core => w32 (coreOf s.x % 64)
  | .die => w32 (dieOfCore (coreOf s.x))
  | .pkg => s.pkg.zeroExtend 32
  | .role => w32 (roleNum s.myCrew.role)
  | .ncrews => w32 s.myTroop.ncrews
  | .extblk => w32 s.myCrew.ext
  | .sgw => s.myTroop.sgw
  | .trappcLo => s.myStrand.trappc.extractLsb' 0 32
  | .trappcHi => s.myStrand.trappc.extractLsb' 32 32
  | .cause => s.myStrand.cause
  | .tval => s.myStrand.tval
  | .fidrate => s.myTroop.fidrate
  | .fidthr => s.myTroop.fidthr
/-- Bits of `CAUSE` software writes (R360 Table 2). -/
def causeMask : Word := 0xFFFF87FF
/-- A write; registers of access LA and RO ignore it (R4, R97). -/
def State.setSreg (s : State) (r : SReg) (v : Word) : State :=
  match r with
  | .trappcLo => s.modMe (fun t => { t with trappc := t.trappc.extractLsb' 32 32 ++ v })
  | .trappcHi => s.modMe (fun t => { t with trappc := v ++ t.trappc.extractLsb' 0 32 })
  | .cause => s.modMe (fun t => { t with cause := v &&& causeMask })
  | .tval => s.modMe (fun t => { t with tval := v })
  | .fidrate => s.modMyTroop (fun t => { t with fidrate := v &&& 31 })
  | .fidthr => s.modMyTroop (fun t => { t with fidthr := v })
  | .lane | .plane | .quarter | .crew | .troop | .herd | .core | .die | .pkg | .role | .ncrews | .extblk | .sgw => s

def execSread (x : XG) (d : Reg) (r : SReg) (s : State) : Out :=
  .next (s.issueSimple (extFr x false) { dsts := [d.toNat] } (fun s => s.wr d.toNat (s.sreg r)))
def execSwrite (x : XG) (r : SReg) (a : Reg) (s : State) : Out :=
  .next (s.issueSimple (extFr x false) { srcs := [a.toNat] } (fun s => s.setSreg r (s.rd a.toNat)))
def execKmov (x : XG) (d k : Reg) (s : State) : Out :=
  .next (s.issueSimple (extFr x false) { ops := [(decide (k.toNat < 32), 2)], dsts := [d.toNat] }
    (fun s => s.wr d.toNat (sget s.myCrew.k 0 k.toNat)))
def execPmovGet (x : XG) (d : Reg) (s : State) : Out :=
  .next (s.issueSimple (extFr x false) { dsts := [d.toNat] }
    (fun s => s.wr d.toNat ((1#1 ++ s.myStrand.preds).zeroExtend 32)))
def execPmovSet (x : XG) (a : Reg) (mask : BitVec 7) (s : State) : Out :=
  .next (s.issueSimple (extFr x false) { srcs := [a.toNat] } (fun s =>
    let v := (s.rd a.toNat).extractLsb' 0 7
    s.modMe (fun t => { t with preds := (t.preds &&& ~~~mask) ||| (v &&& mask) })))

/-! ## `grow` and `shrink` (R91-R93) -/

def execGrow (x : XG) (pd : PReg) (n : BitVec 2) (t : Bool) (s : State) : Out :=
  let f := extFr x false
  .next (s.issue f {} (fun s =>
    let c := crewOf s.x
    if n.toNat ≤ s.myCrew.ext then (s.wrP pd true).finish f.len
    else if s.myStrand.latch.isSome then
      if t then s.trap f { code := causeGrowDeadlock, tval := w32 n.toNat }
      else ((s.modMe (fun v => { v with cause := (v.cause &&& 0xFFFFFF00) ||| w32 causeGrowDeadlock })).wrP pd false).finish f.len
    else
      let req := match s.myCrew.grow with
        | some g => (max g.1 n.toNat, g.2)
        | none => (n.toNat, s.myCore.cycle)
      let s1 := (s.modCrew c (fun v => { v with grow := some req })).grantAll (troopOf s.x)
      if n.toNat ≤ s1.myCrew.ext then (s1.wrP pd true).finish f.len
      else (s1.park .grow).growDeadlock (troopOf s.x)))

/-- R325, R326: an entry is freed, its generation moves on, and it can be minted from the next cycle on. -/
def State.freeCaps (s : State) (k : Nat) (which : Cap → Bool) : State :=
  s.modCore k (fun c => { c with caps := c.caps.map (fun e =>
    if e.2.live && which e.2 then (e.1, { e.2 with live := false, gen := (e.2.gen + 1) % 2048, from_ := c.cycle + 1 }) else e) })

def execShrink (x : XG) (n : BitVec 2) (s : State) : Out :=
  let f := extFr x false
  .next (s.issue f {} (fun s =>
    let c := crewOf s.x
    if s.myCrew.ext ≤ n.toNat then s.finish f.len
    else if s.myCrew.ld ≠ 0 || s.bankWaits c then s.park .retry
    else
      let s1 := s.freeCaps (coreOf s.x) (fun e => e.crew == c && decide (32 * n.toNat + 32 < e.base + e.count))
      ((s1.setExt c n.toNat).allocate (troopOf s.x)).finish f.len))

end Sys2Proof.Machine
end

