-- ==== Sys2Proof/Machine/Macro.lean ====
section
/-! DEFINITION. Macro.lean: the macro store and the instructions that store, read and call macros
(spec/15_tables.md R327-R332). -/

namespace Sys2Proof.Machine

def opInMacro (op : Nat) : Bool :=
  decide (0x01 ≤ op ∧ op ≤ 0x23) || decide (0x25 ≤ op ∧ op ≤ 0x27) || decide (0x2C ≤ op ∧ op ≤ 0x2F) ||
  decide (0x30 ≤ op ∧ op ≤ 0x4B) || decide (0x50 ≤ op ∧ op ≤ 0x55) || decide (0x58 ≤ op ∧ op ≤ 0x5F)
/-- R328: a record `mstore` accepts. -/
def recordOk (w : Dword) : Bool :=
  let v := w.toNat
  w == 0 || (bits v 63 36 == 0 && bits v 1 0 == 0 && opInMacro (bits v 8 2)
    && (!bitOf v 32 || bits v 17 13 == 0) && (!bitOf v 33 || bits v 24 20 == 0) && (!bitOf v 34 || bits v 31 27 == 0))
def State.macroOwner (s : State) (m : Nat) : Option Nat := sfind s.myCore.mowner m
def State.macroMine (s : State) (m : Nat) : Bool := s.macroOwner m == some (troopOf s.x)
def State.macroRecord (s : State) (m q : Nat) : Dword := sget s.myCore.macros 0 (32 * m + q)

/-- R331: the word of a record with each substituted field replaced by its parameter. -/
def substWord (r : Dword) (p : Nat → BitVec 7) : Word :=
  let v := r.toNat
  let fld (sub lo : Nat) : BitVec 7 :=
    if bitOf v sub then p (bits v (lo + 1) lo) else BitVec.ofNat 7 (bits v (lo + 6) lo)
  fld 34 25 ++ fld 33 18 ++ fld 32 11 ++ r.extractLsb' 0 11

/-- A call begins: the strand's step is 0, and its first micro-op issues with it. -/
def State.enterMacro (s : State) (f : Fr) (m no : Nat) : State :=
  if s.macroMine m then s.modMe (fun t => { t with step := 0, mindex := m }) else s.illegalOp f no
def execMcall (g : Guard) (m _a _b : Reg) (s : State) : Out :=
  let f := baseFr g false
  .next (if s.guardOk f then s.checked f { ops := [(decide (m.toNat < 64), 1)] } (fun s => s.enterMacro f m.toNat 1)
    else s.passOver f.len)
def execMcallX (x : XG) (m : BitVec 6) (_d _a : Reg) (b : RSrc) (_e : Reg) (s : State) : Out :=
  let f := extFr x false
  let ok := match b with | .imm v => decide (v.toNat < 128) | .reg _ => true
  .next (if s.guardOk f then s.checked f { ops := [(ok, 5)] } (fun s => s.enterMacro f m.toNat 5) else s.passOver f.len)

def execMstore (x : XG) (m : BitVec 6) (a : Reg) (q : RSrc) (pr : PReg) (s : State) : Out :=
  let f := extFr x false
  let c : Chk := { ops := [(pairOk a, 2)], srcs := pairRegs a ++ rsrcRegs q }
  .next (s.issue f (s.withVal c (rsrcRegs q) 3 (decide ((s.rsrc q).toNat < 32))) (fun s =>
    let w := s.rd64 a.toNat
    let n := (s.rsrc q).toNat
    if !recordOk w then s.illegalOp f 2
    else if 32 ≤ n then s.illegalOp f 3
    else match s.macroOwner m.toNat with
      | some t => if t = troopOf s.x
          then ((s.modMyCore (fun c => { c with macros := sset c.macros 0 (32 * m.toNat + n) w })).wrP pr true).finish f.len
          else (s.wrP pr false).finish f.len
      | none =>
        let t := troopOf s.x
        ((s.modMyCore (fun c =>
            { c with macros := sset c.macros 0 (32 * m.toNat + n) w, mowner := sput c.mowner m.toNat t })).wrP pr true).finish f.len))
def execMread (x : XG) (m : BitVec 6) (d : Reg) (q : RSrc) (s : State) : Out :=
  let f := extFr x false
  let c : Chk := { ops := [(pairOk d, 1)], srcs := rsrcRegs q, dsts := pairRegs d }
  .next (s.issue f (s.withVal c (rsrcRegs q) 3 (decide ((s.rsrc q).toNat < 32))) (fun s =>
    let n := (s.rsrc q).toNat
    if 32 ≤ n then s.illegalOp f 3
    else (s.wr64 d.toNat (if s.macroMine m.toNat then s.macroRecord m.toNat n else 0)).finish f.len))

/-- Macros of a troop are free again (R327). -/
def State.freeMacros (s : State) (t : Nat) : State :=
  s.modCore (coreOfTroop t) (fun c =>
    { c with macros := c.macros.filter (fun e => sfind c.mowner (e.1 / 32) != some t),
             mowner := c.mowner.filter (fun e => e.2 != t) })

end Sys2Proof.Machine
end

