-- ==== Sys2Proof/Machine/Sys.lean ====
section
/-! DEFINITION. Sys.lean: return from the handler, the trap record and event log, `ppoint`, `sleep` and `halt`
(spec/17_traps_context.md R367-R372; spec/08_registers_tile.md R172; spec/15_tables.md R332). -/

namespace Sys2Proof.Machine

/-- Fields of a `CAUSE` word (R360 Table 2). -/
def causeStep (c : Word) : Nat := bits c.toNat 29 24
def causeIndex (c : Word) : Nat := bits c.toNat 23 18
def causeFlen (c : Word) : BitVec 2 := c.extractLsb' 15 2

/-- The most recently delivered tile fault the strand has not returned from. -/
def State.tileReturn (s : State) (x : Nat) : Option TileFault :=
  (s.troop (troopOf x)).tfaults.find? (fun f => f.anchor == x && f.delivered)
/-- R172 step 5: the op is resubmitted, ahead of the held ops and behind those the anchor inserted, or discarded. -/
def State.endTileFault (s : State) (x : Nat) (skip : Bool) : State :=
  let t := troopOf x
  match s.tileReturn x with
  | none => s
  | some f =>
    let s1 := s.modTroop t (fun v => { v with tfaults := v.tfaults.erase f })
    let o := { f.op with running := false }
    let s2 := if skip then s1.tileDiscard f
      else if (s1.troop t).tfaults.isEmpty then s1.modTroop t (fun v =>
        { v with theld := v.theld.takeWhile (·.inserted) ++ o :: v.theld.dropWhile (·.inserted) })
      else s1.modCore (coreOfTroop t) (fun k => { k with tq := k.tq ++ [o] })
    (s2.refit t).pumpCore (coreOfTroop t)

/-- The micro-op that `CAUSE` names carried `end`: as it was when it trapped, or, where software has named another, as
its record stands (R332; log 24). -/
def State.trappedLast (s : State) (c : Word) : Bool :=
  match s.myStrand.mended with
  | some (m, n, e) => if m = causeIndex c ∧ n = causeStep c then e else bitOf (s.macroRecord (causeIndex c) (causeStep c)).toNat 35
  | none => bitOf (s.macroRecord (causeIndex c) (causeStep c)).toNat 35
/-- `TRAPPC` as a PC: a multiple of 4 (R66; log 24). -/
def trapPc (a : Dword) : Dword := a &&& ~~~3
/-- R368, R332: where the strand continues, and its step. -/
def State.eretTo (s : State) (skip : Bool) : Dword × Nat :=
  let t := s.myStrand
  let n := causeStep t.cause
  let pc := trapPc t.trappc
  let past := (pc + BitVec.ofNat 64 (4 * frameWords (causeFlen t.cause)), 63)
  if !skip then (pc, if n < 32 then n else 63)
  else if n < 32 then if s.trappedLast t.cause || n == 31 then past else (pc, n + 1)
  else if t.cause.getLsbD 17 then (pc + 4, 63)
  else past
def State.eret (s : State) (skip : Bool) : State :=
  let dest := s.eretTo skip
  let s1 := s.modMe (fun t => { t with pc := dest.1, step := dest.2, mindex := causeIndex t.cause, cause := clrBit t.cause 31, refused := none, latch := none, xl := [], fetched := none })
  ((s1.retire).endTileFault s.x skip).toEligible s.x
def execEret (x : XG) (s : State) : Out := .next (s.issue (extFr x false) {} (fun s => s.eret false))
def execEretSkip (x : XG) (s : State) : Out := .next (s.issue (extFr x false) {} (fun s => s.eret true))

def execCauseAddr (x : XG) (d : Reg) (s : State) : Out :=
  .next (s.issueSimple (extFr x false) { ops := [(pairOk d, 1)], dsts := pairRegs d }
    (fun s => s.wr64 d.toNat s.myStrand.taddr))
def execCauseLog (x : XG) (d : Reg) (s : State) : Out :=
  .next (s.issueSimple (extFr x false) { ops := [(pairOk d, 1)], dsts := pairRegs d } (fun s =>
    (s.wr64 d.toNat (s.myCrew.log.headD 0)).modMyCrew (fun c => { c with log := c.log.drop 1 })))
def execCauseLogn (x : XG) (d : Reg) (s : State) : Out :=
  .next (s.issueSimple (extFr x false) { dsts := [d.toNat] } (fun s =>
    (s.wr d.toNat (w32 (s.myCrew.log.length + 256 * s.myCrew.lost))).modMyCrew (fun c => { c with lost := 0 })))

/-- A save request of the strand's crew or troop is pending (R370). -/
def State.savePending (s : State) : Bool := s.myCrew.saveReq.isSome || s.myTroop.saveReq.isSome
def execPpoint (x : XG) (park : Bool) (pd : PReg) (s : State) : Out :=
  let f := extFr x false
  .next (s.issue f {} (fun s =>
    if park && s.savePending then (s.modMe (fun t => { t with latch := some 1 })).park .retry
    else (s.wrP pd (s.savePending || s.myStrand.latch.isSome)).finish f.len))

def execSleep (x : XG) (b : XSrc) (s : State) : Out :=
  let f := extFr x (xsrcLit b)
  .next (s.issue f { ops := [(xsrcOk b, 5)], srcs := xsrcRegs b } (fun s =>
    let at_ := s.myStrand.latch.getD (s.myCore.cycle + (s.xsrc b).toNat)
    if s.myLaunch.det || at_ ≤ s.myCore.cycle then s.finish f.len
    else (s.modMe (fun t => { t with latch := some at_ })).park (.clock at_)))

/-- R372: every strand exits; ops not started, and phases that would become one, are discarded with their scoreboard entries,
held tile faults end, the bins go; what is active or in flight runs on. The entries freed go to what waited for one (R169). -/
def State.haltTroop (s : State) (t : Nat) : State :=
  let k := coreOfTroop t
  let c := s.core k
  let gone := (((c.tq.filter (fun o => o.troop == t && !o.running)) ++ (s.troop t).theld).map (·.opid))
    ++ ((s.troop t).tfaults.map (fun f => f.op.opid))
    ++ ((c.sqe ++ c.xqe).filter (fun o => o.troop == t && !o.active)).map (·.opid)
    ++ (c.kq.filter (fun o => o.troop == t && !o.active)).map (·.opid)
  let s := (s.crewsOf t).foldl (fun s q => (s.liveLanes q).foldl (fun s x =>
    let out := s.storesOf k
    s.modStrand x (fun v =>
      { v with life := .exited, wait := .none, faults := [], naks := [], team := none, latch := none, xl := [], fetched := none, after := out })) s) s
  let left (p : Phase) : Phase := { p with kind := none, sigs := [] }
  let s := s.modTroop t (fun v =>
    { v with tilelost := v.tilelost || !v.tfaults.isEmpty, tfaults := [], theld := [], saveReq := none,
             hitches := v.hitches.map (fun h => (h.1, { h.2 with phase := left h.2.phase })) })
  let s := (s.crewsOf t).foldl (fun s q => s.modCrew q (fun v => { v with saveReq := none, grow := none, h0 := left v.h0 })) s
  s.modCore k (fun c =>
    { c with tq := c.tq.filter (fun o => o.troop != t || o.running),
             sqe := c.sqe.filter (fun o => o.troop != t || o.active),
             xqe := c.xqe.filter (fun o => o.troop != t || o.active),
             kq := c.kq.filter (fun o => o.troop != t || o.active),
             score := c.score.filter (fun e => e.troop != t || !gone.contains e.opid),
             scoreWait := c.scoreWait.filter (fun x => waiterTroop x != t),
             bins := c.bins.filter (fun b => b.2.troop != t) }) |>.pumpCore k |>.noteTrig t
def execHalt (x : XG) (s : State) : Out :=
  .next (s.issue (extFr x false) {} (fun s => s.retire.haltTroop (troopOf s.x)))

end Sys2Proof.Machine
end

