-- ==== Sys2Proof/Machine/Counters.lean ====
section
/-! DEFINITION. Counters.lean: waits on class counters and tokens, delivery of deferred faults, buoys, and the counters
a strand reads (spec/16_counters.md R344-R356; spec/17_traps_context.md R363; spec/19_program_reef.md R409). -/

namespace Sys2Proof.Machine

/-! ## Deferred faults (R363) -/

/-- A fault ready for delivery: an engine fault, a tile fault, or the NAKs recorded without a token. -/
inductive Due where
  | en (f : Deferred)
  | tl (f : TileFault)
  | pt (time : Nat)
  deriving DecidableEq, Repr
/-- Order of delivery: time, then class. -/
def dueKey : Due → Nat
  | .en f => 3 * f.time
  | .tl f => 3 * f.time + 1
  | .pt n => 3 * n + 2
def State.dueEn (s : State) (p : Deferred → Bool) : List Due := ((s.myStrand.faults.filter (fun f => f.cls == .en && p f)).map .en)
def State.dueTl (s : State) (p : TileFault → Bool) : List Due :=
  ((s.myTroop.tfaults.filter (fun f => f.anchor == s.x && !f.delivered && p f)).map .tl)
def State.duePt (s : State) : List Due :=
  match s.myStrand.naks with
  | [] => []
  | n :: _ => [.pt n.2.2]
/-- TVAL of PUT_NAK (R159). -/
def nakTval (reason index : Nat) (more : Bool) : Word := w32 (reason % 16 + 16 * (index % 32) + (if more then 2 ^ 31 else 0))
/-- One fault is raised at the waiting instruction instead of its effect. -/
def State.deliver (s : State) (f : Fr) (d : Due) : State :=
  match d with
  | .en v => (s.modMe (fun t => { t with faults := t.faults.erase v })).trap f
      { code := v.cause, tval := v.tval, taddr := v.taddr, pfr := if v.cause = causePageFault then v.pfr else 0, defer := true }
  | .tl v => (s.modMyTroop (fun t => { t with tfaults := t.tfaults.map (fun u => if u = v then { u with delivered := true } else u) })).trap f
      { code := v.cause, tval := v.tval, taddr := v.taddr, defer := true }
  | .pt _ =>
    let n := s.myStrand.naks.headD (0, 0, 0)
    let more := decide (1 < s.myStrand.naks.length)
    (s.modMe (fun t => { t with naks := [] })).trap f { code := causePutNak, tval := nakTval n.1 n.2.1 more, defer := true }
/-- The oldest of the faults given, or the effect. -/
def State.deliverOr (s : State) (f : Fr) (ds : List Due) (eff : State → State) : State :=
  match leastBy dueKey ds with
  | some d => s.deliver f d
  | none => eff s

/-! ## `wait` (R345, R409) -/

/-- R409: tile ops that await delivery to this anchor count as retired for it; so do the ops held behind them, or the
delivery R411 case 6 requires at a `wait` could not come (DEDUCED, log 27). -/
def State.heldCount (s : State) (p : TileOp → Bool) : Nat :=
  let due := s.myTroop.tfaults.countP (fun f => f.anchor == s.x && !f.delivered && p f.op)
  if due = 0 then 0 else due + s.myTroop.theld.countP p
def State.clsFor (s : State) (k : Cls) : Nat :=
  clsCount s.myCrew k - (if k = .tl then s.heldCount (fun o => o.crews.any (fun q => q.1 == crewOf s.x)) else 0)
/-- Observing completion is an acquire: it invalidates the L1 when an op so observed wrote global memory (R289). -/
def State.observe (s : State) (wrote : Bool) : State := if wrote then s.invL1 (coreOf s.x) else s
def State.waitFor (s : State) (f : Fr) (lim : List (Cls × Nat)) : State :=
  let named (k : Cls) : Bool := lim.any (fun l => l.1 == k)
  if !lim.all (fun l => decide (s.clsFor l.1 ≤ l.2)) then s.park .retry
  else
    let ds := (if named .en then s.dueEn (fun _ => true) else []) ++ (if named .tl then s.dueTl (fun _ => true) else [])
      ++ (if named .pt then s.duePt else [])
    s.deliverOr f ds (fun s => (s.observe (named .en && s.myCrew.wrote)).finish f.len)
def clsCodes : List Cls := [.ld, .st, .en, .tl, .pt]
def execWait (g : Guard) (cls : BitVec 3) (n : BitVec 6) (s : State) : Out :=
  let f := baseFr g false
  .next (s.issue f { ops := [(decide (cls.toNat < 5), 2)] } (fun s =>
    s.waitFor f [(clsCodes.getD cls.toNat .ld, n.toNat)]))
def execWaitX (x : XG) (ld st en tl pt : BitVec 6) (s : State) : Out :=
  let f := extFr x false
  .next (s.issue f {} (fun s =>
    s.waitFor f ((clsCodes.zip [ld.toNat, st.toNat, en.toNat, tl.toNat, pt.toNat]).filter (fun l => decide (l.2 < 63)))))

/-! ## `wtok` (R347, R409) -/

def State.tokComplete (s : State) (w : Nat) : Bool :=
  decide ((s.token (crewOf s.x) w).cnt ≤ s.heldCount (fun o => o.crews.any (fun q => q.1 == crewOf s.x && q.2 == some w)))
/-- What a complete token raises in this strand, if anything. -/
def State.tokDue (s : State) (w : Nat) : List Due :=
  s.dueTl (fun f => f.op.crews.any (fun q => q.1 == crewOf s.x && q.2 == some w)) ++
  (match (s.token (crewOf s.x) w).status with
   | .fault _ => s.dueEn (fun f => f.tok == some w)
   | .ok | .nak _ _ _ => [])
/-- Tokens in ascending order: the first that raises something decides. -/
def State.tokRaise (s : State) (f : Fr) : List Nat → Option State
  | [] => none
  | w :: ws =>
    match (s.token (crewOf s.x) w).status with
    | .nak r i more =>
      if !s.myStrand.nakMarks.getLsbD w then
        some ((s.modMe (fun t => { t with nakMarks := setBit t.nakMarks w })).trap f
          { code := causePutNak, tval := nakTval r i more, defer := true })
      else match leastBy dueKey (s.tokDue w) with
        | some d => some (s.deliver f d)
        | none => s.tokRaise f ws
    | .ok | .fault _ => match leastBy dueKey (s.tokDue w) with
      | some d => some (s.deliver f d)
      | none => s.tokRaise f ws
def State.waitTok (s : State) (f : Fr) (ws : List Nat) : State :=
  if !ws.all s.tokComplete then s.park .retry
  else match s.tokRaise f ws with
    | some s1 => s1
    | none => (s.observe (ws.any (fun w => (s.token (crewOf s.x) w).wrote))).finish f.len
def execWtok (g : Guard) (w : BitVec 4) (s : State) : Out :=
  let f := baseFr g false
  .next (s.issue f {} (fun s => s.waitTok f [w.toNat]))
def execWtokX (x : XG) (mask : BitVec 16) (s : State) : Out :=
  let f := extFr x false
  .next (s.issue f {} (fun s => s.waitTok f ((List.range 16).filter (fun w => mask.getLsbD w))))

/-! ## Buoys (R348, R349) -/

structure Buoy where
  phase : Bool
  pending : Nat
  expected : Nat
  bytes : Word
  fault : Bool
  bad : Bool
  isOver : Bool
  deriving DecidableEq, Repr
def buoyOf (v : Nat) : Buoy :=
  { phase := bitOf v 0, pending := bits v 15 1, expected := bits v 31 16, bytes := w32 (bits v 63 32), fault := bitOf v 64,
    bad := bitOf v 65, isOver := bitOf v 66 }
def natOfBit (b : Bool) : Nat := if b then 1 else 0
def buoyNat (b : Buoy) : Nat :=
  natOfBit b.phase + b.pending * 2 + b.expected * 2 ^ 16 + b.bytes.toNat * 2 ^ 32 + natOfBit b.fault * 2 ^ 64
    + natOfBit b.bad * 2 ^ 65 + natOfBit b.isOver * 2 ^ 66
/-- R348. -/
def buoyValid (v : Nat) : Bool := bits v 127 67 == 0 && decide (1 ≤ bits v 31 16 ∧ bits v 31 16 ≤ 32767)
/-- The zero test: the phase flips and the arrivals reload. -/
def buoySettle (b : Buoy) : Buoy :=
  if b.pending = 0 ∧ b.bytes = 0 then { b with phase := !b.phase, pending := b.expected } else b
/-- R349: one update that subtracts `a` arrivals and `n` bytes. -/
def buoySub (b : Buoy) (a : Nat) (n : Word) : Buoy :=
  let b1 := if 0 < a ∧ b.pending = 0 then { b with isOver := true } else { b with pending := b.pending - a }
  buoySettle { b1 with bytes := b1.bytes - n }
/-- R351 `bdue`. -/
def buoyAdd (b : Buoy) (a : Nat) (n : Word) : Buoy :=
  buoySettle { b with pending := min (b.pending + a) 32767, isOver := b.isOver || decide (32767 < b.pending + a), bytes := b.bytes + n }
def State.buoyAt (s : State) (t off : Nat) : Nat := mnat (s.troop t).spm off 16
/-- Whether an op that wrote global memory was credited to a buoy, in its present phase and in the one before (R289). -/
def State.buoyWrote (s : State) (t off : Nat) : Bool × Bool := sget (s.troop t).bwrote (false, false) off
/-- The flags of a buoy after an update, `wrote` of an op that wrote global memory: a flip ends the phase. -/
def State.noteBuoy (s : State) (t off : Nat) (old new wrote : Bool) : State :=
  let w := s.buoyWrote t off
  let now := w.1 || wrote
  s.modTroop t (fun v => { v with bwrote := sset v.bwrote (false, false) off (if old = new then (now, w.2) else (false, now)) })
/-- A buoy's new value at its bank; a flip is counted (R355). -/
def State.setBuoy (s : State) (t off : Nat) (b : Buoy) (wrote : Bool := false) : State :=
  let old := s.buoyAt t off
  let s1 := (s.spmWrite t off (leBytes 16 (buoyNat b))).noteBuoy t off (bitOf old 0) b.phase wrote
  if bitOf old 0 = b.phase then s1 else s1.perf (coreOfTroop t) 0x0F t 1

/-- An outstanding op of the troop names the object at an offset. -/
def State.objNamed (s : State) (t : Nat) (ring : Bool) (off : Nat) : Bool :=
  let k := s.core (coreOfTroop t)
  (k.sqe ++ k.xqe).any (fun o => o.troop == t && o.objRing == ring && o.obj == off) ||
  k.kq.any (fun o => o.troop == t && o.hasObj && o.objRing == ring && o.obj == off)
/-- What an object of `n` bytes meets before its action: the fault of its offset, or a wait (R202, R219, R284, R287). -/
def State.objStop (s : State) (f : Fr) (ring : Bool) (off n : Nat) (write : Bool) : Option State :=
  let t := troopOf s.x
  if off % 16 ≠ 0 then some (s.illegalOp f 2)
  else if !s.spmIn t off n then some (s.trap f (spmFault off))
  else if !s.objNamed t ring off && s.spmBlocked t off n write then some s.parkScore
  else if s.forward (.spm t) off n != .none then some (s.park .retry)
  else if write && (!s.storesOut || !s.relReady .core) then some (s.park .retry)
  else if write && s.myLaunch.det && !s.detReady then some s.parkDet
  else (s.errRead (some t) off n).map (fun _ => s.trap f (eccFault off))
/-- A buoy instruction: its object is whole and valid; reading it is an access of R299. -/
def State.onBuoy (s : State) (f : Fr) (off : Nat) (write : Bool) (act : Buoy → State) : State :=
  match s.objStop f false off 16 write with
  | some s1 => s1
  | none =>
    let v := s.buoyAt (troopOf s.x) off
    (if buoyValid v then act (buoyOf v) else s.illegalOp f 2).chanTouch (troopOf s.x) off 16

def chkObj (a : Reg) (b : RSrc) : Chk := { srcs := a.toNat :: rsrcRegs b }
/-- The checks `c` with the offset in `a` a multiple of `n` (R298, R303, R350). -/
def State.withOff (s : State) (c : Chk) (a : Reg) (n : Nat) : Chk :=
  s.withVal c [a.toNat] 2 (aligned (s.rd a.toNat).toNat n)
/-- `binit`: nothing has been credited to the buoy. -/
def State.newBuoy (s : State) (t off e : Nat) : State :=
  (s.setBuoy t off { phase := false, pending := e, expected := e, bytes := 0, fault := false, bad := false, isOver := false }).modTroop t
    (fun v => { v with bwrote := sset v.bwrote (false, false) off (false, false) })
def execBinit (x : XG) (a : Reg) (b : RSrc) (s : State) : Out :=
  let f := extFr x false
  .next (s.issue f (s.withOff (chkObj a b) a 16) (fun s =>
    let off := (s.rd a.toNat).toNat
    let e := (s.rsrc b).toNat
    if off % 16 ≠ 0 then s.illegalOp f 2
    else if e = 0 ∨ 32767 < e then s.illegalOp f 3
    else if s.spmIn (troopOf s.x) off 16 && s.objNamed (troopOf s.x) false off then s.park .retry
    else match s.objStop f false off 16 true with
      | some s1 => s1
      | none => (s.newBuoy (troopOf s.x) off e).finish f.len))
def execBarrive (x : XG) (a : Reg) (b : RSrc) (s : State) : Out :=
  let f := extFr x false
  .next (s.issue f (s.withOff (chkObj a b) a 16) (fun s =>
    let off := (s.rd a.toNat).toNat
    s.onBuoy f off true (fun v => (s.setBuoy (troopOf s.x) off (buoySub v 1 (s.rsrc b))).finish f.len)))
def execBdue (x : XG) (a : Reg) (b : RSrc) (n : Byte) (s : State) : Out :=
  let f := extFr x false
  .next (s.issue f (s.withOff (chkObj a b) a 16) (fun s =>
    let off := (s.rd a.toNat).toNat
    s.onBuoy f off true (fun v => (s.setBuoy (troopOf s.x) off (buoyAdd v n.toNat (s.rsrc b))).finish f.len)))
/-- R351: the status word, or the fault of an op that names the buoy instead (R363). -/
def execBwait (x : XG) (d a : Reg) (b : RSrc) (s : State) : Out :=
  let f := extFr x false
  .next (s.issue f (s.withOff { srcs := a.toNat :: rsrcRegs b, dsts := [d.toNat] } a 16) (fun s =>
    let off := (s.rd a.toNat).toNat
    s.onBuoy f off false (fun v =>
      if v.phase = (s.rsrc b).getLsbD 0 then s.park .retry
      else s.deliverOr f (s.dueEn (fun e => e.obj == some (false, off))) (fun s =>
        ((s.wr d.toNat (w32 (bits (buoyNat v) 95 64))).observe (s.buoyWrote (troopOf s.x) off).2).finish f.len))))

/-! ## Counters a strand reads (R354-R356) -/

def execClock (x : XG) (d : Reg) (s : State) : Out :=
  .next (s.issueSimple (extFr x false) { ops := [(pairOk d, 1)], dsts := pairRegs d } (fun s =>
    s.wr64 d.toNat (BitVec.ofNat 64 (if s.myLaunch.det then s.retiredNow else s.myCore.cycle))))
def execRetired (x : XG) (d : Reg) (s : State) : Out :=
  .next (s.issueSimple (extFr x false) { ops := [(pairOk d, 1)], dsts := pairRegs d } (fun s =>
    s.wr64 d.toNat (BitVec.ofNat 64 s.retiredNow)))
def execPerfcfg (x : XG) (k : BitVec 3) (b : RSrc) (s : State) : Out :=
  let f := extFr x false
  .next (s.issue f { srcs := rsrcRegs b } (fun s =>
    let c := s.rsrc b
    if 0x11 < bits c.toNat 7 0 ∨ bits c.toNat 31 9 ≠ 0 then s.illegalOp f 3
    else
      let t := troopOf s.x
      (s.modMyCore (fun q => { q with perf := sput q.perf k.toNat (0, c, t) })).finish f.len))
/-- What counter `k` reads. How often a core expands a compressed register R94 leaves to it: of event 0x11 a free value is
added to the count since it was looked at last (log 3). -/
def State.perfRead (s : State) (k : Nat) : Dword × State :=
  let p := sget s.myCore.perf (0, 0, 0) k
  if bits p.2.1.toNat 7 0 = 0x11 then
    let n := p.1 + s.free.1
    (n, s.free.2.modMyCore (fun q => { q with perf := sput q.perf k (n, p.2) }))
  else (p.1, s)
def execPerfrd (x : XG) (k : BitVec 3) (d : Reg) (s : State) : Out :=
  .next (s.issueSimple (extFr x false) { ops := [(pairOk d, 1)], dsts := pairRegs d } (fun s =>
    let v := s.perfRead k.toNat
    v.2.wr64 d.toNat v.1))

def State.fid (s : State) (i : Nat) : FidStream := sget s.myTroop.fid {} i
def State.modFid (s : State) (i : Nat) (g : FidStream → FidStream) : State :=
  s.modMyTroop (fun t => { t with fid := sset t.fid {} i (g (sget t.fid {} i)) })
/-- R356: what the select reads, and with `.clr` its fields cleared. -/
def State.fidRead (s : State) (sel : FidSel) (i : Nat) : Dword :=
  match sel with
  | .exceed => BitVec.ofNat 64 ((s.fid i).exceed + 2 ^ 32 * natOfBit (s.fid i).flag)
  | .cnt => BitVec.ofNat 64 (s.fid i).cnt
  | .flags => BitVec.ofNat 64 (natOfBits ((List.range 16).map (fun j => (s.fid j).flag)))
def State.fidClear (s : State) (sel : FidSel) (i : Nat) : State :=
  match sel with
  | .exceed => s.modFid i (fun v => { v with exceed := 0, flag := false })
  | .cnt => s.modFid i (fun v => { v with cnt := 0 })
  | .flags => (List.range 16).foldl (fun s j => s.modFid j (fun v => { v with flag := false })) s
def execFidrd (x : XG) (sel : FidSel) (clr : Bool) (i : BitVec 4) (d : Reg) (s : State) : Out :=
  .next (s.issueSimple (extFr x false) { ops := [(pairOk d, 1), (sel != .flags || i == 0, 5)], dsts := pairRegs d } (fun s =>
    let v := s.fidRead sel i.toNat
    (if clr then s.fidClear sel i.toNat else s).wr64 d.toNat v))

end Sys2Proof.Machine
end

