-- ==== Sys2Proof/Machine/Put.lean ====
section
/-! DEFINITION. Put.lean: fill bits, register capabilities, and PUTs from issue to answer
(spec/07_registers_fabric.md R146-R161; spec/15_tables.md R325, R326; spec/18_outside.md R392, R394). -/

namespace Sys2Proof.Machine

/-! ## Fill bits (R147) -/

def regRange (r n : Nat) : List Nat := (List.range n).map (· + r)
def emptyOk (r : Reg) (n : Nat) : Bool := decide (1 ≤ n ∧ n ≤ 32 ∧ r.toNat + n ≤ 128)
/-- Fill bits of a run of registers are cleared; an acquire a PUT left there is not taken. -/
def State.clearFill (s : State) (rs : List Nat) : State :=
  s.modMe (fun t => { t with fill := rs.foldl clrBit t.fill })
def execEmpty (g : Guard) (d n : Reg) (s : State) : Out :=
  .next (s.issueSimple (baseFr g false)
    { ops := [(emptyOk d n.toNat, 3)], names := if emptyOk d n.toNat then regRange d.toNat n.toNat else [] }
    (fun s => s.clearFill (regRange d.toNat n.toNat)))
def execEmptyX (x : XG) (d e : Reg) (n : BitVec 6) (s : State) : Out :=
  let rs := regRange d.toNat n.toNat
  .next (s.issueSimple (extFr x false)
    { ops := [(emptyOk d n.toNat, 5)], dsts := [e.toNat], names := if emptyOk d n.toNat then rs else [] }
    (fun s =>
      let m := natOfBits (rs.map (fun r => s.myStrand.fill.getLsbD r))
      (s.clearFill rs).wr e.toNat (w32 m)))
def execFillq (g : Guard) (pd : PReg) (a : Reg) (s : State) : Out :=
  .next (s.issueSimple (baseFr g false) { names := [a.toNat] } (fun s => s.wrP pd (s.myStrand.fill.getLsbD a.toNat)))

/-! ## Capabilities (R149-R152) -/

/-- Rights as a word holds them: W1 1, WM 2, ADD 4. -/
def rightBit : CapRight → Nat | .w1 => 1 | .wm => 2 | .add => 4
/-- A capability word (R149 Table 4). -/
def capWord (pkg core entry gen rights : Nat) : Dword :=
  BitVec.ofNat 64 (pkg * 2 ^ 56 + core * 2 ^ 47 + entry * 2 ^ 39 + gen * 2 ^ 28 + rights * 2 ^ 25)
def cwEntry (w : Dword) : Nat := bits w.toNat 46 39
def cwGen (w : Dword) : Nat := bits w.toNat 38 28
def cwRights (w : Dword) : Nat := bits w.toNat 27 25
def cwLow (w : Dword) : Nat := bits w.toNat 24 0
def State.cap (s : State) (k e : Nat) : Cap := sget (s.core k).caps {} e
/-- R326: the first free entry from `CAPNEXT` upward, modulo 256; one freed in this cycle is not free yet. -/
def State.freeCap (s : State) (k : Nat) : Option Nat :=
  ((List.range 256).map (fun i => ((s.core k).capnext + i) % 256)).find? (fun e => !(s.cap k e).live && decide ((s.cap k e).from_ ≤ (s.core k).cycle))

def execCapmint (x : XG) (rt : CapRight) (d a b : Reg) (pr : PReg) (n : BitVec 6) (s : State) : Out :=
  let f := extFr x false
  .next (s.issue f { ops := [(pairOk d, 1), (emptyOk a n.toNat, 5)], srcs := [b.toNat], dsts := pairRegs d } (fun s =>
    let k := coreOf s.x
    let m := s.rd b.toNat
    if m = 0 then s.illegalOp f 3
    else match leastBy id ((regRange a.toNat n.toNat).filter s.regBad) with
      | some r => s.trap f { code := causeRegRange, tval := w32 r }
      | none => match s.freeCap k with
        | none => ((s.wr64 d.toNat 0).wrP pr false).finish f.len
        | some e =>
          let g := (s.cap k e).gen
          let c : Cap := { live := true, gen := g, rights := rightBit rt, crew := crewOf s.x, base := a.toNat, count := n.toNat, lanes := m }
          let s1 := s.modCore k (fun q => { q with caps := sput q.caps e c, capnext := (e + 1) % 256 })
          ((s1.wr64 d.toNat (capWord s.pkg.toNat k e g (rightBit rt))).wrP pr true).finish f.len))
/-- The word names this core and a live entry of its generation. -/
def State.capHome (s : State) (w : Dword) : Bool := cwPkg w == s.pkg.toNat && cwCore w == coreOf s.x
def State.capValid (s : State) (w : Dword) : Bool :=
  let c := s.cap (coreOf s.x) (cwEntry w)
  s.capHome w && c.live && c.gen == cwGen w
def execCaprevoke (x : XG) (a : Reg) (pr : PReg) (s : State) : Out :=
  let f := extFr x false
  .next (s.issue f { ops := [(pairOk a, 2)], srcs := pairRegs a } (fun s =>
    let w := s.rd64 a.toNat
    let k := coreOf s.x
    let c := s.cap k (cwEntry w)
    if cwLow w ≠ 0 then s.illegalOp f 2
    else if s.capValid w && c.crew == crewOf s.x then
      ((s.modCore k (fun q => { q with caps := sput q.caps (cwEntry w) { c with live := false, gen := (c.gen + 1) % 2048, from_ := q.cycle + 1 } })).wrP pr true).finish f.len
    else (s.wrP pr false).finish f.len))
def execCapinfo (x : XG) (d a : Reg) (s : State) : Out :=
  .next (s.issueSimple (extFr x false) { ops := [(pairOk d, 1), (pairOk a, 2)], srcs := pairRegs a, dsts := pairRegs d } (fun s =>
    let w := s.rd64 a.toNat
    let c := s.cap (coreOf s.x) (cwEntry w)
    let hi := if s.capValid w
      then 2 ^ 31 + 2 ^ 30 + c.rights * 2 ^ 27 + c.base * 2 ^ 20 + c.count % 64 * 2 ^ 14 + crewIdx c.crew * 2 ^ 8
      else if s.capHome w then 2 ^ 30 else 0
    (s.wr d.toNat (if s.capValid w then c.lanes else 0)).wr (d.toNat + 1) (w32 hi)))

/-! ## Answers (R158, R159) -/

/-- A PUT of the strand ends: PT falls, its token completes in part, and a NAK without a token is recorded. -/
def State.putEnded (s : State) (x : Nat) (tok : Option Nat) (idx reason : Nat) : State :=
  let c := crewOf x
  let s1 := (s.decCls c .pt).tokDone c tok (if reason = 0 then .ok else .nak reason idx false)
  if reason = 0 then s1
  else
    let s2 := s1.perf (coreOf x) 0x0B (troopOf x) 1
    if tok.isNone && s2.alive x then
      let now := (s2.core (coreOf x)).cycle
      s2.modStrand x (fun t => { t with naks := t.naks ++ [(reason, idx, now)] })
    else s2

/-! ## Sending (R154, R155) -/

/-- Little-endian bytes of the record of R394 Table 17. -/
def putRecord (m : PutMsg) (pkg die core : Nat) : List Byte :=
  leBytes 8 m.word.toNat ++ leBytes 1 m.idx ++ leBytes 1 m.kind ++ leBytes 2 0 ++ leBytes 4 m.lanes.toNat ++ leBytes 4 m.val.toNat
    ++ leBytes 4 (pkg + 256 * die + 2048 * core) ++ leBytes 8 m.id ++ leBytes 32 0
def putBase : Nat := 0x100000000000
/-- A PUT of this package to a core of another one. -/
def State.putAway (s : State) (m : PutMsg) : Bool := m.tag.isNone && cwPkg m.word != s.pkg.toNat
/-- It goes to its port, after those of its pair before it, and after those still on a failed port (R392). -/
def State.putOut (s : State) (m : PutMsg) : State :=
  let k := coreOf m.src
  let pkg := cwPkg m.word
  let tc := cwCore m.word
  let first := !(s.puts.takeWhile (fun q => q.id != m.id)).any (fun q =>
    s.putAway q && !q.out && coreOf q.src == k && cwPkg q.word == pkg && cwCore q.word == tc)
  if !first || s.pairHeld k tc pkg || !s.routeOk pkg then s
  else
    let port := s.portFor k tc pkg
    let u : UaMsg := { id := m.id, kind := 1, pkg := pkg, addr := putBase, data := putRecord m s.pkg.toNat (dieOfCore k) (k % 64), port := port }
    { s with puts := s.puts.map (fun q => if q.id = m.id then { q with out := true, port := port } else q), uaOut := s.uaOut ++ [u] }

/-- The sender's side: checks of the word, room, and the message towards its home. A PUT that leaves the package waits for the
core's stores, and for no engine's writes (R161; log 13). -/
def State.sendPut (s : State) (f : Fr) (kind : Nat) (idx : Nat) (w : Dword) (v : Word) (lanes : BitVec 32)
    (tok : Option (BitVec 4)) : State :=
  let c := crewOf s.x
  let k := coreOf s.x
  let pkg := cwPkg w
  let away := pkg != s.pkg.toNat
  if cwLow w ≠ 0 ∨ (bitOf w.toNat 27 ≠ decide (2 ≤ kind)) then s.illegalOp f 2
  else if 63 ≤ s.myCrew.pt || !s.tokRoom c tok || !s.loadsIn || (away && s.routeOk pkg && !s.relReady .pkg) then s.park .retry
  else
    let s1 := ((s.incCls c .pt).tokAttach c tok).perf k 0x0A (troopOf s.x) 1
    let id := s1.newId
    let m : PutMsg := { id := id.1, word := w, idx := idx, lanes := lanes, val := v, kind := kind, src := s.x,
                        tok := tok.map (·.toNat), after := s.storesOf k }
    let s2 := id.2
    if away && !s.routeOk pkg then (s2.putEnded s.x m.tok idx 5).finish f.len
    else
      let s3 := { s2 with puts := s2.puts ++ [m] }
      (if away then s3.putOut m else s3.loopSend id.1 (stopOf k) (stopOf (cwCore w))).finish f.len

/-- The lane select of R154: one virtual lane, or every lane the entry covers. -/
def laneMask : Option (BitVec 5) → BitVec 32
  | some l => BitVec.twoPow 32 l.toNat
  | none => 0
def ownLane (s : State) : BitVec 32 := BitVec.twoPow 32 (laneOf s.x)
def chkPut (a : Reg) (b : BSrc) : Chk := { ops := [(pairOk a, 2), (bsrcOk b, 5)], srcs := pairRegs a ++ bsrcRegs b }

def execPut (g : Guard) (i : BitVec 5) (a : Reg) (b : BSrc) (s : State) : Out :=
  let f := baseFr g (bsrcLit b)
  .next (s.issue f (chkPut a b) (fun s => s.sendPut f 0 i.toNat (s.rd64 a.toNat) (s.bsrc b) 0 none))
def execPutv (g : Guard) (i : BitVec 5) (a b : Reg) (s : State) : Out :=
  let f := baseFr g false
  .next (s.issue f (chkPut a (.reg b)) (fun s => s.sendPut f 1 i.toNat (s.rd64 a.toNat) (s.rd b.toNat) (ownLane s) none))
def execPutX (v : XA) (i : BitVec 5) (a b : Reg) (lane : Option (BitVec 5)) (s : State) : Out :=
  let f := extFr v.x false
  .next (s.issue f (chkPut a (.reg b)) (fun s => s.sendPut f 0 i.toNat (s.rd64 a.toNat) (s.rd b.toNat) (laneMask lane) v.tok))
def execPutvX (v : XA) (i : BitVec 5) (a b : Reg) (s : State) : Out :=
  let f := extFr v.x false
  .next (s.issue f (chkPut a (.reg b)) (fun s => s.sendPut f 1 i.toNat (s.rd64 a.toNat) (s.rd b.toNat) (ownLane s) v.tok))
def execPutadd (v : XA) (fl : Bool) (i : BitVec 5) (a b : Reg) (lane : Option (BitVec 5)) (s : State) : Out :=
  let f := extFr v.x false
  .next (s.issue f (chkPut a (.reg b)) (fun s =>
    s.sendPut f (if fl then 3 else 2) i.toNat (s.rd64 a.toNat) (s.rd b.toNat) (laneMask lane) v.tok))

/-! ## At the home core (R156, R157, R160) -/

/-- Applying a PUT to one lane: the state, and the NAK reason it marks or 0. -/
def State.putLane (s : State) (c : Cap) (m : PutMsg) (beyond : Bool) (sender : Nat × Nat × Nat) (l : Nat) : State × Nat :=
  let x := 32 * c.crew + l
  let reg := c.base + m.idx
  match sfind s.strands x with
  | none => (s, 4)
  | some t =>
    if t.life = .exited then (s, 4)
    else
      let full := t.fill.getLsbD reg
      let put (v : Word) : State :=
        s.setStrand x { t with regs := sset t.regs 0 reg v, fill := setBit t.fill reg, bad := if full && 2 ≤ m.kind then t.bad else clrBit t.bad reg, putAcq := if beyond then setBit t.putAcq reg else t.putAcq }
      if !full then (put m.val, 0)
      else match m.kind with
        | 2 => (put (sget t.regs 0 reg + m.val), 0)
        | 3 => (put (f32add .rne (sget t.regs 0 reg) m.val), 0)
        | _ =>
          if c.rights = 1 then
            ((s.addLog c.crew (logRecord 1 sender.1 sender.2.1 sender.2.2 l reg 0)), 3)
          else (put m.val, 0)
/-- The home core checks a PUT and applies it lane by lane: the state and the answer, 0 or a NAK reason. -/
def State.applyPut (s : State) (m : PutMsg) : State × Nat :=
  let k := cwCore m.word
  let c := s.cap k (cwEntry m.word)
  if !c.live || c.gen != cwGen m.word then (s, 1)
  else if c.rights != cwRights m.word || decide (c.count ≤ m.idx) then (s, 2)
  else
    let lanes := if m.lanes = 0 then c.lanes else m.lanes
    if lanes &&& ~~~c.lanes != 0 then (s, 2)
    else
      let sender := match m.tag with
        | some _ => (m.src % 256, m.src / 256 % 8, m.src / 2048 % 64)
        | none => (s.pkg.toNat, dieOfCore (coreOf m.src), coreOf m.src % 64)
      let beyond := m.tag.isSome || coreOf m.src != k
      let r := ((List.range 32).filter (fun l => lanes.getLsbD l)).foldl (fun (a : State × List Nat) l =>
        let q := a.1.putLane c m beyond sender l
        (q.1, if q.2 = 0 then a.2 else q.2 :: a.2)) (s, [])
      (r.1, (leastBy id r.2).getD 0)

end Sys2Proof.Machine
end

