-- ==== Sys2Proof/Machine/Queue.lean ====
section
/-! DEFINITION. Queue.lean: stage rings, channels, task queues and paddocks as strands use them
(spec/14_queues.md R295-R307; spec/22_program_spgemm.md R419). -/

namespace Sys2Proof.Machine

/-! ## Stage rings (R298) -/

/-- What a ring instruction meets before its action. -/
def State.ringStop (s : State) (f : Fr) (off : Nat) (write : Bool) : Option State :=
  if off % 32 ≠ 0 then some (s.illegalOp f 2)
  else match s.objStop f true off 32 write with
    | some s1 => some s1
    | none => if s.myLaunch.det && !s.detReady then some s.parkDet else none
/-- A ring instruction: its object is whole and valid; reading it is an access of R299. -/
def State.onRing (s : State) (f : Fr) (off : Nat) (write : Bool) (act : Ring → State) : State :=
  match s.ringStop f off write with
  | some s1 => s1
  | none =>
    let t := troopOf s.x
    let v := s.ringAt t off
    (if ringValid (s.spmSize t) v then act (ringOf v) else s.illegalOp f 2).chanTouch t off 32
def State.setRing (s : State) (t off : Nat) (r : Ring) : State := s.spmWrite t off (leBytes 32 (ringNat r))

/-- The geometry word of `rinit`: slot size, slots, and nothing else. -/
def ringWordOk (g : Nat) : Bool := ringGeoOk (bits g 12 0) (bits g 22 16) && bits g 15 13 == 0 && bits g 31 23 == 0
def execRinit (x : XG) (a : Reg) (b : RSrc) (e : Reg) (s : State) : Out :=
  let f := extFr x false
  let c := s.withOff { srcs := a.toNat :: e.toNat :: rsrcRegs b } a 32
  let c1 := s.withVal c (rsrcRegs b) 3 (aligned (s.rsrc b).toNat 64)
  .next (s.issue f (s.withVal c1 [e.toNat] 4 (ringWordOk (s.rd e.toNat).toNat)) (fun s =>
    let t := troopOf s.x
    let off := (s.rd a.toNat).toNat
    let base := (s.rsrc b).toNat
    let g := (s.rd e.toNat).toNat
    let ssz := bits g 12 0
    let n := bits g 22 16
    if off % 32 ≠ 0 then s.illegalOp f 2
    else if base % 64 ≠ 0 then s.illegalOp f 3
    else if !ringWordOk g then s.illegalOp f 4
    else if !ringBaseOk (s.spmSize t) base (n * ssz * 64) then s.illegalOp f 3
    else if s.spmIn t off 32 && s.objNamed t true off then s.park .retry
    else match s.ringStop f off true with
      | some s1 => s1
      | none => (s.setRing t off { base := base, ssz := ssz, n := n, wi := 0, ri := 0, fault := false, bad := false,
                                   fph := 0, rph := 0 }).finish f.len))
def execRproduceClaim (x : XG) (d a : Reg) (s : State) : Out :=
  let f := extFr x false
  .next (s.issue f (s.withOff (chkUn d a) a 32) (fun s =>
    let off := (s.rd a.toNat).toNat
    s.onRing f off true (fun r =>
      if r.free r.wi then ((s.setRing (troopOf s.x) off r.claim).wr d.toNat (w32 (r.wi % r.n))).finish f.len
      else s.park .retry)))
def execRproduceFill (x : XG) (a : Reg) (b : RSrc) (s : State) : Out :=
  let f := extFr x false
  .next (s.issue f (s.withOff (chkObj a b) a 32) (fun s =>
    let off := (s.rd a.toNat).toNat
    let n := (s.rsrc b).toNat
    s.onRing f off true (fun r =>
      if decide (n < r.n) && r.claimed n then (s.setRing (troopOf s.x) off (r.fill n)).finish f.len
      else s.illegalOp f 3)))
/-- What `rpeek` reads. -/
def ringPeek (r : Ring) (k : Nat) : Nat :=
  let j := (r.ri + k) % (2 * r.n)
  j % r.n + 64 * natOfBit (r.filled j) + 128 * natOfBit (r.released (j % r.n)) + 256 * r.held + 2 ^ 15 * natOfBit r.fault
    + 2 ^ 16 * natOfBit r.bad
def execRpeek (x : XG) (d a : Reg) (b : RSrc) (s : State) : Out :=
  let f := extFr x false
  .next (s.issue f (s.withOff { srcs := a.toNat :: rsrcRegs b, dsts := [d.toNat] } a 32) (fun s =>
    let k := (s.rsrc b).toNat
    s.onRing f (s.rd a.toNat).toNat false (fun r =>
      if r.n ≤ k then s.illegalOp f 3 else (s.wr d.toNat (w32 (ringPeek r k))).finish f.len)))

/-- The index an `await` took at its issue, kept while it waits. -/
def State.awaitIdx (s : State) (r : Ring) (k : Nat) : Nat :=
  match s.myStrand.latch with
  | some v => if v % 2 = 1 then v / 2 else (r.ri + k) % (2 * r.n)
  | none => (r.ri + k) % (2 * r.n)
/-- `await`: the slot when it is filled, or the fault of the op that filled it (R363); the return is an acquire at core
scope, since no op that fills a ring writes global memory (R289, R297). -/
def State.awaitRing (s : State) (f : Fr) (d off k : Nat) (try_ : Option PReg) : State :=
  s.onRing f off false (fun r =>
    if r.n ≤ k then s.illegalOp f 3
    else
      let j := s.awaitIdx r k
      let got (s : State) : State :=
        s.deliverOr f (s.dueEn (fun e => e.obj == some (true, off) && e.slot == j % r.n)) (fun s =>
          let s1 := s.wr d (w32 (j % r.n))
          (match try_ with
           | some p => s1.wrP p true
           | none => s1).finish f.len)
      if r.filled j then got s
      else match try_ with
        | some p => (s.wrP p false).finish f.len
        | none => (s.modMe (fun t => { t with latch := some (2 * j + 1) })).park .retry)
def execAwait (g : Guard) (d a : Reg) (s : State) : Out :=
  let f := baseFr g false
  .next (s.issue f (s.withOff (chkUn d a) a 32) (fun s => s.awaitRing f d.toNat (s.rd a.toNat).toNat 0 none))
def execAwaitX (x : XG) (d a : Reg) (b : RSrc) (try_ : Option PReg) (s : State) : Out :=
  let f := extFr x false
  .next (s.issue f (s.withOff { srcs := a.toNat :: rsrcRegs b, dsts := [d.toNat] } a 32) (fun s =>
    s.awaitRing f d.toNat (s.rd a.toNat).toNat (s.rsrc b).toNat try_))
def State.releaseRing (s : State) (f : Fr) (off n : Nat) : State :=
  s.onRing f off true (fun r =>
    if r.n ≤ n then s.illegalOp f 3 else (s.setRing (troopOf s.x) off (r.release n)).finish f.len)
def execRelease (g : Guard) (a b : Reg) (s : State) : Out :=
  let f := baseFr g false
  .next (s.issue f (s.withOff { srcs := [a.toNat, b.toNat] } a 32) (fun s => s.releaseRing f (s.rd a.toNat).toNat (s.rd b.toNat).toNat))
def execReleaseX (x : XG) (a : Reg) (b : RSrc) (s : State) : Out :=
  let f := extFr x false
  .next (s.issue f (s.withOff (chkObj a b) a 32) (fun s => s.releaseRing f (s.rd a.toNat).toNat (s.rsrc b).toNat))

/-! ## Channels (R299-R302) -/

/-- Registers of one entry. -/
def chanWords (l : Launch) (c : Nat) : Nat := chanBytes l c / 4
/-- Checks of a channel number and of the first register of an entry. -/
def chanOps (l : Launch) (d c : Reg) : List (Bool × Nat) :=
  [(!chanOn l c.toNat || decide (d.toNat + chanWords l c.toNat ≤ 128), 1), (chanOn l c.toNat, 2)]
def chanRegs (l : Launch) (d c : Reg) : List Nat := if chanOn l c.toNat then regRange d.toNat (chanWords l c.toNat) else []
/-- Entries of a crew's send window (R301). -/
def State.chanWindow (s : State) (c ch : Nat) : Nat := s.chanMsgs.countP (fun m => m.crew == c && m.chan == ch)
/-- The crew as an entry's source (R394 Table 18): package, die, core, crew. -/
def State.chanSrc (s : State) (c : Nat) : Nat :=
  s.pkg.toNat + 256 * (dieOfCore (c / 4096) % 8) + 2048 * (c / 4096 % 64) + 131072 * crewIdx c
def chanKey (crew ch pkg troop : Nat) : Nat := ((crew * 16 + ch) * 256 + pkg) * 2 ^ 24 + troop
/-- Little-endian bytes of an entry's header and payload (R394 Table 18). -/
def State.chanRecord (s : State) (m : ChanMsg) : List Byte :=
  leBytes 4 (m.troop + m.chan * 2 ^ 24) ++ leBytes 1 (m.data.length / 4 - 1) ++ leBytes 3 0 ++ leBytes 4 (s.chanSrc m.crew)
    ++ leBytes 4 m.seq ++ leBytes 8 m.id ++ leBytes 8 0 ++ bytesOf m.data
def chanPort : Nat := 0x100000010000
/-- The core that holds a troop of a launch, or where the entry starts while none does. -/
def State.chanHome (s : State) (lid index dflt : Nat) : Nat :=
  match s.troops.find? (fun t => t.2.lid == lid && t.2.index == index) with
  | some t => coreOfTroop t.1
  | none => dflt
/-- An entry for another package goes to its port, after earlier ones on their way to it and those still on a failed port
(R392). -/
def State.chanOut (s : State) (m : ChanMsg) : State :=
  let k := coreOf m.strand
  let first := !(s.chanMsgs.takeWhile (fun q => q.id != m.id)).any (fun q =>
    q.pkg == m.pkg && coreOf q.strand == k && q.st == 0 && q.out.isNone)
  if !first || s.pairHeld k 0 m.pkg || !s.routeOk m.pkg then s
  else
    let port := s.portFor k 0 m.pkg
    let u : UaMsg := { id := m.id, kind := 2, pkg := m.pkg, addr := chanPort, data := s.chanRecord m, port := port }
    { s with chanMsgs := s.chanMsgs.map (fun q => if q.id = m.id then { q with out := some port } else q), uaOut := s.uaOut ++ [u] }
def State.sendChan (s : State) (f : Fr) (d ch : Nat) (pkg dest : Nat) : State :=
  let l := s.myLaunch
  let c := crewOf s.x
  let away := pkg != s.pkg.toNat
  if l.troops ≤ dest || (away && !(sget s.routes (0, false) pkg).2) then s.illegalOp f 3
  else if 8 ≤ s.chanWindow c ch || !s.loadsIn || (away && !s.relReady .span) then s.park .retry
  else
    let key := chanKey (crewIdx c) ch pkg dest
    let seq := sget s.myTroop.chanSeq 0 key
    let id := s.newId
    let m : ChanMsg := { id := id.1, crew := c, strand := s.x, chan := ch, pkg := pkg, lid := l.lid, span := l.spanId, troop := dest,
                         seq := seq, chbk := l.chbk, data := s.rdList d (chanWords l ch), after := s.storesOf (coreOf s.x) }
    let s1 := id.2.modMyTroop (fun t => { t with chanSeq := sput t.chanSeq key ((seq + 1) % 2 ^ 32) })
    let s2 := { s1 with chanMsgs := s1.chanMsgs ++ [m] }
    (if away then s2.chanOut m
     else s2.loopSend id.1 (stopOf (coreOf s.x)) (stopOf (s.chanHome l.lid dest (coreOf s.x)))).finish f.len
def execSend (g : Guard) (d c : Reg) (s : State) : Out :=
  let f := baseFr g false
  let l := s.myLaunch
  .next (s.issue f { ops := chanOps l d c, srcs := chanRegs l d c } (fun s =>
    s.sendChan f d.toNat c.toNat s.pkg.toNat ((s.myTroop.index + 1) % l.troops)))
def execSendX (x : XG) (d c : Reg) (b : XSrc) (s : State) : Out :=
  let f := extFr x (xsrcLit b)
  let l := s.myLaunch
  .next (s.issue f { ops := chanOps l d c ++ [(xsrcOk b, 5)], srcs := chanRegs l d c ++ xsrcRegs b } (fun s =>
    let w := (s.xsrc b).toNat
    s.sendChan f d.toNat c.toNat (bits w 31 24) (bits w 23 0)))
def State.chan (s : State) (t c : Nat) : Chan := sget (s.troop t).chans {} c
/-- The oldest entry leaves; a buffer something else has accessed gives free values (R299, log 3). -/
def State.takeChan (s : State) (ch : Nat) : List Word × State :=
  let t := troopOf s.x
  let l := s.myLaunch
  let c := s.chan t ch
  let n := chanBytes l ch
  let c2 : Chan := { c with occ := c.occ - 1, head := (c.head + 1) % chanSlots l ch, touched := c.touched && decide (1 < c.occ), far := c.far.drop 1 }
  let s1 := s.modMyTroop (fun v => { v with chans := sput v.chans ch c2 })
  if c.touched then
    let fv := s1.freeN (n / 4)
    (fv.1.map (fun v => v.extractLsb' 0 32), fv.2)
  else (wordsOf (mread s.myTroop.spm (chanBase l (s.spmSize t) ch + c.head * n) n), s1)
/-- `recv`: the oldest entry; one from beyond the core is acquired at die scope or wider (R302). -/
def State.recvChan (s : State) (f : Fr) (d ch : Nat) (try_ : Option PReg) : State :=
  if (s.chan (troopOf s.x) ch).occ = 0 then
    match try_ with
    | some p => (s.wrP p false).finish f.len
    | none => s.park .retry
  else
    let r := s.takeChan ch
    let s1 := (r.2.wrList d r.1).observe ((s.chan (troopOf s.x) ch).far.headD false)
    (match try_ with
     | some p => s1.wrP p true
     | none => s1).finish f.len
def execRecv (g : Guard) (d c : Reg) (s : State) : Out :=
  let f := baseFr g false
  let l := s.myLaunch
  .next (s.issue f { ops := chanOps l d c, dsts := chanRegs l d c } (fun s => s.recvChan f d.toNat c.toNat none))
def execRecvX (x : XG) (d c : Reg) (try_ : Option PReg) (s : State) : Out :=
  let f := extFr x false
  let l := s.myLaunch
  .next (s.issue f { ops := chanOps l d c, dsts := chanRegs l d c } (fun s => s.recvChan f d.toNat c.toNat try_))

/-! ## Task queues (R303, R304) -/

/-- R303 Table 5. -/
structure TQ where
  cap : Nat
  esize : Nat
  head : Nat
  tail : Nat
  deriving DecidableEq, Repr
def tqOf (v : Nat) : TQ := { cap := bits v 23 0, esize := bits v 25 24, head := bits v 95 64, tail := bits v 127 96 }
def tqValid (v : Nat) : Bool := bits v 63 26 == 0 && bits v 25 24 != 3 && bits v 23 0 != 0
/-- Entries held. -/
def TQ.count (q : TQ) : Nat := (q.tail + 2 ^ 32 - q.head) % 2 ^ 32
def TQ.full (q : TQ) : Bool := decide (q.cap ≤ q.count)
def TQ.empty (q : TQ) : Bool := q.tail == q.head
/-- Offset of an entry from the header. -/
def TQ.entry (q : TQ) (i : Nat) : Nat := 16 + i % q.cap * 2 ^ (q.esize + 2)
/-- The header once the entry at `tail` or `head` is taken. -/
def tqNext (v : Nat) (enq : Bool) : Nat :=
  let q := tqOf v
  q.cap + q.esize * 2 ^ 24 + (if enq then q.head else (q.head + 1) % 2 ^ 32) * 2 ^ 64
    + (if enq then (q.tail + 1) % 2 ^ 32 else q.tail) * 2 ^ 96

/-- An action on the header that came through the window has arrived at its bank, and goes first (R419). -/
def State.tqArrived (s : State) (t a : Nat) : Bool :=
  s.cores.any (fun c => c.2.reqs.any (fun q => q.isTq && !q.done && q.arr.isSome && q.tgt == .spm t && q.addr == a))
/-- One action of a scratchpad queue, indivisible; the entry lies in the header's scratchpad (R303). `put` gives the entry of
an `enq`; a `deq` writes `d`. Through the window it is a request to the header's bank. -/
def State.tqSpm (s : State) (f : Fr) (sp : Space) (esz : Nat) (put : Option (List Byte)) (d : Nat) (pd : PReg) (a : Nat) : State :=
  let enq := put.isSome
  let n := 2 ^ (esz + 2)
  if a % 16 ≠ 0 then s.illegalOp f 2
  else match s.spmPlace sp a 16 with
    | none => s.trap f (spmFault a)
    | some p =>
      let v := mnat (s.troop p.1).spm p.2 16
      let q := tqOf v
      let e := q.entry (if enq then q.tail else q.head)
      if sp != .cluster && s.spmBlocked p.1 p.2 16 true then s.parkScore
      else if !s.relReady .die then s.park .retry
      else if sp = .cluster then s.askReq
        { id := 0, kind := match put with | some _ => .enq esz | none => .deq esz, strand := s.x, tgt := .spm p.1, addr := p.2, va := a,
          cluster := true, fill := false, dsts := [d], pdst := pd.toNat, data := put.getD [], order := .ar, scope := .die, len := f.len }
      else if s.forward (.spm p.1) p.2 16 != .none || s.tqArrived p.1 p.2 then s.park .retry
      else if s.myLaunch.det && !s.detReady then s.parkDet
      else match s.errRead (some p.1) p.2 16 with
        | some _ => (s.chanTouch p.1 p.2 16).trap f (eccFault a)
        | none =>
          if !tqValid v || q.esize != esz then (s.chanTouch p.1 p.2 16).illegalOp f 2
          else if if enq then q.full else q.empty then ((s.chanTouch p.1 p.2 16).wrP pd false).finish f.len
          else if !s.spmIn p.1 (p.2 + e) n then (s.chanTouch p.1 p.2 16).trap f (spmFault (a + e))
          else if s.spmBlocked p.1 (p.2 + e) n true then s.parkScore
          else
            let s1 := s.spmWrite p.1 p.2 (leBytes 16 (tqNext v enq))
            match put with
            | some bs => ((s1.spmWrite p.1 (p.2 + e) bs).wrP pd true).finish f.len
            | none => match s.errRead (some p.1) (p.2 + e) n with
              | some _ => ((s.chanTouch p.1 p.2 16).chanTouch p.1 (p.2 + e) n).trap f (eccFault (a + e))
              | none =>
                ((((s1.chanTouch p.1 (p.2 + e) n).wrList d (wordsOf (mread (s.troop p.1).spm (p.2 + e) n))).wrP pd true).invL1
                  (coreOf s.x)).finish f.len
/-- A global queue action is sent to the header's home, past the L1. -/
def State.tqGlobal (s : State) (f : Fr) (esz : Nat) (put : Option (List Byte)) (d : Nat) (pd : PReg) (a : Dword) : State :=
  if a.toNat % 16 ≠ 0 then s.illegalOp f 2
  else match s.xlate a (needR + needW) with
    | .fault t => s.trap f t
    | .wait s1 => s1
    | .at_ t =>
      if 63 ≤ s.myCrew.ld || !s.relReady .pkg then s.park .retry
      else if s.lost t.target then s.trap f (linklost a)
      else (s.invLine (coreOf s.x) (lineKey t.target (t.addr a))).sendReq
        { id := 0, kind := match put with | some _ => .enq esz | none => .deq esz, strand := s.x, tgt := t.target, addr := t.addr a,
          va := a.toNat, pg := t.size, nocache := t.nocache, dsts := [d], pdst := pd.toNat, data := put.getD [], order := .ar, scope := .pkg,
          fill := false, len := f.len }

def tqSize (sz : Nat) : Size := if sz = 0 then .b32 else if sz = 1 then .b64 else .b128
def execEnq (g : Guard) (pd : PReg) (a b : Reg) (s : State) : Out :=
  let f := baseFr g false
  .next (s.issue f (s.withOff { srcs := [a.toNat, b.toNat] } a 16) (fun s =>
    s.tqSpm f .spm 0 (some (s.storeBytes 4 b)) 0 pd (s.rd a.toNat).toNat))
def execDeq (g : Guard) (d a : Reg) (pd : PReg) (s : State) : Out :=
  let f := baseFr g false
  .next (s.issue f (s.withOff (chkUn d a) a 16) (fun s => s.tqSpm f .spm 0 none d.toNat pd (s.rd a.toNat).toNat))
def execEnqX (x : XG) (sp : Space) (sz : BitVec 2) (pd : PReg) (a b : Reg) (s : State) : Out :=
  let f := extFr x false
  let z := tqSize sz.toNat
  let c : Chk := { ops := [(spaceRegOk sp a, 2), (sizeRegOk z b, 3)], srcs := spaceRegs sp a ++ sizeRegs z b }
  .next (s.issue f (s.withVal c (spaceRegs sp a) 2 (aligned (s.rd a.toNat).toNat 16)) (fun s =>
    let put := some (s.storeBytes (sizeBytes z) b)
    if sp = .global then s.tqGlobal f sz.toNat put 0 pd (s.rd64 a.toNat)
    else s.tqSpm f sp sz.toNat put 0 pd (s.rd a.toNat).toNat))
def execDeqX (x : XG) (sp : Space) (sz : BitVec 2) (d a : Reg) (pd : PReg) (s : State) : Out :=
  let f := extFr x false
  let z := tqSize sz.toNat
  let c : Chk := { ops := [(sizeRegOk z d, 1), (spaceRegOk sp a, 2)], srcs := spaceRegs sp a, dsts := sizeRegs z d }
  .next (s.issue f (s.withVal c (spaceRegs sp a) 2 (aligned (s.rd a.toNat).toNat 16)) (fun s =>
    if sp = .global then s.tqGlobal f sz.toNat none d.toNat pd (s.rd64 a.toNat)
    else s.tqSpm f sp sz.toNat none d.toNat pd (s.rd a.toNat).toNat))

/-! ## Paddocks (R305-R307) -/

def keyEntry (v : BitVec 128) : Nat := bits v.toNat 63 0
def keyTimer (v : BitVec 128) : Nat := bits v.toNat 79 64
def keyRole (v : BitVec 128) : Nat := bits v.toNat 81 80
def State.paddockKey (s : State) (k : Nat) : BitVec 128 := sget s.myTroop.keys 0 k
def State.binOf (s : State) (t k : Nat) : Option (Nat × Bin) :=
  (s.core (coreOfTroop t)).bins.find? (fun b => b.2.troop == t && b.2.key == k)
def State.freeBin (s : State) (k : Nat) : Option Nat := (List.range 16).find? (fun i => (sfind (s.core k).bins i).isNone)
/-- One request joins the bin of a key; false when there is no room. -/
def State.addRequest (s : State) (k : Nat) (req : List Word) : Bool × State :=
  let t := troopOf s.x
  let timer := if keyTimer (s.paddockKey k) = 0 then none else some (64 * keyTimer (s.paddockKey k))
  match s.binOf t k with
  | none => match s.freeBin (coreOf s.x) with
    | none => (false, s)
    | some i => (true, s.modMyCore (fun c => { c with bins := sput c.bins i { troop := t, key := k, reqs := [req], timer := timer } }))
  | some (i, b) =>
    if 32 ≤ b.reqs.length then (false, s)
    else
      let b2 : Bin := { b with reqs := b.reqs ++ [req], timer := if b.reqs.isEmpty then timer else b.timer,
                               due := b.due || b.reqs.length == 31 }
      (true, s.modMyCore (fun c => { c with bins := sput c.bins i b2 }))
def State.spawnKey (s : State) (f : Fr) (pd : PReg) (a : Reg) (k : Option Nat) : State :=
  match k with
  | none => s.illegalOp f 3
  | some k =>
    let r := s.addRequest k (s.rdList a.toNat 8)
    (r.2.wrP pd r.1).finish f.len
def execSpawn (g : Guard) (pd : PReg) (a b : Reg) (s : State) : Out :=
  let f := baseFr g false
  .next (s.issue f { ops := [(decide (a.toNat ≤ 120), 2), (pairOk b, 3)],
                     srcs := (if a.toNat ≤ 120 then regRange a.toNat 8 else []) ++ pairRegs b } (fun s =>
    let e := (s.rd64 b.toNat).toNat
    s.spawnKey f pd a ((List.range 16).find? (fun k => e != 0 && keyEntry (s.paddockKey k) == e))))
def execSpawnX (x : XG) (pd : PReg) (a : Reg) (k : BitVec 4) (s : State) : Out :=
  let f := extFr x false
  .next (s.issue f { ops := [(decide (a.toNat ≤ 120), 2)], srcs := if a.toNat ≤ 120 then regRange a.toNat 8 else [] } (fun s =>
    s.spawnKey f pd a (if keyEntry (s.paddockKey k.toNat) = 0 then none else some k.toNat)))
def execPdkey (x : XG) (d : Reg) (k : BitVec 4) (s : State) : Out :=
  .next (s.issueSimple (extFr x false) { dsts := [d.toNat] } (fun s =>
    let b := s.binOf (troopOf s.x) k.toNat
    let n := match b with
      | some (_, v) => v.reqs.length
      | none => 0
    s.wr d.toNat (w32 (n + 64 * natOfBit b.isSome + 128 * natOfBit (keyEntry (s.paddockKey k.toNat) != 0)))))
def execPdkeyFlush (x : XG) (k : BitVec 4) (s : State) : Out :=
  .next (s.issueSimple (extFr x false) {} (fun s =>
    match s.binOf (troopOf s.x) k.toNat with
    | some (i, b) => if b.reqs.isEmpty then s else s.modMyCore (fun c => { c with bins := sput c.bins i { b with due := true } })
    | none => s))

end Sys2Proof.Machine
end

