-- ==== Sys2Proof/Machine/Tile.lean ====
section
/-! DEFINITION. Tile.lean: XTILE and XMMA instructions as their strands sign them (spec/08_registers_tile.md R166-R180;
spec/09_matrix.md R186, R193). What the queued op does is in TileRun.lean and Mma.lean. -/

namespace Sys2Proof.Machine

/-! ## Signing an engine collective (R169, R171, R172) -/

def xtFr (t : XT) : Fr := extFr t.x false
/-- The phase, with one more signature, is complete and its op finds no room. -/
def State.lastWaits (s : State) (h : Nat) (g : Sig) (k : OpKind) : Bool :=
  let c := crewOf s.x
  let s1 := s.sign h g k
  s1.phaseReady c h && !s1.tileRoom c (s1.phase c h).sigs s.x
/-- TL and the crew's token, at its first contributing signature of the phase. -/
def State.tileAttach (s : State) (t : XT) (h : Nat) : State :=
  let c := crewOf s.x
  if (s.phase c h).sigs.any (fun g => g.contrib && crewOf g.x == c) then s
  else (s.incCls c .tl).tokAttach c t.tok
def State.firstSigner (s : State) (h : Nat) : Bool :=
  !(s.phase (crewOf s.x) h).sigs.any (fun g => g.contrib && crewOf g.x == crewOf s.x)
/-- The signature itself: pending destinations, then the phase when it is complete, its op's room found (`lastWaits`).
The strand goes on. -/
def State.signTile (s : State) (t : XT) (k : OpKind) (g : Sig) : State :=
  let h := t.h.toNat
  let s1 := (s.tileAttach t h).modMe (fun v => { v with pend := g.dsts.foldl setBit v.pend })
  let s2 := ((s1.finish 2).sign h g k).scoreUnqueue s.x
  if s2.phaseReady (crewOf s.x) h then s2.runPhase (crewOf s.x) h else s2
/-- An XTILE or XMMA instruction. `lo` are the tests of operands d, a and b, `hi` those of the immediate; `pre` tests
the values; `mk` is the signature. -/
def State.engineSign (s : State) (t : XT) (i : Instr) (coll : Nat) (lo hi : List (Bool × Nat)) (srcs dsts : List Nat)
    (pre : State → Option Trap) (mk : State → Sig) : State :=
  let f := xtFr t
  let h := t.h.toNat
  let k : OpKind := { coll := coll }
  if !s.guardOk f then s.signFalse f h k
  else s.checked f { role := s.isMatrix, ops := lo ++ [(s.declared h, 4)] ++ hi, srcs := srcs, dsts := dsts } (fun s =>
    match pre s with
    | some e => s.trap f e
    | none => s.deliverOr f (s.dueTl (fun _ => true)) (fun s =>
      if s.signHeld h then s.parkDet else match s.signBad h k with
      | some e => s.trap f e
      | none =>
        let g := { mk s with tok := t.tok.map (·.toNat), ins := some i }
        if s.firstSigner h && (decide (63 ≤ s.myCrew.tl) || !s.tokRoom (crewOf s.x) t.tok) then s.park .retry
        else if s.lastWaits h g k then
          (if (s.tileOpOf (crewOf s.x) (((s.phase (crewOf s.x) h).sigs) ++ [g])).any (·.scored) then s.scoreQueue s.x else s).park .retry
        else s.signTile t k g))

/-! ## Operand tests (R166, R168, R174) -/

def State.tileGranules (s : State) : Bool := decide (0 < sgwTile s.myTroop.sgw.toNat)
def State.accGranules (s : State) : Bool := decide (0 < sgwAcc s.myTroop.sgw.toNat)
/-- A tile that may be empty: `tdset`, `tdget`, `reefq`. -/
def State.tileAnyOk (s : State) (r : Reg) : Bool := tileOk r && s.tileGranules
/-- A tile whose descriptor, as it stands at signing, is not empty. -/
def State.tileFullOk (s : State) (r : Reg) : Bool := s.tileAnyOk r && dsFormat (s.myTroop.descOf r.toNat) != 0
def State.tileReefOk (s : State) (r : Reg) : Bool := s.tileAnyOk r && dsReef (s.myTroop.descOf r.toNat)
def State.accOk (s : State) (r : Reg) : Bool := tileOk r && s.accGranules

/-- Address of an operand: the register plus the displacement. -/
def State.tileAddr (s : State) (a : Reg) (disp : BitVec 21) : Word := s.rd a.toNat + disp.zeroExtend 32
/-- Local scratchpad pieces of an op: first byte and length. -/
def tilePieces (desc : Nat → Dword) (shape : Nat → BitVec 4) (a : Nat) (i : Instr) : List (Nat × Nat) :=
  match i with
  | .tload _ cl d _ _ => if cl then [] else [(a, dsFoot (desc d.toNat))]
  | .tstore _ cl _ b _ => if cl then [] else [(a, dsFoot (desc b.toNat))]
  | .split _ _ cl d _ _ =>
    let ds := desc d.toNat
    (if cl then [] else [(a, 4 * dsRows ds * dsCols ds)]) ++ [(dsScOff ds, dsScaleBytes ds)]
  | .adrain _ fmt _ _ cl d _ b _ =>
    let ds := desc d.toNat
    (if cl then [] else [(a, drainBytes fmt (shape b.toNat) ds)]) ++ (if fmt = .reef then [(dsScOff ds, dsScaleBytes ds)] else [])
  | _ => []
/-- Alignment, then SPM_ACCESS for a local piece outside the partition, of a signature of hitch `h`. -/
def State.tileAddrBad (s : State) (h : BitVec 5) (i : Instr) (a : Word) : Option Trap :=
  let t := troopOf s.x
  let alone := s.anchorAlone t ((s.phase (crewOf s.x) h.toNat).sigs ++ [{ x := s.x, contrib := true }])
  if a.toNat % 32 ≠ 0 then some { code := causeIllegalOperand, tval := 2 }
  else ((tilePieces (s.descAt t alone) (s.shapeAt t alone) a.toNat i).find? (fun p => p.2 != 0 && !s.spmIn t p.1 p.2)).map (fun p => spmFault p.1)
/-- The test of operand `a` at the checks: its address is a multiple of 32 (R174). -/
def State.tileAddrOp (s : State) (a : Reg) (disp : BitVec 21) : Bool × Nat :=
  (!s.readable [a.toNat] || aligned (s.tileAddr a disp).toNat 32, 2)
def sigOf (s : State) (vals : List Word) (dsts : List Nat) : Sig := { x := s.x, contrib := true, vals := vals, dsts := dsts }

/-! ## XTILE (R174 Table 6); a kind of operation is 0x100 and the subop -/

/-- The descriptor of `tdset` is valid (R168). -/
def State.tileDescOk (s : State) (a : Reg) : Bool := dsValid (s.tileSlot (troopOf s.x)) (s.rd64 a.toNat)
def execTdset (t : XT) (d a : Reg) (s : State) : Out :=
  .next (s.engineSign t (.tdset t d a) 0x100 [(s.tileAnyOk d, 1), (pairOk a, 2), (!s.readable (pairRegs a) || s.tileDescOk a, 2)] [] (pairRegs a) []
    (fun s => if s.tileDescOk a then none else some { code := causeIllegalOperand, tval := 2 })
    (fun s => sigOf s (s.rdList a.toNat 2) []))
def execTdget (t : XT) (d a : Reg) (s : State) : Out :=
  .next (s.engineSign t (.tdget t d a) 0x101 [(pairOk d, 1), (s.tileAnyOk a, 2)] [] [] (pairRegs d) noTrap
    (fun s => sigOf s [] (pairRegs d)))
def execTload (t : XT) (cl : Bool) (d a : Reg) (disp : BitVec 21) (s : State) : Out :=
  let i : Instr := .tload t cl d a disp
  .next (s.engineSign t i 0x102 [(s.tileFullOk d, 1), s.tileAddrOp a disp] [] [a.toNat] []
    (fun s => s.tileAddrBad t.h i (s.tileAddr a disp)) (fun s => sigOf s [s.tileAddr a disp] []))
def execTstore (t : XT) (cl : Bool) (a b : Reg) (disp : BitVec 21) (s : State) : Out :=
  let i : Instr := .tstore t cl a b disp
  .next (s.engineSign t i 0x103 [s.tileAddrOp a disp, (s.tileFullOk b, 3)] [] [a.toNat] []
    (fun s => s.tileAddrBad t.h i (s.tileAddr a disp)) (fun s => sigOf s [s.tileAddr a disp] []))
def execTzero (t : XT) (d : Reg) (s : State) : Out :=
  .next (s.engineSign t (.tzero t d) 0x104 [(s.tileFullOk d, 1)] [] [] [] noTrap (fun s => sigOf s [] []))
def execSplit (t : XT) (sat cl : Bool) (d a : Reg) (disp : BitVec 21) (s : State) : Out :=
  let i : Instr := .split t sat cl d a disp
  .next (s.engineSign t i 0x105 [(s.tileFullOk d, 1), s.tileAddrOp a disp] [] [a.toNat] []
    (fun s => s.tileAddrBad t.h i (s.tileAddr a disp)) (fun s => sigOf s [s.tileAddr a disp] []))
def execAzero (t : XT) (d : Reg) (m n : BitVec 2) (s : State) : Out :=
  .next (s.engineSign t (.azero t d m n) 0x106 [(s.accOk d, 1)]
    [(decide (shapeM (n ++ m) * shapeN (n ++ m) * 4 ≤ s.accSlot (troopOf s.x)), 5)] [] [] noTrap (fun s => sigOf s [] []))
def execAdrain (t : XT) (fmt : DrainFmt) (z : Bool) (mon : Option (BitVec 4)) (cl : Bool) (d a b : Reg) (disp : BitVec 21)
    (s : State) : Out :=
  let i : Instr := .adrain t fmt z mon cl d a b disp
  .next (s.engineSign t i 0x107 [(fmt != .reef || s.tileReefOk d, 1), s.tileAddrOp a disp, (s.accOk b, 3)] [] [a.toNat] []
    (fun s => s.tileAddrBad t.h i (s.tileAddr a disp)) (fun s => sigOf s [s.tileAddr a disp] []))
def execAread (t : XT) (d a b : Reg) (s : State) : Out :=
  .next (s.engineSign t (.aread t d a b) 0x108 [(s.accOk b, 3)] [] [a.toNat] [d.toNat] noTrap
    (fun s => sigOf s [s.rd a.toNat] [d.toNat]))
def execAwrite (t : XT) (d a b : Reg) (s : State) : Out :=
  .next (s.engineSign t (.awrite t d a b) 0x109 [(s.accOk d, 1)] [] [a.toNat, b.toNat] [] noTrap
    (fun s => sigOf s [s.rd a.toNat, s.rd b.toNat] []))
def execAscale (t : XT) (d : Reg) (k : Word) (s : State) : Out :=
  .next (s.engineSign t (.ascale t d k) 0x10A [(s.accOk d, 1)] [(decide (-254 ≤ k.toInt ∧ k.toInt ≤ 254), 5)] [] [] noTrap
    (fun s => sigOf s [] []))
def execReefq (t : XT) (d a b : Reg) (s : State) : Out :=
  .next (s.engineSign t (.reefq t d a b) 0x10B [(s.tileAnyOk b, 3)] [] [a.toNat] [d.toNat] noTrap
    (fun s => sigOf s [s.rd a.toNat] [d.toNat]))

/-! ## XMMA (R186 Table 3) -/

def State.mmaSign (s : State) (t : XT) (i : Instr) (coll : Nat) (d a b : Reg) : State :=
  s.engineSign t i coll [(s.accOk d, 1), (s.tileFullOk a, 2), (s.tileFullOk b, 3)] [] [] [] noTrap (fun s => sigOf s [] [])
def execMmaS (t : XT) (d a b : Reg) (s : State) : Out := .next (s.mmaSign t (.mmaS t d a b) 0x200 d a b)
def execMmaB (t : XT) (d a b : Reg) (s : State) : Out := .next (s.mmaSign t (.mmaB t d a b) 0x201 d a b)
def execMmaE (t : XT) (d a b : Reg) (s : State) : Out := .next (s.mmaSign t (.mmaE t d a b) 0x202 d a b)
/-- A chain names its first tiles; none of the tiles it names is empty. -/
def State.chainOk (s : State) (a : Reg) (n1 : BitVec 3) : Bool :=
  s.tileAnyOk a && (List.range (n1.toNat + 1)).all (fun q =>
    decide (16 ≤ a.toNat + q) || dsFormat (s.myTroop.descOf (a.toNat + q)) != 0)
def execMmaprog (t : XT) (d a b : Reg) (n1 : BitVec 3) (s : State) : Out :=
  .next (s.engineSign t (.mmaprog t d a b n1) 0x203 [(s.accOk d, 1), (s.chainOk a n1, 2), (s.chainOk b n1, 3)]
    [(decide (a.toNat + n1.toNat ≤ 15 ∧ b.toNat + n1.toNat ≤ 15), 5)] [] [] noTrap (fun s => sigOf s [] []))

end Sys2Proof.Machine
end

