-- ==== Sys2Proof/Machine/Mma.lean ====
section
/-! DEFINITION. Mma.lean: the products of the tile engine (spec/09_matrix.md R184-R196): the checks before the first
accumulation, and the steps of a product between the boundaries of R196, whose order is that of R188 and R191 for
every element. -/

namespace Sys2Proof.Machine

/-! ## Helpers (R187, R189) -/

def notZero (w : Word) : Bool := (w &&& 0x7FFFFFFF) != 0
/-- One accumulation step; an exact zero is never added. -/
def mmaAdd (acc y : Word) : Word := if notZero y then f32addSrc .rne acc y 3 else acc
def mmaMul (x y : Word) : Word := f32mulSrc .rne x y 3

/-! ## Operands -/

/-- One operand as the op reads it: its register, descriptor and bytes. -/
structure Opnd where
  t : Nat
  d : Dword
  img : Nat
  deriving DecidableEq, Repr
def Opnd.geo (o : Opnd) : Geo := dsGeo o.d
def Opnd.fmt (o : Opnd) : Nat := dsFormat o.d
def Opnd.rows (o : Opnd) : Nat := dsRows o.d
def Opnd.cols (o : Opnd) : Nat := dsCols o.d
def isFp8 (f : Nat) : Bool := f == 0x11 || f == 0x12
/-- Element of a dense operand as FP32, exactly (R191). -/
def Opnd.dense (o : Opnd) (src i j : Nat) : Word :=
  let k := i * o.cols + j
  if o.fmt = 0x10 then ofBf16 (o.img >>> (16 * k))
  else if o.fmt = 0x11 then ofE4m3 src (o.img >>> (8 * k)) else ofE5m2 src (o.img >>> (8 * k))

/-- TILE_SHAPE reasons 1 to 4 of a reef image against a descriptor (R176), or 0. -/
def imageReason (d : Dword) (img : Nat) : Nat :=
  let g := dsGeo d
  let h := img % 2 ^ 256
  if bits h 7 0 ≠ g.w ∨ bits h 47 32 ≠ g.rows ∨ bits h 63 48 ≠ g.cols ∨ bitOf h 11 ≠ decide (g.e = 32)
      ∨ bits h 19 14 ≠ g.cap ∨ bits h 21 20 ≠ g.spill then 1
  else match headerGeo h with
    | none => 2
    | some _ => imgFault g img

/-! ## The checks of R184 and R185 -/

/-- The kind of product a subop makes of two formats: 0 reef, 1 BF16, 2 FP8. -/
def prodKind (sub : Nat) (a b : Opnd) : Option Nat :=
  let k := if dsReef a.d && dsReef b.d && a.geo.e == b.geo.e then some 0
    else if a.fmt = 0x10 ∧ b.fmt = 0x10 then some 1
    else if isFp8 a.fmt && isFp8 b.fmt then some 2 else none
  if sub = 3 then k else k.filter (· == sub)
/-- A format no product of the subop reads. -/
def fmtBad (sub : Nat) (o : Opnd) : Bool :=
  match sub with
  | 0 => !dsReef o.d
  | 1 => o.fmt != 0x10
  | 2 => !isFp8 o.fmt
  | _ => o.fmt == 0
/-- Reasons of one pair with what each names. -/
def pairReasons (sub c : Nat) (shape : BitVec 4) (a b : Opnd) : List (Nat × Nat) :=
  let image (o : Opnd) : List (Nat × Nat) :=
    if dsReef o.d then (match imageReason o.d o.img with | 0 => [] | r => [(r, o.t)]) else []
  let dims := if a.fmt = 0 ∨ b.fmt = 0 then []
    else (if a.rows ≠ shapeM shape ∨ b.cols ≠ shapeN shape then [(5, c)] else [])
      ++ (if a.cols ≠ b.rows ∨ 64 < a.rows ∨ 64 < b.cols then [(6, a.t)] else [])
  image a ++ image b ++ dims ++
    (if (prodKind sub a b).isSome then [] else [(7, if fmtBad sub b && !fmtBad sub a then b.t else a.t)])
/-- The lowest code, with what gave it. -/
def prodReason (sub c : Nat) (shape : BitVec 4) (ps : List (Opnd × Opnd)) : Option (Nat × Nat) :=
  leastBy (·.1) (ps.flatMap (fun p => pairReasons sub c shape p.1 p.2))

/-! ## Reef entries with their places -/

/-- An entry in use: global row and column, index in its block, value. -/
structure Ent where
  r : Nat
  c : Nat
  q : Nat
  v : Word
  deriving DecidableEq, Repr
def imgEnts (g : Geo) (img : Nat) : List Ent :=
  (List.range (geoNb g)).flatMap (fun b => (imgEntries g img b).zipIdx.map (fun p =>
    { r := (b / geoBc g) * g.e + entryRow p.1, c := (b % geoBc g) * g.e + entryCol p.1, q := p.2, v := ofBf16 (entryVal p.1) }))
/-- R196: A's entries by column, row, index; B's by row, column, index. -/
def entsA (o : Opnd) : List Ent := sortBy (fun e => (e.c * 16384 + e.r) * 64 + e.q) (imgEnts o.geo o.img)
def entsB (o : Opnd) : List Ent := sortBy (fun e => (e.r * 16384 + e.c) * 64 + e.q) (imgEnts o.geo o.img)

/-! ## The steps between boundaries (R188, R191, R196) -/

/-- A step: the pair of the chain, the phase 1 to 3, the index within the phase. -/
structure MStep where
  q : Nat
  phase : Nat
  index : Nat
  deriving DecidableEq, Repr

/-- Step 1 of R188 for one element and k-block. -/
def bodyTerm (a b : Opnd) (i j kb : Nat) : Word :=
  let ga := a.geo
  let gb := b.geo
  let e := ga.e
  let ba := blockOf ga i (kb * e)
  let bb := blockOf gb (kb * e) j
  let sa := imgScale a.img ba
  let sb := imgScale b.img bb
  if sa = 255 then nan32 0 2
  else if sb = 255 then nan32 1 2
  else
    let s := (List.range e).foldl (fun (acc : Int) k =>
      acc + imgCodeZ ga a.img ba (i % e) k * imgCodeZ gb b.img bb k (j % e)) 0
    scaled32 s ((sa : Int) + sb - 254)
/-- One chunk of R191 for one element. -/
def chunkTerm (a b : Opnd) (i j ch : Nat) : Word :=
  let xs := (List.range 16).map (fun q => a.dense 0 i (16 * ch + q))
  let ys := (List.range 16).map (fun q => b.dense 1 (16 * ch + q) j)
  match firstNan ((xs.zip ys).flatMap (fun p => [p.1, p.2])) with
  | some n => n
  | none =>
    let ps := (xs.zip ys).map (fun p => valMul (fval p.1) (fval p.2))
    if ps.any (·.isNone) then nan32 3 4 else w32 (roundSum fp32 .rne (nan32 3 3).toNat (ps.filterMap id))
/-- Body of A at (i, k) as step 3 reads it. -/
def aBody (a : Opnd) (i k : Nat) : Word := imgBody a.geo a.img 0 (blockOf a.geo i k) (i % a.geo.e) (k % a.geo.e)

/-- What one step adds to element (i, j), or nothing. -/
def stepTerm (kind : Nat) (a b : Opnd) (ea eb : List Ent) (st : MStep) (i j : Nat) : Option Word :=
  if kind ≠ 0 then some (chunkTerm a b i j st.index)
  else match st.phase with
    | 1 => some (bodyTerm a b i j st.index)
    | 2 => match ea[st.index]? with
      | some e => if e.r = i then some (mmaMul e.v (imgElem b.geo b.img 1 e.c j)) else none
      | none => none
    | _ => match eb[st.index]? with
      | some e =>
        if e.c ≠ j then none
        else
          let ab := aBody a i e.r
          if !notZero ab && ea.any (fun r => r.r == i && r.c == e.r) then none else some (mmaMul ab e.v)
      | none => none
/-- One step applied to the accumulator, M × N elements row-major. -/
def mmaStep (kind n : Nat) (a b : Opnd) (ea eb : List Ent) (st : MStep) (acc : List Word) : List Word :=
  acc.zipIdx.map (fun p => match stepTerm kind a b ea eb st (p.2 / n) (p.2 % n) with
    | some t => mmaAdd p.1 t
    | none => p.1)

/-- The steps of pair `q` in order. -/
def pairSteps (kind q : Nat) (a b : Opnd) : List MStep :=
  let ph (p n : Nat) : List MStep := (List.range n).map (fun i => { q := q, phase := p, index := i })
  if kind = 0 then ph 1 (a.cols / a.geo.e) ++ ph 2 (imgEnts a.geo a.img).length ++ ph 3 (imgEnts b.geo b.img).length
  else ph 1 (a.cols / 16)
def chainSteps (sub : Nat) (ps : List (Opnd × Opnd)) : List MStep :=
  ps.zipIdx.flatMap (fun p => pairSteps ((prodKind sub p.1.1 p.1.2).getD 0) p.2 p.1.1 p.1.2)
/-- Steps applied one after another. -/
def runSteps (sub n : Nat) (ps : List (Opnd × Opnd)) (sts : List MStep) (acc : List Word) : List Word :=
  sts.foldl (fun acc st => match ps[st.q]? with
    | some (a, b) => mmaStep ((prodKind sub a b).getD 0) n a b (entsA a) (entsB b) st acc
    | none => acc) acc

/-! ## The progress word (08 R182 Table 4) -/

def progressWord (sub c ta tb : Nat) (st : MStep) : Dword :=
  BitVec.ofNat 64 (st.phase * 2 ^ 60 + sub * 2 ^ 52 + c * 2 ^ 48 + ta * 2 ^ 44 + tb * 2 ^ 40 + st.index * 2 ^ 16)
/-- The step a progress word names next, in the chain whose first tile A is `ta`. -/
def progressStep (w : Dword) (ta : Nat) : MStep :=
  { q := bits w.toNat 47 44 - ta, phase := bits w.toNat 63 60, index := bits w.toNat 31 16 }

/-- Order of the steps of a chain. -/
def stepKey (st : MStep) : Nat := (st.q * 16 + st.phase) * 65536 + st.index

/-! ## Cycles of reef work beyond the dense array (R195 Table 4) -/

/-- A region of 16 × 16 elements holds a sub-block not marked zero, or lies in a NaN-scale block. -/
def regionLive (g : Geo) (img r c : Nat) : Bool :=
  let b := blockOf g (16 * r) (16 * c)
  imgScale img b == 255 ||
    [(0, 0), (0, 8), (8, 0), (8, 8)].any (fun p => !imgZbit g img b (subOf g ((16 * r) % g.e + p.1) ((16 * c) % g.e + p.2)))
def reefExcess (a b : Opnd) : Nat :=
  let m := a.rows / 16
  let n := b.cols / 16
  let k := a.cols / 16
  let w := ((List.range m).flatMap (fun i => (List.range k).flatMap (fun q => (List.range n).map (fun j =>
    regionLive a.geo a.img i q && regionLive b.geo b.img q j)))).countP id
  let rc := ((imgEnts a.geo a.img).length * b.cols + (imgEnts b.geo b.img).length * a.rows + 2047) / 2048
  rc - (w + 7) / 8
def chainExcess (sub : Nat) (ps : List (Opnd × Opnd)) : Nat :=
  (ps.map (fun p => if prodKind sub p.1 p.2 = some 0 then reefExcess p.1 p.2 else 0)).sum

end Sys2Proof.Machine
end

