-- ==== Sys2Proof/Machine/TileRun.lean ====
section
/-! DEFINITION. TileRun.lean: what a queued tile op does when the tile engine starts it, its faults, and its
retirement (spec/08_registers_tile.md R170-R181; spec/09_matrix.md R185, R192, R196). -/

namespace Sys2Proof.Machine

/-! ## Tile state (R166) -/

/-- Byte of tile slot n. -/
def tileBase (n : Nat) : Nat := 65536 * n
def State.slotNat (s : State) (t n len : Nat) : Nat := mnat (s.troop t).tiles (tileBase n) len
def State.setSlot (s : State) (t n : Nat) (bs : List Byte) : State :=
  (s.modTroop t (fun v => { v with tiles := mwrite v.tiles (tileBase n) bs })).errWriteAll (some (tileSpace t)) (tileBase n) bs.length
def accKey (c i j : Nat) : Nat := c * 4096 + 64 * i + j
def State.accAt (s : State) (t c i j : Nat) : Word := sget (s.troop t).acc 0 (accKey c i j)
def State.setAcc (s : State) (t c i j : Nat) (v : Word) : State :=
  (s.modTroop t (fun q => { q with acc := sset q.acc 0 (accKey c i j) v })).errWriteAll (some (accSpace t)) (4 * accKey c i j) 4
/-- The elements of an accumulator under its shape, row-major. -/
def State.accList (s : State) (t c : Nat) : List Word :=
  let sh := (s.troop t).shapeOf c
  (List.range (shapeM sh * shapeN sh)).map (fun k => s.accAt t c (k / shapeN sh) (k % shapeN sh))
def State.setAccList (s : State) (t c : Nat) (vs : List Word) : State :=
  let n := shapeN ((s.troop t).shapeOf c)
  vs.zipIdx.foldl (fun s p => s.setAcc t c (p.2 / n) (p.2 % n) p.1) s

/-! ## Faults (R172) -/

/-- Cause, TVAL, TADDR. -/
structure TFault where
  cause : Nat
  tval : Word
  taddr : Dword := 0
  deriving DecidableEq, Repr
abbrev TRes := Except TFault State
def shapeTval (sub reason idx : Nat) : Word := w32 (sub + reason * 2 ^ 8 + idx * 2 ^ 12)
def shapeFault (sub reason idx : Nat) : TFault := { cause := causeTileShape, tval := shapeTval sub reason idx }
/-- ECC_UNCORR of a scratchpad operand. -/
def eccAt (a : Nat) : TFault := { cause := causeEcc, tval := w32 a, taddr := BitVec.ofNat 64 a }
/-- ECC_UNCORR in tile slot or accumulator `idx` at byte `off` of it: [15:12] names it (R185); where the offset and the
address stand is a DESIGN CHOICE (log 21): [11:0] and [19:16] hold the offset, TADDR the model's own address `a`. -/
def eccTile (idx off a : Nat) : TFault :=
  { cause := causeEcc, tval := w32 (off % 4096 + idx * 4096 + off / 4096 * 65536), taddr := BitVec.ofNat 64 a }

/-- Subop of an XTILE or XMMA instruction (R174, R186). -/
def tileSub : Instr → Nat
  | .tdset .. => 0 | .tdget .. => 1 | .tload .. => 2 | .tstore .. => 3 | .tzero .. => 4 | .split .. => 5 | .azero .. => 6
  | .adrain .. => 7 | .aread .. => 8 | .awrite .. => 9 | .ascale .. => 10 | .reefq .. => 11
  | .mmaS .. => 0 | .mmaB .. => 1 | .mmaE .. => 2 | .mmaprog .. => 3 | _ => 0

/-- The scratchpad bytes of an operand, as a troop and an offset (R170, R203). A local range that has left the partition since
its signature, its descriptor changed, raises SPM_ACCESS as a cluster range does (DESIGN CHOICE, log 23). -/
def State.tilePlace (s : State) (t : Nat) (cl : Bool) (a n : Nat) : Except TFault (Nat × Nat) :=
  if cl then
    match s.window t a n with
    | some p => .ok p
    | none => .error { cause := causeSpmAccess, tval := w32 a }
  else if s.spmIn t a n then .ok (t, a) else .error { cause := causeSpmAccess, tval := w32 a }
/-- Bytes read there; an uncorrectable error is reported (R218). -/
def State.tileRead (s : State) (t : Nat) (cl : Bool) (a n : Nat) : Except TFault (List Byte) :=
  match s.tilePlace t cl a n with
  | .error e => .error e
  | .ok p => match s.errRead (some p.1) p.2 n with
    | some b => .error (eccAt (a + (b - p.2)))
    | none => .ok (mread (s.troop p.1).spm p.2 n)
/-- A read of channel buffers is an access of R299; so is one of supplied scale codes. -/
def State.tileTouch (s : State) (t : Nat) (cl : Bool) (a n : Nat) : State :=
  match s.tilePlace t cl a n with
  | .ok p => s.chanTouch p.1 p.2 n
  | .error _ => s
def State.tileWrite (s : State) (t : Nat) (cl : Bool) (a : Nat) (bs : List Byte) : TRes :=
  match s.tilePlace t cl a bs.length with
  | .error e => .error e
  | .ok p => .ok (s.spmWrite p.1 p.2 bs)
/-- An uncorrectable error in the bytes read of a tile slot. -/
def State.slotErr (s : State) (t n off len : Nat) : Option TFault :=
  (s.errRead (some (tileSpace t)) (tileBase n + off) len).map (fun b => eccTile n (b - tileBase n) b)
/-- The same in `w` elements of an accumulator from (i, j) on; the offset counts its elements row-major. -/
def State.accErrAt (s : State) (t c i j w : Nat) : Option TFault :=
  (s.errRead (some (accSpace t)) (4 * accKey c i j) (4 * w)).map (fun b =>
    eccTile c (4 * (i * shapeN ((s.troop t).shapeOf c)) + (b - 4 * accKey c i 0)) b)
/-- The same in the elements of an accumulator under its shape. -/
def State.accErr (s : State) (t c : Nat) : Option TFault :=
  let sh := (s.troop t).shapeOf c
  (List.range (shapeM sh)).findSome? (fun i => s.accErrAt t c i 0 (shapeN sh))
/-- Supplied scale codes of a descriptor, one per block (R177, R180). -/
def State.scaleCodes (s : State) (t : Nat) (d : Dword) : Except TFault (List Nat) :=
  if dsScaleBytes d = 0 then .ok []
  else match s.tileRead t false (dsScOff d) (dsScaleBytes d) with
    | .error e => .error e
    | .ok bs => .ok (bs.map (·.toNat))
/-- A signer's destination registers are written when the op executes (R171). -/
def State.tileGive (s : State) (g : Sig) (vs : List Word) : State :=
  if g.gone || !s.alive g.x then s else (g.dsts.zip vs).foldl (fun s p => s.wrX g.x p.1 p.2) s

/-! ## XTILE (R175-R181) -/

/-- R175: the image `tzero` writes. -/
def zeroImage (g : Geo) : List Byte :=
  imageOf g (List.replicate (geoNb g)
    { scale := 0, codes := List.replicate (g.e * g.e) 0, entries := [], zmap := List.replicate (geoNs g) true })
/-- A dense element of a format, as bytes. -/
def denseBytes (fmt : Nat) (sat : Bool) (v : Word) : List Byte :=
  if fmt = 0x10 then leBytes 2 (toBf16 .rne v) else if fmt = 0x11 then leBytes 1 (toE4m3 .rne v) else leBytes 1 (toE5m2 .rne sat v)

/-- R181: a sampled drain is compared, and may set the flag and count. -/
def fidErr (ps : List (Word × Word)) : Word :=
  let q := ps.foldl (fun (a : Word × Word) p =>
    let d := f32sub p.1 p.2
    (f32add .rne a.1 (f32mul .rne d d), f32add .rne a.2 (f32mul .rne p.1 p.1))) (0, 0)
  if !notZero q.1 then 0 else f32div .rne q.1 q.2
def State.monitor (s : State) (t st : Nat) (ps : List (Word × Word)) : State :=
  let n := min (bits (s.troop t).fidrate.toNat 4 0) 24
  let f := sget (s.troop t).fid {} st
  let f1 := { f with cnt := (f.cnt + 1) % 2 ^ 32 }
  let f2 := if f.cnt % 2 ^ n = 0 then
      let e := fidErr ps
      if isNan e || fcmpRel .gt e (s.troop t).fidthr then { f1 with flag := true, exceed := min (f1.exceed + 1) (2 ^ 32 - 1) } else f1
    else f1
  s.modTroop t (fun v => { v with fid := sset v.fid {} st f2 })

def State.runTload (s : State) (t : Nat) (cl : Bool) (n a : Nat) : TRes :=
  let d := (s.troop t).descOf n
  if dsFormat d = 0 then .error (shapeFault 2 7 n)
  else match s.tileRead t cl a (dsFoot d) with
    | .error e => .error e
    | .ok bs =>
      let r := if dsReef d then imageReason d (leNat bs) else 0
      if r ≠ 0 then .error (shapeFault 2 r n) else .ok ((s.setSlot t n bs).tileTouch t cl a (dsFoot d))
def State.runTstore (s : State) (t : Nat) (cl : Bool) (a n : Nat) : TRes :=
  let d := (s.troop t).descOf n
  if dsFormat d = 0 then .error (shapeFault 3 7 n)
  else match s.slotErr t n 0 (dsFoot d) with
    | some e => .error e
    | none => s.tileWrite t cl a (mread (s.troop t).tiles (tileBase n) (dsFoot d))
def State.runTzero (s : State) (t n : Nat) : TRes :=
  let d := (s.troop t).descOf n
  if dsFormat d = 0 then .error (shapeFault 4 7 n)
  else .ok (s.setSlot t n (if dsReef d then zeroImage (dsGeo d) else List.replicate (dsFoot d) 0))
def State.runSplit (s : State) (t : Nat) (sat cl : Bool) (n a : Nat) : TRes :=
  let d := (s.troop t).descOf n
  if dsFormat d = 0 ∨ (sat ∧ dsFormat d ≠ 0x12) then .error (shapeFault 5 7 n)
  else match s.tileRead t cl a (4 * dsRows d * dsCols d) with
    | .error e => .error e
    | .ok bs =>
      let ws := wordsOf bs
      if dsReef d then
        match s.scaleCodes t d with
        | .error e => .error e
        | .ok sc => match encodeImage (dsGeo d) sc (fun i j => ws.getD (i * dsCols d + j) 0) with
          | .error (b, k) => .error { cause := causeReefOverflow, tval := overflowTval b k }
          | .ok img => .ok (((s.setSlot t n img).tileTouch t cl a (4 * dsRows d * dsCols d)).tileTouch t false (dsScOff d) (dsScaleBytes d))
      else .ok ((s.setSlot t n (ws.flatMap (denseBytes (dsFormat d) sat))).tileTouch t cl a (4 * dsRows d * dsCols d))
def State.zeroAcc (s : State) (t c : Nat) : State :=
  (s.modTroop t (fun v => { v with acc := v.acc.filter (fun e => e.1 / 4096 != c) })).errWriteAll (some (accSpace t)) (4 * accKey c 0 0) 16384
/-- The bytes of a drain and each element's drained value. An empty descriptor gives reason 7, not 5 (DESIGN CHOICE, log 23). -/
def State.drainOut (s : State) (t : Nat) (fmt : DrainFmt) (dn c : Nat) : Except TFault (List Byte × List Word) :=
  let sh := (s.troop t).shapeOf c
  let vs := s.accList t c
  match fmt with
  | .f32 => .ok (vs.flatMap (fun v => leBytes 4 v.toNat), vs)
  | .bf16 => .ok (vs.flatMap (fun v => leBytes 2 (toBf16 .rne v)), vs.map (fun v => ofBf16 (toBf16 .rne v)))
  | .reef =>
    let d := (s.troop t).descOf dn
    if dsFormat d != 0 && (dsRows d != shapeM sh || dsCols d != shapeN sh) then .error (shapeFault 7 5 c)
    else if !dsReef d then .error (shapeFault 7 7 dn)
    else match s.scaleCodes t d with
      | .error e => .error e
      | .ok sc => match encodeImage (dsGeo d) sc (fun i j => vs.getD (i * shapeN sh + j) 0) with
        | .error (b, k) => .error { cause := causeReefOverflow, tval := overflowTval b k }
        | .ok img =>
          let m := leNat img
          .ok (img, (List.range vs.length).map (fun k => imgElem (dsGeo d) m 0 (k / shapeN sh) (k % shapeN sh)))
/-- A drain: an error of the accumulator is found before the reasons of Table 5 (DESIGN CHOICE, log 23). -/
def State.runAdrain (s : State) (t : Nat) (fmt : DrainFmt) (z : Bool) (mon : Option (BitVec 4)) (cl : Bool) (dn c a : Nat) : TRes :=
  match s.accErr t c with
  | some e => .error e
  | none => match s.drainOut t fmt dn c with
    | .error e => .error e
    | .ok (bs, ys) => match s.tileWrite t cl a bs with
      | .error e => .error e
      | .ok s0 =>
        let s1 := if fmt = .reef then s0.tileTouch t false (dsScOff ((s.troop t).descOf dn)) (dsScaleBytes ((s.troop t).descOf dn)) else s0
        let s2 := match mon with
          | some st => s1.monitor t st.toNat ((s.accList t c).zip ys)
          | none => s1
        .ok (if z then s2.zeroAcc t c else s2)

/-- Row and column of an element address. -/
def elemRow (a : Word) : Nat := a.toNat % 65536
def elemCol (a : Word) : Nat := a.toNat / 65536
def inShape (sh : BitVec 4) (a : Word) : Bool := decide (elemRow a < shapeM sh) && decide (elemCol a < shapeN sh)
/-- R178. -/
def State.reefState (s : State) (t n : Nat) (a : Word) : Word :=
  let d := (s.troop t).descOf n
  let b := a.toNat % 2 ^ 20
  let g := dsGeo d
  if !dsReef d || decide (geoNb g ≤ b) then 0xFFFFFFFF
  else
    let img := s.slotNat t n (dsFoot d)
    w32 (imgCount g img b + 256 * imgScale img b + 65536 * (List.range (geoNs g)).countP (fun q => imgZbit g img b q))

/-- Bytes of the image that hold the state of block `b`: offset and length. -/
def reefPieces (d : Dword) (b : Nat) : List (Nat × Nat) :=
  let g := dsGeo d
  if !dsReef d || decide (geoNb g ≤ b) then []
  else [(oScale + b, 1), (oCount g + b, 1), (oZmap g + b * geoNs g / 8, (b * geoNs g + geoNs g + 7) / 8 - b * geoNs g / 8)]

/-- An XTILE op at its place in the queue. -/
def State.runXtile (s : State) (o : TileOp) : TRes :=
  let t := o.troop
  let g := opLeader o
  let a := sigWord g 0
  let signers := sortBy (·.x) o.sigs
  match o.sub with
  | .tdset _ d _ => .ok (s.modTroop t (fun v => { v with desc := sset v.desc 0 d.toNat (sigPair g) }))
  | .tdget _ _ n =>
    let d := (s.troop t).descOf n.toNat
    .ok (signers.foldl (fun s q => s.tileGive q [d.extractLsb' 0 32, d.extractLsb' 32 32]) s)
  | .tload _ cl d _ _ => s.runTload t cl d.toNat a
  | .tstore _ cl _ b _ => s.runTstore t cl a b.toNat
  | .tzero _ d => s.runTzero t d.toNat
  | .split _ sat cl d _ _ => s.runSplit t sat cl d.toNat a
  | .azero _ d m n => .ok ((s.zeroAcc t d.toNat).modTroop t (fun v => { v with shapes := sset v.shapes 0 d.toNat (n ++ m) }))
  | .adrain _ fmt z mon cl d _ b _ => s.runAdrain t fmt z mon cl d.toNat b.toNat a
  | .aread _ _ _ c => match signers.findSome? (fun q =>
      let e := q.vals.getD 0 0
      if inShape ((s.troop t).shapeOf c.toNat) e then s.accErrAt t c.toNat (elemRow e) (elemCol e) 1 else none) with
    | some e => .error e
    | none => .ok (signers.foldl (fun s q =>
        let e := q.vals.getD 0 0
        s.tileGive q [if inShape ((s.troop t).shapeOf c.toNat) e then s.accAt t c.toNat (elemRow e) (elemCol e) else 0x7FC00010]) s)
  | .awrite _ c _ _ => .ok (signers.foldl (fun s q =>
      let e := q.vals.getD 0 0
      if inShape ((s.troop t).shapeOf c.toNat) e then s.setAcc t c.toNat (elemRow e) (elemCol e) (q.vals.getD 1 0) else s) s)
  | .ascale _ c k => match s.accErr t c.toNat with
    | some e => .error e
    | none => .ok (s.setAccList t c.toNat ((s.accList t c.toNat).map (fun v => f32ldexp .rne v k.toInt)))
  | .reefq _ _ _ n => match signers.findSome? (fun q =>
      (reefPieces ((s.troop t).descOf n.toNat) ((q.vals.getD 0 0).toNat % 2 ^ 20)).findSome? (fun p => s.slotErr t n.toNat p.1 p.2)) with
    | some e => .error e
    | none => .ok (signers.foldl (fun s q => s.tileGive q [s.reefState t n.toNat (q.vals.getD 0 0)]) s)
  | _ => .ok s

/-! ## XMMA (R184-R192, R196) -/

/-- Accumulator, first tiles and number of pairs of a product. -/
def mmaFields : Instr → Option (Nat × Nat × Nat × Nat)
  | .mmaS _ d a b | .mmaB _ d a b | .mmaE _ d a b => some (d.toNat, a.toNat, b.toNat, 1)
  | .mmaprog _ d a b n1 => some (d.toNat, a.toNat, b.toNat, n1.toNat + 1)
  | _ => none
def State.opnd (s : State) (t n : Nat) : Opnd :=
  let d := (s.troop t).descOf n
  { t := n, d := d, img := s.slotNat t n (dsFoot d) }
/-- A product: the checks of R185, then its steps from the progress word on, or from the first; with `stop` no more than
that many of them, which leaves the op unfinished at a boundary. The state, and whether the op is done. Of several operands in
error the first counts: A and B of each pair in order, then the accumulator (DESIGN CHOICE, log 23). The progress word is one for a troop: a product inserted
while one that faulted at its resumption is held, and itself stopped by a save, takes it, and the held one then begins at its first
step (DESIGN CHOICE, log 27). -/
def State.runXmma (s : State) (o : TileOp) (c a b n : Nat) (stop : Option Nat) : Except TFault (State × Bool) :=
  let t := o.troop
  let sub := tileSub o.sub
  let ps := (List.range n).map (fun q => (s.opnd t (a + q), s.opnd t (b + q)))
  let sh := (s.troop t).shapeOf c
  match prodReason sub c sh ps with
  | some (r, idx) => .error (shapeFault sub r idx)
  | none =>
    let errs := (ps.flatMap (fun p => [p.1, p.2])).filterMap (fun q => s.slotErr t q.t 0 (dsFoot q.d))
    match errs ++ (s.accErr t c).toList with
    | e :: _ => .error e
    | [] =>
      let all := chainSteps sub ps
      let first := if o.part then progressStep (s.troop t).progress a else { q := 0, phase := 1, index := 0 }
      let todo := if o.part then all.dropWhile (fun st => decide (stepKey st < stepKey first)) else all
      let now := match stop with
        | some k => todo.take k
        | none => todo
      let rest := todo.drop now.length
      let s1 := s.setAccList t c (runSteps sub (shapeN sh) ps now (s.accList t c))
      match rest with
      | [] => .ok (s1.modTroop t (fun v => { v with progress := if o.part then 0 else v.progress }), true)
      | st :: _ => .ok (s1.modTroop t (fun v => { v with progress := progressWord sub c (a + st.q) (b + st.q) st }), false)

/-! ## The engine (R170, R172) -/

/-- A store issued before the entry that meets an interval of it, or a load that meets what it writes, has not reached its
bank (R286). -/
def State.storesMeet (s : State) (e : Score) : Bool :=
  let meets (id : Nat) (tgt : Target) (a n : Nat) (write : Bool) : Bool :=
    let iv := granules (a, a + n)
    e.before.contains id && tgt == .spm e.troop && ((write && ivalMeet iv (entryRd e)) || ivalMeet iv (entryWr e))
  s.crews.any (fun c => c.1 / 64 == e.troop && c.2.sq.any (fun q => meets q.id q.tgt q.addr q.data.length true)) ||
  (s.core (coreOfTroop e.troop)).reqs.any (fun r => !r.done && meets r.id r.tgt r.addr r.size r.writes)
/-- Older stores of the troop to an op's intervals have not reached their bank. -/
def State.opStores (s : State) (t opid : Nat) : Bool :=
  (s.core (coreOfTroop t)).score.any (fun e => e.troop == t && e.opid == opid && s.storesMeet e)
/-- An op that touches the scratchpad has its entry. -/
def State.headScored (s : State) (k : Nat) (o : TileOp) : Bool :=
  let iv := tileIvals ((s.troop o.troop).descOf) ((s.troop o.troop).shapeOf) (opLeader o) o.sub
  (iv.1.1 == iv.1.2 && iv.2.1 == iv.2.2) || (s.core k).score.any (fun e => e.troop == o.troop && e.opid == o.opid)
/-- The op at the head may start; of a troop whose save has begun, only the op that was then its first (R182). -/
def State.tileDue (s : State) (k : Nat) : Bool :=
  match (s.core k).tq with
  | [] => false
  | o :: _ => !o.running && s.headScored k o && !((s.troop o.troop).saving && (s.troop o.troop).saveHead != some o.opid) && !(s.scoreBlocked o.troop o.opid || s.opStores o.troop o.opid)
/-- R172, R173: the faulted op leaves the queue, every later op of its troop is held, and the fault goes to the leader,
or, when that strand has exited, to the next live contributing signer. With none the op is discarded. -/
def State.tileFaulted (s : State) (k : Nat) (o : TileOp) (e : TFault) : State :=
  let t := o.troop
  let later := ((s.core k).tq.drop 1).filter (fun q => q.troop == t)
  let s1 := s.modCore k (fun c => { c with tq := (c.tq.drop 1).filter (fun q => q.troop != t) })
  let held (x : Nat) : TileFault :=
    { op := o, anchor := x, cause := e.cause, tval := e.tval, taddr := e.taddr, time := (s.core k).cycle }
  match (leaderOf (o.sigs.filter (fun g => !g.gone && s.alive g.x))).map (·.x) with
  | some x => s1.modTroop t (fun v => { v with tfaults := held x :: v.tfaults, theld := later ++ v.theld })
  | none =>
    let s2 := s1.modTroop t (fun v => { v with theld := later ++ v.theld, tilelost := true })
    (s2.tileDiscard (held 0)).pumpCore k
def State.setHead (s : State) (k : Nat) (o : TileOp) : State := s.modCore k (fun c => { c with tq := o :: c.tq.drop 1 })
/-- The head op is performed: it faults, stops at a boundary while a save of its troop is asked for, or runs until it
retires. -/
def State.startTile (s : State) (k : Nat) (stop : Option Nat) : State :=
  match (s.core k).tq with
  | [] => s
  | o :: _ =>
    let now := (s.core k).cycle
    match mmaFields o.sub with
    | none => match s.runXtile o with
      | .error e => s.tileFaulted k o e
      | .ok s1 => s1.setHead k { o with running := true, began := now }
    | some (c, a, b, n) =>
      let stop := if (s.troop o.troop).saveReq.isSome then stop else none
      match s.runXmma o c a b n stop with
      | .error e => s.tileFaulted k o e
      | .ok (s1, true) =>
        let ps := (List.range n).map (fun q => (s.opnd o.troop (a + q), s.opnd o.troop (b + q)))
        s1.setHead k { o with running := true, part := false, began := now, excess := chainExcess (tileSub o.sub) ps }
      | .ok (s1, false) => s1.setHead k { o with part := true }

/-- The head op takes the scoreboard entry that descriptors changed since it was queued now ask for (R170, R172). -/
def State.headScore (s : State) (k : Nat) : State :=
  match (s.core k).tq with
  | [] => s
  | o :: _ =>
    let iv := tileIvals ((s.troop o.troop).descOf) ((s.troop o.troop).shapeOf) (opLeader o) o.sub
    if o.running || (iv.1.1 == iv.1.2 && iv.2.1 == iv.2.2)
        || (s.core k).score.any (fun e => e.troop == o.troop && e.opid == o.opid) || decide (48 ≤ (s.core k).score.length) then s
    else s.scoreAdd (scoreEntry o.troop 4 o.opid iv.1 iv.2)
/-- The tile engine of core `unit` starts its head op; `opt` counts the boundary steps a save lets it take. -/
def execTileOpStart (s : State) : Out :=
  let s1 := s.headScore s.ev.unit
  .next (if s.still s.ev.unit then s else if s1.tileDue s.ev.unit then s1.startTile s.ev.unit s.ev.opt else s1)

/-- The op at the head retires: TL, tokens and its scoreboard entry; phases that waited for room are tried again. -/
def execTileOpRetire (s : State) : Out :=
  let k := s.ev.unit
  .next (match (s.core k).tq with
    | [] => s
    | o :: rest =>
      if !o.running || s.still k then s
      else
        let now := (s.core k).cycle
        let s1 := ((s.modCore k (fun c => { c with tq := rest })).perf k 8 o.troop (now - o.began)).perf k 9 o.troop o.excess
        let s2 := s1.tileDone o .ok
        s2.pumpCore k)

end Sys2Proof.Machine
end

