-- ==== Sys2Proof/Machine/Codec.lean ====
section
/-! DEFINITION. Codec.lean: the coded chunk (spec/11_kv_space.md R237), the frame of a checked stream and its CRC
(spec/12_engines.md R260, R261). -/

namespace Sys2Proof.Machine

/-- Widths of an element format: exponent, mantissa; sign, exponent, mantissa stand from the top. -/
structure CFmt where
  x : Nat
  m : Nat
  deriving DecidableEq, Repr
def cBf16 : CFmt := ⟨8, 7⟩
def cE4m3 : CFmt := ⟨4, 3⟩
def CFmt.bytes (f : CFmt) : Nat := (1 + f.x + f.m) / 8
def CFmt.sign (f : CFmt) (v : Nat) : Nat := v >>> (f.x + f.m) % 2
def CFmt.man (f : CFmt) (v : Nat) : Nat := v % 2 ^ f.m
def CFmt.exp (f : CFmt) (v : Nat) : Nat := (v >>> f.m) % 2 ^ f.x
def CFmt.make (f : CFmt) (s e m : Nat) : Nat := s * 2 ^ (f.x + f.m) + e * 2 ^ f.m + m

/-- Fields of `w` bits, lowest first. -/
def packBits (w : Nat) : List Nat → Nat
  | [] => 0
  | v :: vs => v % 2 ^ w + 2 ^ w * packBits w vs
def fieldAt (bitsNat at_ w i : Nat) : Nat := (bitsNat >>> (at_ + w * i)) % 2 ^ w

/-- Bytes of a coded chunk of n elements with exponent fields of w bits. -/
def codedLen (f : CFmt) (n w : Nat) : Nat := 8 + (n * (1 + f.m + w) + 7) / 8
/-- The most frequent exponent, the smaller among equals. -/
def modalExp (f : CFmt) (es : List Nat) : Nat :=
  (leastBy (fun e => es.length - es.count e) (List.range (2 ^ f.x))).getD 0
/-- Every exponent fits a signed field of w bits around `me`; with w = 0 every exponent is `me`. -/
def widthFits (me w : Nat) (es : List Nat) : Bool :=
  if w = 0 then es.all (· == me)
  else es.all (fun e => decide (-(2 ^ (w - 1) : Int) ≤ (e : Int) - me ∧ (e : Int) - me ≤ 2 ^ (w - 1) - 1))

/-- R237: a chunk coded in 1 to 3 granules, or none when it is stored raw. -/
def encodeChunk (f : CFmt) (vs : List Nat) : Option (List Byte) :=
  let es := vs.map f.exp
  let me := modalExp f es
  match (List.range (f.x + 1)).find? (fun w => widthFits me w es) with
  | none => none
  | some w =>
    let n := vs.length
    if 3072 < codedLen f n w then none
    else
      let body := packBits 1 (vs.map f.sign) + 2 ^ n * (packBits f.m (vs.map f.man)
        + 2 ^ (n * f.m) * packBits w (es.map (fun (e : Nat) => wrapNat w ((e : Int) - me))))
      some (leBytes 1 me ++ leBytes 1 w ++ leBytes 6 0 ++ leBytes (codedLen f n w - 8) body)
/-- The inverse, over the granules that hold it: the elements, or none for a malformed chunk. -/
def decodeChunk (f : CFmt) (n : Nat) (bs : List Byte) : Option (List Nat) :=
  let v := leNat bs
  let me := bits v 7 0
  let w := bits v 15 8
  if bits v 63 16 ≠ 0 ∨ f.x < w ∨ bs.length < codedLen f n w then none
  else
    let ex (i : Nat) : Int := (me : Int) + (if w = 0 then 0 else sextInt w (fieldAt v (64 + n + n * f.m) w i))
    let ok := (List.range n).all (fun i => decide (0 ≤ ex i ∧ ex i < 2 ^ f.x))
    if !ok then none
    else some ((List.range n).map (fun i => f.make (fieldAt v 64 1 i) (ex i).toNat (fieldAt v (64 + n) f.m i)))
def elemBytes (f : CFmt) (vs : List Nat) : List Byte := vs.flatMap (leBytes f.bytes)
/-- Elements of bytes. -/
def elemsOf (f : CFmt) (bs : List Byte) : List Nat :=
  (List.range (bs.length / f.bytes)).map (fun i => leNat ((bs.drop (i * f.bytes)).take f.bytes))

/-! ## Frames (R260 Table 5, R261) -/

/-- CRC-32C, reflected, one byte. -/
def crcByte (c : Nat) (b : Byte) : Nat :=
  (List.range 8).foldl (fun c _ => if c % 2 = 1 then (c / 2) ^^^ 0x82F63B78 else c / 2) (c ^^^ b.toNat)
def crc32c (bs : List Byte) : Nat := (bs.foldl crcByte 0xFFFFFFFF) ^^^ 0xFFFFFFFF

structure FrameHdr where
  fmt : Nat
  size : Nat
  n : Nat
  crc : Nat
  deriving DecidableEq, Repr
def frameHdr (v : Nat) : FrameHdr := { fmt := bits v 7 0, size := bits v 15 8, n := bits v 31 16, crc := bits v 63 32 }
def frameFmt (fmt : Nat) : Option CFmt := if fmt = 1 then some cBf16 else if fmt = 2 then some cE4m3 else none
/-- Reserved fields and values, and the limit of `n`. -/
def frameHdrOk (v : Nat) : Bool :=
  let h := frameHdr v
  bits v 511 64 == 0 && decide (1 ≤ h.size ∧ h.size ≤ 4) &&
    (match frameFmt h.fmt with
     | some f => decide (h.n ≤ 4096 / f.bytes)
     | none => h.fmt == 0 && h.n == 0 && h.size == 4)
/-- The 4,096 decoded bytes of a frame with a good header, or none when it fails its check. -/
def frameData (v : Nat) (payload : List Byte) : Option (List Byte) :=
  let h := frameHdr v
  let out := match frameFmt h.fmt with
    | none => some (payload.take 4096)
    | some f => (decodeChunk f h.n payload).map (fun es => padTo 4096 (elemBytes f es))
  out.filter (fun bs => crc32c bs == h.crc)

end Sys2Proof.Machine
end

