-- ==== Sys2Proof/Machine/VMem.lean ====
section
/-! DEFINITION. VMem.lean: global memory as an engine reaches it: translation page by page, reads and writes at the
home slice (spec/10_memories.md R205, R206, R218; spec/13_memory_model.md R289; spec/15_tables.md R338). -/

namespace Sys2Proof.Machine

/-- Why a segment of an engine op does not complete. -/
inductive VErr where
  /-- What misses, with the translations found before it. -/
  | miss (asid page need va : Nat) (got : List Tlb)
  | ecc (va : Nat)
  | lost (va : Nat)
  | spm (a : Nat)
  | shape (tval : Word)
  | overflow (tval : Word)
  /-- What it reaches for cannot be reached yet (`State.pieceHeld`). -/
  | held
  | reserved
  deriving DecidableEq, Repr

/-- A virtual range within one page, translated. -/
structure Piece where
  t : Target
  a : Nat
  n : Nat
  va : Nat
  nocache : Bool
  deriving DecidableEq, Repr

/-- A virtual address from an exact integer (R258). -/
def vaOf (a : Int) : Nat := wrapNat 64 a
/-- The parts of a range by 4 KiB pages: address and length. -/
def pageParts (va n : Nat) : List (Nat × Nat) :=
  if n = 0 then []
  else (span (va / 4096) ((va + n + 4095) / 4096)).map (fun p =>
    (max va (p * 4096), min (va + n) (p * 4096 + 4096) - max va (p * 4096)))
/-- The range translated by the core's TLB and by what the op has been given (`got`), or the first key that misses. -/
def State.vpieces (s : State) (k asid need : Nat) (got : List Tlb) : List (Nat × Nat) → Except VErr (List Piece)
  | [] => .ok []
  | p :: ps =>
    let va := BitVec.ofNat 64 p.1
    match (s.tlbHit k asid va need).or (got.find? (fun t => t.covers asid (va57 va) && t.grants need)) with
    | none => .error (.miss asid (va57 va / 4096) need p.1 got)
    | some t =>
      let a := t.addr va
      if targetReserved t.target a p.2 then .error .reserved
      else match s.vpieces k asid need (if got.contains t then got else t :: got) ps with
        | .error e => .error e
        | .ok r => .ok ({ t := t.target, a := a, n := p.2, va := p.1, nocache := t.nocache } :: r)
def State.vrange (s : State) (k asid need : Nat) (got : List Tlb) (va n : Nat) : Except VErr (List Piece) :=
  s.vpieces k asid need got (pageParts va n)

/-- A range in the requests that carry it: at most 256 bytes, none over a boundary of 256 (R391; log 17). -/
def uaParts (a n : Nat) : List (Nat × Nat) :=
  if n = 0 then [] else (span (a / 256) ((a + n + 255) / 256)).map (fun p => (max a (p * 256), min (a + n) (p * 256 + 256) - max a (p * 256)))
/-- The write request of some bytes: the blocks of 64 bytes that hold them (R391). -/
def uaWrite (id pkg port a : Nat) (bs : List Byte) : UaMsg :=
  { id := id, kind := 0, pkg := pkg, addr := a / 64 * 64, data := bs, port := port, len := (a + bs.length + 63) / 64 * 64 - a / 64 * 64, first := a % 64 }
/-- The read request of `n` bytes at `a`. -/
def uaRead (id pkg port a n : Nat) : UaMsg :=
  { id := id, kind := 5, pkg := pkg, addr := a / 64 * 64, data := [], port := port, len := (a + n + 63) / 64 * 64 - a / 64 * 64, first := a % 64 }
/-- Core `k` reads a range of another package: its requests leave by the port of the pair (R391, R392). -/
def State.readAway (s : State) (k pkg a n : Nat) : State :=
  (uaParts a n).foldl (fun s p =>
    let id := s.newId
    { id.2 with uaOut := s.uaOut ++ [uaRead id.1 pkg (s.portFor k 0 pkg) p.1 p.2] }) s
def rootsBase : Nat := 0x100000020000
/-- A piece that an engine of core `k` cannot reach yet: the core's requests to its package wait for a change of port (R392), or
its lines are held. -/
def State.pieceHeld (s : State) (k cls : Nat) (p : Piece) : Bool :=
  match p.t with
  | .remote pkg => s.pairHeld k 0 pkg
  | .dev => s.linesHeld (stopOf k) cls p.a p.n
  | .host _ | .spm _ => false
/-- What a read gives: bytes, the remaining bytes of the answers from other packages, the state. -/
abbrev VRead := List Byte × List Byte × State
/-- Pieces read in order. Bytes of another package are those its answer brought (`ext`). -/
def State.readPieces (s : State) (k cls : Nat) (ext : List Byte) : List Piece → Except VErr VRead
  | [] => .ok ([], ext, s)
  | p :: ps =>
    match s.targetErr p.t p.a p.n with
    | some b => .error (.ecc (p.va + (b - p.a)))
    | none =>
      if s.lost p.t then .error (.lost p.va)
      else
        let got := match p.t with
          | .remote _ => padTo p.n (ext.take p.n)
          | .dev | .host _ | .spm _ => s.tread p.t p.a p.n
        let ext2 := match p.t with
          | .remote _ => ext.drop p.n
          | .dev | .host _ | .spm _ => ext
        let s1 := match p.t with
          | .dev => ((s.noteTurns cls p.a p.n).touch p.a p.n p.nocache false).openMerge p.a p.n
          | .remote pkg => s.readAway k pkg p.a p.n
          | .host _ | .spm _ => s
        match s1.readPieces k cls ext2 ps with
        | .error e => .error e
        | .ok (bs, x, s2) => .ok (got ++ bs, x, s2)
def State.vload (s : State) (k asid : Nat) (got : List Tlb) (va n : Nat) (ext : List Byte) : Except VErr VRead :=
  match s.vrange k asid needR got va n with
  | .error e => .error e
  | .ok ps => if ps.any (s.pieceHeld k clsEng) then .error .held else s.readPieces k clsEng ext ps
/-- Writes to other packages that await their acknowledgement: number, package, virtual address, port (R264). -/
abbrev Outs := List (Nat × Nat × Nat × Nat)
/-- Write requests of core `k` to another package, numbered; they go to a port while a path is left, and a lost path drops
them (R366). -/
def State.remoteWrite (s : State) (k pkg va a : Nat) (bs : List Byte) : List (Nat × Nat) → Outs × State
  | [] => ([], s)
  | p :: ps =>
    let id := s.newId
    let port := s.portFor k 0 pkg
    let s1 := if s.routeOk pkg then { id.2 with uaOut := id.2.uaOut ++ [uaWrite id.1 pkg port p.1 ((bs.drop (p.1 - a)).take p.2)] } else id.2
    let r := s1.remoteWrite k pkg va a bs ps
    ((id.1, pkg, va + (p.1 - a), port) :: r.1, r.2)
def State.writePieces (s : State) (k cls : Nat) : List Piece → List Byte → Outs × State
  | [], _ => ([], s)
  | p :: ps, bs =>
    match p.t with
    | .remote pkg =>
      let w := s.remoteWrite k pkg p.va p.a (bs.take p.n) (uaParts p.a p.n)
      let r := w.2.writePieces k cls ps (bs.drop p.n)
      (w.1 ++ r.1, r.2)
    | .dev => ((s.noteTurns cls p.a p.n).twrite p.t p.a (bs.take p.n) p.nocache).writePieces k cls ps (bs.drop p.n)
    | .host _ | .spm _ => (s.twrite p.t p.a (bs.take p.n) p.nocache).writePieces k cls ps (bs.drop p.n)
def State.vstore (s : State) (k asid : Nat) (got : List Tlb) (va : Nat) (bs : List Byte) : Except VErr (Outs × State) :=
  match s.vrange k asid needW got va bs.length with
  | .error e => .error e
  | .ok ps => if ps.any (s.pieceHeld k clsEng) then .error .held else .ok (s.writePieces k clsEng ps bs)

/-- An engine's miss joins the core's miss table; none when there is no room (R338, R355 event 5). -/
def State.engineMiss (s : State) (k t asid page need : Nat) : Option State := (s.missKey k asid page need).map (·.perf k 5 t 1)

/-- Bytes of a troop's own scratchpad as an engine reads them. -/
def State.spmLoad (s : State) (t a n : Nat) : Except VErr (List Byte) :=
  if !s.spmIn t a n then .error (.spm a)
  else match s.errRead (some t) a n with
    | some b => .error (.ecc b)
    | none => .ok (mread (s.troop t).spm a n)

end Sys2Proof.Machine
end

