-- ==== Sys2Proof/Machine/Engine.lean ====
section
/-! DEFINITION. Engine.lean: tensor layout records and the streamer and transform commands as strands issue them
(spec/12_engines.md R252-R258, R260, R262, R263). What a queued op does is in EngRun.lean. -/

namespace Sys2Proof.Machine

/-! ## Tensor layout records (R252 Table 3) -/

structure TRec where
  gbase : Int
  s1 : Int
  s2 : Int
  e0 : Nat
  e1 : Nat
  e2 : Nat
  b0 : Nat
  b1 : Nat
  b2 : Nat
  es : Nat
  cmode : Bool
  badlist : Nat
  badcap : Nat
  fill : Nat
  deriving DecidableEq, Repr
def trecOf (r : BitVec 512) : TRec :=
  let v := r.toNat
  { gbase := sextInt 64 (bits v 63 0), s1 := sextInt 64 (bits v 127 64), s2 := sextInt 64 (bits v 191 128),
    e0 := bits v 223 192, e1 := bits v 255 224, e2 := bits v 287 256, b0 := bits v 303 288, b1 := bits v 319 304,
    b2 := bits v 335 320, es := 2 ^ bits v 337 336, cmode := bitOf v 338, badlist := bits v 383 352, badcap := bits v 399 384,
    fill := bits v 511 448 }
/-- R252: what `lrec` accepts. -/
def trecOk (r : BitVec 512) : Bool :=
  let v := r.toNat
  let t := trecOf r
  bits v 447 400 == 0 && bits v 351 339 == 0 && decide (1 ≤ t.b0 ∧ 1 ≤ t.b1 ∧ 1 ≤ t.b2)
    && decide (t.b0 * t.b1 * t.b2 * t.es ≤ 2 ^ 21) && canonical (r.extractLsb' 0 64)
    && decide (t.gbase % t.es = 0) && decide (t.s1 % t.es = 0) && decide (t.s2 % t.es = 0)
    && (t.badlist == 0xFFFFFFFF || t.badlist % 4 == 0) && decide (t.badcap ≤ 16383)
    && (!t.cmode || (t.b1 == 1 && t.b2 == 1 && t.e1 == 1 && t.e2 == 1 && t.b0 * t.es % 4096 == 0 && t.e0 * t.es % 4096 == 0))
def noList : Nat := 0xFFFFFFFF

def State.loadRec (s : State) (f : Fr) (n a : Nat) : State :=
  let t := troopOf s.x
  let r : BitVec 512 := BitVec.ofNat 512 (mnat (s.troop t).spm a 64)
  if trecOk r then ((s.modMyTroop (fun v => { v with recs := sput v.recs n r })).chanTouch t a 64).finish f.len
  else s.illegalOp f 2
def execLrec (x : XG) (a : Reg) (n : BitVec 4) (s : State) : Out :=
  let f := extFr x false
  .next (s.issue f { role := s.isAccess, srcs := [a.toNat] } (fun s =>
    let t := troopOf s.x
    let off := (s.rd a.toNat).toNat
    if off % 64 ≠ 0 then s.illegalOp f 2
    else if !s.spmIn t off 64 then s.trap f (spmFault off)
    else if s.spmBlocked t off 64 false then s.parkScore
    else if s.forward (.spm t) off 64 != .none then s.park .retry
    else match s.errRead (some t) off 64 with
      | some _ => s.trap f (eccFault off)
      | none => s.loadRec f n.toNat off))

/-! ## Coordinates (R255, R258) -/

def coordOk (a : Reg) : Bool := pairOk a && decide (a.toNat ≤ 122)
def coordRegs (a : Reg) : List Nat := if coordOk a then regRange a.toNat 6 else []
def State.coords (s : State) (a : Reg) : List Int := [0, 2, 4].map (fun i => (s.rd64 (a.toNat + i)).toInt)
/-- In-range coordinates of one dimension, [lo, hi). -/
def inRange (c : Int) (box ext : Nat) : Int × Int := (max c 0, min (c + box) ext)
def inSpace (v : Int) : Bool := decide (-(2 ^ 56) ≤ v ∧ v ≤ 2 ^ 56 - 1)
/-- R258: 0 when every in-range element passes, else the term that fails first. The terms are linear, so the ends of
each range decide; a frame is met to its last byte (R205, R260). -/
def copyAddrBad (t : TRec) (c : List Int) (indexed : Bool) : Nat :=
  let r0 := inRange (c.getD 0 0) t.b0 t.e0
  let r1 : Int × Int := if indexed then (0, t.e1) else inRange (c.getD 1 0) t.b1 t.e1
  let r2 := inRange (c.getD 2 0) t.b2 t.e2
  if r0.2 ≤ r0.1 ∨ r1.2 ≤ r1.1 ∨ r2.2 ≤ r2.1 then 0
  else
    let t1 := [r1.1 * t.s1, (r1.2 - 1) * t.s1]
    let t2 := [r2.1 * t.s2, (r2.2 - 1) * t.s2]
    if !t1.all inSpace then 1
    else if !t2.all inSpace then 2
    else
      let a0 := if t.cmode then [4160 * (r0.1 * t.es / 4096), 4160 * (r0.2 * t.es / 4096) - 1] else [r0.1 * t.es, (r0.2 - 1) * t.es]
      if a0.all (fun x => t1.all (fun y => t2.all (fun z => inSpace (t.gbase + x + y + z)))) then 0 else 3

/-! ## Entering a queue (R256, R257) -/

/-- Local pieces of a command: first byte, bytes. -/
abbrev Pcs := List (Nat × Nat)
def hullOf (ps : Pcs) : Ival := ps.foldl (fun iv p => hull iv (p.1, p.1 + p.2)) (0, 0)
/-- What a command that passed its checks brings to the queue. -/
structure Cmd where
  op : EngOp
  xf : Bool
  rd : Pcs
  wr : Pcs
  ring : Pcs := []
  deriving DecidableEq, Repr
/-- The scoreboard entry of a command: with a ring, the ring's data area and object are the part R287 speaks of. -/
def cmdEntry (c : Cmd) : Score :=
  let r := granules (hullOf c.rd)
  let p := granules (hullOf c.wr)
  let w := granules (hullOf (c.wr ++ c.ring))
  { troop := c.op.troop, eng := if c.xf then 2 else 1, opid := c.op.opid, wlo := w.1, whi := w.2, rlo := r.1, rhi := r.2,
    ring := if c.op.objRing then some c.op.obj else none, plo := p.1, phi := p.2 }
def State.cmdRoom (s : State) (xf : Bool) : Bool :=
  if xf then decide (s.myCore.xqe.length < 16) else decide (s.myCore.sqe.length < 32)
/-- The waits of R256, then EN, the token and the queue. -/
def State.enterEngine (s : State) (f : Fr) (tok : Option (BitVec 4)) (c : Cmd) : State :=
  let t := troopOf s.x
  let cr := crewOf s.x
  let seq := s.myTroop.opseq
  if !s.cmdRoom c.xf || decide (63 ≤ s.myCrew.en) || !s.tokRoom cr tok then s.park .retry
  else if !s.scoreRoom t seq s.x then (s.scoreQueue s.x).park .retry
  else
    let id := s.newId
    let op := { c.op with id := id.1, troop := t, strand := s.x, opid := seq, tok := tok.map (·.toNat) }
    let s1 := ((id.2.scoreUnqueue s.x).incCls cr .en).tokAttach cr tok
    let s2 := (s1.modTroop t (fun v => { v with opseq := v.opseq + 1 })).scoreAdd (cmdEntry { c with op := op })
    (s2.modMyCore (fun k => if c.xf then { k with xqe := k.xqe ++ [op] } else { k with sqe := k.sqe ++ [op] })).finish f.len

/-- A precise failure of R256. -/
def badOp (n : Nat) : Trap := { code := causeIllegalOperand, tval := w32 n }
/-- SPM_ACCESS for the first piece beyond the partition. -/
def State.pcsBad (s : State) (ps : Pcs) : Option Trap :=
  (ps.find? (fun p => p.2 != 0 && !s.spmIn (troopOf s.x) p.1 p.2)).map (fun p => spmFault p.1)
/-- The completion object: its bytes, and the alignment of its offset. -/
def objBytes (ring : Bool) : Nat := if ring then 32 else 16
/-- A ring object's data area and slot size, when it is valid. -/
def State.ringArea (s : State) (off : Nat) : Option (Nat × Nat × Nat) :=
  let t := troopOf s.x
  let v := s.ringAt t off
  if s.spmIn t off 32 && ringValid (s.spmSize t) v then
    let r := ringOf v
    some (r.base, r.bytes, r.slotBytes)
  else none
/-- The ring's part of a command's write interval. -/
def State.ringPcs (s : State) (ring : Bool) (off : Nat) : Pcs :=
  if ring then (match s.ringArea off with
    | some (b, n, _) => [(b, n), (off, 32)]
    | none => [(off, 32)])
  else []
/-- R256 step 5. -/
def State.slotSmall (s : State) (ring : Bool) (off n : Nat) : Bool :=
  ring && (match s.ringArea off with
    | some (_, _, z) => decide (z < n)
    | none => false)
/-- The strand's own queued stores to what is read at issue have not reached the bank. -/
def State.headerWait (s : State) (ps : Pcs) : Bool :=
  ps.any (fun p => p.2 != 0 && s.forward (.spm (troopOf s.x)) p.1 p.2 != .none)

/-! ## The streamer -/

inductive SKind where
  | ld | st | mc | gather | scatter
  deriving DecidableEq, Repr
def SKind.indexed : SKind → Bool | .gather | .scatter => true | .ld | .st | .mc => false
def SKind.store : SKind → Bool | .st | .scatter => true | .ld | .mc | .gather => false
def onesOf (m : BitVec 64) : List Nat := (List.range 64).filter (fun i => m.getLsbD i)

/-- The checks of R256 for a streamer command, in order; what passes them. -/
def State.streamCheck (s : State) (k : SKind) (i : Instr) (ring : Bool) (h : Nat) (d a e : Reg) (list : Nat) (mask : BitVec 64)
    (lw : Nat) : Except Trap Cmd :=
  match sfind s.myTroop.recs h with
  | none => .error (badOp 5)
  | some r =>
    let t := trecOf r
    let c := s.coords a
    let off := if ring then 0 else (s.rd d.toNat).toNat
    let obj := (s.rd e.toNat).toNat
    let total := t.b0 * t.b1 * t.b2 * t.es
    let bad : List (Bool × Nat) :=
      [(off % 32 ≠ 0, 1), (k = .ld && t.cmode && decide (c.getD 0 0 * t.es % 4096 ≠ 0), 2), (k.indexed && decide (list % 4 ≠ 0), 3),
       (k = .mc && decide ((onesOf mask).length = 0 ∨ 12 < (onesOf mask).length), 3), (obj % objBytes ring ≠ 0, 4),
       (k ≠ .ld && t.cmode, 5)]
    match bad.find? (·.1) with
    | some b => .error (badOp b.2)
    | none =>
      match copyAddrBad t c k.indexed with
      | 0 =>
        let data : Pcs := if ring || k = .mc then [] else [(off, total)]
        let idx : Pcs := if k.indexed then [(list, 4 * t.b1)] else []
        let lst : Pcs := if k = .ld && t.cmode && t.badlist != noList then [(t.badlist, 4 + 4 * t.badcap)] else []
        match s.pcsBad (data ++ idx ++ [(obj, objBytes ring)] ++ lst) with
        | some t => .error t
        | none =>
          if s.slotSmall ring obj total then .error (badOp 4)
          else
            let op : EngOp := { id := 0, troop := 0, strand := s.x, opid := 0, sub := i, record := r, handle := h, dst := off, src := list,
                                coords := c, mask := mask, lw := lw, objRing := ring, obj := obj, tok := none, todo := onesOf mask }
            .ok { op := op, xf := false, rd := idx ++ (if k.store then data else []),
                  wr := (if k.store then [] else data) ++ lst ++ (if ring then [] else [(obj, 16)]), ring := s.ringPcs ring obj }
      | n => .error { code := causeCopyAddr, tval := w32 n }

def State.streamIssue (s : State) (v : XA) (k : SKind) (i : Instr) (ring : Bool) (h : BitVec 4) (d a e : Reg) (b : Option Reg)
    (bpair : Bool) (lw : Nat) : State :=
  let f := extFr v.x false
  let bRegs : List Nat := match b with
    | some r => if bpair then pairRegs r else [r.toNat]
    | none => []
  let bOk : Bool := match b with
    | some r => !bpair || pairOk r
    | none => true
  s.issue f { role := s.isStreamer, ops := [(coordOk a, 2), (bOk, 3)],
              srcs := (if ring then [] else [d.toNat]) ++ coordRegs a ++ bRegs ++ [e.toNat] } (fun s =>
    let list := match b with
      | some r => if bpair then 0 else (s.rd r.toNat).toNat
      | none => 0
    let mask : BitVec 64 := match b with
      | some r => if bpair then s.rd64 r.toNat else 0
      | none => 0
    if ring && s.headerWait [((s.rd e.toNat).toNat, 32)] then s.park .retry
    else match s.streamCheck k i ring h.toNat d a e list mask lw with
      | .error t => s.trap f t
      | .ok c => s.enterEngine f v.tok c)

def execCopyLd (v : XA) (ring : Bool) (d a e : Reg) (h : BitVec 4) (s : State) : Out :=
  .next (s.streamIssue v .ld (.copyLd v ring d a e h) ring h d a e none false 0)
def execCopySt (v : XA) (d a e : Reg) (h : BitVec 4) (s : State) : Out :=
  .next (s.streamIssue v .st (.copySt v d a e h) false h d a e none false 0)
def execCopymc (v : XA) (d a b e : Reg) (h : BitVec 4) (lw : BitVec 20) (s : State) : Out :=
  .next (s.streamIssue v .mc (.copymc v d a b e h lw) false h d a e (some b) true (8 * lw.toNat))
def execGather (v : XA) (ring : Bool) (d a b e : Reg) (h : BitVec 4) (s : State) : Out :=
  .next (s.streamIssue v .gather (.gather v ring d a b e h) ring h d a e (some b) false 0)
def execScatter (v : XA) (d a b e : Reg) (h : BitVec 4) (s : State) : Out :=
  .next (s.streamIssue v .scatter (.scatter v d a b e h) false h d a e (some b) false 0)

/-! ## The transform unit (R263) -/

/-- Geometry an image header in the scratchpad gives. -/
def State.headerAt (s : State) (t a : Nat) : Option Geo := headerGeo (mnat (s.troop t).spm a 32)
def xfReadsHeader : XfOp → Bool
  | .rtr | .unpack | .zmap => true
  | .tr | .pack | .bf2e4 | .bf2e5 | .e4bf | .e5bf => false
/-- Source and destination bytes of a transform; a header that gives no geometry gives its own 32 bytes and nothing. -/
def xfSizes (op : XfOp) (t : TRec) (d : Dword) (g : Option Geo) : Nat × Nat :=
  let n := t.b0 * t.b1 * t.b2
  match op with
  | .tr => (t.b0 * t.b1 * t.es, t.b0 * t.b1 * t.es)
  | .bf2e4 | .bf2e5 => (2 * n, n)
  | .e4bf | .e5bf => (n, 2 * n)
  | .pack => (4 * dsRows d * dsCols d, dsFoot d)
  | .rtr | .zmap => match g with
    | some g => (footprint g, footprint g)
    | none => (32, 0)
  | .unpack => match g with
    | some g => (footprint g, 4 * g.rows * g.cols)
    | none => (32, 0)
/-- A reef-form descriptor that is valid for the troop's tile slots (R168, R263). -/
def State.packDescOk (s : State) (d : Dword) : Bool := dsReef d && dsValid (s.tileSlot (troopOf s.x)) d

def State.xformCheck (s : State) (op : XfOp) (i : Instr) (ring : Bool) (h : Nat) (d a b e : Reg) : Except Trap Cmd :=
  let hr := if xfHandle op then sfind s.myTroop.recs h else some 0
  match hr with
  | none => .error (badOp 5)
  | some r =>
    let t := trecOf r
    let ds : Dword := if op = .pack then s.rd64 b.toNat else 0
    let src := (s.rd a.toNat).toNat
    let off := if ring then 0 else (s.rd d.toNat).toNat
    let obj := (s.rd e.toNat).toNat
    let g := if xfReadsHeader op && s.spmIn (troopOf s.x) src 32 then s.headerAt (troopOf s.x) src else none
    let z := xfSizes op t ds g
    let meet := !ring && ivalMeet (src, src + z.1) (off, off + z.2) && !(op == .zmap && off == src)
    let bad : List (Bool × Nat) :=
      [(decide (off % 32 ≠ 0) || meet, 1), (src % 32 ≠ 0, 2), (op = .pack && !s.packDescOk ds, 3), (obj % objBytes ring ≠ 0, 4),
       (op = .tr && t.b2 != 1, 5)]
    match bad.find? (·.1) with
    | some b => .error (badOp b.2)
    | none =>
      let scl : Pcs := if op = .pack then [(dsScOff ds, dsScaleBytes ds)] else []
      let data : Pcs := if ring then [] else [(off, z.2)]
      match s.pcsBad ([(src, z.1)] ++ data ++ scl ++ [(obj, objBytes ring)]) with
      | some t => .error t
      | none =>
        if s.slotSmall ring obj z.2 then .error (badOp 4)
        else
          let o : EngOp := { id := 0, troop := 0, strand := s.x, opid := 0, sub := i, record := r, handle := h, dst := off, src := src,
                             coords := [], desc := ds, objRing := ring, obj := obj, tok := none }
          .ok { op := o, xf := true, rd := (src, z.1) :: scl.filter (fun p => p.2 != 0),
                wr := data ++ (if ring then [] else [(obj, 16)]), ring := s.ringPcs ring obj }
def execXform (v : XA) (ring : Bool) (op : XfOp) (d a b e : Reg) (h : BitVec 4) (s : State) : Out :=
  let f := extFr v.x false
  .next (s.issue f { role := s.isAccess, ops := [(op != .pack || pairOk b, 3)],
                     srcs := (if ring then [] else [d.toNat]) ++ [a.toNat] ++ (if op = .pack then pairRegs b else []) ++ [e.toNat] } (fun s =>
    let src := (s.rd a.toNat).toNat
    let hdr : Pcs := if xfReadsHeader op then [(src, 32)] else []
    if xfReadsHeader op && s.spmBlocked (troopOf s.x) src 32 false then s.parkScore
    else if s.headerWait (hdr ++ (if ring then [((s.rd e.toNat).toNat, 32)] else [])) then s.park .retry
    else
      let s := if xfReadsHeader op then s.chanTouch (troopOf s.x) src 32 else s
      match s.xformCheck op (.xform v ring op d a b e h) ring h.toNat d a b e with
      | .error t => s.trap f t
      | .ok c => s.enterEngine f v.tok c))

end Sys2Proof.Machine
end

