-- ==== Sys2Proof/Machine/EngRun.lean ====
section
/-! DEFINITION. EngRun.lean: streamer and transform ops from start to retirement, `copymc` landings, and how an engine
op ends by a fault (spec/12_engines.md R257-R265; spec/14_queues.md R297; spec/16_counters.md R348, R349). -/

namespace Sys2Proof.Machine

/-! ## Ops by number -/

def engOps (c : Core) (xf : Bool) : List EngOp := if xf then c.xqe else c.sqe
def State.findOp (s : State) (k : Nat) (xf : Bool) (id : Nat) : Option EngOp := (engOps (s.core k) xf).find? (fun o => o.id == id)
/-- The op, unless its core stands still (R217). -/
def State.liveOp (s : State) (k : Nat) (xf : Bool) (id : Nat) : Option EngOp := if s.still k then none else s.findOp k xf id
def State.setOp (s : State) (k : Nat) (xf : Bool) (o : EngOp) : State :=
  let put (l : List EngOp) : List EngOp := l.map (fun q => if q.id = o.id then o else q)
  s.modCore k (fun c => if xf then { c with xqe := put c.xqe } else { c with sqe := put c.sqe })
def State.delOp (s : State) (k : Nat) (xf : Bool) (id : Nat) : State :=
  s.modCore k (fun c => if xf then { c with xqe := c.xqe.filter (fun q => q.id != id) } else { c with sqe := c.sqe.filter (fun q => q.id != id) })

/-- Subop of an engine command (R255). -/
def engSub : Instr → Nat
  | .copyLd .. | .copySt .. => 0 | .copymc .. => 1 | .gather .. => 2 | .scatter .. => 3 | .xform .. => 4 | _ => 0
def isCopymc : Instr → Bool | .copymc .. => true | _ => false
def isStoreOp : Instr → Bool | .copySt .. | .scatter .. => true | _ => false
def isIndexed : Instr → Bool | .gather .. | .scatter .. => true | _ => false
def xfOf : Instr → Option XfOp | .xform _ _ op _ _ _ _ _ => some op | _ => none
/-- Segments of an op (R264). -/
def EngOp.segs (o : EngOp) : Nat :=
  let t := trecOf o.record
  if (xfOf o.sub).isSome then 1 else if t.cmode then t.b0 * t.es / 4096 else t.b1 * t.b2
/-- Bytes a segment credits, and all of them. -/
def EngOp.segBytes (o : EngOp) : Nat :=
  let t := trecOf o.record
  if t.cmode then 4096 else t.b0 * t.es

/-! ## Completion objects (R264, R296, R297, R348, R349) -/

/-- The fault of an engine at an object: its bytes stand in error, or it is not valid (R218, R296, R348). -/
def State.objFault (s : State) (t off n : Nat) (valid : Bool) : Option VErr :=
  if !s.spmIn t off n then some (.spm off)
  else match s.errRead (some t) off n with
    | some b => some (.ecc b)
    | none => if valid then none else some (.spm off)
/-- One credit of a buoy: arrivals, bytes, status bits, and whether the op writes global memory. -/
def State.creditBuoy (s : State) (t off a n : Nat) (fault bad wrote : Bool) : Except VErr State :=
  let v := s.buoyAt t off
  match s.objFault t off 16 (buoyValid v) with
  | some e => .error e
  | none =>
    let b := buoyOf v
    .ok (s.setBuoy t off (buoySub { b with fault := b.fault || fault, bad := b.bad || bad } a (w32 n)) wrote)
/-- The slot of a ring is filled, with status; a fill of a slot that is not claimed is refused: the ring does not change
and the op goes on (R296; log 25). -/
def State.fillSlot (s : State) (t off slot : Nat) (fault bad : Bool) : Except VErr State :=
  let v := s.ringAt t off
  match s.objFault t off 32 (ringValid (s.spmSize t) v) with
  | some e => .error e
  | none =>
    let r := ringOf v
    .ok (if r.claimed slot then s.setRing t off { r.fill slot with fault := r.fault || fault, bad := r.bad || bad } else s)
/-- A segment's credit: a buoy takes its bytes, and at the last segment the arrival; a ring is filled at the last. -/
def State.creditSeg (s : State) (t obj slot : Nat) (ring last bad wrote : Bool) (n : Nat) : Except VErr State :=
  if ring then (if last then s.fillSlot t obj slot false bad else .ok s)
  else s.creditBuoy t obj (if last then 1 else 0) n false bad wrote
/-- What a credit leaves: a faulty object takes none. -/
def State.orStay (s : State) (r : Except VErr State) : State :=
  match r with
  | .ok s1 => s1
  | .error _ => s

/-! ## The end by a fault (R265) -/

/-- TVAL of an engine fault: segment, handle, subop. -/
def engTval (o : EngOp) : Word := w32 (o.seg % 2 ^ 24 * 2 ^ 8 + o.handle * 2 ^ 4 + engSub o.sub)
/-- Bytes not yet credited. -/
def EngOp.rest (o : EngOp) (total : Nat) : Nat := total - o.credited
/-- Landing places of a `copymc` receiver: troop, data offset, buoy offset; or the fault at the window address that fails
(R262, R218). -/
def State.landing (s : State) (o : EngOp) (core : Nat) : Except VErr (Nat × Nat × Nat) :=
  let k := coreOfTroop o.troop / 64 * 64 + core
  let win (a : Nat) : Nat := core * 2 ^ 21 + a % 2 ^ 21
  let t := trecOf o.record
  let n := t.b0 * t.b1 * t.b2 * t.es
  match (s.troopsOn k).find? (fun q => (s.troop q).lid == (s.troop o.troop).lid && (s.troop q).res != .gone) with
  | none => .error (.spm (win o.lw))
  | some q =>
    if !s.spmIn q o.lw 8 then .error (.spm (win o.lw))
    else if (s.errRead (some q) o.lw 8).isSome then .error (.ecc (win o.lw))
    else
      let w := mnat (s.troop q).spm o.lw 8
      let base := (bits w 31 0 + o.dst) % 2 ^ 32
      let b := bits w 63 32
      if !s.spmIn q base n then .error (.spm (win base))
      else if b % 16 ≠ 0 then .error (.spm (win b))
      else match s.objFault q b 16 (buoyValid (s.buoyAt q b)) with
        | some (.ecc a) => .error (.ecc (win a))
        | some _ => .error (.spm (win b))
        | none => .ok (q, base, b)
/-- Row k of an op: the virtual address of its in-range run, bytes before the run and in it; none when no element is in
range. -/
def EngOp.run (o : EngOp) (k : Nat) : Option (Nat × Nat × Nat) :=
  let t := trecOf o.record
  let j2 := k / t.b1
  let j1 := k % t.b1
  let c0 := o.coords.getD 0 0
  let g1 := o.coords.getD 1 0 + (if isIndexed o.sub then o.idx.getD j1 0 else j1)
  let g2 := o.coords.getD 2 0 + j2
  let r := inRange c0 t.b0 t.e0
  if r.2 ≤ r.1 ∨ g1 < 0 ∨ (t.e1 : Int) ≤ g1 ∨ g2 < 0 ∨ (t.e2 : Int) ≤ g2 then none
  else some (vaOf (t.gbase + r.1 * t.es + g1 * t.s1 + g2 * t.s2), ((r.1 - c0) * t.es).toNat, ((r.2 - r.1) * t.es).toNat)
/-- Scratchpad bytes that are undefined become free values (log 3). -/
def State.spoil (s : State) (t a n : Nat) : State :=
  if s.spmIn t a n then
    let b := s.freeBytes n
    b.2.spmWrite t a b.1
  else s
/-- The bytes of this package's memory in an uncredited row of a store, where they are translated, become free values. -/
def State.spoilRow (s : State) (o : EngOp) (i : Nat) : State :=
  match o.run i with
  | none => s
  | some (va, _, len) =>
    match s.vrange (coreOfTroop o.troop) (s.asidOf o.troop) needW o.xl va len with
    | .ok ps => (ps.filter (fun p => match p.t with
        | .remote _ => false
        | .dev | .host _ | .spm _ => true)).foldl (fun s p =>
          let b := s.freeBytes p.n
          b.2.twrite p.t p.a b.1 p.nocache) s
    | .error _ => s
/-- R265: destination bytes of uncredited segments are undefined. -/
def State.spoilRest (s : State) (o : EngOp) (total : Nat) : State :=
  if isStoreOp o.sub then (span o.seg o.segs).foldl (fun s i => s.spoilRow o i) s
  else if isCopymc o.sub || (o.objRing && !ringValid (s.spmSize o.troop) (s.ringAt o.troop o.obj)) then s
  else s.spoil o.troop (o.dst + o.credited) (o.rest total)
/-- An op's fault, kept if it has one already. -/
def EngOp.noteSpm (o : EngOp) (a : Nat) : EngOp :=
  { o with fault := o.fault.or (some (causeSpmAccess, engTval o, BitVec.ofNat 64 a)) }
/-- The last update of the op's object, as it retires: of a fault the bytes not credited, the arrival and status bit 0 in one
update (R265); of a `copymc` the arrival at the sender's buoy, which is a fault of the op when it is not valid (R348). -/
def State.lastCredit (s : State) (o : EngOp) : EngOp × State :=
  if isCopymc o.sub then
    match s.creditBuoy o.troop o.obj 1 0 o.fault.isSome false false with
    | .ok s1 => (o, s1)
    | .error (.ecc a) => ({ o with fault := o.fault.or (some (causeEcc, engTval o, BitVec.ofNat 64 a)) }, s)
    | .error _ => (o.noteSpm o.obj, s)
  else if o.fault.isSome then
    (o, s.orStay (if o.objRing then s.fillSlot o.troop o.obj o.slot true o.bad
      else s.creditBuoy o.troop o.obj 1 o.owed true o.bad (isStoreOp o.sub)))
  else (o, s)
/-- Destination bytes, or source bytes of a store, that the op's credits sum to. -/
def State.opTotal (s : State) (o : EngOp) : Nat :=
  match xfOf o.sub with
  | some op => (xfSizes op (trecOf o.record) o.desc (if xfReadsHeader op then s.headerAt o.troop o.src else none)).2
  | none => o.segs * o.segBytes
/-- The op ends: nothing further is written; it retires with the fault. What is not credited is undefined, but for a chunk
with too many outliers, of which nothing is written or changed (R62, R265; log 3). -/
def State.failOp (s : State) (k : Nat) (xf : Bool) (o : EngOp) (cause : Nat) (tval : Word) (taddr : Dword) (pfr : Nat) : State :=
  let n := s.opTotal o
  let s1 := if cause = causeReefOverflow then s else s.spoilRest o n
  s1.setOp k xf { o with fault := some (cause, tval, taddr), pfr := pfr, susp := none, xl := [], failed := true, owed := o.rest n }
/-- A segment that does not complete: a miss suspends once it has a key, anything else ends the op. `reserved` is met by the
caller. -/
def State.segErr (s : State) (k : Nat) (xf : Bool) (o : EngOp) (e : VErr) : State :=
  match e with
  | .miss asid page need va got => match s.engineMiss k o.troop asid page need with
    | some s1 => s1.setOp k xf { o with susp := some (asid, page, need), suspVa := va, xl := got }
    | none => s
  | .ecc a => s.failOp k xf o causeEcc (engTval o) (BitVec.ofNat 64 a) 0
  | .lost a => s.failOp k xf o causeLinklost (engTval o) (BitVec.ofNat 64 a) 0
  | .spm a => s.failOp k xf o causeSpmAccess (engTval o) (BitVec.ofNat 64 a) 0
  | .shape v => s.failOp k xf o causeTileShape v 0 0
  | .overflow v => s.failOp k xf o causeReefOverflow v 0 0
  | .held | .reserved => s

/-! ## One row of a box (R258, R259) -/

/-- n bytes of fill elements. -/
def TRec.fillBytes (t : TRec) (n : Nat) : List Byte := (List.replicate (n / t.es) (leBytes t.es t.fill)).flatten

/-- The row as a load gathers it. -/
def State.loadRow (s : State) (k : Nat) (o : EngOp) (ext : List Byte) : Except VErr (List Byte × State) :=
  let t := trecOf o.record
  let n := t.b0 * t.es
  match o.run o.seg with
  | none => .ok (t.fillBytes n, s)
  | some (va, pre, len) =>
    match s.vload k (s.asidOf o.troop) o.xl va len ext with
    | .error e => .error e
    | .ok (bs, _, s1) => .ok (t.fillBytes pre ++ bs ++ t.fillBytes (n - pre - len), s1)
/-- The row as a store writes it. -/
def State.storeRow (s : State) (k : Nat) (o : EngOp) : Except VErr (Outs × State) :=
  let t := trecOf o.record
  let n := t.b0 * t.es
  match s.spmLoad o.troop (o.dst + o.seg * n) n with
  | .error e => .error e
  | .ok bs =>
    let s := s.chanTouch o.troop (o.dst + o.seg * n) n
    match o.run o.seg with
    | none => .ok ([], s)
    | some (va, pre, len) => s.vstore k (s.asidOf o.troop) o.xl va ((bs.drop pre).take len)

/-! ## A frame of a checked stream (R260, R261) -/

/-- The bad chunk's index is appended to the list, when there is one. -/
def State.listBad (s : State) (o : EngOp) (f : Nat) : Except VErr State :=
  let t := trecOf o.record
  if t.badlist = noList then .ok s
  else match s.errRead (some o.troop) t.badlist 4 with
    | some b => .error (.ecc b)
    | none =>
      let n := mnat (s.troop o.troop).spm t.badlist 4
      let s1 := if n < t.badcap then s.spmWrite o.troop (t.badlist + 4 + 4 * n) (leBytes 4 f) else s
      .ok (s1.spmWrite o.troop t.badlist (leBytes 4 (n + 1)))
/-- The 4,096 bytes of the op's present frame: the bytes, whether the check failed with its frame number, the state. -/
def State.loadFrame (s : State) (k : Nat) (o : EngOp) (ext : List Byte) : Except VErr (List Byte × Option Nat × State) :=
  let t := trecOf o.record
  let per : Int := 4096 / t.es
  let g0 := o.coords.getD 0 0 + o.seg * per
  let g1 := o.coords.getD 1 0
  let g2 := o.coords.getD 2 0
  if g0 < 0 ∨ (t.e0 : Int) ≤ g0 ∨ g1 ≠ 0 ∨ g2 ≠ 0 then .ok (t.fillBytes 4096, none, s)
  else
    let f := (g0 / per).toNat
    let va := t.gbase + 4160 * f
    match s.vload k (s.asidOf o.troop) o.xl (vaOf va) 64 ext with
    | .error e => .error e
    | .ok (hb, ext2, s1) =>
      let hv := leNat hb
      let fail (s : State) : Except VErr (List Byte × Option Nat × State) := .ok (List.replicate 4096 0, some f, s)
      if !frameHdrOk hv then fail s1
      else match s1.vload k (s.asidOf o.troop) o.xl (vaOf (va + 64)) ((frameHdr hv).size * 1024) ext2 with
        | .error e => .error e
        | .ok (pb, _, s2) => match frameData hv pb with
          | some bs => .ok (bs, none, s2)
          | none => fail s2

/-! ## Transforms (R263) -/

/-- TVAL of TILE_SHAPE from an engine op. -/
def xfShape (reason : Nat) : VErr := .shape (w32 (reason * 2 ^ 8 + 4))
/-- An image in the scratchpad, checked by R53, R54 and R56. -/
def State.imageAt (s : State) (t a : Nat) : Except VErr (Geo × Nat) :=
  match s.spmLoad t a 32 with
  | .error e => .error e
  | .ok hb => match headerGeo (leNat hb) with
    | none => .error (xfShape 2)
    | some g => match s.spmLoad t a (footprint g) with
      | .error e => .error e
      | .ok bs =>
        let img := leNat bs
        match imgFault g img with
        | 0 => .ok (g, img)
        | r => .error (xfShape r)
def chunks (n : Nat) (bs : List Byte) (count : Nat) : List Nat := (List.range count).map (fun i => leNat ((bs.drop (n * i)).take n))
/-- The result of a transform. -/
def State.xformOut (s : State) (o : EngOp) (op : XfOp) : Except VErr (List Byte) :=
  let t := trecOf o.record
  let n := t.b0 * t.b1 * t.b2
  let src (len : Nat) : Except VErr (List Byte) := s.spmLoad o.troop o.src len
  let conv (inB : Nat) (fn : Nat → List Byte) : Except VErr (List Byte) :=
    match src (inB * n) with
    | .error e => .error e
    | .ok bs => .ok ((chunks inB bs n).flatMap fn)
  match op with
  | .tr => match src (t.b0 * t.b1 * t.es) with
    | .error e => .error e
    | .ok bs => .ok ((List.range (t.b0 * t.b1)).flatMap (fun i =>
        (bs.drop (((i % t.b1) * t.b0 + i / t.b1) * t.es)).take t.es))
  | .rtr => match s.imageAt o.troop o.src with
    | .error e => .error e
    | .ok (g, img) => .ok (transposeImage g img)
  | .zmap => match s.imageAt o.troop o.src with
    | .error e => .error e
    | .ok (g, img) => .ok (remapImage g img)
  | .unpack => match s.imageAt o.troop o.src with
    | .error e => .error e
    | .ok (g, img) => .ok ((List.range (g.rows * g.cols)).flatMap (fun i => leBytes 4 (imgElem g img 0 (i / g.cols) (i % g.cols)).toNat))
  | .pack =>
    let d := o.desc
    match src (4 * dsRows d * dsCols d) with
    | .error e => .error e
    | .ok bs => match (if dsScaleBytes d = 0 then .ok [] else s.spmLoad o.troop (dsScOff d) (dsScaleBytes d) : Except VErr (List Byte)) with
      | .error e => .error e
      | .ok sc =>
        let ws := wordsOf bs
        match encodeImage (dsGeo d) (sc.map (·.toNat)) (fun i j => ws.getD (i * dsCols d + j) 0) with
        | .error (b, c) => .error (.overflow (overflowTval b c))
        | .ok img => .ok img
  | .bf2e4 => conv 2 (fun v => leBytes 1 (toE4m3 .rne (ofBf16 v)))
  | .bf2e5 => conv 2 (fun v => leBytes 1 (toE5m2 .rne false (ofBf16 v)))
  | .e4bf => conv 1 (fun v => leBytes 2 (toBf16 .rne (ofE4m3 0 v)))
  | .e5bf => conv 1 (fun v => leBytes 2 (toBf16 .rne (ofE5m2 0 v)))

/-! ## Starting (R257, R297) -/

/-- An older op of the troop that fills the same ring has not started (R257). -/
def State.ringBehind (s : State) (t : Nat) (ring : Bool) (obj opid : Nat) : Bool :=
  let c := s.core (coreOfTroop t)
  ring && ((c.sqe ++ c.xqe).any (fun o => !o.active && o.troop == t && o.objRing && o.obj == obj && decide (o.opid < opid)) ||
    c.kq.any (fun o => !o.active && o.troop == t && o.objRing && o.obj == obj && decide (o.opid < opid)))
/-- The op may start: no older op in its way, a place, its ring's slot free. -/
def State.engineDue (s : State) (k : Nat) (xf : Bool) (o : EngOp) : Bool :=
  let c := s.core k
  let place := if xf then (match c.xqe with
      | q :: _ => q.id == o.id
      | [] => false)
    else decide (c.sqe.countP (·.active) < 8)
  let slot := !o.objRing ||
    (let v := s.ringAt o.troop o.obj
     !ringValid (s.spmSize o.troop) v || (ringOf v).free (ringOf v).wi)
  !o.active && place && !s.ringBehind o.troop o.objRing o.obj o.opid && !s.scoreBlocked o.troop o.opid && !s.opStores o.troop o.opid && slot
/-- Claim of a ring's slot, and the index list. -/
def State.startEngine (s : State) (k : Nat) (xf : Bool) (o : EngOp) : State :=
  let t := o.troop
  let v := s.ringAt t o.obj
  let o1 := { o with active := true }
  match if o.objRing then s.objFault t o.obj 32 (ringValid (s.spmSize t) v) else none with
  | some e => (s.setOp k xf o1).segErr k xf o1 e
  | none =>
    let r := ringOf v
    let slot := r.wi % r.n
    let s1 := if o.objRing then s.setRing t o.obj r.claim else s
    let o2 := if o.objRing then { o1 with slot := slot, dst := r.base + slot * r.slotBytes } else o1
    if isIndexed o.sub then
      let n := (trecOf o.record).b1
      match s1.spmLoad t o.src (4 * n) with
      | .error e => (s1.setOp k xf o2).segErr k xf o2 e
      | .ok bs => (s1.chanTouch t o.src (4 * n)).setOp k xf { o2 with idx := (chunks 4 bs n).map (fun w => sextInt 32 w) }
    else s1.setOp k xf o2
def isXf : Eng → Bool | .streamer => false | .xform => true
/-- An op of core `unit`, number `item`, starts. -/
def execEngineOpStart (s : State) : Out :=
  let k := s.ev.unit
  let xf := isXf s.ev.eng
  .next (match s.liveOp k xf s.ev.item with
    | some o => if s.engineDue k xf o then s.startEngine k xf o else s
    | none => s)

/-! ## Segments (R264) -/

/-- Where row or frame `seg` of a dense box lands. -/
def EngOp.place (o : EngOp) : Nat := o.dst + o.seg * o.segBytes
/-- What one segment leaves: bytes credited, whether a chunk was bad, the bytes a `copymc` read, the writes that await
their acknowledgement, and the state. -/
structure SegOut where
  n : Nat
  bad : Bool := false
  got : List Byte := []
  outs : Outs := []
  st : State
  deriving DecidableEq, Repr
/-- The effect of one segment. -/
def State.segment (s : State) (k : Nat) (o : EngOp) (ext : List Byte) : Except VErr SegOut :=
  match xfOf o.sub with
  | some op => match s.xformOut o op with
    | .error e => .error e
    | .ok bs =>
      if s.spmIn o.troop o.dst bs.length then .ok { n := bs.length, st := s.spmWrite o.troop o.dst bs }
      else .error (.spm o.dst)
  | none =>
    if isStoreOp o.sub then
      match s.storeRow k o with
      | .error e => .error e
      | .ok r => .ok { n := o.segBytes, outs := r.1, st := r.2 }
    else if (trecOf o.record).cmode then
      match s.loadFrame k o ext with
      | .error e => .error e
      | .ok (bs, bad, s1) =>
        let s2 := s1.spmWrite o.troop o.place bs
        match bad with
        | none => .ok { n := 4096, st := s2 }
        | some f => match s2.listBad o f with
          | .error e => .error e
          | .ok s3 => .ok { n := 4096, bad := true, st := s3 }
    else match s.loadRow k o ext with
      | .error e => .error e
      | .ok (bs, s1) =>
        if isCopymc o.sub then .ok { n := 0, got := bs, st := s1 }
        else .ok { n := bs.length, st := s1.spmWrite o.troop o.place bs }
/-- A segment completes and is credited. -/
def State.completeSeg (k : Nat) (xf : Bool) (o : EngOp) (r : SegOut) : State :=
  let last := o.seg + 1 == o.segs
  let o0 := { o with outs := o.outs ++ r.outs }
  let o1 := { o0 with seg := o.seg + 1, credited := o.credited + r.n, bad := o.bad || r.bad, result := o.result ++ r.got, xl := [] }
  if isCopymc o.sub then r.st.setOp k xf o1
  else match r.st.creditSeg o.troop o.obj o.slot o.objRing last (o.bad || r.bad) (isStoreOp o.sub) r.n with
    | .ok s1 => s1.setOp k xf o1
    | .error e => r.st.segErr k xf o0 e
def EngOp.running (o : EngOp) : Bool := o.active && o.susp.isNone && o.fault.isNone
/-- A transform has read its sources (R299). -/
def State.xfTouch (s : State) (o : EngOp) : State :=
  match xfOf o.sub with
  | none => s
  | some op =>
    let z := xfSizes op (trecOf o.record) o.desc (if xfReadsHeader op then s.headerAt o.troop o.src else none)
    let s1 := s.chanTouch o.troop o.src z.1
    if op = .pack then s1.chanTouch o.troop (dsScOff o.desc) (dsScaleBytes o.desc) else s1
/-- The next segment of op `item` on core `unit`; `data` holds what other packages answered. -/
def execEngineSegmentComplete (s : State) : Out :=
  let k := s.ev.unit
  let xf := isXf s.ev.eng
  match s.liveOp k xf s.ev.item with
  | none => .next s
  | some o =>
    if !(o.running && decide (o.seg < o.segs)) then .next s
    else
      let s1 := s.xfTouch o
      match s1.segment k o s.ev.data with
      | .error .reserved => .fault .reservedPhysical
      | .error e => .next (s1.segErr k xf o e)
      | .ok r => .next (State.completeSeg k xf o r)

/-! ## Landings (R262, R266) -/

/-- The box lands on core `aux` of the die, and that receiver's buoy is credited; a failed check is a fault of the op,
and the receiver takes nothing; an error in what is read there ends the op. Of an op that has ended by a fault the receiver
takes the bytes, undefined, the arrival and status bit 0 (R265). -/
def State.land (s : State) (k : Nat) (o : EngOp) (core : Nat) : State :=
  let o1 := { o with todo := o.todo.filter (· != core) }
  match s.landing o core with
  | .ok (q, base, b) =>
    let t := trecOf o.record
    let n := if o.failed then t.b0 * t.b1 * t.b2 * t.es else o.result.length
    let s1 := if o.failed then s.spoil q base n else s.spmWrite q base o.result
    (s1.orStay (s1.creditBuoy q b 1 n o.failed false false)).setOp k false o1
  | .error (.ecc a) => if o.failed then s.setOp k false o1 else s.failOp k false o1 causeEcc (engTval o) (BitVec.ofNat 64 a) 0
  | .error (.spm a) => s.setOp k false (o1.noteSpm a)
  | .error _ => s
/-- A `copymc` lands: its box is read, or it has ended. -/
def EngOp.lands (o : EngOp) : Bool := isCopymc o.sub && o.active && (o.seg == o.segs || o.failed)
/-- R266: the receiving troop, another than the sender's, is being saved, or is saved. -/
def State.landWaits (s : State) (o : EngOp) (core : Nat) : Bool :=
  match s.landing o core with
  | .ok (q, _, _) => q != o.troop && ((s.troop q).saving || (s.troop q).res == .saved)
  | .error _ => false
def execCopymcLanding (s : State) : Out :=
  let k := s.ev.unit
  .next (match s.liveOp k false s.ev.item with
    | none => s
    | some o =>
      if o.lands && o.todo.contains s.ev.aux && !s.landWaits o s.ev.aux then s.land k o s.ev.aux else s)

/-! ## Retirement (R264, R265, R363, R364) -/

/-- An engine fault waits for its strand; a strand that has exited leaves a kind-2 record while its crew lives. -/
def State.deferFault (s : State) (x : Nat) (d : Deferred) : State :=
  if (s.strand x).life = .exited then
    if (s.liveLanes (crewOf x)).isEmpty then s
    else s.addLog (crewOf x) (logRecord 2 d.cause 0 0 (laneOf x) 0 d.tval.toNat)
  else s.modStrand x (fun t => { t with faults := t.faults ++ [d] })
/-- EN falls, the token completes, the scoreboard entry goes, and a fault waits for delivery; what waited for an entry goes
on (R169). -/
def State.retireEng (s : State) (k troop strand opid : Nat) (tok : Option Nat) (obj : Option (Bool × Nat)) (slot : Nat)
    (fault : Option (Nat × Word × Dword)) (pfr : Nat) (wrote : Bool) : State :=
  let c := crewOf strand
  let now := (s.core k).cycle
  let s0 := if wrote && s.hasCrew c then s.modCrew c (fun v => { v with wrote := true }) else s
  let s1 := ((s0.decCls c .en).tokDone c tok (match fault with
    | some f => .fault f.1
    | none => .ok) wrote).scoreDel troop opid
  let s2 := match fault with
    | some (cause, tval, taddr) =>
      s1.deferFault strand { cls := .en, time := now, cause := cause, tval := tval, taddr := taddr, pfr := pfr, tok := tok, obj := obj, slot := slot }
    | none => s1
  s2.pumpCore k
/-- The streamer op of a core whose write to another package has a number: the op, the package, the virtual address, the
port. -/
def State.findOut (s : State) (k id : Nat) : Option (EngOp × Nat × Nat × Nat) :=
  (s.core k).sqe.findSome? (fun o => (o.outs.find? (fun w => w.1 == id)).map (fun w => (o, w.2)))
/-- That write is acknowledged (R264); one that is answered with an error, or whose path is lost, is dropped with a kind-4
record (R364, R366). -/
def State.engAck (s : State) (k id : Nat) : State :=
  match s.findOut k id with
  | none => s
  | some (o, pkg, va, _) =>
    let s1 := s.setOp k false { o with outs := o.outs.filter (fun w => w.1 != id) }
    if s.ev.err.isSome || !s.routeOk pkg then s1.dropStore o.strand va else s1
def EngOp.isOver (o : EngOp) : Bool := o.active && o.todo.isEmpty && (o.fault.isSome || o.seg == o.segs)
def execEngineOpRetire (s : State) : Out :=
  let k := s.ev.unit
  let xf := isXf s.ev.eng
  .next (match s.liveOp k xf s.ev.item with
    | none => s
    | some o =>
      if o.outs.isEmpty && (if isCopymc o.sub then o.isOver else o.active && (o.fault.isSome || o.seg == o.segs)) then
        let p := s.lastCredit o
        (p.2.delOp k xf o.id).retireEng k o.troop o.strand o.opid o.tok (some (o.objRing, o.obj)) o.slot p.1.fault o.pfr (isStoreOp o.sub)
      else s)

end Sys2Proof.Machine
end

