-- ==== Sys2Proof/Machine/Kv.lean ====
section
/-! DEFINITION. Kv.lean: KV space: the granule pool, the tables of the walk, bindings, and the KV instructions as strands
issue them (spec/11_kv_space.md R229-R242, R246). What a queued KV op does is in KvRun.lean. -/

namespace Sys2Proof.Machine

/-- Why a step of the KV engine does not complete: a KV_FAULT reason, no granule (with what it had done before, R243), or
the memory below it. -/
inductive KErr where
  | kv (reason : Nat)
  | exhausted (left : State)
  | mem (e : VErr)
  deriving DecidableEq, Repr

/-! ## Physical access (R231, R392, R393) -/

/-- A physical range of a package as the KV engine of the core of the event reads it. -/
def State.kpiece (s : State) (pkg a n : Nat) : Piece :=
  { t := if pkg = s.pkg.toNat then .dev else .remote pkg, a := a, n := n, va := a, nocache := false }
def State.kheld (s : State) (pkg a n : Nat) : Bool := s.pieceHeld s.ev.unit clsKv (s.kpiece pkg a n)
/-- Bytes at a physical address of a package; those of another package are what its answer brought (`ext`). -/
def State.kread (s : State) (pkg a n : Nat) (ext : List Byte) : Except KErr VRead :=
  let p := s.kpiece pkg a n
  if targetReserved p.t a n then .error (.mem .reserved)
  else if s.kheld pkg a n then .error (.mem .held)
  else match s.readPieces s.ev.unit clsKv ext [p] with
    | .ok r => .ok r
    | .error (.lost _) => .error (.kv 7)
    | .error e => .error (.mem e)
/-- A number read there, with what is left. -/
def State.knat (s : State) (pkg a n : Nat) (ext : List Byte) : Except KErr (Nat × List Byte × State) :=
  match s.kread pkg a n ext with
  | .error e => .error e
  | .ok r => .ok (leNat r.1, r.2)
/-- Bytes written at their slice, on this package. -/
def State.kwrite (s : State) (a : Nat) (bs : List Byte) : State := s.pwrite a bs false

/-! ## The granule pool (R231) -/

def State.poolBase (s : State) : Nat := bits s.kvpoolbase.toNat 43 20 * 2 ^ 20
def State.poolN (s : State) : Nat := bits s.kvpooln.toNat 27 0
def poolBitmap (n : Nat) : Nat := (n + 8191) / 8192
def State.granule (s : State) (g : Nat) : Nat := s.poolBase + 1024 * g
/-- A granule of a package's pool; of another package's pool no register of this one holds the base. -/
def State.granuleOf (s : State) (pkg g : Nat) : Nat := if pkg = s.pkg.toNat then s.granule g else 1024 * g
/-- Granules the bitmap marks free: a set bit, by this model's choice (log 15). -/
def State.granFree (s : State) (g : Nat) : Bool := (s.pbyte (s.poolBase + g / 8)).getLsbD (g % 8)
def State.setGran (s : State) (g : Nat) (free : Bool) : State :=
  let a := s.poolBase + g / 8
  s.kwrite a [putBit (s.pbyte a) (g % 8) free]
def State.freeGrans (s : State) : List Nat := (span (poolBitmap s.poolN) s.poolN).filter s.granFree
/-- One granule; which of the free ones is not defined (log 3). -/
def State.allocGran (s : State) : Option (Nat × State) :=
  match s.freeGrans with
  | [] => none
  | g :: gs =>
    let l := g :: gs
    let i := l.getD (Config.kvPick s.poolN s.freeCtr % l.length) g
    let s1 := { s with freeCtr := s.freeCtr + 1, kvfree := s.kvfree - 1 }
    some (i, s1.setGran i false)
def State.allocGrans (s : State) : Nat → Option (List Nat × State)
  | 0 => some ([], s)
  | k + 1 => match s.allocGran with
    | none => none
    | some (g, s1) => match s1.allocGrans k with
      | none => none
      | some (gs, s2) => some (g :: gs, s2)
def State.freeGran (s : State) (g : Nat) : State := { s with kvfree := s.kvfree + 1 }.setGran g true

/-! ## Tables of the walk (R232-R236) -/

def rootBase (r : Dword) : Nat := bits r.toNat 43 12 * 4096
def rootLgn (r : Dword) : Nat := bits r.toNat 4 0
def seqAddr (r : Dword) (q : Nat) : Nat := rootBase r + 32 * q
/-- Fields of a sequence entry. -/
def seqCount (v : Nat) : Nat := bits v 31 0
def seqWin (v : Nat) : Nat := bits v 63 32
def seqEpoch (v : Nat) : Bool := bitOf v 225
def seqGin (v : Nat) (e : Bool) : Nat := if e then bits v 223 208 else bits v 207 192
/-- Field [hi : lo] of an entry becomes `f`. -/
def putBits (v hi lo f : Nat) : Nat := v - bits v hi lo * 2 ^ lo + f % 2 ^ (hi + 1 - lo) * 2 ^ lo
def seqSetGin (v : Nat) (e : Bool) (n : Nat) : Nat := if e then putBits v 223 208 n else putBits v 207 192 n
def seqReservedOk (v : Nat) : Bool :=
  bits v 255 226 == 0 && bits v 191 172 == 0 && bits v 133 85 == 0 && !bitOf v 83
/-- A sequence entry, as it is read, holds no reserved value (R6, R247 reason 2). -/
def seqFormOk (v : Nat) : Bool := bits v 81 80 != 3 && seqReservedOk v
/-- A binding of the entry read. -/
def bindOf (pkg q : Nat) (root : Dword) (w : Bool) (v : Nat) : KvBind :=
  { pkg := pkg, seq := q, root := root, writer := w, layers := bits v 71 64 + 1, heads := bits v 79 72 + 1, dcode := bits v 81 80,
    e4m3 := bitOf v 82, dir := bits v 171 134 * 64 }
def KvBind.entry (b : KvBind) : Nat := seqAddr b.root b.seq
/-- D, element bytes, row bytes, tokens of a page, rows of a chunk (R235). -/
def KvBind.dim (b : KvBind) : Nat := 64 * 2 ^ b.dcode
def KvBind.fmt (b : KvBind) : CFmt := if b.e4m3 then cE4m3 else cBf16
def KvBind.row (b : KvBind) : Nat := b.dim * b.fmt.bytes
def KvBind.page (b : KvBind) : Nat := 65536 / (4 * b.dim)
def KvBind.chunkRows (b : KvBind) : Nat := 4096 / b.row

def State.kvBind (s : State) (t h : Nat) : Option KvBind := sfind (s.troop t).kv h
/-- The entry of a sequence of this package, written by one action at its slice. -/
def State.seqWrite (s : State) (b : KvBind) (v : Nat) : State := s.kwrite b.entry (leBytes 32 v)
def State.seqNat (s : State) (b : KvBind) : Nat := s.pnat b.entry 32
/-- The entry of a sequence as the KV engine reads it (R247 reason 2). -/
def State.seqEntry (s : State) (b : KvBind) (ext : List Byte) : Except KErr (Nat × List Byte × State) :=
  match s.knat b.pkg b.entry 32 ext with
  | .error e => .error e
  | .ok r => if seqFormOk r.1 then .ok r else .error (.kv 2)

/-! ## Checks at issue (R240) -/

/-- The handle of a handle word, or of a stream word with layer and head. -/
def State.handleOf (s : State) (v : Word) : Option (Nat × KvBind) :=
  let n := v.toNat
  if bits n 31 4 ≠ 0 then none else (s.kvBind (troopOf s.x) (bits n 3 0)).map (fun b => (bits n 3 0, b))
def State.streamOf (s : State) (v : Word) : Option (Nat × KvBind) :=
  let n := v.toNat
  if bits n 31 20 ≠ 0 then none
  else (s.kvBind (troopOf s.x) (bits n 19 16)).bind (fun b =>
    if bits n 7 0 < b.layers ∧ bits n 15 8 < b.heads then some (bits n 19 16, b) else none)
def State.kvRoom (s : State) : Bool := decide (s.myCore.kq.length < 16)
/-- The queue, EN and the token; the append and the gather take a scoreboard entry. -/
def State.enterKv (s : State) (f : Fr) (tok : Option (BitVec 4)) (o : KvOp) (entry : Option (Pcs × Pcs × Pcs)) : State :=
  let t := troopOf s.x
  let seq := s.myTroop.opseq
  if !s.kvRoom || decide (63 ≤ s.myCrew.en) || !s.tokRoom (crewOf s.x) tok then s.park .retry
  else if entry.isSome && !s.scoreRoom t seq s.x then (s.scoreQueue s.x).park .retry
  else
    let id := s.newId
    let op : KvOp := { o with id := id.1, troop := t, strand := s.x, opid := seq, tok := tok.map (fun (w : BitVec 4) => w.toNat) }
    let s1 := ((id.2.scoreUnqueue s.x).incCls (crewOf s.x) .en).tokAttach (crewOf s.x) tok
    let s2 := s1.modTroop t (fun v => { v with opseq := v.opseq + 1 })
    let s3 := match entry with
      | some (rd, wr, ring) =>
        let r := granules (hullOf rd)
        let p := granules (hullOf wr)
        let w := granules (hullOf (wr ++ ring))
        s2.scoreAdd { troop := t, eng := 3, opid := seq, wlo := w.1, whi := w.2, rlo := r.1, rhi := r.2,
                      ring := if op.objRing then some op.obj else none, plo := p.1, phi := p.2 }
      | none => s2
    (s3.modMyCore (fun k => { k with kq := k.kq ++ [op] })).finish f.len

/-! ## `kvappend` and `kvgather` at issue (R243, R244) -/

def execKvappend (v : XA) (pub : Bool) (d a e : Reg) (n : BitVec 9) (s : State) : Out :=
  let f := extFr v.x false
  .next (s.issue f { role := s.isAccess, srcs := [d.toNat, a.toNat, e.toNat] } (fun s =>
    let src := (s.rd d.toNat).toNat
    let obj := (s.rd e.toNat).toNat
    let w := s.rd a.toNat
    if src % 32 ≠ 0 then s.illegalOp f 1
    else match (s.streamOf w).filter (fun b => b.2.writer && bits w.toNat 15 8 == 0) with
      | none => s.illegalOp f 2
      | some (h, b) =>
        if obj % 16 ≠ 0 then s.illegalOp f 4
        else
          let size := b.heads * 2 * n.toNat * b.row
          match s.pcsBad [(src, size), (obj, 16)] with
          | some t => s.trap f t
          | none => s.enterKv f v.tok
              { id := 0, troop := 0, strand := s.x, opid := 0, sub := .kvappend v pub d a e n, handle := h, layer := bits w.toNat 7 0,
                n := n.toNat, dst := src, obj := obj, hasObj := true, tok := none }
              (some ([(src, size)], [(obj, 16)], []))))
def kvParts : KvPart → List Nat | .k => [0] | .v => [1] | .kv => [0, 1]
/-- Destination bytes of a gather (R244). -/
def gatherBytes (b : KvBind) (p : KvPart) (n : Nat) : Nat := n * b.row * (kvParts p).length + 32
def kvTval (reason handle seg : Nat) : Word := w32 (reason + handle * 16 + seg % 2 ^ 24 * 256)
def execKvgather (v : XA) (part : KvPart) (ring : Bool) (d a b e : Reg) (n : BitVec 9) (s : State) : Out :=
  let f := extFr v.x false
  .next (s.issue f { role := s.isAccess, srcs := (if ring then [] else [d.toNat]) ++ [a.toNat, b.toNat, e.toNat] } (fun s =>
    let dst := if ring then 0 else (s.rd d.toNat).toNat
    let obj := (s.rd e.toNat).toNat
    let w := s.rd a.toNat
    if ring && s.headerWait [(obj, 32)] then s.park .retry
    else if dst % 32 ≠ 0 then s.illegalOp f 1
    else match s.streamOf w with
      | none => s.illegalOp f 2
      | some (h, bd) =>
        if obj % objBytes ring ≠ 0 then s.illegalOp f 4
        else
          let size := gatherBytes bd part n.toNat
          let data : Pcs := if ring then [] else [(dst, size)]
          match s.pcsBad (data ++ [(obj, objBytes ring)]) with
          | some t => s.trap f t
          | none =>
            if s.slotSmall ring obj size then s.trap f { code := causeKvFault, tval := kvTval 8 h 0 }
            else s.enterKv f v.tok
              { id := 0, troop := 0, strand := s.x, opid := 0, sub := .kvgather v part ring d a b e n, handle := h,
                layer := bits w.toNat 7 0, head := bits w.toNat 15 8, first := (s.rd b.toNat).toNat, n := n.toNat, dst := dst,
                objRing := ring, obj := obj, hasObj := true, tok := none }
              (some ([], data ++ (if ring then [] else [(obj, 16)]), s.ringPcs ring obj))))

/-! ## `kvwin`, `kvtrim` (R240, R246) -/

def execKvwin (v : XA) (a b : Reg) (s : State) : Out :=
  let f := extFr v.x false
  .next (s.issue f { role := s.isAccess, srcs := [a.toNat, b.toNat] } (fun s =>
    match (s.handleOf (s.rd a.toNat)).filter (·.2.writer) with
    | none => s.illegalOp f 2
    | some (h, _) => if !s.loadsIn then s.park .retry else s.enterKv f v.tok
        { id := 0, troop := 0, strand := s.x, opid := 0, sub := .kvwin v a b, handle := h, win := (s.rd b.toNat).toNat, tok := none,
          after := s.storesOf (coreOf s.x) } none))
def execKvtrim (v : XA) (a : Reg) (s : State) : Out :=
  let f := extFr v.x false
  .next (s.issue f { role := s.isAccess, srcs := [a.toNat] } (fun s =>
    match (s.handleOf (s.rd a.toNat)).filter (·.2.writer) with
    | none => s.illegalOp f 2
    | some (h, _) => s.enterKv f v.tok
        { id := 0, troop := 0, strand := s.x, opid := 0, sub := .kvtrim v a, handle := h, tok := none } none))

/-! ## The synchronous instructions (R242) -/

/-- The entry of a sequence as a strand's instruction reads it: another package's, which a request asks for, is a free value
(log 3). -/
def State.seqRead (s : State) (pkg : Nat) (root : Dword) (q : Nat) : Except VErr (Nat × State) :=
  if pkg = s.pkg.toNat then
    let a := seqAddr root q
    if targetReserved .dev a 32 then .error .reserved
    else match s.errRead none a 32 with
      | some b => .error (.ecc b)
      | none => .ok (s.pnat a 32, s.touch a 32 false false)
  else
    let fv := s.freeN 4
    .ok (leNat (fv.1.flatMap (fun v => leBytes 8 v.toNat)), fv.2.readAway (coreOf s.x) pkg (seqAddr root q) 32)
/-- The span root table of this package, or a free value where a request asks for another package's: the root, if an entry
holds it. -/
def State.rootOf (s : State) (pkg : Nat) : Option Dword × State :=
  if pkg = s.pkg.toNat then (some (BitVec.ofNat 64 s.myLaunch.kvroot), s)
  else
    let fv := s.freeN 2
    (if (fv.1.getD 0 0).getLsbD 0 then some (fv.1.getD 1 0) else none, fv.2.readAway (coreOf s.x) pkg rootsBase 1024)
/-- A KV_FAULT raised at the instruction. -/
def State.kvTrap (s : State) (f : Fr) (reason : Nat) : State := s.trap f { code := causeKvFault, tval := kvTval reason 0 0 }
/-- The handle a valid entry is given, or why none is. -/
def State.openEntry (s : State) (f : Fr) (w : Bool) (d pkg q : Nat) (root : Dword) (v : Nat) : State :=
  let t := troopOf s.x
  if !bitOf v 84 then s.kvTrap f 1
  else if !seqFormOk v then s.kvTrap f 2
  else
    let s := s.invL1 (coreOf s.x)
    match (List.range 16).find? (fun h => (s.kvBind t h).isNone) with
    | none => (s.wr d (BitVec.allOnes 32)).finish f.len
    | some h =>
      let b := bindOf pkg q root w v
      if w && bitOf v 224 then (s.wr d 0xFFFFFFFE).finish f.len
      else
        let s1 := if w then s.seqWrite b (putBits v 224 224 1) else s
        ((s1.modTroop t (fun u => { u with kv := sput u.kv h b })).wr d (w32 h)).finish f.len
def State.kvopen (s : State) (f : Fr) (w : Bool) (d : Nat) (word : Nat) : Out :=
  let pkg := bits word 27 20
  let q := bits word 19 0
  let away := pkg != s.pkg.toNat
  if bits word 31 28 ≠ 0 ∨ (w ∧ away) then .next (s.illegalOp f 2)
  else if away && !s.routeOk pkg then .next (s.kvTrap f 7)
  else if away && s.pairHeld (coreOf s.x) 0 pkg then .next (s.park .retry)
  else if away && s.myLaunch.spanId == 0 then .next (s.kvTrap f 9)
  else
    let r := s.rootOf pkg
    match r.1 with
    | none => .next (r.2.kvTrap f 9)
    | some root =>
      if root = 0 ∨ 2 ^ rootLgn root ≤ q then .next (r.2.illegalOp f 2)
      else match r.2.seqRead pkg root q with
        | .error .reserved => .fault .reservedPhysical
        | .error (.ecc a) => .next (r.2.trap f (eccFault a))
        | .error _ => .next r.2
        | .ok (v, s1) => .next (s1.openEntry f w d pkg q root v)
/-- The checks of an instruction whose effect may meet reserved memory: the state as those checks leave it, and whether
the effect is due. -/
def State.issueOut (s : State) (f : Fr) (c : Chk) (body : State → Out) : Out :=
  let due := s.guardOk f && c.role && c.ops.all (·.1) && ((c.srcs ++ c.dsts ++ c.names).all (fun r => !s.regBad r))
    && c.srcs.all (fun r => s.myStrand.fill.getLsbD r && !s.myStrand.bad.getLsbD r)
    && ((c.srcs ++ c.dsts).all (fun r => !s.myStrand.pend.getLsbD r))
  if due then body (s.readAcquire c.srcs) else .next (s.issue f c id)
def execKvopen (x : XG) (w : Bool) (d a : Reg) (s : State) : Out :=
  let f := extFr x false
  s.issueOut f { role := s.isAccess, srcs := [a.toNat], dsts := [d.toNat] } (fun s => s.kvopen f w d.toNat (s.rd a.toNat).toNat)
/-- A KV op of the troop on a handle is queued or active. -/
def State.kvBusy (s : State) (t h : Nat) : Bool := (s.core (coreOfTroop t)).kq.any (fun o => o.troop == t && o.handle == h)
/-- What the translation cache of a core holds for a binding goes (R245). -/
def State.dropKvCache (s : State) (t h : Nat) : State :=
  s.modCore (coreOfTroop t) (fun c => { c with kvcache := c.kvcache.filter (fun e => !(e.troop == t && e.handle == h)) })
/-- A binding goes; a writer's flag is cleared in the entry. -/
def State.closeBind (s : State) (t h : Nat) : State :=
  match s.kvBind t h with
  | none => s
  | some b =>
    let s1 := (s.dropKvCache t h).modTroop t (fun u => { u with kv := sdel u.kv h })
    if b.writer then s1.seqWrite b (putBits (s1.seqNat b) 224 224 0) else s1
def execKvclose (x : XG) (a : Reg) (s : State) : Out :=
  let f := extFr x false
  .next (s.issue f { role := s.isAccess, srcs := [a.toNat] } (fun s =>
    match s.handleOf (s.rd a.toNat) with
    | none => s.illegalOp f 2
    | some (h, _) => if s.kvBusy (troopOf s.x) h then s.park .retry else (s.closeBind (troopOf s.x) h).finish f.len))
def execKvlen (x : XG) (d a : Reg) (s : State) : Out :=
  let f := extFr x false
  s.issueOut f { srcs := [a.toNat], dsts := [d.toNat] } (fun s =>
    match s.handleOf (s.rd a.toNat) with
    | none => .next (s.illegalOp f 2)
    | some (h, b) =>
      if b.pkg != s.pkg.toNat && !s.routeOk b.pkg then .next (s.trap f { code := causeKvFault, tval := kvTval 7 h 0 })
      else if b.pkg != s.pkg.toNat && s.pairHeld (coreOf s.x) 0 b.pkg then .next (s.park .retry)
      else match s.seqRead b.pkg b.root b.seq with
      | .error .reserved => .fault .reservedPhysical
      | .error (.ecc a) => .next (s.trap f (eccFault a))
      | .error _ => .next s
      | .ok (v, s1) => .next (
        if !seqFormOk v then s1.trap f { code := causeKvFault, tval := kvTval 2 h 0 }
        else ((s1.wr d.toNat (w32 (seqCount v))).invL1 (coreOf s1.x)).finish f.len))

end Sys2Proof.Machine
end

