-- ==== Sys2Proof/Machine/KvRun.lean ====
section
/-! DEFINITION. KvRun.lean: KV ops from start to retirement: appends, gathers, the window and its trimming, and their
suspension (spec/11_kv_space.md R235-R248). -/

namespace Sys2Proof.Machine

/-! ## Ops by number -/

def State.findKv (s : State) (k id : Nat) : Option KvOp := (s.core k).kq.find? (fun o => o.id == id)
/-- The op, unless its core stands still (R217). -/
def State.liveKv (s : State) (k id : Nat) : Option KvOp := if s.still k then none else s.findKv k id
def State.setKv (s : State) (k : Nat) (o : KvOp) : State :=
  s.modCore k (fun c => { c with kq := c.kq.map (fun q => if q.id = o.id then o else q) })
def State.delKv (s : State) (k id : Nat) : State := s.modCore k (fun c => { c with kq := c.kq.filter (fun q => q.id != id) })
def kvSub : Instr → Nat
  | .kvappend .. => 0 | .kvgather .. => 1 | .kvwin .. => 3 | .kvtrim .. => 4 | _ => 0
def kvPub : Instr → Bool | .kvappend _ p _ _ _ _ => p | _ => false
def kvPartsOf : Instr → List Nat | .kvgather _ p _ _ _ _ _ _ => kvParts p | _ => []
def isAppend : Instr → Bool | .kvappend .. => true | _ => false
def isGatherKv : Instr → Bool | .kvgather .. => true | _ => false

/-! ## Segments (R243, R245) -/

/-- Chunk groups of positions [lo, hi): a group is a chunk of one half of a page. -/
def groupsOf (b : KvBind) (lo hi : Nat) : List Nat := if hi ≤ lo then [] else span (lo / b.chunkRows) ((hi + b.chunkRows - 1) / b.chunkRows)
/-- Rows of an append: head, part, group. -/
def appendSegs (b : KvBind) (o : KvOp) : List (Nat × Nat × Nat) :=
  (List.range b.heads).flatMap (fun h => [0, 1].flatMap (fun p => (groupsOf b o.count (o.count + o.n)).map (fun g => (h, p, g))))
/-- Rows of a gather: place of the part in the destination, part, group. -/
def gatherSegs (b : KvBind) (o : KvOp) : List (Nat × Nat × Nat) :=
  (kvPartsOf o.sub).zipIdx.flatMap (fun q => (groupsOf b o.first (o.first + o.n)).map (fun g => (q.2, q.1, g)))
/-- Segments of an op; the mask of a gather is its last. -/
def kvSegs (b : KvBind) (o : KvOp) : Nat :=
  if isAppend o.sub then (appendSegs b o).length else if isGatherKv o.sub then (gatherSegs b o).length + 1 else 1
/-- Positions of a group within [lo, hi). -/
def groupRange (b : KvBind) (g lo hi : Nat) : Nat × Nat := (max lo (g * b.chunkRows), min hi ((g + 1) * b.chunkRows))
/-- Bytes of a segment of a gather: offset in the destination, length. -/
def gatherPlace (b : KvBind) (o : KvOp) (sg : Nat × Nat × Nat) : Nat × Nat :=
  let r := groupRange b sg.2.2 o.first (o.first + o.n)
  (o.dst + sg.1 * o.n * b.row + (r.1 - o.first) * b.row, (r.2 - r.1) * b.row)

/-! ## The walk (R234, R236) -/

/-- A directory entry: list and capacity. -/
def dirOk (v : Nat) : Bool := bits v 127 88 == 0 && bits v 63 44 == 0 && bits v 3 0 == 0 && bits v 87 64 != 0
/-- A directory or page entry. A gather (`src`: core, troop, handle) takes a cached value that raises no fault (`ok`), and
caches what it reads (R245). -/
def State.kvEntry (s : State) (b : KvBind) (src : Option (Nat × Nat × Nat)) (ok : Nat → Bool) (a : Nat) (ext : List Byte) :
    Except KErr (Nat × List Byte × State) :=
  match src with
  | none => s.knat b.pkg a 16 ext
  | some (k, t, h) =>
    match (s.core k).kvcache.find? (fun e => e.troop == t && e.handle == h && e.addr == a && ok e.val) with
    | some e => .ok (e.val, ext, s)
    | none => do
      let (v, x, s1) ← s.knat b.pkg a 16 ext
      let new : KvPtr := { troop := t, handle := h, addr := a, val := v }
      .ok (v, x, s1.modCore k (fun c =>
        { c with kvcache := new :: c.kvcache.filter (fun e => !(e.troop == t && e.handle == h && e.addr == a)) }))
/-- The directory entry of a list of more than `p` pages, or what stands there. -/
def State.dirEntry (s : State) (b : KvBind) (src : Option (Nat × Nat × Nat)) (layer head p : Nat) (ext : List Byte) :
    Except KErr ((Nat × Nat) × List Byte × State) := do
  let (v, x, s1) ← s.kvEntry b src (fun v => dirOk v && decide (p < bits v 87 64)) (b.dir + 16 * (layer * b.heads + head)) ext
  if dirOk v then .ok ((bits v 43 4 * 16, bits v 87 64), x, s1) else .error (.kv 2)
def pageOk (v : Nat) : Bool := bits v 127 44 == 0 && bits v 7 2 == 0
/-- A page entry: its address and its value. -/
def State.pageEntry (s : State) (b : KvBind) (src : Option (Nat × Nat × Nat)) (list p : Nat) (ext : List Byte) :
    Except KErr ((Nat × Nat) × List Byte × State) := do
  let (v, x, s1) ← s.kvEntry b src (fun v => pageOk v && bitOf v 0 && bitOf v 1) (list + 16 * p) ext
  if pageOk v then .ok ((list + 16 * p, v), x, s1) else .error (.kv 2)
def pageMap (v : Nat) : Nat := bits v 43 8 * 256
/-- A chunk-map entry: rows, storage code, granules. -/
structure CMap where
  rows : Nat
  size : Nat
  grans : List Nat
  deriving DecidableEq, Repr
def cmapOf (v : Nat) : CMap :=
  let g := [bits v 27 0, bits v 55 28, bits v 83 56, bits v 111 84]
  { rows := bits v 121 115, size := bits v 114 112, grans := g.take (bits v 114 112) }
def cmapNat (c : CMap) : Nat :=
  c.rows * 2 ^ 115 + c.size * 2 ^ 112 + c.grans.getD 3 0 * 2 ^ 84 + c.grans.getD 2 0 * 2 ^ 56 + c.grans.getD 1 0 * 2 ^ 28
    + c.grans.getD 0 0
def cmapOk (b : KvBind) (v : Nat) : Bool :=
  bits v 127 122 == 0 && decide (bits v 114 112 ≤ 4) && decide (bits v 121 115 ≤ b.chunkRows)
/-- The logical bytes of a chunk (R236, R237). -/
def State.chunkData (s : State) (b : KvBind) (c : CMap) (ext : List Byte) : Except KErr VRead :=
  if c.size = 0 then .ok (List.replicate 4096 0, ext, s)
  else
    let r := c.grans.foldl (fun (acc : Except KErr VRead) g => do
      let (bs, x, s1) ← acc
      let (b2, x2, s2) ← s1.kread b.pkg (s1.granuleOf b.pkg g) 1024 x
      .ok (bs ++ b2, x2, s2)) (.ok ([], ext, s))
    match r with
    | .error e => .error e
    | .ok (bs, x, s1) =>
      if c.size = 4 then .ok (bs, x, s1)
      else match decodeChunk b.fmt (c.rows * b.dim) bs with
        | none => .error (.kv 2)
        | some vs => .ok (padTo 4096 (elemBytes b.fmt vs), x, s1)
def State.chunkMap (s : State) (b : KvBind) (map c : Nat) (ext : List Byte) : Except KErr (CMap × List Byte × State) := do
  let (v, x, s1) ← s.knat b.pkg (map + 16 * c) 16 ext
  if cmapOk b v then .ok (cmapOf v, x, s1) else .error (.kv 2)
/-- Chunk of a part that holds a position, and the position's row in it. -/
def chunkOf (b : KvBind) (part t : Nat) : Nat := 8 * part + t % b.page / b.chunkRows

/-! ## Gathers (R244, R245) -/

/-- The rows of one segment. -/
def State.gatherRows (s : State) (b : KvBind) (o : KvOp) (sg : Nat × Nat × Nat) (ext : List Byte) : Except KErr (List Byte × State) :=
  let r := groupRange b sg.2.2 o.first (o.first + o.n)
  let lo := max r.1 o.win0
  let hi := min r.2 o.count
  let n := (r.2 - r.1) * b.row
  if hi ≤ lo then .ok (List.replicate n 0, s)
  else do
    let p := lo / b.page
    let src := some (coreOfTroop o.troop, o.troop, o.handle)
    let ((list, cap), x1, s1) ← s.dirEntry b src o.layer o.head p ext
    if cap ≤ p then .error (.kv 6)
    else
      let ((_, pe), x2, s2) ← s1.pageEntry b src list p x1
      if !bitOf pe 0 then .error (.kv 3)
      else if !bitOf pe 1 then .error (.kv 4)
      else
        let (cm, x3, s3) ← s2.chunkMap b (pageMap pe) (chunkOf b sg.2.1 lo) x2
        let (bs, _, s4) ← s3.chunkData b cm x3
        let rows := (bs.drop (lo % b.chunkRows * b.row)).take ((hi - lo) * b.row)
        .ok (List.replicate ((lo - r.1) * b.row) 0 ++ rows ++ List.replicate ((r.2 - hi) * b.row) 0, s4)
/-- R244 step 4. -/
def maskBytes (o : KvOp) : List Byte :=
  leBytes 32 (natOfBits ((List.range o.n).map (fun j => decide (o.win0 ≤ o.first + j ∧ o.first + j < o.count))))

/-! ## Appends (R243) -/

/-- Every head's list has room for the new positions. -/
def State.appendFits (s : State) (b : KvBind) (o : KvOp) : List Nat → Except KErr Bool
  | [] => .ok (decide (o.count + o.n ≤ 2 ^ 32 - 1))
  | h :: hs => do
    let ((_, cap), _, s1) ← s.dirEntry b none o.layer h 0 []
    if cap * b.page < o.count + o.n then .ok false else s1.appendFits b o hs
/-- A chunk's new contents: rows, coded or raw. -/
def State.rewriteChunk (s : State) (b : KvBind) (map c : Nat) (cm : CMap) (rows : Nat) (data : List Byte) : Except KErr State :=
  let enc := encodeChunk b.fmt (elemsOf b.fmt (data.take (rows * b.row)))
  let body := match enc with
    | some bs => bs
    | none => padTo 4096 (data.take (rows * b.row))
  let size := match enc with
    | some bs => (bs.length + 1023) / 1024
    | none => 4
  match s.allocGrans (size - cm.grans.length) with
  | none => .error (.exhausted s)
  | some (new, s1) =>
    let gs := (cm.grans ++ new).take size
    if gs.any (fun g => s.kheld s.pkg.toNat (s.granule g) 1024) then .error (.mem .held) else
    let s2 := gs.zipIdx.foldl (fun s q => s.kwrite (s.granule q.1) (padTo 1024 ((body.drop (1024 * q.2)).take 1024))) s1
    let s3 := s2.kwrite (map + 16 * c) (leBytes 16 (cmapNat { rows := rows, size := size, grans := gs }))
    .ok ((cm.grans.drop size).foldl State.freeGran s3)
/-- The page's chunk map, allocated and zero for a page that held none. -/
def State.pageForAppend (s : State) (pa pe : Nat) : Except KErr (Nat × State) :=
  if !bitOf pe 1 then .error (.kv 4)
  else if bitOf pe 0 then .ok (pageMap pe, s)
  else match s.allocGran with
    | none => .error (.exhausted s)
    | some (g, s1) =>
      let a := s1.granule g
      let s2 := s1.kwrite a (List.replicate 1024 0)
      .ok (a, s2.kwrite pa (leBytes 16 (a / 256 % 2 ^ 36 * 256 + 3)))
/-- One segment of an append. -/
def State.appendRows (s : State) (b : KvBind) (o : KvOp) (sg : Nat × Nat × Nat) : Except KErr State := do
  let fits ← if o.seg = 0 then s.appendFits b o (List.range b.heads) else .ok true
  if !fits then .error (.kv 6)
  else
    let r := groupRange b sg.2.2 o.count (o.count + o.n)
    let src := o.dst + sg.1 * (2 * o.n * b.row) + sg.2.1 * (o.n * b.row) + (r.1 - o.count) * b.row
    match s.spmLoad o.troop src ((r.2 - r.1) * b.row) with
    | .error e => .error (.mem e)
    | .ok new =>
      let p := r.1 / b.page
      let ((list, cap), _, s1) ← s.dirEntry b none o.layer sg.1 0 []
      if cap ≤ p then .error (.kv 6)
      else
        let ((pa, pe), _, s2) ← s1.pageEntry b none list p []
        let (map, s3) ← s2.pageForAppend pa pe
        let c := chunkOf b sg.2.1 r.1
        let (cm, _, s4) ← s3.chunkMap b map c []
        let (old, _, s5) ← s4.chunkData b cm []
        let at_ := r.1 % b.chunkRows
        let rows := at_ + (r.2 - r.1)
        (s5.chanTouch o.troop src new.length).rewriteChunk b map c cm rows ((old.take (at_ * b.row)) ++ new)

/-! ## Trimming (R246) -/

/-- A page wholly below the window gives its granules back. -/
def State.trimPage (s : State) (b : KvBind) (list p : Nat) : Except KErr State := do
  let ((pa, pe), _, s1) ← s.pageEntry b none list p []
  if !bitOf pe 0 then .ok s1
  else if !bitOf pe 1 then .error (.kv 4)
  else
    let map := pageMap pe
    let s2 ← (List.range 16).foldl (fun (acc : Except KErr State) c => do
      let s ← acc
      let (cm, _, s') ← s.chunkMap b map c []
      .ok (cm.grans.foldl State.freeGran s')) (.ok s1)
    .ok ((s2.freeGran ((map - s2.poolBase) / 1024)).kwrite pa (leBytes 16 (pe - 1)))
def State.trimAll (s : State) (b : KvBind) (win : Nat) : Except KErr State :=
  ((List.range (b.layers * b.heads)).foldl (fun (acc : Except KErr State) i => do
    let s ← acc
    let ((list, cap), _, s1) ← s.dirEntry b none (i / b.heads) (i % b.heads) 0 []
    (List.range (min cap (win / b.page))).foldl (fun (acc : Except KErr State) p => do
      let s ← acc
      s.trimPage b list p) (.ok s1)) (.ok s))

/-! ## Faults (R247, R248) -/

/-- TVAL of a fault that is not of KV space: segment, handle, subop (R265). -/
def kvEngTval (o : KvOp) : Word := w32 (o.seg % 2 ^ 24 * 2 ^ 8 + o.handle * 2 ^ 4 + kvSub o.sub)
/-- Bytes the object still awaits. -/
def kvRest (b : KvBind) (o : KvOp) : Nat :=
  (if isAppend o.sub then b.heads * 2 * o.n * b.row else o.n * b.row * (kvPartsOf o.sub).length + 32) - o.credited
/-- The faulting segment's destination bytes are undefined (log 3). -/
def State.spoilSeg (s : State) (b : KvBind) (o : KvOp) : State :=
  if isGatherKv o.sub && (!o.objRing || o.active) then
    match (gatherSegs b o)[o.seg]? with
    | some sg => let pl := gatherPlace b o sg; s.spoil o.troop pl.1 pl.2
    | none => s
  else s
/-- The op retires with a fault: its object takes the rest, the arrival and the status bit. -/
def State.kvObjects (s : State) (b : KvBind) (o : KvOp) : State :=
  if !o.hasObj then s
  else s.orStay (if o.objRing then s.fillSlot o.troop o.obj o.slot true false
    else s.creditBuoy o.troop o.obj 1 (kvRest b o) true false (isAppend o.sub))
def State.failKv (s : State) (k : Nat) (o : KvOp) (cause : Nat) (tval : Word) (taddr : Dword) : State :=
  s.setKv k { o with fault := some (cause, tval, taddr), susp := none }
/-- The op is suspended, and the fault goes to the die's controller. -/
def State.suspendKv (s : State) (k : Nat) (b : KvBind) (o : KvOp) (cause : Nat) (tval : Word) : State :=
  let d := dieOfCore k
  let g := (s.spoilSeg b o).newTag d
  let s1 := (g.2.modDie d (fun q => { q with kfaults := q.kfaults ++ [(g.1, k, o.id)] })).devEvent d 5 (k % 64) g.1
    (s.troop o.troop).index
  s1.setKv k { o with susp := some (cause, tval) }
def State.kvErr (s : State) (k : Nat) (b : KvBind) (o : KvOp) (e : KErr) : State :=
  match e with
  | .kv r => s.suspendKv k b o causeKvFault (kvTval r o.handle o.seg)
  | .exhausted left => left.suspendKv k b o causeKvExhausted (kvTval 0 o.handle o.seg)
  | .mem (.ecc a) => (s.spoilSeg b o).failKv k o causeEcc (kvEngTval o) (BitVec.ofNat 64 a)
  | .mem (.spm a) => (s.spoilSeg b o).failKv k o causeSpmAccess (kvEngTval o) (BitVec.ofNat 64 a)
  | .mem _ => s
/-- What a step of the engine leaves: a state, or the stop of R390. -/
def State.kvDone (s : State) (k : Nat) (b : KvBind) (o : KvOp) (r : Except KErr State) : Out :=
  match r with
  | .ok s1 => .next s1
  | .error (.mem .reserved) => .fault .reservedPhysical
  | .error e => .next (s.kvErr k b o e)

/-! ## Starting (R241, R243, R244) -/

/-- The `gin` field of a sequence of another package is counted by an atomic that leaves by the port of its pair, while a path
is left (R392, R393). -/
def State.remoteGin (s : State) (b : KvBind) (e up : Bool) : State :=
  let unit := if e then 2 ^ 16 else 1
  let id := s.newId
  let u : UaMsg := { id := id.1, kind := 3, pkg := b.pkg, addr := b.entry + 24, data := leBytes 4 (if up then unit else 2 ^ 32 - unit),
                     port := s.portFor s.ev.unit 0 b.pkg, op := some (0, 2, 0) }
  if s.routeOk b.pkg then { id.2 with uaOut := id.2.uaOut ++ [u] } else s

/-- The op is the oldest of its troop, and nothing stands in its way. -/
def State.kvDue (s : State) (k : Nat) (o : KvOp) : Bool :=
  let first := match (s.core k).kq.find? (fun q => q.troop == o.troop) with
    | some q => q.id == o.id
    | none => false
  let v := s.ringAt o.troop o.obj
  let slot := !o.objRing || !ringValid (s.spmSize o.troop) v || (ringOf v).free (ringOf v).wi
  !o.active && first && !s.ringBehind o.troop o.objRing o.obj o.opid && !s.scoreBlocked o.troop o.opid && !s.opStores o.troop o.opid && slot
/-- Claim of a ring's slot. -/
def State.claimKv (s : State) (o : KvOp) : KvOp × State :=
  if o.objRing then
    let r := ringOf (s.ringAt o.troop o.obj)
    let slot := r.wi % r.n
    ({ o with slot := slot, dst := r.base + slot * r.slotBytes }, s.setRing o.troop o.obj r.claim)
  else (o, s)
/-- The read of `count` and `win`, in which a gather counts itself; a gather's is an acquire at package scope (R244,
R277). -/
def State.startKv (s : State) (k : Nat) (b : KvBind) (o : KvOp) (ext : List Byte) : Except KErr State := do
  let (v, _, s1) ← s.seqEntry b ext
  let e := seqEpoch v
  let o2 := { o with read := true, count := seqCount v, win0 := seqWin v, epoch := e, counted := isGatherKv o.sub }
  let s2 := if !isGatherKv o.sub then s1
    else if b.pkg = s.pkg.toNat then (s1.invL1 k).seqWrite b (seqSetGin v e (seqGin v e + 1))
    else (s1.invL1 k).remoteGin b e true
  .ok (s2.setKv k o2)
def KvOp.running (o : KvOp) : Bool := o.active && o.susp.isNone && o.fault.isNone
/-- The op has started and its sequence entry is to be read: at its start, or again after a fault of that read was
resolved (R248). -/
def KvOp.unread (o : KvOp) : Bool := o.running && !o.read && (isAppend o.sub || isGatherKv o.sub)
/-- An op that is due takes its place, and its ring's slot. -/
def State.beginKv (s : State) (k : Nat) (o : KvOp) : KvOp × State :=
  let o1 := { o with active := true }
  match if o.objRing then s.objFault o.troop o.obj 32 (ringValid (s.spmSize o.troop) (s.ringAt o.troop o.obj)) else none with
  | some e =>
    let o2 := { o1 with fault := some (match e with
      | .ecc a => (causeEcc, kvEngTval o, BitVec.ofNat 64 a)
      | _ => (causeSpmAccess, kvEngTval o, BitVec.ofNat 64 o.obj)) }
    (o2, s.setKv k o2)
  | none =>
    let c := s.claimKv o1
    (c.1, c.2.setKv k c.1)
/-- Op `item` of core `unit` starts; `data` holds what another package answered. -/
def execKvOpStart (s : State) : Out :=
  let k := s.ev.unit
  match s.liveKv k s.ev.item with
  | none => .next s
  | some o => match s.kvBind o.troop o.handle with
    | none => .next s
    | some b =>
      let r := if s.kvDue k o then s.beginKv k o else (o, s)
      if r.1.unread then r.2.kvDone k b r.1 (r.2.startKv k b r.1 s.ev.data) else .next r.2

/-! ## Segments (R243, R245) -/

/-- A segment of a gather is credited; an object that is no longer valid ends the op (R348). -/
def State.creditKv (s : State) (k : Nat) (b : KvBind) (o : KvOp) (last : Bool) (n : Nat) : State :=
  match s.creditSeg o.troop o.obj o.slot o.objRing last false false n with
  | .ok s1 => s1.setKv k { o with seg := o.seg + 1, credited := o.credited + n }
  | .error e => s.kvErr k b o (.mem e)
def State.kvStep (s : State) (k : Nat) (b : KvBind) (o : KvOp) (ext : List Byte) : Except KErr State :=
  if isAppend o.sub then
    match (appendSegs b o)[o.seg]? with
    | none => .ok s
    | some sg => match s.appendRows b o sg with
      | .error e => .error e
      | .ok s1 => .ok (s1.setKv k { o with seg := o.seg + 1 })
  else match (gatherSegs b o)[o.seg]? with
    | some sg => match s.gatherRows b o sg ext with
      | .error e => .error e
      | .ok (bs, s1) => .ok ((s1.spmWrite o.troop (gatherPlace b o sg).1 bs).creditKv k b o false bs.length)
    | none =>
      let a := o.dst + o.n * b.row * (kvPartsOf o.sub).length
      .ok ((s.spmWrite o.troop a (maskBytes o)).creditKv k b o true 32)
/-- The next segment of KV op `item` on core `unit`; the cache has let the entries of its binding go first when bit 0 of
`value` says so (R245 gives it no rule of its own: log 1). -/
def execKvSegmentComplete (s : State) : Out :=
  let k := s.ev.unit
  match s.liveKv k s.ev.item with
  | none => .next s
  | some o => match s.kvBind o.troop o.handle with
    | none => .next s
    | some b =>
      if o.running && o.read && decide (o.seg < kvSegs b o) then
        let s1 := if s.ev.value.getLsbD 0 then s.dropKvCache o.troop o.handle else s
        s1.kvDone k b o (s1.kvStep k b o s.ev.data)
      else .next s

/-! ## The window (R246) -/

/-- R246: the new window; a change flips the epoch once the gathers of the epoch it flips to are over. -/
def newWin (v b : Nat) : Nat := min (max (seqWin v) b) (seqCount v)
def State.applyWin (s : State) (k : Nat) (b : KvBind) (o : KvOp) : Except KErr State := do
  let (v, _, s1) ← s.seqEntry b []
  let w := newWin v o.win
  if w = seqWin v then .ok (s1.setKv k { o with seg := 1 })
  else if seqGin v (!seqEpoch v) ≠ 0 then .ok s
  else .ok ((s1.seqWrite b (putBits (putBits v 63 32 w) 225 225 (if seqEpoch v then 0 else 1))).setKv k { o with seg := 1 })
def State.applyTrim (s : State) (k : Nat) (b : KvBind) (o : KvOp) : Except KErr State := do
  let (v, _, s1) ← s.seqEntry b []
  if seqGin v (!seqEpoch v) ≠ 0 then .ok s
  else
    let s2 ← s1.trimAll b (seqWin v)
    .ok (s2.setKv k { o with seg := 1 })
def isWin : Instr → Bool | .kvwin .. => true | _ => false
def isTrim : Instr → Bool | .kvtrim .. => true | _ => false
def State.winStep (s : State) (p : Instr → Bool) (act : State → Nat → KvBind → KvOp → Except KErr State) : Out :=
  let k := s.ev.unit
  match s.liveKv k s.ev.item with
  | none => .next s
  | some o => match s.kvBind o.troop o.handle with
    | none => .next s
    | some b => if o.running && p o.sub && o.seg == 0 && o.after.all (fun i => !(s.storesOf k).contains i) then s.kvDone k b o (act s k b o) else .next s
def execKvwinApply (s : State) : Out := s.winStep isWin State.applyWin
def execKvtrimFree (s : State) : Out := s.winStep isTrim State.applyTrim

/-! ## Retirement (R240, R243, R244) -/

/-- An append publishes and is credited; the op as it retires. -/
def State.publish (s : State) (b : KvBind) (o : KvOp) : KvOp × State :=
  if !isAppend o.sub || o.fault.isSome then (o, s)
  else
    let v := s.seqNat b
    let s1 := if kvPub o.sub then s.seqWrite b (putBits v 31 0 (o.count + o.n)) else s
    match s1.creditBuoy o.troop o.obj 1 (b.heads * 2 * o.n * b.row) false false true with
    | .ok s2 => (o, s2)
    | .error (.ecc a) => ({ o with fault := some (causeEcc, kvEngTval o, BitVec.ofNat 64 a) }, s1)
    | .error _ => ({ o with fault := some (causeSpmAccess, kvEngTval o, BitVec.ofNat 64 o.obj) }, s1)
/-- A gather leaves its `gin`. -/
def State.ungather (s : State) (b : KvBind) (o : KvOp) : State :=
  if !o.counted then s
  else if b.pkg = s.pkg.toNat then
    let v := s.seqNat b
    s.seqWrite b (seqSetGin v o.epoch (seqGin v o.epoch - 1))
  else s.remoteGin b o.epoch false
/-- Its end writes the entry of its sequence. -/
def KvOp.touchesEntry (o : KvOp) : Bool := o.counted || (kvPub o.sub && o.fault.isNone)
def State.retireKv (s : State) (k : Nat) (b : KvBind) (o : KvOp) : State :=
  let p := (if o.fault.isSome then s.kvObjects b o else s).publish b o
  let s1 := (p.2.ungather b o).delKv k o.id
  s1.retireEng k o.troop o.strand o.opid o.tok (if o.hasObj then some (o.objRing, o.obj) else none) o.slot p.1.fault 0 (!isGatherKv o.sub)
def execKvOpRetire (s : State) : Out :=
  let k := s.ev.unit
  .next (match s.liveKv k s.ev.item with
    | none => s
    | some o => match s.kvBind o.troop o.handle with
      | none => s
      | some b => if o.active && (o.fault.isSome || (o.susp.isNone && (o.read || !(isAppend o.sub || isGatherKv o.sub)) && o.seg == kvSegs b o))
          && !(o.touchesEntry && s.kheld b.pkg b.entry 32) then s.retireKv k b o else s)

end Sys2Proof.Machine
end

