-- ==== Sys2Proof/Machine/MemSys.lean ====
section
/-! DEFINITION. MemSys.lean: the memory system's own steps: requests at their point and their return, windows and pins,
HBM4 and temperature, walks and their faults (spec/10_memories.md R206-R219, R223-R226; spec/15_tables.md R333-R340;
spec/14_queues.md R304; spec/18_outside.md R392-R394, R408). -/

namespace Sys2Proof.Machine

/-- Parked strands try their instruction again, before anything else moves (log 1). -/
def State.queueWakes (s : State) (xs : List Nat) : State := { s with agenda := s.agenda ++ (sortBy s.stampKey xs).map .wake }

/-! ## A request at its point (R209, R219, R223) -/

def State.setReq (s : State) (k : Nat) (r : Req) : State :=
  s.modCore k (fun c => { c with reqs := c.reqs.map (fun q => if q.id = r.id then r else q) })
/-- Its location is within the package. -/
def Req.local (r : Req) : Bool :=
  match r.tgt with
  | .remote _ => false
  | .dev | .host _ | .spm _ => true
def Req.stream (r : Req) : Bool := r.pol == .stream || r.nocache
/-- Op code of Table 9. -/
def atomCode : AtomOp → Nat
  | .add => 0 | .minS => 1 | .maxS => 2 | .minU => 3 | .maxU => 4 | .and => 5 | .or => 6 | .xor => 7 | .exch => 8 | .fadd => 9
def orderCode : MemOrd → Nat | .relaxed => 0 | .acq => 1 | .rel => 2 | .ar => 3
def atomPort : Nat := 0x100000030000
/-- The record of R394 Table 19. -/
def State.atomRecord (s : State) (k : Nat) (r : Req) (op : AtomOp) (sz : Nat) : List Byte :=
  leBytes 8 r.addr ++ padTo 8 r.data ++ leBytes 1 (atomCode op) ++ leBytes 1 (if sz = 8 then 3 else 2) ++ leBytes 1 (orderCode r.order)
    ++ leBytes 1 0 ++ leBytes 4 (s.pkg.toNat + 256 * dieOfCore k + 2048 * (k % 64)) ++ leBytes 8 r.tag
/-- A request beyond the package as UALink carries it: a write of the bytes of a store, a read of the line, an atomic with
its operation, size, order and operands, or the record of the atomic port for `fadd`, whose tag no other request of the core
has (R391, R393, R394). -/
def State.uaReq (s : State) (k : Nat) (r : Req) (pkg port : Nat) : UaMsg :=
  let atomic (code sz : Nat) (bs : List Byte) : UaMsg :=
    { id := r.id, kind := 3, pkg := pkg, addr := r.addr, data := bs, port := port, op := some (code, if sz = 8 then 3 else 2, orderCode r.order) }
  match r.kind with
  | .atom .fadd sz =>
    { id := r.id, kind := 3, pkg := pkg, addr := atomPort, data := s.atomRecord k r .fadd sz, tag := BitVec.ofNat 64 r.tag, port := port }
  | .atom op sz => atomic (atomCode op) sz r.data
  | .cas sz => atomic 10 sz (padTo sz r.data ++ padTo sz r.cmp)
  | .store => uaWrite r.id pkg port r.addr r.data
  | .enq _ | .deq _ => { id := r.id, kind := 3, pkg := pkg, addr := r.addr, data := r.data, port := port }
  | .load _ _ _ _ | .flush _ | .prefetch _ | .fetch => { id := r.id, kind := 5, pkg := pkg, addr := lineOf r.addr, data := [], port := port, len := 128 }
/-- A request beyond the package leaves by its port, once its core's requests on a failed one are over; with no path left
it ends (R366, R392). -/
def State.sendRemote (s : State) (k : Nat) (r : Req) (pkg : Nat) : State :=
  if s.pairHeld k 0 pkg then s
  else if s.routeOk pkg then
    let port := s.portFor k 0 pkg
    let id := s.newId
    let q := { r with tag := id.1 }
    { id.2 with uaOut := s.uaOut ++ [s.uaReq k q pkg port] }.setReq k { q with sent := true, via := pkg, port := port }
  else s.setReq k { r with done := true, err := some (causeLinklost, 0) }

/-- A read-modify-write at its point. -/
def State.rmwReq (s : State) (k : Nat) (r : Req) (sz : Nat) : State :=
  match s.targetErr r.tgt r.addr sz with
  | some _ => (s.taccess r.tgt r.addr sz r.stream false).setReq k { r with done := true, err := some (causeEcc, 0) }
  | none =>
    let bs := s.tread r.tgt r.addr sz
    let s1 := match rmwNew r.kind r.data r.cmp (leNat bs) with
      | some v => s.twrite r.tgt r.addr (leBytes sz v) r.stream
      | none => s.taccess r.tgt r.addr sz r.stream false
    s1.setReq k { r with done := true, val := bs }
/-- An entry of a task queue that stands in another package is read or written there first, and its action then performed
if the header still is what it was; requests for the header's line wait for it (log 17). -/
def State.tqRemote (s : State) (k : Nat) (r : Req) (enq : Bool) (pkg a : Nat) : State :=
  if s.pairHeld k 0 pkg then s
  else if s.routeOk pkg then
    let port := s.portFor k 0 pkg
    let m : UaMsg := if enq then uaWrite r.id pkg port a r.data else { id := r.id, kind := 5, pkg := pkg, addr := a / 64 * 64, data := [], port := port, len := 64, first := a % 64 }
    { s with uaOut := s.uaOut ++ [m] }.setReq k { r with sent := true, via := pkg, port := port, val := s.tread r.tgt r.addr 16 }
  else s.setReq k { r with done := true, err := some (causeLinklost, 0) }
/-- The translation of an entry of a task queue that its strand's instruction has at hand. -/
def State.tqXlate (s : State) (k : Nat) (r : Req) (off : Nat) : Option Tlb :=
  let va := BitVec.ofNat 64 (r.va + off)
  (s.tlbHit k (s.asidOf (troopOf r.strand)) va (needR + needW)).or
    ((s.strand r.strand).xl.find? (fun t => t.covers (s.asidOf (troopOf r.strand)) (va57 va) && t.grants (needR + needW)))
/-- Where an entry stands, at an offset from its header: in the header's scratchpad, or by its translation; else what the action
ends with. -/
def State.tqEntry (s : State) (k : Nat) (r : Req) (off n : Nat) : Except (Nat × Nat) (Target × Nat × Bool) :=
  match r.tgt with
  | .spm q => if s.spmIn q (r.addr + off) n then .ok (.spm q, r.addr + off, false) else .error (causeSpmAccess, off)
  | .dev | .host _ | .remote _ => match s.tqXlate k r off with
    | none => .error (0, off)
    | some t => .ok (t.target, t.addr (BitVec.ofNat 64 (r.va + off)), t.nocache)
/-- The range scoreboard holds an access of a request at its bank (R284). -/
def State.bankHolds (s : State) (r : Req) (t : Target) (a n : Nat) : Bool :=
  match t with
  | .spm q => s.bankBlocked q a n r.writes (troopOf (realX r.strand) == q) r.id
  | .dev | .host _ | .remote _ => false
/-- The access waits, and is counted once (R355). -/
def State.bankWait (s : State) (k : Nat) (r : Req) : State :=
  if r.held then s else (s.perf k 6 (troopOf (realX r.strand)) 1).setReq k { r with held := true }
/-- A task-queue action at its header's slice or bank, whole or not at all (R304). -/
def State.tqReq (s : State) (k : Nat) (r : Req) (enq : Bool) (esz : Nat) : State :=
  let n := 2 ^ (esz + 2)
  let v := leNat (s.tread r.tgt r.addr 16)
  let q := tqOf v
  let off := q.entry (if enq then q.tail else q.head)
  let s0 := s.taccess r.tgt r.addr 16 r.stream false
  let bad (c : Nat × Nat) : State := s0.setReq k { r with done := true, err := some c }
  match s.targetErr r.tgt r.addr 16 with
  | some _ => bad (causeEcc, 0)
  | none =>
    if !tqValid v || q.esize != esz then bad (causeIllegalOperand, 2)
    else if if enq then q.full else q.empty then s0.setReq k { r with done := true, ok := false }
    else match s.tqEntry k r off n with
      | .error e => bad e
      | .ok (.remote pkg, a, _) => s.tqRemote k r enq pkg a
      | .ok (tg, a, stream) =>
        if s.bankHolds r tg a n then s.bankWait k r
        else match if enq then none else s.targetErr tg a n with
        | some _ => (s0.taccess tg a n stream false).setReq k { r with done := true, err := some (causeEcc, off) }
        | none =>
          let bs := s.tread tg a n
          let s1 := s.twrite r.tgt r.addr (leBytes 16 (tqNext v enq)) r.stream
          let s2 := if enq then s1.twrite tg a r.data stream else s1.taccess tg a n stream false
          s2.setReq k { r with done := true, val := bs, lines := [(lineKey tg a, 1)] }
/-- What the answer to an action on a header of another package brings: the header as the action found it there, and the
entry taken. From it follow the outcome and the faults (R304; log 17). -/
def State.tqAway (s : State) (k : Nat) (r : Req) (enq : Bool) (esz : Nat) : Req :=
  let v := leNat (padTo 16 (s.ev.data.take 16))
  let q := tqOf v
  let off := q.entry (if enq then q.tail else q.head)
  if !tqValid v || q.esize != esz then { r with done := true, err := some (causeIllegalOperand, 2) }
  else if if enq then q.full else q.empty then { r with done := true, ok := false }
  else match s.tqXlate k r off with
    | none => { r with done := true, err := some (0, off) }
    | some t => { r with done := true, ok := true, val := padTo (2 ^ (esz + 2)) (s.ev.data.drop 16), lines := [(lineKey t.target (t.addr (BitVec.ofNat 64 (r.va + off))), 1)] }
/-- A request whose answer comes from another package, with what that says. -/
def State.answered (s : State) (k : Nat) (r : Req) : Req :=
  match r.kind with
  | .enq esz => if r.done || r.local || s.ev.err.isSome then r else s.tqAway k r true esz
  | .deq esz => if r.done || r.local || s.ev.err.isSome then r else s.tqAway k r false esz
  | _ => r
/-- The action whose entry another package has read or written (R304). -/
def State.tqFinish (s : State) (r : Req) : State :=
  s.twrite r.tgt r.addr (leBytes 16 (tqNext (leNat (s.tread r.tgt r.addr 16)) (match r.kind with | .enq _ => true | _ => false))) r.stream
/-- A read of a line. -/
def State.readReq (s : State) (k : Nat) (r : Req) (pf : Bool) : State :=
  let l := lineOf r.addr
  let s1 := match r.tgt with
    | .dev => s.touch l 128 r.stream pf
    | .spm q => s.chanTouch q r.addr r.size
    | .host _ | .remote _ => s
  let err := match r.kind with
    | .prefetch _ => none
    | _ => (s.targetErr r.tgt r.addr r.size).map (fun _ => (causeEcc, 0))
  s1.setReq k { r with done := true, val := s.tread r.tgt l 128, err := err,
                       fill := r.fill && (s.targetErr r.tgt l 128).isNone }
/-- R225: a dirty line is written back and leaves its slice. -/
def State.flushLine (s : State) (l : Nat) : State :=
  match sfind (s.slice (sliceOf l)).lines l with
  | some v => if v.dirty then s.dropLine l else s
  | none => s
def State.flushReq (s : State) (k : Nat) (r : Req) : State :=
  (r.lines.foldl (fun s p => (List.range p.2).foldl (fun s i => s.flushLine (p.1 + i)) s) s).setReq k { r with done := true }
/-- A load: one of 128 bits reads a half, in an order that is a free choice, before it reads the line (R270). -/
def State.loadReq (s : State) (k : Nat) (r : Req) (sz : Nat) : State :=
  if sz ≠ 16 ∨ r.half.isSome then s.readReq k r false
  else
    let hi := s.free.1.getLsbD 0
    s.free.2.setReq k { r with half := some (hi, half16 hi (s.tread r.tgt r.addr 16)) }
/-- A store: one of 128 bits is performed in halves, in an order that is a free choice (R270). -/
def State.storeReq (s : State) (k : Nat) (r : Req) : State :=
  if r.data.length ≠ 16 then (s.twrite r.tgt r.addr r.data r.stream).setReq k { r with done := true }
  else
    let hi := s.free.1.getLsbD 0
    let at_ (h : Bool) : Nat := r.addr + (if h then 8 else 0)
    (s.free.2.twrite r.tgt (at_ hi) (half16 hi r.data) r.stream).setReq k { r with addr := at_ (!hi), data := half16 (!hi) r.data }
/-- An access to a scratchpad is checked at its bank and waits there (R203, R284). Where no troop of its launch stands there now, a
strand that waits for its answer has the fault; a store or load whose strand has gone on waits for a saved troop, and
otherwise ends (log 13). -/
def State.bankReq (s : State) (k : Nat) (r : Req) (q : Nat) : State :=
  let gone := (sfind s.troops q).isNone || (s.troop q).lid != (s.troop (troopOf (realX r.strand))).lid
  let waits := !r.late && !reqIsStore r
  if gone || (waits && (s.troop q).res != .resident) then
    s.setReq k { r with done := true, err := if reqIsStore r then none else some (causeSpmAccess, 0) }
  else if (s.troop q).res != .resident then s
  else if s.bankHolds r r.tgt r.addr r.size then s.bankWait k r
  else match r.kind with
    | .store => s.storeReq k r
    | .load sz _ _ _ => s.loadReq k r sz
    | .atom _ sz | .cas sz => s.rmwReq k r sz
    | .enq esz => s.tqReq k r true esz
    | .deq esz => s.tqReq k r false esz
    | .fetch | .prefetch _ | .flush _ => s
/-- A request at its point. One that waits for another package ends when its last route is gone (R366). -/
def State.performReq (s : State) (k : Nat) (r : Req) : State :=
  if r.sent then (if s.routeOk r.via then s else s.setReq k { r with done := true, err := some (causeLinklost, 0) })
  else match r.tgt with
  | .remote pkg => s.sendRemote k r pkg
  | .spm q => s.bankReq k r q
  | .dev | .host _ =>
    match r.kind with
    | .load sz _ _ _ => s.loadReq k r sz
    | .fetch => s.readReq k r false
    | .prefetch pol => s.readReq k r (pol == .nl1)
    | .store => s.storeReq k r
    | .atom _ sz | .cas sz => s.rmwReq k r sz
    | .enq esz => s.tqReq k r true esz
    | .deq esz => s.tqReq k r false esz
    | .flush _ => s.flushReq k r
/-- A request for memory at an address with no behaviour (R390); a flush names its lines one by one (R225). -/
def reqReserved (r : Req) : Bool :=
  match r.kind with
  | .flush _ => false
  | .load _ _ _ _ | .fetch | .prefetch _ | .store | .atom _ _ | .cas _ | .enq _ | .deq _ => targetReserved r.tgt r.addr r.size
/-- A request at its point, and the packet of its answer when it is done there. -/
def State.serveReq (s : State) (k : Nat) (r : Req) : State :=
  let t := s.performReq k r
  match t.findReq k r.id with
  | some q => if q.done && !r.sent then t.reqPost k q true else t
  | none => t
/-- Request `item` of core `unit` is at its slice or endpoint. -/
def execSliceRequest (s : State) : Out :=
  let k := s.ev.unit
  match s.findReq k s.ev.item with
  | none => .next s
  | some r =>
    if r.done || s.reqOnLoop k r.id false || s.reqBehind k r || s.tqBehind r || s.lineHeld k r || s.turnHeld r || s.still k then .next s
    else if reqReserved r then .fault .reservedPhysical
    else .next ((s.noteClass r).serveReq k r)

/-! ## Returns (R219, R207) -/

/-- The request is over, for its strand's LD count too when it counts there (R219). -/
def State.endLoad (s : State) (k : Nat) (r : Req) : State :=
  if r.cluster then s.delReq k r.id else (s.delReq k r.id).decCls (crewOf r.strand) .ld
/-- The answer's bytes: what the point held, or what another package sent (`data`). -/
def State.answer (s : State) (r : Req) : List Byte := if r.done then r.val else padTo 128 s.ev.data
/-- The fault an answer carries: of its own point, or R393's error from another package. -/
def State.answerErr (s : State) (r : Req) : Option (Nat × Nat) :=
  match r.err with
  | some e => some e
  | none => if r.done then none else s.ev.err.map (fun _ => (causePageFault, 5))
/-- A fault of a returning access is raised at its instruction. -/
def State.returnFault (s : State) (r : Req) (e : Nat × Nat) : State :=
  let a := BitVec.ofNat 64 r.va
  if e.1 = causeEcc then
    let b := BitVec.ofNat 64 (r.va + e.2)
    s.trapLen r.len { code := causeEcc, tval := b.extractLsb' 0 32, taddr := b }
  else if e.1 = causeLinklost then s.trapLen r.len (linklost a)
  else if e.1 = causeSpmAccess then s.trapLen r.len (spmFault (r.va + e.2))
  else if e.1 = causeIllegalOperand then s.trapLen r.len { code := causeIllegalOperand, tval := w32 e.2 }
  else s.trapLen r.len (pageFault a e.2)
/-- The entry of a task queue whose page was not at hand is translated, and the action begins again (R304). -/
def State.entryWalk (s : State) (r : Req) (off : Nat) : State :=
  match s.xlate (BitVec.ofNat 64 (r.va + off)) (needR + needW) with
  | .fault t => s.trapLen r.len t
  | .wait s1 => s1
  | .at_ _ => s.toEligible s.x
/-- A load's line enters the L1. -/
def State.loadFill (s : State) (k : Nat) (r : Req) (pol : Policy) (line : List Byte) : State :=
  if r.fill && pol != .nl1 then s.fillL1 k (lineKey r.tgt r.addr) (lineOfBytes line) (pol == .stream) else s
/-- A global task-queue action invalidates the lines of its header and its entry in the L1 (R304). -/
def State.tqInv (s : State) (k : Nat) (r : Req) : State :=
  r.lines.foldl (fun s p => s.invLine k p.1) (s.invLine k (lineKey r.tgt r.addr))
/-- What the answer gives its strand. -/
def State.deliverAns (s : State) (k : Nat) (r : Req) (bs : List Byte) : State :=
  let d := r.dsts.headD 0
  match r.kind with
  | .load sz sx pol acq =>
    (if acq then s else s.loadFill k r pol bs).loaded r.len d (loadWords sz sx (patch16 r.half ((bs.drop (r.addr % 128)).take sz))) acq
  | .atom _ sz | .cas sz =>
    (s.invLine k (lineKey r.tgt r.addr)).loaded r.len d (wordsOf (bs.take sz)) (ordAcq r.order && scopeWide (some r.scope))
  | .enq _ => ((s.tqInv k r).wrP (BitVec.ofNat 3 r.pdst) r.ok).finish r.len
  | .deq esz =>
    let s1 := (s.tqInv k r).wrP (BitVec.ofNat 3 r.pdst) r.ok
    if r.ok then s1.loaded r.len d (wordsOf (bs.take (2 ^ (esz + 2)))) true else s1.finish r.len
  | .store | .flush _ | .prefetch _ | .fetch => s
/-- A strand's own request is answered. A task-queue action whose entry stands in another package takes effect if its
header is still what it was, and is performed again otherwise (R304). -/
def State.returnLoad (s : State) (k : Nat) (r0 : Req) : State :=
  let r := s.answered k r0
  let own := !r.done && r.local
  let ok := if r.done then r.ok else own || s.ev.flag
  let err := s.answerErr r
  let bs := s.answer r
  let s1 := (if own && err.isNone then s.tqFinish r else s).endLoad k r
  if own && err.isNone && s.tread r.tgt r.addr 16 != r.val then s.setReq k { r with sent := false, val := [] }
  else if !s.alive r.strand then s1
  else
    let s2 := { s1 with cur := { strand := r.strand, word0 := 0, mop := r.mop } }
    match err with
    | some (0, off) => s2.entryWalk r off
    | some e => s2.returnFault r e
    | none => s2.deliverAns k { r with ok := ok } bs
/-- A load returns whose strand has gone on: its words go to their registers. With a fault that arose after its issue they
are in error (log 21). -/
def State.returnLate (s : State) (k : Nat) (r : Req) (sz : Nat) (sx : Bool) : State :=
  let s1 := s.delReq k r.id
  if !s.alive r.strand then s1
  else match r.err with
    | some _ => s1.modStrand r.strand (fun t => { t with pend := r.dsts.foldl clrBit t.pend, bad := r.dsts.foldl setBit t.bad })
    | none => s1.wrListX r.strand (r.dsts.headD 0) (loadWords sz sx (patch16 r.half ((r.val.drop (r.addr % 128)).take sz)))
/-- A fault of a fetch (R66): `len` is the frame code, when word 0 was fetched; otherwise it is not stated (R360; log 3). -/
def State.fetchTrap (s : State) (len : BitVec 2) (t : Trap) : State :=
  if t.nofetch then
    let fv := s.free
    { fv.2 with cur := { strand := s.x } }.trapLen (fv.1.extractLsb' 0 2) t
  else s.trapLen len t
/-- A fetched line goes to the strand that waits for it, which fetches again; it enters no L1 (R66, R199). -/
def State.returnFetch (s : State) (k : Nat) (r : Req) : State :=
  let s1 := s.delReq k r.id
  let t := s.strand r.strand
  let waits := t.life == .parked && t.wait == .request r.id
  let a := BitVec.ofNat 64 r.va
  match s.answerErr r with
  | none =>
    let line := lineOfBytes (s.answer r)
    if waits then
      let old := match t.fetched with
        | some (pc, ls) => if pc = t.pc then ls else []
        | none => []
      (s1.modStrand r.strand (fun v => { v with fetched := some (v.pc, sput old (lineKey r.tgt r.addr) line) })).toEligible r.strand
    else s1
  | some e =>
    let f : Trap := if e.1 = causeEcc then { code := causeEcc, tval := a.extractLsb' 0 32, taddr := a }
      else if e.1 = causeLinklost then { code := causeLinklost, tval := a.extractLsb' 0 32, taddr := a } else pageFault a e.2
    if waits then ({ s1 with cur := { strand := r.strand } }).fetchTrap r.len { f with nofetch := a == t.pc } else s1
def execLoadDataReturn (s : State) : Out :=
  let k := s.ev.unit
  .next (match s.findReq k s.ev.item with
    | none => s
    | some r =>
      if !(r.done || r.sent) || s.reqOnLoop k r.id true || s.still k then s
      else match r.kind with
        | .store | .flush _ => s
        | .prefetch pol => if (s.answerErr r).isSome then s.delReq k r.id else (s.loadFill k r pol (s.answer r)).delReq k r.id
        | .fetch => s.returnFetch k r
        | .load sz sx _ _ => if r.late then s.returnLate k r sz sx else s.returnLoad k r
        | .atom _ _ | .cas _ | .enq _ | .deq _ => s.returnLoad k r)
/-- The point of store or `cflush` `item` of core `unit`, or of an engine's write to another package, acknowledges it; a
dropped store leaves its record. -/
def execStoreAck (s : State) : Out :=
  let k := s.ev.unit
  .next (match s.findReq k s.ev.item with
    | none => if s.still k then s else s.engAck k s.ev.item
    | some r =>
      if !(r.done || r.sent) || !reqIsStore r || s.reqOnLoop k r.id true || s.still k then s
      else
        let s1 := if r.cluster then s.delReq k r.id else (s.delReq k r.id).decCls (crewOf r.strand) .st
        if (s.answerErr r).isSome then s1.dropStore r.strand r.va else s1)

/-! ## Windows and pins (R212-R215, R226, R340) -/

def execFilterWindowEnd (s : State) : Out :=
  let n := s.ev.unit
  .next (if 2 ^ (s.slice n).filtwin ≤ (s.slice n).misses then s.modSlice n (fun q => { q with filter := [], misses := 0 }) else s)
/-- The oldest merge window of slice `unit` ends. -/
def execMergeWindowEnd (s : State) : Out :=
  let n := s.ev.unit
  .next (if (s.slice n).merging.isEmpty then s else s.modSlice n (fun q => { q with merging := q.merging.drop 1 }))

/-- A pin ends: its lines are ordinary lines. -/
def State.endPin (s : State) (i : Nat) : State :=
  match sfind s.pins i with
  | none => s
  | some p =>
    let plain (l : Nat × SliceLine) : Nat × SliceLine := if p.pages.contains (l.1 / 32) then (l.1, { l.2 with pinned := false }) else l
    let clear (e : Nat × Slice) : Nat × Slice := (e.1, { e.2 with lines := e.2.lines.map plain })
    { s with pins := sdel s.pins i, slices := s.slices.map clear }
def State.funcOf (s : State) (asid : Nat) : Nat := bits (sget s.spaces 0 asid).toNat 126 122
/-- DESIGN CHOICE: a function's quota before `pin_quota` sets it (log 5). -/
def quotaDefault : Nat := 64
/-- R226: whether the pin is made, and the table after it. -/
def State.makePin (s : State) (r : PinReq) : Bool × State :=
  let f := s.funcOf r.asid
  let used := s.pins.countP (fun p => p.2.func == f)
  let isOver := s.pins.any (fun p => p.2.live && p.2.pages.any (r.pages.contains ·))
  match (List.range 64).find? (fun i => (sfind s.pins i).isNone) with
  | none => (false, s)
  | some i =>
    if isOver || decide (sget s.quotas quotaDefault f ≤ used) then (false, s)
    else
      let p : Pin := { func := f, asid := r.asid, counter := r.fade, unit := r.unit, fade := r.fade, units := r.units, vbase := r.va, pages := r.pages }
      (true, { s with pins := sput s.pins i p })
def State.dropPin (s : State) (r : PinReq) : Bool × State :=
  match s.pins.find? (fun p => p.2.live && p.2.asid == r.asid && decide (p.2.vbase ≤ r.va) && decide (r.va < p.2.vbase + 65536 * p.2.units)) with
  | none => (false, s)
  | some p => (true, s.endPin p.1)
/-- The answer to a request reaches its strand; one that is saved is then held as Eligible past its instruction. -/
def State.pinAnswer (s : State) (r : PinReq) (ok : Bool) : State :=
  if !s.alive r.strand then s
  else
    let s1 := { s with cur := { strand := r.strand } }.wrP (BitVec.ofNat 3 r.pdst) ok
    if (s.strand r.strand).life = .saved then
      ((s1.advance r.len).retire).modMe (fun t => { t with held := .eligible, wait := .none })
    else s1.finish r.len
/-- The oldest request at the pin table is served. -/
def execPinRequestServe (s : State) : Out :=
  .next (match s.pinReqs with
    | [] => s
    | r :: rest =>
      if s.still (coreOf r.strand) then s
      else
        let q := if r.release then s.dropPin r else s.makePin r
        { q.2 with pinReqs := rest }.pinAnswer r q.1)
/-- R215: the fade of pin `item` has run out. -/
def execPinFadeExpiry (s : State) : Out :=
  .next (match sfind s.pins s.ev.item with
    | none => s
    | some p => if p.fade ≠ 0 ∧ p.counter = 0 then (s.endPin s.ev.item).mevEvent 6 p.func 0 s.ev.item else s)

/-! ## HBM4 and temperature (R216, R217, R408) -/

def State.modStack (s : State) (n : Nat) (f : Stack → Stack) : State := { s with hbmStacks := sput s.hbmStacks n (f (sget s.hbmStacks {} n)) }
/-- A request that waits for memory will hit row `row` of bank `b` of stack `n`. -/
def State.rowQueued (s : State) (n b row : Nat) : Bool :=
  s.cores.any (fun c => c.2.reqs.any (fun r => r.tgt == .dev && !r.done && !r.sent && decide (r.addr < hbmTop) && r.addr / 128 % 12 == n
    && Config.hbmBank (r.addr / 128 * 128) == b && Config.hbmRow (r.addr / 128 * 128) == row
    && (sfind (s.slice (sliceOf (r.addr / 128))).lines (r.addr / 128)).isNone))
/-- The idle timer of bank `item` of stack `unit` has run out: the bank is precharged, unless a request that hits the open row
is queued. -/
def execPageIdleTimer (s : State) : Out :=
  let v := sget s.hbmStacks {} s.ev.unit
  .next (match sfind v.open_ s.ev.item with
    | none => s
    | some row =>
      if 0 < sget v.timers 0 s.ev.item || s.rowQueued s.ev.unit s.ev.item row then s
      else s.modStack s.ev.unit (fun v => { v with open_ := sdel v.open_ s.ev.item, timers := sdel v.timers s.ev.item }))
def execHbmRefresh (s : State) : Out :=
  .next (if s.ev.unit < 12 then s.modStack s.ev.unit (fun v => { v with open_ := [], timers := [] }) else s)

/-- R389: a record for the event ring of a function, and vector 1. -/
def State.evRecord (s : State) (f : Nat) (rec_ : List Byte) : State :=
  match sfind s.evrings f with
  | none => s
  | some r =>
    if r.size = 0 then s
    else
      let a := r.base + 64 + 16 * (r.index % r.size)
      let m1 := mwrite s.hostMem a rec_
      let m2 := mwrite m1 r.base (leBytes 4 ((r.index + 1) % 2 ^ 32))
      { s with hostMem := m2, evrings := sput s.evrings f { r with index := (r.index + 1) % 2 ^ 32 } }.signal f 1
def evBytes (kind info source value : Nat) : List Byte := leBytes 1 kind ++ leBytes 1 info ++ leBytes 6 source ++ leBytes 8 value
/-- The same record to every function that has a ring. -/
def State.evAll (s : State) (kind info source value : Nat) : State :=
  (s.evrings.map (·.1)).foldl (fun s f => s.evRecord f (evBytes kind info source value)) s

/-- `TEMPMAX`: freezes since reset, saturating, and the hottest sensor. -/
def State.freezes (s : State) : Nat := s.tempmax.toNat / 256
def State.freezeUp (s : State) : State := { s with tempmax := w32 (min (2 ^ 24 - 1) (s.freezes + 1) * 256 + s.tempmax.toNat % 256) }
/-- R217: a stack's critical temperature: self-refresh, and every context of the package stands still. -/
def State.stackCritical (s : State) (n : Nat) : State :=
  if 12 ≤ n || (sget s.hbmStacks {} n).selfRef then s
  else
    let s1 := (s.modStack n (fun v => { v with selfRef := true, open_ := [], timers := [] })).freezeUp
    ({ s1 with frozen := true }).evAll 2 0 n s1.freezes
/-- The stack is below its resume threshold; the contexts go on when no stack holds them. -/
def State.stackResume (s : State) (n : Nat) : State :=
  if (sget s.hbmStacks {} n).selfRef then
    let s1 := s.modStack n (fun v => { v with selfRef := false })
    if s1.hbmStacks.any (fun e => e.2.selfRef) then s1
    else ({ s1 with frozen := false }).evAll 3 0 n s1.freezes
  else s
/-- R217: stack `unit` signals critical temperature. -/
def execThermalCritical (s : State) : Out :=
  .next (if 12 ≤ s.ev.unit || (sget s.hbmStacks {} s.ev.unit).selfRef then s
    else (s.mevEvent 3 (8 + s.ev.unit) 0 2).stackCritical s.ev.unit)
/-- R217: stack `unit` is below its resume threshold. -/
def execThermalResume (s : State) : Out := .next (s.stackResume s.ev.unit)

/-! ## Walks (R206, R333-R338) -/

/-- R334 Table 13: page sizes by level. -/
def sizeAt (lvl size : Nat) : Bool :=
  match lvl with
  | 0 => decide (size ≤ 3)
  | 1 => size == 4 || size == 5
  | 2 => size == 6
  | _ => false
/-- What a walk ends in. -/
inductive WalkEnd where
  | page (t : Tlb)
  | fault (reason : Nat)
  | reserved
  deriving DecidableEq, Repr
/-- A leaf, or the reason it is refused (R335-R337). -/
def leafOf (asid va need lvl p : Nat) : WalkEnd :=
  let size := bits p 10 8
  let pa := bits p 51 12 * 4096
  let n := pageBytes size
  if bits p 7 6 = 3 ∨ (bits p 63 56 ≠ 0 ∧ bits p 7 6 ≠ 2) then .fault 3
  else if !sizeAt lvl size || pa % n != 0 then .fault 4
  else
    let t : Tlb := { asid := asid, vbase := va / n * n, size := size, pa := pa, tgt := bits p 7 6, pkg := bits p 63 56, nocache := bitOf p 11,
                     r := bitOf p 2, w := bitOf p 3, x := bitOf p 4 }
    if t.grants need then .page t else .fault 5
/-- R336: levels `lvl - 1` down to 0, the table of the first at `t`. -/
def State.walkFrom (s : State) (asid va need : Nat) : Nat → Nat → WalkEnd
  | 0, _ => .fault 3
  | lvl + 1, t =>
    let a := t + 8 * bits va (20 + 9 * lvl) (12 + 9 * lvl)
    if targetReserved .dev a 8 then .reserved
    else
      let p := s.pnat a 8
      if !bitOf p 0 then .fault 2
      else if bits p 55 52 ≠ 0 ∨ bitOf p 5 ∨ (s.errRead none a 8).isSome then .fault 3
      else if bitOf p 1 then leafOf asid va need lvl p
      else if bits p 63 56 ≠ 0 ∨ bits p 11 6 ≠ 0 ∨ bits p 4 2 ≠ 0 then .fault 3
      else s.walkFrom asid va need lvl (bits p 51 12 * 4096)
def State.walk (s : State) (asid page need : Nat) : WalkEnd :=
  let e := (sget s.spaces 0 asid).toNat
  if bitOf e 127 then s.walkFrom asid (page * 4096) need 5 (bits e 51 12 * 4096) else .fault 1

/-- The entries a walk from the table at `t` reads, with their levels. -/
def State.walkPath (s : State) (va : Nat) : Nat → Nat → List (Nat × Nat)
  | 0, _ => []
  | lvl + 1, t =>
    let a := t + 8 * bits va (20 + 9 * lvl) (12 + 9 * lvl)
    if targetReserved .dev a 8 then []
    else
      let p := s.pnat a 8
      let ptr := bitOf p 0 && !bitOf p 1 && bits p 63 52 == 0 && !bitOf p 5 && bits p 11 6 == 0 && bits p 4 2 == 0 && (s.errRead none a 8).isNone
      (lvl, a) :: (if ptr then s.walkPath va lvl (bits p 51 12 * 4096) else [])
/-- What a walk ends in, the entries it reads, the table pointers it follows. -/
structure Walked where
  fin : WalkEnd
  reads : List Nat := []
  ptrs : List WPtr := []
/-- A walk from the table of level `lvl` - 1 at `t`. -/
def State.walked (s : State) (asid va need lvl t : Nat) : Walked :=
  let path := s.walkPath va lvl t
  { fin := s.walkFrom asid va need lvl t, reads := path.map (·.2),
    ptrs := path.dropLast.map (fun e => { asid := asid, lvl := e.1 - 1, pre := va / 2 ^ (12 + 9 * e.1), ptr := bits (s.pnat e.2 8) 51 12 * 4096 }) }
/-- The cached pointer nearest to the leaf. -/
def State.wcacheHit (s : State) (d asid va : Nat) : Option WPtr :=
  leastBy (·.lvl) ((s.die d).wcache.filter (fun w => w.asid == asid && w.pre == va / 2 ^ (21 + 9 * w.lvl)))
/-- R336: a die's walk begins at the cached pointer nearest to the leaf; one that does not end in a page walks again from
the root before its fault is reported. -/
def State.dieWalk (s : State) (d asid page need : Nat) : Walked :=
  let va := page * 4096
  let e := (sget s.spaces 0 asid).toNat
  if !bitOf e 127 then { fin := .fault 1 }
  else
    let full := s.walked asid va need 5 (bits e 51 12 * 4096)
    match s.wcacheHit d asid va with
    | none => full
    | some w =>
      let short := s.walked asid va need (w.lvl + 1) w.ptr
      match short.fin with
      | .page _ => short
      | .fault _ | .reserved => { full with reads := short.reads ++ full.reads }
/-- The pointers a walk followed enter the walk cache, whose 1,024 newest stay (log 7). -/
def addPtrs (l : List WPtr) (ps : List WPtr) : List WPtr :=
  let l1 := l.filter (fun w => !ps.any (fun p => p.asid == w.asid && p.lvl == w.lvl && p.pre == w.pre)) ++ ps
  l1.drop (l1.length - 1024)
/-- Each entry is read at its home slice (R212, R336). -/
def State.walkTouch (s : State) (reads : List Nat) : State := reads.foldl (fun s a => s.touch a 8 false false) s

/-- The newest translations stay: 128 on a core, 8,192 on a die. -/
def addTlb (l : List Tlb) (t : Tlb) (n : Nat) : List Tlb :=
  let l1 := l.filter (fun u => u != t) ++ [t]
  l1.drop (l1.length - n)
/-- A wait for a key, whatever the access needs. -/
def Wait.onKey (w : Wait) (asid page : Nat) : Bool :=
  match w with
  | .key a p _ => a == asid && p == page
  | .none | .fill _ | .result _ | .request _ | .clock _ | .grow | .retry => false
/-- Strands of a core parked on a key. -/
def State.keyWaiters (s : State) (k asid page : Nat) : List Nat :=
  (s.strands.filter (fun e => coreOf e.1 == k && e.2.life == .parked && e.2.wait.onKey asid page)).map (·.1)
/-- An engine op suspended on a key. -/
def EngOp.onKey (o : EngOp) (asid page : Nat) : Bool := o.susp.any (fun v => v.1 == asid && v.2.1 == page)
/-- The key leaves a core's miss table; its engines go on. -/
def State.dropKey (s : State) (k asid page : Nat) : State :=
  let go (o : EngOp) : EngOp := if o.onKey asid page then { o with susp := none } else o
  s.modCore k (fun c =>
    { c with miss := c.miss.filter (fun m => !(m.asid == asid && m.page == page)), sqe := c.sqe.map go, xqe := c.xqe.map go })
/-- A key is completed by a translation, on every core that waits for it: the TLB takes it, and every strand that waits has
it for its instruction, every engine op for its segment. -/
def State.keyDone (s : State) (t : Tlb) (w : Walk) : State :=
  w.cores.foldl (fun s k =>
    let xs := s.keyWaiters k w.asid w.page
    let given (o : EngOp) : EngOp := if o.onKey w.asid w.page then { o with xl := t :: o.xl } else o
    let s1 := (s.modCore k (fun c => { c with tlb := addTlb c.tlb t 128, sqe := c.sqe.map given })).dropKey k w.asid w.page
    (xs.foldl (fun s x => s.modStrand x (fun v => { v with xl := t :: v.xl })) s1).queueWakes xs) s
/-- Every waiting key of the die within a page found is completed (R338). -/
def State.pageFound (s : State) (d : Nat) (t : Tlb) : State :=
  let hit (w : Walk) : Bool := t.covers w.asid (w.page * 4096)
  let v := s.die d
  let done := (v.keys ++ v.walks).filter hit
  let s1 := s.modDie d (fun q => { q with tlb := addTlb q.tlb t 8192, keys := q.keys.filter (fun w => !hit w),
                                          walks := q.walks.filter (fun w => !hit w) })
  done.foldl (fun s w => s.keyDone t w) s1
/-- The oldest key of die `unit` is served by the die TLB, or starts a walk (R338). -/
def execWalkStart (s : State) : Out :=
  let d := s.ev.unit
  .next (match (s.die d).keys with
    | [] => s
    | w :: rest =>
      if s.still (64 * d) then s
      else match (s.die d).tlb.find? (fun t => t.covers w.asid (w.page * 4096) && t.grants w.need) with
        | some t => s.pageFound d t
        | none => if 1024 ≤ (s.die d).walks.length then s
          else s.modDie d (fun q => { q with keys := rest, walks := q.walks ++ [w] }))
/-- Walk `item` of die `unit` completes, or is handed to the dispatch controller (R206). -/
def execWalkComplete (s : State) : Out :=
  let d := s.ev.unit
  match (s.die d).walks[s.ev.item]? with
  | none => .next s
  | some w =>
    if s.still (64 * d) then .next s
    else
      let r := s.dieWalk d w.asid w.page w.need
      let s1 := (s.walkTouch r.reads).modDie d (fun q => { q with wcache := addPtrs q.wcache r.ptrs })
      match r.fin with
      | .reserved => .fault .reservedPhysical
      | .page t => .next (s1.pageFound d t)
      | .fault reason =>
        let g := s1.newTag d
        let f : WalkFault := { tag := g.1, asid := w.asid, page := w.page, need := w.need, reason := reason, cores := w.cores }
        .next ((g.2.modDie d (fun q => { q with walks := q.walks.erase w, wfaults := q.wfaults ++ [f] })).devEvent d 4 s.ev.item g.1 0)

/-! ## The controller's answer to a fault (R206, R248, R365, R399) -/

/-- A refused key: every strand and engine op of a core that waits on it takes the fault (R338, R365). -/
def State.refuseCore (s : State) (f : WalkFault) (k : Nat) : State :=
  let xs := s.keyWaiters k f.asid f.page
  let ops := ((s.core k).sqe.map (fun o => (false, o)) ++ (s.core k).xqe.map (fun o => (true, o))).filter
    (fun o => o.2.onKey f.asid f.page)
  let s1 := s.dropKey k f.asid f.page
  let s2 := xs.foldl (fun s x => s.modStrand x (fun t => { t with refused := some (f.asid, f.page, f.reason) })) s1
  let s3 := ops.foldl (fun s o => s.failOp k o.1 { o.2 with susp := none } causePageFault (engTval o.2) (BitVec.ofNat 64 o.2.suspVa) f.reason) s2
  s3.queueWakes xs
/-- A resolved key is walked again. -/
def State.rewalk (s : State) (d : Nat) (f : WalkFault) : State :=
  s.modDie d (fun q => { q with keys := q.keys ++ [{ asid := f.asid, page := f.page, need := f.need, cores := f.cores }] })
/-- A suspended KV op goes on, or ends with its fault (R248). -/
def KvOp.answered (o : KvOp) (ok : Bool) : KvOp :=
  { o with susp := none, fault := if ok then o.fault else o.fault.or (o.susp.map (fun c => (c.1, c.2, (0 : Dword)))) }
/-- A KV fault is answered, in the queue or in the image of a saved troop, whose op retires after its restore. -/
def State.answerKv (s : State) (k id : Nat) (ok : Bool) : State :=
  match s.findKv k id with
  | some o => s.setKv k (o.answered ok)
  | none => { s with troops := s.troops.map (fun e =>
      (e.1, { e.2 with kimage := e.2.kimage.map (fun o => if o.id = id then o.answered ok else o) })) }
def State.faultResp (s : State) (d tag : Nat) (ok : Bool) : State :=
  match (s.die d).wfaults.find? (fun f => f.tag == tag) with
  | some f =>
    let s1 := s.modDie d (fun q => { q with wfaults := q.wfaults.filter (fun g => g.tag != tag) })
    if ok then s1.rewalk d f else f.cores.foldl (fun s k => s.refuseCore f k) s1
  | none => match (s.die d).kfaults.find? (fun f => f.1 == tag) with
    | none => s
    | some f => (s.modDie d (fun q => { q with kfaults := q.kfaults.filter (fun g => g.1 != tag) })).answerKv f.2.1 f.2.2 ok
/-- `FAULTRESP` of die `unit` is written with `value`. -/
def execFaultrespWrite (s : State) : Out :=
  .next (if 8 ≤ s.ev.unit then s
    else s.winStore s.ev.unit 0x420 (s.faultResp s.ev.unit (bits s.ev.value.toNat 15 0) (s.ev.value.getLsbD 16)))

end Sys2Proof.Machine
end

