-- ==== Sys2Proof/Machine/Fabric.lean ====
section
/-! DEFINITION. Fabric.lean: PUTs at their home, channel entries at their destination, and the traffic of UALink
(spec/07_registers_fabric.md R153-R164; spec/14_queues.md R299-R302; spec/18_outside.md R391-R394). -/

namespace Sys2Proof.Machine

/-! ## PUTs (R156-R161) -/

/-- The crew, or its troop, is being saved or restored. -/
def State.crewSaving (s : State) (c : Nat) : Bool :=
  (s.crew c).saving || (s.troop (troopOfCrew c)).saving || (s.troop (troopOfCrew c)).writing
/-- The target crew is being saved: the home core holds the PUT (R156 Table 7), but for one whose sender is being saved,
whose save waits for the answer (R162; DEDUCED, log 14). -/
def State.putHeld (s : State) (m : PutMsg) : Bool :=
  let c := s.cap (cwCore m.word) (cwEntry m.word)
  c.live && s.crewSaving c.crew && !(m.tag.isNone && s.crewSaving (crewOf m.src))
/-- An earlier PUT of the sender to the core is before it (R161). -/
def State.putBehind (s : State) (m : PutMsg) : Bool :=
  (s.puts.takeWhile (fun q => q.id != m.id)).any (fun q =>
    !s.putAway q && q.src == m.src && q.tag.isSome == m.tag.isSome && cwCore q.word == cwCore m.word)
def answerBytes (tag result : Nat) : List Byte := leBytes 8 tag ++ leBytes 1 result ++ leBytes 7 0
def putAnswerPort : Nat := putBase + 0x8000
/-- The answer to another package's request. -/
def State.uaAnswer (s : State) (pkg addr : Nat) (bs : List Byte) : State :=
  let id := s.newId
  let u : UaMsg := { id := id.1, kind := 4, pkg := pkg, addr := addr, data := bs }
  { id.2 with uaOut := id.2.uaOut ++ [u] }
def State.dropPut (s : State) (id : Nat) : State := { s with puts := s.puts.filter (fun m => m.id != id) }
/-- A PUT is applied and answered. -/
def State.servePut (s : State) (m : PutMsg) : State :=
  let r := s.applyPut m
  let s1 := r.1.dropPut m.id
  match m.tag with
  | some t => s1.uaAnswer (m.src % 256) putAnswerPort (answerBytes t.toNat r.2)
  | none =>
    let a : PutAns := { id := m.id, src := m.src, tok := m.tok, idx := m.idx, reason := r.2 }
    { s1 with putAns := s1.putAns ++ [a] }
/-- A PUT that does not leave the package has come to its home core, and nothing goes before it (R161). -/
def State.putHere (s : State) (m : PutMsg) : Bool :=
  !(m.tag.isNone && s.storesLeft m.after (coreOf m.src)) && !s.onLoop m.id && !s.putBehind m && !s.still (cwCore m.word)
/-- PUT `item` is handled by its home core, or goes to the port of its package, or is refused there being none left. -/
def execPutArrival (s : State) : Out :=
  .next (match s.puts.find? (fun m => m.id == s.ev.item) with
    | none => s
    | some m =>
      if s.putAway m then
        (if m.out || s.still (coreOf m.src) then s
         else if s.routeOk (cwPkg m.word) then s.putOut m
         else (s.dropPut m.id).putEnded m.src m.tok m.idx 5)
      else if !s.putHere m || s.putHeld m then s else s.servePut m)
/-- The answer to PUT `item` reaches its sender's core (R158). -/
def execPutAnswer (s : State) : Out :=
  .next (match s.putAns.find? (fun a => a.id == s.ev.item) with
    | none => s
    | some a =>
      if s.still (coreOf a.src) then s
      else { s with putAns := s.putAns.filter (fun b => b.id != a.id) }.putEnded a.src a.tok a.idx a.reason)

/-- The route entry of a package is valid (R393). -/
def State.routed (s : State) (pkg : Nat) : Bool := (sget s.routes (0, false) pkg).2
def byteAt (bs : List Byte) (i : Nat) : Nat := (bs.getD i 0).toNat
def natAt (bs : List Byte) (i n : Nat) : Nat := leNat ((bs.drop i).take n)
/-- R394 Table 17: the reserved parts of a record. -/
def putRecordOk (bs : List Byte) : Bool :=
  bs.length == 64 && byteAt bs 8 / 32 == 0 && decide (byteAt bs 9 ≤ 3) && natAt bs 10 2 == 0 && natAt bs 20 4 / 2 ^ 17 == 0
    && natAt bs 32 32 == 0
/-- An error answer (R393). -/
def State.uaError (s : State) (pkg addr : Nat) : State :=
  let id := s.newId
  let u : UaMsg := { id := id.1, kind := 6, pkg := pkg, addr := addr, data := [] }
  { id.2 with uaOut := id.2.uaOut ++ [u] }
/-- A PUT record `data` comes from package `unit`. No request of UALink is served before Run (R401). -/
def execUalinkPutRequest (s : State) : Out :=
  let bs := s.ev.data
  let from_ := s.ev.unit
  let w := BitVec.ofNat 64 (natAt bs 0 8)
  let tag := natAt bs 24 8
  .next (if !s.booted then s
    else if !s.routed from_ then s.uaError from_ putBase
    else if !putRecordOk bs then s.uaAnswer from_ putAnswerPort (answerBytes tag 2)
    else if cwPkg w != s.pkg.toNat then s.uaAnswer from_ putAnswerPort (answerBytes tag 5)
    else
      let id := s.newId
      let m : PutMsg := { id := id.1, word := w, idx := byteAt bs 8, lanes := BitVec.ofNat 32 (natAt bs 12 4), val := w32 (natAt bs 16 4),
                          kind := byteAt bs 9, src := natAt bs 20 4, tag := some (BitVec.ofNat 64 tag) }
      { id.2 with puts := id.2.puts ++ [m] })
/-- An answer `data` to a PUT of this package; an error answer (`flag`) is a NAK of reason 5 (R393). -/
def execUalinkPutAnswer (s : State) : Out :=
  let bs := s.ev.data
  .next (match s.puts.find? (fun m => m.out && m.id == natAt bs 0 8) with
    | none => s
    | some m => (s.dropPut m.id).putEnded m.src m.tok m.idx (if s.ev.flag then 5 else byteAt bs 8))

/-! ## Channel entries (R301) -/

def State.setMsg (s : State) (m : ChanMsg) : State := { s with chanMsgs := s.chanMsgs.map (fun q => if q.id = m.id then m else q) }
def sameWay (a b : ChanMsg) : Bool := a.crew == b.crew && a.chan == b.chan && a.pkg == b.pkg && a.troop == b.troop
/-- What a destination does with an entry: the troop that takes it, or refusal, or loss. -/
inductive ChanFate where
  | take (t : Nat)
  | refuse
  | lose
  deriving DecidableEq, Repr
def State.chanFate (s : State) (lid index ch : Nat) : ChanFate :=
  match s.launchAt lid with
  | none => .lose
  | some l =>
    if l.retired.contains index then .lose
    else match s.troops.find? (fun t => t.2.lid == lid && t.2.index == index && t.2.res == .resident) with
      | none => .refuse
      | some t => if (s.chan t.1 ch).occ < chanSlots l ch ∧ !t.2.saving then .take t.1 else .refuse
/-- The entry is written at the tail of the buffer; `far` of a sender beyond the troop's core. -/
def State.appendChan (s : State) (t ch : Nat) (ws : List Word) (far : Bool) : State :=
  let l := s.launchOf t
  let c := s.chan t ch
  let n := chanBytes l ch
  let a := chanBase l (s.spmSize t) ch + (c.head + c.occ) % chanSlots l ch * n
  s.modTroop t (fun v => { v with spm := mwrite v.spm a (bytesOf ws), chans := sput v.chans ch { c with occ := c.occ + 1, far := c.far ++ [far] } })
/-- A counted channel event at the sender's core (R355): 0x0C refused, 0x0D resent, 0x0E lost. -/
def State.chanPerf (s : State) (m : ChanMsg) (e : Nat) : State := s.perf (coreOf m.strand) e (troopOf m.strand) 1
def State.refuseMsg (s : State) (m : ChanMsg) : State :=
  (s.setMsg { m with st := 1, out := none, time := (s.core (coreOf m.strand)).cycle }).chanPerf m 0x0C
/-- Entry `item` reaches a troop of this package, or goes to the port of another. -/
def execChannelEntryArrival (s : State) : Out :=
  .next (match s.chanMsgs.find? (fun m => m.id == s.ev.item) with
    | none => s
    | some m =>
      let earlier := (s.chanMsgs.takeWhile (fun q => q.id != m.id)).filter (fun q => sameWay q m)
      if m.pkg != s.pkg.toNat then (if m.st == 0 && m.out.isNone && !s.still (coreOf m.strand) then s.chanOut m else s)
      else if m.st != 0 || s.storesLeft m.after (coreOf m.strand) || s.onLoop m.id
          || earlier.any (fun q => q.st == 0) || s.still (coreOf m.strand) then s
      else if earlier.any (fun q => q.st == 1) then s.refuseMsg m
      else match s.chanFate m.lid m.troop m.chan with
        | .take t => (s.appendChan t m.chan m.data (coreOf m.strand != coreOfTroop t)).setMsg { m with st := 2 }
        | .refuse => s.refuseMsg m
        | .lose => (s.setMsg { m with st := 3 }).chanPerf m 0x0E)
/-- The acknowledgement of entry `item` frees its place in the window. -/
def execChannelAck (s : State) : Out :=
  .next (match s.chanMsgs.find? (fun m => m.id == s.ev.item) with
    | some m => if 2 ≤ m.st && !s.still (coreOf m.strand) then { s with chanMsgs := s.chanMsgs.filter (fun q => q.id != m.id) } else s
    | none => s)
/-- Entry `item` and the refused entries behind it go out again, 64 * 2^chbk cycles after its refusal. -/
def execChannelResendTimer (s : State) : Out :=
  .next (match s.chanMsgs.find? (fun m => m.id == s.ev.item) with
    | none => s
    | some m =>
      let k := coreOf m.strand
      if m.st != 1 || decide ((s.core k).cycle < m.time + 64 * 2 ^ m.chbk) || s.still k then s
      else
        let again := s.chanMsgs.filter (fun q => sameWay q m && q.st == 1)
        again.foldl (fun s q =>
          let s1 := (s.setMsg { q with st := 0 }).chanPerf q 0x0D
          if q.pkg = s.pkg.toNat then s1 else s1.chanOut { q with st := 0 }) s)

def chanAnswerPort : Nat := chanPort + 0x8000
def chanHeaderOk (bs : List Byte) : Bool :=
  decide (32 ≤ bs.length) && bs.length == 32 + 16 * (byteAt bs 4 + 1) && natAt bs 0 4 / 2 ^ 28 == 0 && natAt bs 5 3 == 0
    && natAt bs 8 4 / 2 ^ 23 == 0 && natAt bs 24 8 == 0
/-- The next sequence number of a sender's entries to a channel of a troop, 0 at first (R394). -/
def State.nextSeq (s : State) (lid troop ch src : Nat) : Nat :=
  ((s.chanNext.find? (fun r => r.1 == lid && r.2.1 == troop && r.2.2.1 == ch && r.2.2.2.1 == src)).map (·.2.2.2.2)).getD 0
def State.setSeq (s : State) (lid troop ch src n : Nat) : State :=
  { s with chanNext := (lid, troop, ch, src, n % 2 ^ 32)
      :: s.chanNext.filter (fun r => !(r.1 == lid && r.2.1 == troop && r.2.2.1 == ch && r.2.2.2.1 == src)) }
/-- An entry `data` comes from package `unit`, for launch `aux` (log 17: the header of R394 names no launch). It is
appended in the order of `seq`, and refused ahead of its turn; an entry with `seq` 0 is the first of its crew, refused or
not, so that the entries behind it are refused with it (R301; log 17). -/
def execUalinkChannelRequest (s : State) : Out :=
  let bs := s.ev.data
  let from_ := s.ev.unit
  let tag := natAt bs 16 8
  let troop := natAt bs 0 4 % 2 ^ 24
  let ch := natAt bs 0 4 / 2 ^ 24
  let src := natAt bs 8 4
  let seq := natAt bs 12 4
  let reply (s : State) (r : Nat) : State := s.uaAnswer from_ chanAnswerPort (answerBytes tag r)
  let s1 := if seq = 0 then s.setSeq s.ev.aux troop ch src 0 else s
  let turn := seq == s1.nextSeq s.ev.aux troop ch src
  let bad := match s.launchAt s.ev.aux with
    | some l => !chanOn l ch || chanBytes l ch + 32 != bs.length
    | none => false
  .next (if !s.booted then s
    else if !s.routed from_ then s.uaError from_ chanPort
    else if !chanHeaderOk bs || bad then reply s 1
    else match s.chanFate s.ev.aux troop ch with
      | .take t => if turn then reply ((s1.setSeq s.ev.aux troop ch src (seq + 1)).appendChan t ch (wordsOf (bs.drop 32)) true) 0 else reply s1 1
      | .refuse => reply s1 1
      | .lose => reply s1 2)
/-- An answer `data` to an entry of this package. -/
def execUalinkChannelAnswer (s : State) : Out :=
  let bs := s.ev.data
  .next (match s.chanMsgs.find? (fun m => m.pkg != s.pkg.toNat && m.id == natAt bs 0 8) with
    | none => s
    | some m =>
      let done := { s with chanMsgs := s.chanMsgs.filter (fun q => q.id != m.id) }
      match byteAt bs 8 with
      | 0 => done
      | 1 => s.refuseMsg m
      | _ => done.chanPerf m 0x0E)

/-! ## Memory and atomics by UALink (R393, R394) -/

/-- An access to any line of a stack in self-refresh waits (R217). -/
def State.stackWaits (s : State) (a n : Nat) : Bool :=
  (linesOf a n).any (fun l => decide (l * 128 < hbmTop) && (sget s.hbmStacks {} (l % 12)).selfRef)
def atomOps : List AtomOp := [.add, .minS, .maxS, .minU, .maxU, .and, .or, .xor, .exch, .fadd]
def rootsBytes (s : State) : List Byte := (List.range 64).flatMap (fun e => leBytes 16 (sget s.spanRoots 0 e).toNat)
/-- An atomic of a request from another package: its new value over the old one. -/
def uaAtomic (code n : Nat) (bs : List Byte) (old : Nat) : Option Nat :=
  if code = 10 then (if old = natAt bs n n then some (natAt bs 0 n) else none)
  else some (atomNew (atomOps.getD code .add) n old (natAt bs 0 n))
/-- An atomic the target performs: an operation of R161 or `cas`, of 4 or 8 bytes, naturally aligned. -/
def uaAtomicOk (opt : Option Nat) (a n : Nat) : Bool :=
  match opt with
  | none => true
  | some code => decide (code ≤ 10 ∧ code ≠ 9) && (n == 4 || n == 8) && a % n == 0
/-- A read of `item` bytes, or a write (`flag`) of `data`, or an atomic of `item` bytes with operation code `opt` (10 is
`cas`) and its operands `data`, at aperture address `value`, from package `unit`. -/
def execUalinkMemoryRequest (s : State) : Out :=
  let from_ := s.ev.unit
  let a := s.ev.value.toNat
  let n := if s.ev.flag then s.ev.data.length else s.ev.item
  if !s.booted then .next s
  else if !s.routed from_ then .next (s.uaError from_ a)
  else if a + n ≤ 2 ^ 44 then
    if targetReserved .dev a n then .fault .reservedPhysical
    else if !s.ev.flag && !uaAtomicOk s.ev.opt a n then .next (s.uaError from_ a)
    else if s.stackWaits a n then .next s
    else if s.ev.flag then .next ((s.pwrite a s.ev.data false).uaAnswer from_ a [])
    else match s.errRead none a n with
      | some _ => .next (s.uaError from_ a)
      | none => match s.ev.opt with
        | none => .next ((s.touch a n false false).uaAnswer from_ a (s.pread a n))
        | some code =>
          let old := s.pread a n
          let s1 := match uaAtomic code n s.ev.data (leNat old) with
            | some v => s.pwrite a (leBytes n v) false
            | none => s.touch a n false false
          .next (s1.uaAnswer from_ a old)
  else if !s.ev.flag && s.ev.opt.isNone && decide (rootsBase ≤ a ∧ a + n ≤ rootsBase + 1024) then
    .next (s.uaAnswer from_ a ((rootsBytes s).drop (a - rootsBase) |>.take n))
  else .next (s.uaError from_ a)
def atomAnswerPort : Nat := atomPort + 0x8000
def atomRecordOk (bs : List Byte) : Bool :=
  bs.length == 32 && decide (byteAt bs 16 ≤ 9) && (byteAt bs 17 == 2 || byteAt bs 17 == 3) && byteAt bs 19 == 0
    && (byteAt bs 17 == 3 || natAt bs 12 4 == 0) && natAt bs 20 4 / 2 ^ 17 == 0
/-- An atomic `data` of R394 Table 19 comes from package `unit`. -/
def execUalinkAtomicRequest (s : State) : Out :=
  let bs := s.ev.data
  let from_ := s.ev.unit
  let a := natAt bs 0 8
  let n := if byteAt bs 17 = 3 then 8 else 4
  let tag := leBytes 8 (natAt bs 24 8)
  let reply (s : State) (old : List Byte) (st : Nat) : State :=
    s.uaAnswer from_ atomAnswerPort (tag ++ padTo 8 old ++ leBytes 1 st ++ leBytes 15 0)
  if !s.booted then .next s
  else if !s.routed from_ then .next (s.uaError from_ atomPort)
  else if !atomRecordOk bs || a % n != 0 then .next (reply s [] 1)
  else if targetReserved .dev a n then .fault .reservedPhysical
  else if s.stackWaits a n then .next s
  else match s.errRead none a n with
    | some _ => .next (reply s [] 1)
    | none =>
      let old := s.pread a n
      let v := atomNew (atomOps.getD (byteAt bs 16) .add) n (leNat old) (natAt bs 8 n)
      .next (reply (s.pwrite a (leBytes n v) false) old 0)
/-- The answer `data` to an atomic that core `unit` sent through the atomic port. -/
def execUalinkAtomicAnswer (s : State) : Out :=
  let bs := s.ev.data
  let k := s.ev.unit
  .next (match (s.core k).reqs.find? (fun r => r.sent && r.tag == natAt bs 0 8) with
    | none => s
    | some r =>
      if r.done then s
      else s.setReq k { r with done := true, val := (bs.drop 8).take 8, err := if byteAt bs 16 = 0 then none else some (causePageFault, 5) })

/-! ## Ports (R391, R392) -/

/-- Port `unit` has no lane left. -/
def execUalinkPortFailure (s : State) : Out :=
  let p := s.ev.unit
  .next (if (sget s.ports {} p).live then
      ({ s with ports := sput s.ports p { sget s.ports {} p with live := false, lanes := 0 } }).mevEvent 4 p 0 p
    else s)
/-- Training of port `unit` ends: `item` lanes of 4, 2 or 1, as many as lane retirement has left it at most, at 320 Gb/s
when the partner offers it (`flag`). -/
def execLinkTraining (s : State) : Out :=
  let p := s.ev.unit
  let n := s.ev.item
  let v := sget s.ports {} p
  .next (if p < 64 ∧ (n = 4 ∨ n = 2 ∨ n = 1) ∧ n ≤ v.width.toNat then
      { s with ports := sput s.ports p { v with live := true, fast := s.ev.flag, lanes := BitVec.ofNat 3 n } }
    else s)

end Sys2Proof.Machine
end

