-- ==== Sys2Proof/Machine/Place.lean ====
section
/-! DEFINITION. Place.lean: a launch from its packet to its completion record: queues, checks, the lottery, placement,
paddock launches, the release of crews and the retirement of troops (spec/02_execution.md R16-R24, R34, R39-R42;
spec/14_queues.md R305, R306, R309-R317; spec/17_traps_context.md R381). -/

namespace Sys2Proof.Machine

/-! ## Memory as a controller reaches it (R310, R333) -/

def State.ctlPieces (s : State) (asid need : Nat) : List (Nat × Nat) → Except VErr (List Piece)
  | [] => .ok []
  | p :: ps =>
    let va := BitVec.ofNat 64 p.1
    if !canonical va then .error (.lost p.1)
    else match s.walk asid (va57 va / 4096) need with
      | .reserved => .error .reserved
      | .fault _ => .error (.lost p.1)
      | .page t =>
        let a := t.addr va
        if targetReserved t.target a p.2 then .error .reserved
        else match s.ctlPieces asid need ps with
          | .error e => .error e
          | .ok r => .ok ({ t := t.target, a := a, n := p.2, va := p.1, nocache := t.nocache } :: r)
/-- Ranges that the controller of a die cannot reach yet (R14, R392, R396). Its traffic is taken to enter the loops with that of
the die's first core (DESIGN CHOICE, log 16). -/
def State.ctlHeld (s : State) (d asid need : Nat) (ws : List (Nat × Nat)) : Bool :=
  ws.any (fun w => match s.ctlPieces asid need (pageParts w.1 w.2) with
    | .ok ps => ps.any (s.pieceHeld (64 * d) clsCtl)
    | .error _ => false)
/-- Bytes of a space; those of another package are what its answer brought (`data`). -/
def State.ctlRead (s : State) (asid va n : Nat) : Except VErr (List Byte × State) :=
  match s.ctlPieces asid needR (pageParts va n) with
  | .error e => .error e
  | .ok ps => match s.readPieces 0 clsCtl s.ev.data ps with
    | .error e => .error e
    | .ok (bs, _, s1) => .ok (bs, s1)
/-- Several ranges read in order. -/
def State.ctlReads (s : State) (asid : Nat) (ext : List Byte) : List (Nat × Nat) → Except VErr (List (List Byte) × State)
  | [] => .ok ([], s)
  | w :: ws => match s.ctlPieces asid needR (pageParts w.1 w.2) with
    | .error e => .error e
    | .ok ps => match s.readPieces 0 clsCtl ext ps with
      | .error e => .error e
      | .ok (bs, x, s1) => match s1.ctlReads asid x ws with
        | .error e => .error e
        | .ok r => .ok (bs :: r.1, r.2)
/-- Where bytes would be written; nothing is, when one of them cannot be. -/
def State.ctlPlan (s : State) (asid : Nat) : List (Nat × List Byte) → Except VErr (List (List Piece × List Byte))
  | [] => .ok []
  | w :: ws => match s.ctlPieces asid needW (pageParts w.1 w.2.length) with
    | .error e => .error e
    | .ok ps =>
      if ps.any (fun p => (s.targetErr p.t p.a p.n).isSome || s.lost p.t) then .error (.lost w.1)
      else match s.ctlPlan asid ws with
        | .error e => .error e
        | .ok r => .ok ((ps, w.2) :: r)
def State.ctlWrite (s : State) (asid : Nat) (ws : List (Nat × List Byte)) : Except VErr State :=
  match s.ctlPlan asid ws with
  | .error e => .error e
  | .ok ps => .ok (ps.foldl (fun s p => (s.writePieces 0 clsCtl p.1 p.2).2) s)

/-! ## Launch queues (R309, R385) -/

def State.queueAt (s : State) (d q : Nat) : LaunchQ := sget (s.die d).lq {} q
def State.modQueue (s : State) (d q : Nat) (f : LaunchQ → LaunchQ) : State :=
  s.modDie d (fun v => { v with lq := sput v.lq q (f (sget v.lq {} q)) })
/-- Fields of `LQCTL`. -/
def LaunchQ.tickets (q : LaunchQ) : Nat := bits q.ctl.toNat 15 0
def LaunchQ.lgsz (q : LaunchQ) : Nat := bits q.ctl.toNat 20 16
def LaunchQ.prio (q : LaunchQ) : Nat := bits q.ctl.toNat 23 21
def State.queueErr (s : State) (d q : Nat) : State := s.modQueue d q (fun v => { v with ctl := setBit v.ctl 31 })
def State.headUp (s : State) (d q : Nat) : State := s.modQueue d q (fun v => { v with head := (v.head + 1) % 2 ^ 32 })
/-- The function that owns queue `q` of every die. -/
def State.queueOwner (s : State) (q : Nat) : Nat :=
  let e := (sget s.spaces 0 q).toNat
  if bitOf e 127 then bits e 126 122 else 0
/-- `LQTAIL` of queue `item` of die `unit` is written with `value` by function `aux`. -/
def execLqtailDoorbell (s : State) : Out :=
  let d := s.ev.unit
  let q := s.ev.item
  let v := s.ev.value.toNat % 2 ^ 32
  .next (if s.silent ∨ 8 ≤ d ∨ 64 ≤ q ∨ (s.ev.aux ≠ 0 ∧ s.ev.aux ≠ s.queueOwner q) then s
    else if 2 ^ (s.queueAt d q).lgsz < (v + 2 ^ 32 - (s.queueAt d q).head) % 2 ^ 32 then s.queueErr d q
    else (s.modQueue d q (fun u => { u with tail := v })).devEvent d 1 q 0 0)

/-! ## Completion records (R310, R316, R333) -/

/-- A record that cannot be written: `err` of the queue, and an event of kind 8. -/
def State.noRecord (s : State) (d q lid reason : Nat) : State :=
  (s.queueErr d q).evRecord (s.queueOwner q) (evBytes 8 reason (d + 256 * q) lid)
/-- Bit t mod 8 of byte t / 8 for each troop retired. -/
def bitmapOf (n : Nat) (done : List Nat) : List Byte :=
  (List.range ((n + 7) / 8)).map (fun i => BitVec.ofNat 8 (natOfBits ((List.range 8).map (fun j => done.contains (8 * i + j)))))
/-- The record is written, status last, and its vector sent; none at a reserved physical address. -/
def State.writeRecord (s : State) (l : Launch) (status reason : Nat) : Option State :=
  let map := if status = 3 then [] else [(l.crec + 64, bitmapOf l.troops l.retired)]
  let word := leBytes 2 (status + 256 * reason) ++ leBytes 2 (natOfBit l.tilelost)
  if l.crec % 64 ≠ 0 then some (s.noRecord l.die l.queue l.lid reason) else
  match s.ctlWrite l.queue (map ++ [(l.crec + 4, leBytes 60 l.retired.length), (l.crec, word)]) with
  | .error .reserved => none
  | .error _ => some (s.noRecord l.die l.queue l.lid reason)
  | .ok s1 => some (s1.signal (s1.queueOwner l.queue) (2 + l.queue))
/-- The launch is no longer accepted: its identifier, span root and corral are free (R232, R310, R315). -/
def State.forget (s : State) (l : Launch) : State :=
  let s1 := if l.headed then s.headUp l.die l.queue else s
  { s1 with launches := sdel s1.launches l.lid,
            spanRoots := if l.spanId = 0 ∨ l.kvroot = 0 then s1.spanRoots
              else s1.spanRoots.filter (fun e => e.2.toNat % 2 ^ 32 != l.spanId),
            dies := s1.dies.map (fun d => (d.1, { d.2 with corral := d.2.corral.filter (fun c => c.2 != l.lid) })) }
/-- The launch ends when its troops have all retired, or none is left of one that places no more. -/
def State.settleLaunch (s : State) (lid : Nat) : Out :=
  match s.launchAt lid with
  | none => .next s
  | some l =>
    let left := s.troops.any (fun t => t.2.lid == lid)
    let status := match l.closing with
      | some st => if left then none else some st
      | none => if l.retired.length = l.troops then some 1 else none
    match status with
    | none => .next s
    | some st => match s.writeRecord l st 0 with
      | none => .fault .reservedPhysical
      | some s1 => .next (s1.forget l)

/-! ## The checks of a packet (R305, R310, R314) -/

def addrOk (a align : Nat) : Bool := canonical (BitVec.ofNat 64 a) && a % align == 0
def Launch.roleList (l : Launch) : List Nat := (List.range l.ncrews).map l.role
def Launch.pairs (l : Launch) : List (Nat × Nat) :=
  ((List.range 4).filter (fun k => bitOf (l.reinAt k) 10)).map (fun k => (bits (l.reinAt k) 4 0, bits (l.reinAt k) 9 5))
def Launch.grans (l : Launch) : Nat := sgwSpm l.sgw + sgwAcc l.sgw + sgwTile l.sgw + sgwReg l.sgw
def Launch.dieList (l : Launch) : List Nat := (List.range 8).filter (l.dies.testBit ·)
/-- Reason 1. -/
def Launch.badFields (l : Launch) : Bool :=
  pk l 639 632 != 0 || pk l 575 568 != 0 || pk l 559 556 != 0 || (List.range 16).any (fun c => bitOf (l.chan c) 10)
    || !(addrOk l.entry 4 && addrOk l.args 8 && addrOk l.handler 4 && addrOk l.save 4096 && addrOk l.crec 64 && addrOk l.extAddr 64)
/-- Reason 2. -/
def Launch.badLimits (l : Launch) : Bool :=
  let rs := l.roleList
  let access (c : Nat) : Bool := decide (c < l.ncrews) && l.role c == 0
  let matrix (c : Nat) : Bool := decide (c < l.ncrews) && l.role c == 1
  decide (16777216 < l.troops) || rs.contains 3 || (span l.ncrews 32).any (fun c => l.role c != 0) || decide (8 < rs.count 0)
    || !(if rs.contains 0 then access l.streamer else l.streamer == 0)
    || l.pairs.any (fun p => p.1 == p.2 || !matrix p.1 || !matrix p.2)
    || l.dies == 0 || decide (16384 < l.argw) || l.handler == 0 || l.lid == 0
    || (l.det && decide (14 < rs.countP (· != 0)))
/-- Reason 3 (R200). -/
def Launch.badPartition (l : Launch) : Bool :=
  bits l.sgw 31 28 != 0 || sgwReg l.sgw == 0 || decide (4 * sgwReg l.sgw < l.ncrews) || decide (64 < sgwReg l.sgw + sgwTile l.sgw)
    || decide (32 < sgwAcc l.sgw) || decide (128 < sgwSpm l.sgw)
/-- Reason 6: the root's form, and the place of its publication (R232). -/
def State.badRoot (s : State) (l : Launch) : Bool :=
  let pub := l.spanId != 0 && l.kvroot != 0
  bits l.kvroot 63 44 != 0 || bits l.kvroot 11 5 != 0 || decide (20 < bits l.kvroot 4 0)
    || (pub && (s.spanRoots.any (fun e => e.2.toNat % 2 ^ 32 == l.spanId)
                || (List.range 64).all (fun e => (sget s.spanRoots 0 e).toNat % 2 ^ 32 != 0)))
/-- Reason 7. -/
def Launch.badGang (l : Launch) : Bool :=
  let n := l.dieList.length
  l.gang && (n == 0 || l.troops % n != 0 || decide (64 < l.troops / n))
/-- Reasons the packet's own fields give, lowest first. -/
def State.packetReasons (s : State) (l : Launch) : List Nat :=
  (if l.badFields then [1] else []) ++ (if l.badLimits || (s.launchAt l.lid).isSome then [2] else [])
    ++ (if l.badPartition then [3] else []) ++ (if 192 < l.grans then [4] else [])
    ++ (if s.badRoot l then [6] else []) ++ (if l.badGang then [7] else [])
    ++ (if sgwSpm l.sgw * 16384 < ((List.range 16).map (chanSize l)).sum then [8] else [])

/-! ### The extension block -/

def extWord (ext : List Byte) (a n : Nat) : Nat := natAt ext a n
def extDesc (ext : List Byte) (i : Nat) : Dword := BitVec.ofNat 64 (extWord ext (128 + 8 * i) 8)
def extKey (ext : List Byte) (i : Nat) : BitVec 128 := BitVec.ofNat 128 (extWord ext (256 + 16 * i) 16)
def extCount (ext : List Byte) : Nat := extWord ext 512 4
/-- Offset, length and image bytes of preload record i. -/
def extRecord (ext : List Byte) (i : Nat) : Nat × Nat × List Byte :=
  let r := (ext.drop (516 + 40 * i)).take 40
  (natAt r 0 4, natAt r 4 4, r.drop 8)
def keyOk (v : BitVec 128) : Bool :=
  addrOk (keyEntry v) 4 && bits v.toNat 127 82 == 0 && keyRole v != 3
def keysOk (ks : List (BitVec 128)) : Bool :=
  ks.all keyOk && decide ((ks.map keyEntry).filter (· ≠ 0)).Nodup
def preloadOk (size : Nat) (r : Nat × Nat × List Byte) : Bool :=
  decide (4 ≤ r.2.1 ∧ r.2.1 ≤ 32 ∧ r.2.1 % 4 = 0 ∧ r.1 + r.2.1 ≤ size) && (r.2.2.drop r.2.1).all (· == 0)
def extOk (l : Launch) (ext : List Byte) : Bool :=
  (List.range 16).all (fun i => dsValid (sgwTile l.sgw * 1024) (extDesc ext i)) && keysOk ((List.range 16).map (extKey ext))
    && (List.range (extCount ext)).all (fun i => preloadOk (sgwSpm l.sgw * 16384) (extRecord ext i))
/-- The block as read: a rejection reason, or its bytes. -/
def State.readExt (s : State) (l : Launch) : Except VErr (Except Nat (List Byte) × State) :=
  if l.extAddr = 0 then .ok (.ok (List.replicate 516 0), s)
  else match s.ctlRead l.queue l.extAddr 516 with
    | .error .reserved => .error .reserved
    | .error _ => .ok (.error 9, s)
    | .ok (b0, s1) =>
      if 256 < extCount b0 then .ok (.error 5, s1)
      else match s1.ctlRead l.queue (l.extAddr + 516) (40 * extCount b0) with
        | .error .reserved => .error .reserved
        | .error _ => .ok (.error 9, s1)
        | .ok (b1, s2) => .ok (if extOk l (b0 ++ b1) then .ok (b0 ++ b1) else .error 5, s2)

/-- The 128 bytes of a packet, from device or host memory; none where they cannot be read. -/
def State.readPacket (s : State) (base : Dword) (i : Nat) : Except VErr (List Byte × State) :=
  let a := base.toNat % 2 ^ 63 + 128 * i
  if base.getLsbD 63 then .ok (mread s.hostMem a 128, s)
  else if reserved a 128 then .error .reserved
  else match s.errRead none a 128 with
    | some e => .error (.ecc e)
    | none => .ok (s.pread a 128, (s.noteTurns clsCtl a 128).touch a 128 false false)
/-- The packet, or its block, is not within reach yet. -/
def State.packetHeld (s : State) (d q i : Nat) : Bool :=
  let v := s.queueAt d q
  !v.base.getLsbD 63 && s.linesHeld (stopOf (64 * d)) clsCtl (v.base.toNat % 2 ^ 63 + 128 * i) 128 ||
    (match s.readPacket v.base i with
     | .ok (bs, _) =>
       let ext := Launch.extAddr { noLaunch with packet := lineOfBytes bs }
       ext != 0 && s.ctlHeld d q needR [(ext, 516)]
     | .error _ => false)
/-- The packet leaves its queue with a record of status 3. -/
def State.reject (s : State) (l : Launch) (reason : Nat) : Out :=
  match s.writeRecord l 3 reason with
  | none => .fault .reservedPhysical
  | some s1 => .next (s1.headUp l.die l.queue)
def State.accept (s : State) (l : Launch) : State :=
  let free := ((List.range 64).find? (fun e => (sget s.spanRoots 0 e).toNat % 2 ^ 32 == 0)).getD 0
  { s with launches := sput s.launches l.lid l,
           spanRoots := if l.spanId = 0 ∨ l.kvroot = 0 then s.spanRoots
             else sput s.spanRoots free (BitVec.ofNat 128 (l.spanId + l.kvroot * 2 ^ 64)) }
/-- The packet at the head of queue `item` of die `unit` is read and checked, in the four steps of R310. -/
def execLaunchPacketCheck (s : State) : Out :=
  let d := s.ev.unit
  let q := s.ev.item
  let v := s.queueAt d q
  let taken := s.launches.any (fun l => l.2.die == d && l.2.queue == q && l.2.headed)
  if 8 ≤ d ∨ 64 ≤ q ∨ !s.booted ∨ taken ∨ v.head = v.tail ∨ s.packetHeld d q (v.head % 2 ^ v.lgsz) then .next s
  else
    let i := v.head % 2 ^ v.lgsz
    let read := s.readPacket v.base i
    if !bitOf (sget s.spaces 0 q).toNat 127 then
      let lid := match read with
        | .ok (bs, _) => natAt bs 112 4
        | .error _ => 0
      .next ((s.noRecord d q lid 10).headUp d q)
    else match read with
      | .error .reserved => .fault .reservedPhysical
      | .error _ => .next ((s.noRecord d q 0 9).headUp d q)
      | .ok (bs, s1) =>
        let l : Launch := { noLaunch with lid := natAt bs 112 4, die := d, queue := q, packet := lineOfBytes bs }
        match s1.packetReasons l with
        | r :: _ => s1.reject l r
        | [] => match s1.readExt l with
          | .error _ => .fault .reservedPhysical
          | .ok (.error r, s2) => s2.reject l r
          | .ok (.ok ext, s2) => .next (s2.accept { l with ext := ext })

/-! ## Room on a core (R22-R24, R90) -/

def slotCap (u : Nat) : Nat := if u = 4 then 8 else 14
/-- Free context slots of a unit of a core, ascending. -/
def State.slotsFree (s : State) (k u : Nat) : List Nat :=
  let used := (s.crews.filter (fun c => c.1 / 4096 == k && c.2.res == .resident && c.2.unit == u)).map (·.2.slot)
  (List.range (slotCap u)).filter (fun n => !used.contains n)
/-- Free pool granules of a core. -/
def State.gransFree (s : State) (k : Nat) : Nat :=
  let w (t : Nat) : Nat := (s.troop t).sgw.toNat
  192 - (s.core k).retiredGran - (((s.troopsOn k).filter (fun t => (s.troop t).res == .resident)).map (fun t =>
    sgwSpm (w t) + sgwAcc (w t) + sgwTile (w t) + sgwReg (w t))).sum
def State.troopSlot (s : State) (k : Nat) : Option Nat := (List.range 64).find? (fun i => (sfind s.troops (64 * k + i)).isNone)
/-- R315: the core is not corralled for another launch. -/
def State.corralFree (s : State) (k lid : Nat) : Bool :=
  match (s.die (dieOfCore k)).corral with
  | some (m, owner) => owner == lid || !m.getLsbD (k % 64 / 8)
  | none => true
/-- What placement must respect: crews with their role codes, rein pairs, and whether the troop is deterministic. -/
structure CrewSet where
  crews : List (Nat × Nat)
  pairs : List (Nat × Nat)
  det : Bool
  deriving DecidableEq, Repr
def Launch.crewSet (l : Launch) : CrewSet := { crews := (List.range l.ncrews).zip l.roleList, pairs := l.pairs, det := l.det }
/-- R20-R23: the unit of each crew suits its role, the pairs and a deterministic troop, and has slots enough. -/
def State.unitsOk (s : State) (cs : CrewSet) (k : Nat) (allowed us : List Nat) : Bool :=
  let at_ := cs.crews.zip us
  let mv := at_.filter (fun p => p.1.2 != 0)
  let unit (c : Nat) : Option Nat := (at_.find? (fun p => p.1.1 == c)).map (·.2)
  us.length == cs.crews.length && at_.all (fun p => if p.1.2 = 0 then p.2 == 4 else allowed.contains p.2)
    && cs.pairs.all (fun p => (unit p.1).isNone || (unit p.2).isNone || unit p.1 == unit p.2)
    && (!cs.det || mv.all (fun p => p.2 == (mv.headD ((0, 0), 0)).2))
    && (List.range 5).all (fun u => decide (us.count u ≤ (s.slotsFree k u).length))
/-- Every way to put the pairs in quarters. -/
def pairChoices (allowed : List Nat) : List (Nat × Nat) → List (List (Nat × Nat))
  | [] => [[]]
  | p :: ps => (pairChoices allowed ps).flatMap (fun r => allowed.map (fun q => (p.1, q) :: (p.2, q) :: r))
/-- The other crews, ascending, take the lowest quarter with room. -/
def fillUnits (allowed : List Nat) (fixed : List (Nat × Nat)) (room : Nat → Nat) : List (Nat × Nat) → List Nat → List Nat
  | [], acc => acc
  | (c, r) :: cs, acc =>
    let u := if r = 0 then 4 else match fixed.find? (fun p => p.1 == c) with
      | some p => p.2
      | none => (allowed.find? (fun q => decide (acc.count q
          + (cs.filter (fun d => fixed.any (fun p => p == (d.1, q)))).length < room q))).getD 9
    fillUnits allowed fixed room cs (acc ++ [u])
/-- Units for a set of crews: those of `hint` when they suit, else the first choice that does. -/
def State.chooseUnits (s : State) (cs : CrewSet) (k : Nat) (allowed hint : List Nat) : Option (List Nat) :=
  let room (u : Nat) : Nat := (s.slotsFree k u).length
  let all := if cs.det then allowed.map (fun q => cs.crews.map (fun c => if c.2 = 0 then 4 else q))
    else (pairChoices allowed cs.pairs).map (fun f => fillUnits allowed f room cs.crews [])
  (hint :: all).find? (s.unitsOk cs k allowed)
/-- R17, R22: the units a troop of the launch takes on a core, when the core can give it everything at once. Which it takes is a choice (log 19). -/
def State.fitCore (s : State) (l : Launch) (k : Nat) (allowed hint : List Nat) : Option (List Nat) :=
  let here := (s.troopsOn k).any (fun t => (s.troop t).lid == l.lid && (s.troop t).res == .resident)
  if here || decide (s.gransFree k < l.grans) || (s.troopSlot k).isNone || !s.corralFree k l.lid then none
  else s.chooseUnits l.crewSet k allowed hint

/-! ## Placement (R19, R34, R35, R40, R201, R310, R322) -/

def roleOf (n : Nat) : Role := if n = 0 then .access else if n = 1 then .matrix else .vector
/-- The lowest free slot for each crew in turn. -/
def pickSlots (free : Nat → List Nat) : List Nat → List (Nat × Nat) → List (Nat × Nat)
  | [], acc => acc
  | u :: us, acc =>
    let n := ((free u).find? (fun i => !acc.contains (u, i))).getD 0
    pickSlots free us (acc ++ [(u, n)])
/-- The crew's entry in the lane remap table. -/
def State.remapCrew (s : State) (c : Nat) (live : Bool) : State :=
  let v := s.crew c
  let e := if live then BitVec.ofNat 16 (2 ^ 15 + crewIdx c * 2 ^ 9 + slotOfTroop (troopOfCrew c) * 2 ^ 3 + v.slot % 4) else 0
  s.modCore (c / 4096) (fun q => { q with remap := sput q.remap (remapIndex v.unit v.slot) e })
/-- Launch values of the `k` registers. -/
def extK (ext : List Byte) : Sparse Word :=
  ((List.range 32).map (fun i => (i, w32 (extWord ext (4 * i) 4)))).filter (fun e => e.2 != 0)
/-- A crew with its strands, each at `pc` with what `regs` gives it. -/
def State.addCrew (s : State) (c : Nat) (v : Crew) (lanes : List (Nat × Strand)) : State :=
  let s1 := (s.setCrew c v).remapCrew c true
  lanes.foldl (fun s x => s.setStrand (32 * c + x.1) x.2) s1
def extSpm (ext : List Byte) : Memory :=
  (List.range (extCount ext)).foldl (fun m i =>
    let r := extRecord ext i
    mwrite m r.1 (r.2.2.take r.2.1)) []
def launchTroop (l : Launch) (k index : Nat) (us : List Nat) : Troop :=
  let units := us.eraseDups
  { lid := l.lid, index := index, herd := (l.dieList.filter (· < dieOfCore k)).length, ncrews := l.ncrews, sgw := w32 l.sgw,
    spm := extSpm l.ext, desc := ((List.range 16).map (fun i => (i, extDesc l.ext i))).filter (fun e => e.2 != 0),
    keys := ((List.range 16).map (fun i => (i, extKey l.ext i))).filter (fun e => e.2 != 0),
    reins := l.pairs.map (fun p => (min p.1 p.2, max p.1 p.2, min p.1 p.2)),
    rots := if l.det then (sortBy id units).map (fun u => (u, { crews := (List.range l.ncrews).filter (fun c => us.getD c 9 == u), fixed := true }))
      else [],
    quarter := if l.det then us.find? (· != 4) else none }
/-- Troop `index` of a launch takes its place on core `k`, its crews in the units given. -/
def State.placeTroop (s : State) (l : Launch) (k index : Nat) (us : List Nat) : State :=
  let t := 64 * k + (s.troopSlot k).getD 0
  let places := pickSlots (s.slotsFree k) us []
  let s1 := ({ s with past := sdel s.past t }.setTroop t (launchTroop l k index us)).invL1 k
  let start : Strand := { pc := pcOf l.entry }
  let lanes := (List.range 32).map (fun i => (i, start))
  let s2 := (List.range l.ncrews).foldl (fun s c =>
    let p := places.getD c (0, 0)
    s.addCrew (64 * t + c) { role := roleOf (l.role c), unit := p.1, slot := p.2, k := extK l.ext } lanes) s1
  s2.wakeAll ((List.range (32 * l.ncrews)).map (· + 2048 * t))

/-! ## The dispatch decision (R311-R315) -/

/-- A producer does not hold a launch back: it is no accepted launch, or all its strands have triggered or exited (R39,
R311). -/
def State.depMet (s : State) (lid : Nat) : Bool :=
  lid == 0 || match s.launchAt lid with
    | none => true
    | some p => p.allPlaced && s.allTriggered lid
/-- R311: the launch is eligible on a die. -/
def State.eligibleOn (s : State) (l : Launch) (d : Nat) : Bool :=
  l.headed && l.closing.isNone && l.dies.testBit d && (if l.gang then !l.herds.contains d else decide (l.placed < l.troops))
    && s.depMet (l.dep 0) && s.depMet (l.dep 1)
/-- E of R313, ascending controller, then queue: launch and tickets. -/
def State.candidates (s : State) (d : Nat) : List (Launch × Nat) :=
  (List.range 8).flatMap (fun c => (List.range 64).filterMap (fun q =>
    let n := (s.queueAt c q).tickets
    if n = 0 then none
    else (s.launches.find? (fun l => l.2.die == c && l.2.queue == q && s.eligibleOn l.2 d)).map (fun l => (l.2, n))))
def xorshift (x : Word) : Word :=
  let x1 := x ^^^ (x <<< 13)
  let x2 := x1 ^^^ (x1 >>> 17)
  x2 ^^^ (x2 <<< 5)
/-- The walk of R313. -/
def drawn : List (Launch × Nat) → Nat → Option Launch
  | [], _ => none
  | (l, n) :: es, r => if r < n then some l else drawn es (r - n)
/-- The packet leaves its queue once every troop is placed (R309). -/
def State.packetDone (s : State) (lid : Nat) : State :=
  match s.launchAt lid with
  | none => s
  | some l =>
    if l.headed && l.allPlaced then (s.headUp l.die l.queue).modLaunch lid (fun v => { v with headed := false }) else s
def allQuarters : List Nat := [0, 1, 2, 3]
/-- Cores of a die on which a troop of the launch fits, ascending, with its units. -/
def State.fits (s : State) (l : Launch) (d : Nat) (hint : List Nat) : List (Nat × List Nat) :=
  ((List.range 64).map (· + 64 * d)).filterMap (fun k => (s.fitCore l k allQuarters hint).map (fun us => (k, us)))
/-- R312: one troop of a launch that is no gang; core `item` and the quarters `data` are taken when they suit. -/
def State.placeOne (s : State) (l : Launch) (d : Nat) : State :=
  let fs := s.fits l d (s.ev.data.map (·.toNat))
  match (fs.find? (fun f => f.1 == s.ev.item)).or fs.head? with
  | none => s
  | some (k, us) => ((s.placeTroop l k l.placed us).modLaunch l.lid (fun v => { v with placed := v.placed + 1 })).packetDone l.lid
/-- Cores of a region that could hold a troop of the launch with nothing else on them (R315). -/
def State.regionHolds (s : State) (l : Launch) (d g : Nat) : Nat :=
  ((List.range 8).filter (fun i => decide (l.grans ≤ 192 - (s.core (64 * d + 8 * g + i)).retiredGran))).length
/-- Order of region sets: fewest, then lower-numbered. -/
def regionKey (m : Nat) : Nat :=
  256 * ((List.range 8).filter (m.testBit ·)).length + natOfBits ((List.range 8).map (fun i => !m.testBit (7 - i)))
/-- R315 step 1: the fewest regions that could hold the herd of m troops; ties are log 19. -/
def State.corralFor (s : State) (l : Launch) (d m : Nat) : Option Nat :=
  leastBy regionKey ((List.range 256).filter (fun v =>
    decide (m ≤ (((List.range 8).filter (v.testBit ·)).map (s.regionHolds l d)).sum)))
/-- R315 step 3: troops in the corral are pre-empted when the gang's queue goes before all of theirs and each can be
saved (R373). -/
def State.corralPreempt (s : State) (l : Launch) (d : Nat) (m : Nat) : State :=
  let inside := (s.troops.filter (fun t => dieOfCore (t.1 / 64) == d && m.testBit (t.1 / 64 % 64 / 8) && t.2.res == .resident)).map (·.1)
  let prio (l : Launch) : Nat := (s.queueAt l.die l.queue).prio
  if inside.all (fun t => decide (prio (s.launchOf t) < prio l) && (s.launchOf t).save != 0) then
    inside.foldl (fun s t => s.modTroop t (fun v => { v with saveReq := some (v.saveReq.getD 0) })) s
  else s
/-- A won decision that cannot place the herd (R315). -/
def State.gangFails (s : State) (l : Launch) (d m : Nat) : State :=
  match (s.die d).corral with
  | some (v, owner) => if owner = l.lid then s.corralPreempt l d v.toNat else s
  | none =>
    let n := sget l.rounds 0 d + 1
    let s1 := s.modLaunch l.lid (fun v => { v with rounds := sput v.rounds d n })
    if n < (s.die d).gangrounds then s1
    else match s1.corralFor l d m with
      | none => s1
      | some v => (s1.modDie d (fun q => { q with corral := some (BitVec.ofNat 8 v, l.lid) })).corralPreempt l d v
/-- R314: a herd whole, on distinct cores, or not at all. -/
def State.placeHerd (s : State) (l : Launch) (d : Nat) : State :=
  let m := l.troops / l.dieList.length
  let h := (l.dieList.filter (· < d)).length
  let fs := (s.fits l d []).take m
  if fs.length < m then s.gangFails l d m
  else
    let s1 := ((List.range m).zip fs).foldl (fun s f => s.placeTroop l f.2.1 (h * m + f.1) f.2.2) s
    let s2 := s1.modLaunch l.lid (fun v => { v with herds := v.herds ++ [d], placed := v.placed + m, rounds := sput v.rounds d 0 })
    (s2.modDie d (fun q => { q with corral := q.corral.filter (fun c => c.2 != l.lid) })).packetDone l.lid

/-! ## Paddock launches (R34, R306) -/

/-- The lowest index no crew of the troop holds, from 32 on. -/
def State.spawnIndex (s : State) (t : Nat) : Option Nat := (span 32 64).find? (fun i => !s.hasCrew (64 * t + i))
/-- Units a crew of a role may take now: the front end, or quarters with a free slot; one quarter in a deterministic
troop (R414). -/
def State.unitsFor (s : State) (t : Nat) (role : Role) : List Nat :=
  let k := coreOfTroop t
  let us := if role = .access then [4] else match (s.troop t).quarter with
    | some q => if (s.launchOf t).det then [q] else allQuarters
    | none => allQuarters
  us.filter (fun u => !(s.slotsFree k u).isEmpty)
/-- R37: a spawned crew joins the rotation at the start of the next round; a unit without one begins it. -/
def State.joinRot (s : State) (c : Nat) : State :=
  let t := troopOfCrew c
  let u := (s.crew c).unit
  if (s.launchOf t).det then
    s.modTroop t (fun v =>
      { v with rots := if (sfind v.rots u).isNone then sput v.rots u { crews := [crewIdx c], fixed := true } else v.rots,
               quarter := if u = 4 then v.quarter else some (v.quarter.getD u) })
  else s
/-- Bin `item` of core `unit` places its requests as one crew, in quarter `aux` when that suits. -/
def execPaddockLaunch (s : State) : Out :=
  let k := s.ev.unit
  .next (match sfind (s.core k).bins s.ev.item with
    | none => s
    | some b =>
      let t := b.troop
      let key := sget (s.troop t).keys 0 b.key
      let role := roleOf (keyRole key)
      let us := s.unitsFor t role
      let savedCrew := (s.crewsOf t).any (fun c => (s.crew c).res == .saved)
      if !b.due || b.reqs.isEmpty || (s.troop t).res != .resident || (s.troop t).saving || s.still k || savedCrew || s.freeBlocks t == 0 then s
      else match s.spawnIndex t, (us.find? (· == s.ev.aux)).or us.head? with
        | some i, some u =>
          let c := 64 * t + i
          let start (ws : List Word) : Strand :=
            { pc := pcOf (keyEntry key), regs := ((List.range 8).zip ws).filter (fun e => e.2 != 0) }
          let v : Crew := { role := role, unit := u, slot := (s.slotsFree k u).headD 0, k := extK (s.launchOf t).ext }
          let s1 := s.modCore k (fun q => { q with bins := sdel q.bins s.ev.item })
          let s2 := (s1.addCrew c v ((List.range b.reqs.length).zip (b.reqs.map start))).joinRot c
          s2.wakeAll ((List.range b.reqs.length).map (· + 32 * c))
        | _, _ => s)
/-- The timer of bin `item` of core `unit` has run out with requests held. -/
def execPaddockTimerExpiry (s : State) : Out :=
  let k := s.ev.unit
  .next (match sfind (s.core k).bins s.ev.item with
    | none => s
    | some b =>
      if b.timer != some 0 || b.reqs.isEmpty || b.due || s.still k || (s.troop b.troop).saving || (s.troop b.troop).res != .resident then s
      else s.modCore k (fun q => { q with bins := sput q.bins s.ev.item { b with due := true } }))

/-! ## Crews and troops end (R42) -/

def goneSigs (c : Nat) (gs : List Sig) : List Sig := gs.map (fun g => if crewOf g.x = c then { g with gone := true } else g)
def TileOp.sever (o : TileOp) (c : Nat) : TileOp := { o with sigs := goneSigs c o.sigs, crews := o.crews.filter (fun q => q.1 != c) }
def Decl.sever (d : Decl) (c : Nat) : Decl :=
  match d with
  | .mask m o => if o = c then .mask m (ghostCrew c) else d
  | .undeclared | .count _ => d
def ghostOf (c x : Nat) : Nat := if crewOf x = c then ghost x else x
/-- What is still under way for a crew that gives up its slot no longer names it: its number may be another crew's. -/
def State.severCrew (s : State) (c : Nat) : State :=
  let t := troopOfCrew c
  let s1 := s.modTroop t (fun v =>
    { v with hitches := v.hitches.map (fun h =>
               (h.1, { h.2 with decl := h.2.decl.sever c, pend := h.2.pend.map (·.sever c),
                                phase := { h.2.phase with sigs := goneSigs c h.2.phase.sigs } })),
             theld := v.theld.map (·.sever c),
             tfaults := v.tfaults.map (fun f => { f with op := f.op.sever c }) })
  let s2 := s1.modCore (coreOfTroop t) (fun k =>
    { k with tq := k.tq.map (·.sever c),
             sqe := k.sqe.map (fun o => { o with strand := ghostOf c o.strand }),
             xqe := k.xqe.map (fun o => { o with strand := ghostOf c o.strand }),
             kq := k.kq.map (fun o => { o with strand := ghostOf c o.strand }),
             reqs := k.reqs.map (fun r => { r with strand := ghostOf c r.strand }) })
  { s2 with chanMsgs := s2.chanMsgs.map (fun m =>
              if m.crew = c then { m with crew := ghostCrew c, strand := ghost m.strand } else m),
            pinReqs := s2.pinReqs.map (fun r => { r with strand := ghostOf c r.strand }),
            puts := s2.puts.map (fun m => if m.tag.isNone then { m with src := ghostOf c m.src } else m),
            putAns := s2.putAns.map (fun a => { a with src := ghostOf c a.src }) }
/-- What stands where a troop stood. -/
def State.modPast (s : State) (t : Nat) (f : Past → Past) : State := { s with past := sput s.past t (f (sget s.past {} t)) }
/-- A crew is no more: slot, blocks, capabilities and strands; its registers keep their values (R412). -/
def State.removeCrew (s : State) (c : Nat) : State :=
  let v := s.crew c
  let s1 := if v.res = .resident then s.remapCrew c false else s
  let s2 := (s1.freeCaps (coreOfTroop (troopOfCrew c)) (fun e => e.crew == c)).severCrew c
  let t := troopOfCrew c
  let mine := s2.strands.filter (fun x => crewOf x.1 == c)
  let s3 := { s2 with crews := sdel s2.crews c, strands := s2.strands.filter (fun x => crewOf x.1 != c) }
  s3.modPast t (fun p => { p with strands := mine.foldl (fun m x => sput m x.1 x.2) (p.strands.filter (fun x => crewOf x.1 != c)) })
/-- Crew `unit`, all of whose strands have exited, gives up what it holds. -/
def execCrewRelease (s : State) : Out :=
  let c := s.ev.unit
  let v := s.crew c
  .next (if !s.hasCrew c || !(s.liveLanes c).isEmpty || v.ld != 0 || v.st != 0 || v.pt != 0 || !v.sq.isEmpty || s.bankWaits c then s
    else
      let s1 := s.modDie (dieOfCore (coreOfTroop (troopOfCrew c))) (fun d => { d with savedCtx := d.savedCtx.filter (fun e => e.2 != some c) })
      (s1.removeCrew c).allocate (troopOfCrew c))
/-- Ops of a troop that have not retired. -/
def State.opsLeft (s : State) (t : Nat) : Bool :=
  let k := s.core (coreOfTroop t)
  let v := s.troop t
  k.tq.any (fun o => o.troop == t) || (k.sqe ++ k.xqe).any (fun o => o.troop == t) || k.kq.any (fun o => o.troop == t)
    || !v.theld.isEmpty || !v.tfaults.isEmpty
/-- A store of the troop has not reached its bank, or one that an exit of a strand of it comes after (R277, R278). -/
def State.troopStores (s : State) (t : Nat) : Bool :=
  (s.core (coreOfTroop t)).reqs.any (fun r => reqIsStore r && troopOf (realX r.strand) == t) ||
  (sget s.past {} t).strands.any (fun x => s.storesLeft x.2.after (coreOfTroop t))
/-- A request is on its way to a bank of the troop that nothing there holds back. -/
def State.bankDue (s : State) (t : Nat) : Bool :=
  s.cores.any (fun c => c.2.reqs.any (fun r => r.tgt == .spm t && !r.done && !s.bankHolds r r.tgt r.addr r.size))
/-- A troop is no more: handles, macros, bins, entries, granules; no byte of them changes (R199). -/
def State.removeTroop (s : State) (t : Nat) : State :=
  let s1 := ((List.range 16).foldl (fun s h => s.closeBind t h) s).freeMacros t
  let s2 := s1.modCore (coreOfTroop t) (fun k =>
    { k with retiredGran := k.retiredGran + k.badGran.count t, badGran := k.badGran.filter (· != t),
             bins := k.bins.filter (fun b => b.2.troop != t), perf := k.perf.map (fun p => if p.2.2.2 = t then (p.1, (p.2.1, p.2.2.1, 2 ^ 26 + t)) else p),
             score := k.score.filter (fun e => e.troop != t),
             scoreWait := k.scoreWait.filter (fun x => waiterTroop x != t) })
  let v := s.troop t
  { s2 with troops := sdel s2.troops t }.modPast t (fun p =>
    { p with spm := v.spm, tiles := v.tiles, acc := v.acc, hitches := v.hitches })
/-- Troop `unit`, all of whose crews have gone and ops retired, retires and is counted. -/
def execTroopRetire (s : State) : Out :=
  let t := s.ev.unit
  let v := s.troop t
  if (sfind s.troops t).isNone || v.res != .resident || !(s.crewsOf t).isEmpty || s.opsLeft t || s.troopStores t || s.bankDue t then .next s
  else
    let k := coreOfTroop t
    let s1 := (s.removeTroop t).devEvent (dieOfCore k) 2 (k % 64) 0 v.index
    let s2 := s1.modLaunch v.lid (fun l => { l with retired := v.index :: l.retired, tilelost := l.tilelost || v.tilelost })
    s2.settleLaunch v.lid

end Sys2Proof.Machine
end

