-- ==== Sys2Proof/Machine/SaveArea.lean ====
section
/-! DEFINITION. SaveArea.lean: the save area of a troop: what is written there, and what a restore reads back
(spec/17_traps_context.md R376-R379; spec/06_registers_vector.md R129; spec/15_tables.md R321, R323; log 14). -/

namespace Sys2Proof.Machine

/-! ## The save area (R378, R379) -/

/-- Contents of the area: bytes, or bytes whose layout the spec does not give (log 14). -/
inductive Blob where
  | bytes (bs : List Byte)
  | open_ (n : Nat)
  deriving DecidableEq, Repr
def State.blob (s : State) (b : Blob) : List Byte × State :=
  match b with
  | .bytes bs => (bs, s)
  | .open_ n => s.freeBytes n
/-- Each part with its offset. -/
def State.blobs (s : State) (base : Nat) : List (Nat × Blob) → List (Nat × List Byte) × State
  | [] => ([], s)
  | (a, b) :: r =>
    let p := s.blob b
    let q := p.2.blobs base r
    ((base + a, p.1) :: q.1, q.2)
/-- Entries of one size at an offset; those beyond the list are zero. -/
def entries (off size count : Nat) (bs : List Blob) : List (Nat × Blob) :=
  (List.range count).map (fun i => (off + size * i, bs.getD i (.bytes (List.replicate size 0))))
def nats (n : Nat) (vs : List Nat) : List Byte := vs.flatMap (leBytes n)
/-- R129 Table 7: a declaration, and a hitch's state word. -/
def declWord (d : Decl) : Nat :=
  match d with
  | .undeclared => 0
  | .count n => 2 ^ 62 + (n - 1) * 2 ^ 34
  | .mask m _ => 2 ^ 63 + m.toNat
def hitchWord (h : Hitch) : Nat :=
  declWord h.decl + natOfBit h.phase.parity * 2 ^ 61 + natOfBit h.pend.isSome * 2 ^ 60 + h.phase.sigs.length * 2 ^ 45
def hitchBlobs (h : Nat) (v : Option Hitch) : List (Nat × Blob) :=
  match v with
  | none => [(0x40 + 32 * h, .bytes (List.replicate 32 0))]
  | some v => [(0x40 + 32 * h, .bytes (leBytes 8 (hitchWord v) ++ leBytes 8 ((v.pend.map declWord).getD 0))),
               (0x50 + 32 * h, if v.phase.kind.isSome then .open_ 8 else .bytes (List.replicate 8 0)),
               (0x58 + 32 * h, .bytes (List.replicate 8 0))]
/-- R321 Table 4, the crews below 6 in a second word. -/
def rotBytes (r : Rot) : List Byte :=
  let low := natOfBits ((List.range 6).map r.crews.contains)
  let high := natOfBits ((span 6 64).map r.crews.contains)
  leBytes 16 (r.turn + high * 2 ^ 6 + r.round * 2 ^ 64) ++ leBytes 16 low
def fidBytes (t : Troop) : List Byte :=
  nats 4 (t.fidrate.toNat :: t.fidthr.toNat :: (List.range 16).flatMap (fun i =>
    let f : FidStream := sget t.fid {} i
    [f.cnt, natOfBit f.flag, f.exceed]))
/-- R323 Table 6. -/
def scoreBytes (e : Score) : List Byte :=
  leBytes 16 (e.rhi + e.rlo * 2 ^ 16 + e.whi * 2 ^ 31 + e.wlo * 2 ^ 47 + e.opid % 256 * 2 ^ 62 + e.eng * 2 ^ 70
    + slotOfTroop e.troop * 2 ^ 73 + 2 ^ 79)
def shapesWord (t : Troop) : Nat := natOfBits ((List.range 16).flatMap (fun k => (List.range 4).map (fun b => (t.shapeOf k).getLsbD b)))
def liveWord (cs : List Nat) : Nat := natOfBits ((List.range 64).map (fun i => cs.any (fun c => crewIdx c == i)))
/-- R378 Table 7. -/
def headerBytes (t : Nat) (v : Troop) (cs : List Nat) (st : Nat) : List Byte :=
  let k := coreOfTroop t
  leBytes 64 (v.sgw.toNat + st * 2 ^ 48 + k % 64 * 2 ^ 50 + 2 ^ 56 + dieOfCore k * 2 ^ 64 + v.index * 2 ^ 72 + v.lid * 2 ^ 96
    + liveWord cs * 2 ^ 128 + shapesWord v * 2 ^ 192)
/-- Row-major elements of an accumulator of n bytes. -/
def accBytes (t : Troop) (c n : Nat) : List Byte :=
  (List.range (n / 4)).flatMap (fun e =>
    let w := shapeN (t.shapeOf c)
    leBytes 4 (if e / w < shapeM (t.shapeOf c) then (sget t.acc 0 (c * 4096 + 64 * (e / w) + e % w)).toNat else 0))

/-! ### Crew records (R379 Table 8) -/

def tokenWord (k : Token) : Nat :=
  k.cnt % 64 + (match k.status with
    | .ok => 0
    | .fault c => 2 ^ 6 + c % 256 * 2 ^ 8
    | .nak r i m => 2 * 2 ^ 6 + r % 256 * 2 ^ 8 + i % 32 * 2 ^ 16 + natOfBit m * 2 ^ 21)
def lifeCode : Life → Nat | .eligible => 0 | .pending => 1 | .parked => 2 | .signed => 3 | .saved => 4 | .exited => 5
/-- R375: a Pending strand is recorded as Eligible. -/
def heldLife (l : Life) : Life := match l with | .pending => .eligible | l => l
/-- An undelivered fault of a strand: time, entry of the list, and whether the record may drop it to the log. -/
structure FaultEnt where
  time : Nat
  lane : Nat
  cls : Nat
  cause : Nat
  tok : Option Nat
  tval : Word
  taddr : Dword
  deriving DecidableEq, Repr
def faultBytes (e : FaultEnt) : List Byte :=
  leBytes 4 (e.lane + e.cls * 2 ^ 5 + e.cause * 2 ^ 8 + e.tok.getD 0 * 2 ^ 16 + natOfBit e.tok.isSome * 2 ^ 20) ++ leBytes 4 e.tval.toNat
    ++ leBytes 8 e.taddr.toNat
def State.strandFaults (s : State) (x : Nat) : List FaultEnt :=
  let t := s.strand x
  t.faults.map (fun f => { time := f.time, lane := laneOf x, cls := 1, cause := f.cause, tok := f.tok, tval := f.tval, taddr := f.taddr })
    ++ ((s.troop (troopOf x)).tfaults.filter (fun f => f.anchor == x && !f.delivered)).map (fun f =>
        { time := f.time, lane := laneOf x, cls := 2, cause := f.cause, tok := (f.op.crews.find? (fun q => q.1 == crewOf x)).bind (·.2), tval := f.tval, taddr := f.taddr })
    ++ (match t.naks with
        | [] => []
        | n :: rest => [{ time := n.2.2, lane := laneOf x, cls := 3, cause := causePutNak, tok := none,
                          tval := nakTval n.1 n.2.1 !rest.isEmpty, taddr := 0 }])
/-- Undelivered faults of a crew, by time. -/
def State.crewFaults (s : State) (c : Nat) : List FaultEnt := sortBy (·.time) ((s.liveLanes c).flatMap s.strandFaults)
def faultList (fs : List FaultEnt) : List Byte := leBytes 8 (min 13 fs.length) ++ padTo 208 ((fs.take 13).flatMap faultBytes)
/-- The strand has signed a phase that is still open. -/
def State.hasSigned (s : State) (x : Nat) : Bool :=
  signedIn (s.crew (crewOf x)).h0 x || (s.troop (troopOf x)).hitches.any (fun h => signedIn h.2.phase x)
def State.strandBlobs (s : State) (off x : Nat) : List (Nat × Blob) :=
  match sfind s.strands x with
  | none => [(off, .bytes (List.replicate 112 0))]
  | some t =>
    let life := if t.life = .saved then t.held else heldLife t.life
    [(off, .bytes (leBytes 8 t.pc.toNat ++ leBytes 8 (lifeCode life + t.step * 2 ^ 3 + t.nakMarks.toNat * 2 ^ 9) ++ leBytes 8 t.trappc.toNat
        ++ leBytes 4 t.cause.toNat ++ leBytes 4 t.tval.toNat ++ leBytes 8 t.taddr.toNat ++ leBytes 4 t.preds.toNat ++ leBytes 16 t.fill.toNat
        ++ leBytes 4 (sget t.regs 0 126).toNat ++ leBytes 4 (sget t.regs 0 127).toNat)),
     (off + 68, if s.hasSigned x then .open_ 44 else .bytes (List.replicate 44 0))]
def State.blockBlobs (s : State) (off c : Nat) : List (Nat × Blob) :=
  let top := min 126 (32 * ((s.crew c).ext + 1))
  (List.range 128).map (fun r => (off + 128 * r, .bytes ((List.range 32).flatMap (fun v =>
    leBytes 4 (if r < top then (s.rdX (32 * c + v) r).toNat else 0)))))
def State.growRank (s : State) (c : Nat) : Nat := (s.growReqs (troopOfCrew c)).findIdx (fun r => r.1 == c)
def State.crewBlobs (s : State) (off c : Nat) (alone : Bool) : List (Nat × Blob) :=
  let v := s.crew c
  let rein := (s.troop (troopOfCrew c)).reins.any (fun p => p.2.2 == crewIdx c)
  let gt := match v.grow with
    | some g => g.1 % 4
    | none => 0
  let head := roleNum v.role + v.unit * 4 + v.ext * 2 ^ 5 + natOfBit rein * 2 ^ 7 + natOfBit v.grow.isSome * 2 ^ 8 + gt * 2 ^ 9
  let counts := v.ld % 64 + v.st % 64 * 2 ^ 6 + v.en % 64 * 2 ^ 12 + v.tl % 64 * 2 ^ 18 + v.pt % 64 * 2 ^ 24
  let log := padTo 64 (v.log.flatMap (fun r => leBytes 8 r.toNat)) ++ leBytes 8 (v.log.length + v.lost * 2 ^ 8)
  [(off, .bytes (leBytes 8 head ++ leBytes 8 v.retired ++ leBytes 8 counts ++ leBytes 8 (if v.grow.isSome then s.growRank c else 0)
      ++ nats 4 ((List.range 16).map (fun w => tokenWord (sget v.toks {} w))) ++ nats 4 ((List.range 32).map (fun i => (sget v.k 0 i).toNat))
      ++ log ++ (if alone then faultList (s.crewFaults c) else List.replicate 216 0)))]
    ++ (List.range 32).flatMap (fun i => s.strandBlobs (off + 0x200 + 112 * i) (32 * c + i))
    ++ s.blockBlobs (off + 0x1000) c
/-- R378 Table 6, of a troop-level save. -/
def State.troopBlobs (s : State) (t : Nat) : List (Nat × Blob) :=
  let v := s.troop t
  let cs := (s.crewsOf t).filter (fun c => (s.liveLanes c) != [])
  let tg := sgwTile v.sgw.toNat
  let ag := sgwAcc v.sgw.toNat
  let sg := sgwSpm v.sgw.toNat
  let ops := v.eimage.length + v.kimage.length
  [(0, .bytes (headerBytes t v cs 2))] ++ (List.range 32).flatMap (fun h => hitchBlobs h (sfind v.hitches h))
    ++ entries 0x440 32 6 ((List.range 5).map (fun u => match sfind v.rots u with
        | some r => .bytes (rotBytes r)
        | none => .bytes (List.replicate 32 0)))
    ++ [(0x500, .bytes (padTo 256 (fidBytes v)))]
    ++ entries 0x600 64 16 ((List.range 16).map (fun h => .bytes (leBytes 64 (sget v.recs 0 h).toNat)))
    ++ entries 0xA00 64 16 ((List.range 16).map (fun h => if (sfind v.kv h).isSome then .open_ 64 else .bytes (List.replicate 64 0)))
    ++ (List.range 16).flatMap (fun c =>
        let q : Chan := sget v.chans {} c
        [(0xE00 + 16 * c, .bytes (nats 4 [q.occ, q.head])), (0xE08 + 16 * c, if q.occ = 0 then .bytes (List.replicate 8 0) else .open_ 8)])
    ++ entries 0xF00 16 48 (v.simage.map (fun e => .bytes (scoreBytes e)))
    ++ entries 0x1200 64 16 ((v.timage ++ v.theld).map (fun _ => .open_ 64))
    ++ [(0x1600, .bytes (leBytes 8 v.progress.toNat)), (0x1608, if v.tfaults.isEmpty then .bytes (List.replicate 56 0) else .open_ 56)]
    ++ entries 0x1800 64 32 (List.replicate ops (.open_ 64))
    ++ entries 0x2000 2048 16 (v.bimage.map (fun _ => .open_ 2048))
    ++ (List.range 64).flatMap (fun i =>
        if cs.contains (64 * t + i) then s.crewBlobs (0xA000 + 20480 * i) (64 * t + i) ((s.crew (64 * t + i)).res == .saved)
        else [(0xA000 + 20480 * i, .bytes (List.replicate 20480 0))])
    ++ (List.range 16).map (fun n => (0x150000 + 1024 * tg * n, .bytes (mread v.tiles (65536 * n) (1024 * tg))))
    ++ (List.range 16).map (fun n => (0x150000 + 16384 * tg + 1024 * ag * n, .bytes (accBytes v n (1024 * ag))))
    ++ [(0x150000 + 16384 * (tg + ag), .bytes (mread v.spm 0 (16384 * sg)))]
def areaSize (sgw : Nat) : Nat := 1376256 + 16384 * (sgwTile sgw + sgwAcc sgw + sgwSpm sgw)
def State.saveArea (s : State) (t : Nat) : Nat := (s.launchOf t).save + (s.troop t).index * areaSize (s.troop t).sgw.toNat

/-! ## Reading an area back (R376) -/

/-- The state a record gives a strand: Pending is restored as Eligible (R375), and a number that is no state, or Saved, leaves
the one held (DESIGN CHOICE, log 14). -/
def heldOf (old : Life) (n : Nat) : Life :=
  match n with
  | 0 | 1 => .eligible
  | 2 => .parked
  | 3 => .signed
  | 5 => .exited
  | _ => old
/-- A strand from its 112 bytes and its registers. Reserved bits of `CAUSE` read zero, and the PC is a multiple of 4, whatever
stands there (R6, R66; DESIGN CHOICE, log 14). -/
def Strand.reload (t : Strand) (b : List Byte) (regs : List Word) : Strand :=
  let n := natAt b 8 8
  let all := regs ++ [w32 (natAt b 60 4), w32 (natAt b 64 4)]
  { t with pc := pcOf (natAt b 0 8), held := heldOf t.held (n % 8), step := bits n 8 3, nakMarks := BitVec.ofNat 16 (bits n 24 9),
           trappc := BitVec.ofNat 64 (natAt b 16 8), cause := w32 (natAt b 24 4) &&& causeMask, tval := w32 (natAt b 28 4),
           taddr := BitVec.ofNat 64 (natAt b 32 8), preds := BitVec.ofNat 7 (natAt b 40 4), fill := BitVec.ofNat 128 (natAt b 44 16),
           regs := (all.zipIdx.filter (fun p => p.1 != 0)).map (fun p => (p.2, p.1)) }
/-- A token word; a status code that is not used leaves the status it had. -/
def Token.reload (k : Token) (w : Nat) : Token :=
  { k with cnt := bits w 5 0, status := match bits w 7 6 with
    | 0 => .ok
    | 1 => .fault (bits w 15 8)
    | 2 => .nak (bits w 15 8) (bits w 20 16) (bitOf w 21)
    | _ => k.status }
/-- What a crew's record gives back, beyond the slot and unit it takes anew; `times` are those of the troop's waiting `grow`
requests, by rank. -/
def Crew.reload (v : Crew) (b : List Byte) (times : List Nat) : Crew :=
  let n := natAt b 16 8
  let h := natAt b 0 8
  { v with role := if bits h 1 0 = 3 then v.role else roleOf (bits h 1 0), ext := bits h 6 5,
           grow := if bitOf h 8 then some (bits h 10 9, times.getD (natAt b 24 8) (natAt b 24 8)) else none,
           retired := natAt b 8 8, ld := bits n 5 0, st := bits n 11 6, en := bits n 17 12, tl := bits n 23 18, pt := bits n 29 24,
           toks := (List.range 16).foldl (fun m w => sset m {} w ((sget v.toks {} w).reload (natAt b (32 + 4 * w) 4))) v.toks,
           k := (List.range 32).foldl (fun m i => sset m 0 i (w32 (natAt b (96 + 4 * i) 4))) v.k,
           log := (List.range (min 8 (byteAt b 288 % 16))).map (fun i => BitVec.ofNat 64 (natAt b (224 + 8 * i) 8)),
           lost := byteAt b 289 }
/-- An entry of a fault list (R379 Table 8). -/
def faultAt (b : List Byte) (i : Nat) : FaultEnt :=
  let a := 0x130 + 16 * i
  let h := natAt b a 4
  { time := 0, lane := bits h 4 0, cls := bits h 7 5, cause := bits h 15 8, tok := if bitOf h 20 then some (bits h 19 16) else none,
    tval := w32 (natAt b (a + 4) 4), taddr := BitVec.ofNat 64 (natAt b (a + 8) 8) }
/-- The fault of a strand that an entry was made from. -/
def State.faultOf (s : State) (x : Nat) (e : FaultEnt) : Option Deferred :=
  (s.strand x).faults.find? (fun f => f.time == e.time && f.cause == e.cause && f.tval == e.tval)
/-- The undelivered faults of a strand from the list: an entry that stands where one was written keeps what the list does not
hold of it (log 14). `old` are the faults as they were listed, `new` the entries read. -/
def State.reloadFaults (s : State) (old new : List FaultEnt) (x : Nat) : State :=
  let mine (c : Nat) (e : FaultEnt) : Bool := e.cls == c && 32 * crewOf x + e.lane == x
  let en := (new.zipIdx.filter (fun p => mine 1 p.1)).map (fun p =>
    let base : Deferred := ((old[p.2]?).filter (mine 1)).bind (s.faultOf x)
      |>.getD { cls := .en, time := 0, cause := 0, tval := 0, taddr := 0, tok := none, obj := none }
    { base with cause := p.1.cause, tval := p.1.tval, taddr := p.1.taddr, tok := p.1.tok })
  let later := ((old.drop 13).filter (mine 1)).filterMap (s.faultOf x)
  let now := (((old.find? (mine 3)).map (·.time)).getD 0)
  let pt := (new.filter (mine 3)).flatMap (fun e =>
    let n := e.tval.toNat
    let r := (bits n 3 0, bits n 8 4, now)
    if bitOf n 31 then [r, r] else [r])
  s.modStrand x (fun t => { t with faults := en ++ later, naks := if (old.drop 13).any (mine 3) then t.naks else pt })
/-- The fault list of a record, of `n` entries at most 13, is read back; tile faults keep their ops, with the cause and values
read. -/
def State.reloadList (s : State) (c : Nat) (b : List Byte) : State :=
  let old := s.crewFaults c
  let new := (List.range (min 13 (byteAt b 0x128))).map (faultAt b)
  let s1 := (s.liveLanes c).foldl (fun s x => s.reloadFaults old new x) s
  (new.zipIdx.filter (fun p => p.1.cls == 2)).foldl (fun s p => match (old[p.2]?).filter (fun o => o.cls == 2 && o.lane == p.1.lane) with
    | none => s
    | some o => s.modTroop (troopOfCrew c) (fun v => { v with tfaults := v.tfaults.map (fun f =>
        if f.anchor = 32 * c + o.lane ∧ !f.delivered ∧ f.time = o.time then { f with cause := p.1.cause, tval := p.1.tval, taddr := p.1.taddr } else f) })) s1
/-- Registers of a lane from the words of a record's blocks. -/
def laneRegs (ws : List Word) (v : Nat) : List Word := (List.range 126).map (fun r => ws.getD (32 * r + v) 0)
/-- A crew's record is read back into its crew and its saved strands; the fault list is that of a crew saved by itself. -/
def State.reloadCrew (s : State) (times : List Nat) (c : Nat) (b : List Byte) : State :=
  let ws := wordsOf (b.drop 0x1000)
  let s0 := if (s.troop (troopOfCrew c)).res = .resident then s.reloadList c b else s
  let s1 := s0.modCrew c (fun v => v.reload b times)
  let s2 := if bitOf (natAt b 0 8) 7 then s1.modTroop (troopOfCrew c) (fun v =>
      { v with reins := v.reins.map (fun p => if p.1 = crewIdx c ∨ p.2.1 = crewIdx c then (p.1, p.2.1, crewIdx c) else p) }) else s1
  (s.liveLanes c).foldl (fun s x => if (s.strand x).life = .saved then
    s.modStrand x (fun t => t.reload ((b.drop (0x200 + 112 * laneOf x)).take 112) (laneRegs ws (laneOf x))) else s) s2
/-- A declaration word (R129); a mask's declaring crew is the one State holds. -/
def Decl.reload (d : Decl) (w : Nat) : Decl :=
  match bits w 63 62 with
  | 0 => .undeclared
  | 1 => .count (bits w 44 34 + 1)
  | 2 => .mask (BitVec.ofNat 32 w) (match d with
    | .mask _ c => c
    | .undeclared | .count _ => 0)
  | _ => d
def Hitch.reload (h : Hitch) (w p : Nat) : Hitch :=
  { decl := h.decl.reload w, pend := if bitOf w 60 then some ((h.pend.getD .undeclared).reload p) else none,
    phase := { h.phase with parity := bitOf w 61 } }
def Rot.reload (r : Rot) (lo hi : Nat) : Rot :=
  { r with turn := bits lo 5 0, round := bits lo 95 64,
           crews := (List.range 64).filter (fun c => if c < 6 then bitOf hi c else bitOf lo c) }
def Score.reload (e : Score) (w : Nat) : Score :=
  { e with wlo := bits w 61 47, whi := bits w 46 31, rlo := bits w 30 16, rhi := bits w 15 0 }
def fidReload (t : Troop) (b : List Byte) : Sparse FidStream :=
  (List.range 16).foldl (fun m i => sset m {} i
    { cnt := natAt b (8 + 12 * i) 4, flag := bitOf (natAt b (12 + 12 * i) 4) 0, exceed := natAt b (16 + 12 * i) 4 }) t.fid
/-- Elements of the accumulators, row-major in the shapes of the header. -/
def accReload (shape : Nat → BitVec 4) (ag : Nat) (b : List Byte) : Sparse Word :=
  let ws := wordsOf b
  (List.range 16).flatMap (fun c =>
    let w := shapeN (shape c)
    let n := min (256 * ag) (w * shapeM (shape c))
    (((ws.drop (256 * ag * c)).take n).zipIdx.filter (fun p => p.1 != 0)).map (fun p => (c * 4096 + 64 * (p.2 / w) + p.2 % w, p.1)))
/-- The parts of the area whose layout the spec gives, but for the crew records: `b` its first 0x1640 bytes, `g` the tiles,
accumulators and scratchpad. -/
def Troop.reload (v : Troop) (b g : List Byte) : Troop :=
  let tg := sgwTile v.sgw.toNat
  let ag := sgwAcc v.sgw.toNat
  let sh := natAt b 24 8
  { v with shapes := (List.range 16).foldl (fun m k => sset m 0 k (BitVec.ofNat 4 (sh / 2 ^ (4 * k)))) v.shapes,
           hitches := v.hitches.map (fun h => (h.1, h.2.reload (natAt b (0x40 + 32 * h.1) 8) (natAt b (0x48 + 32 * h.1) 8))),
           rots := v.rots.map (fun r => (r.1, r.2.reload (natAt b (0x440 + 32 * r.1) 16) (natAt b (0x450 + 32 * r.1) 16))),
           fidrate := w32 (natAt b 0x500 4 % 32), fidthr := w32 (natAt b 0x504 4), fid := fidReload v (b.drop 0x500),
           recs := (List.range 16).foldl (fun m h => if natAt b (0x600 + 64 * h) 64 = 0 then sdel m h
             else sput m h (BitVec.ofNat 512 (natAt b (0x600 + 64 * h) 64))) v.recs,
           chans := v.chans.map (fun c => (c.1, { c.2 with occ := natAt b (0xE00 + 16 * c.1) 4, head := natAt b (0xE04 + 16 * c.1) 4 })),
           simage := v.simage.zipIdx.map (fun e => e.1.reload (natAt b (0xF00 + 16 * e.2) 16)),
           progress := BitVec.ofNat 64 (natAt b 0x1600 8),
           tiles := (List.range 16).foldl (fun m n => mwrite m (65536 * n) ((g.drop (1024 * tg * n)).take (1024 * tg))) [],
           acc := accReload (fun k => BitVec.ofNat 4 (sh / 2 ^ (4 * k))) ag ((g.drop (16384 * tg)).take (16384 * ag)),
           spm := mwrite [] 0 (g.drop (16384 * (tg + ag))) }
/-- A crew's record stands at this offset of the area. -/
def recordAt (c : Nat) : Nat := 0xA000 + 20480 * crewIdx c
/-- What a restore reads of the area: offsets and lengths. -/
def State.areaParts (s : State) (t : Nat) (whole : Bool) (cs : List Nat) : List (Nat × Nat) :=
  let g := (s.troop t).sgw.toNat
  let recs := cs.map (fun c => (recordAt c, 20480))
  if whole then (0, 0x1640) :: (0x150000, 16384 * (sgwTile g + sgwAcc g + sgwSpm g)) :: recs else recs
/-- A context is read back from its area. Nonzero bytes where the header or a record is reserved or zero are not looked at:
chapter 17 names no fault for them (DESIGN CHOICE, log 14). -/
def State.reloadCtx (s : State) (t : Nat) (whole : Bool) (cs : List Nat) : Except VErr State :=
  match s.ctlReads (s.launchOf t).queue s.ev.data ((s.areaParts t whole cs).map (fun p => (s.saveArea t + p.1, p.2))) with
  | .error e => .error e
  | .ok (bs, s1) =>
    let s2 := if whole then s1.modTroop t (fun v => v.reload (bs.headD []) (bs.getD 1 [])) else s1
    let times := (s.growReqs t).map (·.2.2)
    .ok ((cs.zip (if whole then bs.drop 2 else bs)).foldl (fun s p => s.reloadCrew times p.1 p.2) s2)

end Sys2Proof.Machine
end

