-- ==== Sys2Proof/Machine/Context.lean ====
section
/-! DEFINITION. Context.lean: troops that end early, pre-emption, the save area and the restore
(spec/17_traps_context.md R370-R381; spec/14_queues.md R315, R317; spec/08_registers_tile.md R171, R182;
spec/15_tables.md R320-R322). -/

namespace Sys2Proof.Machine

/-! ## A troop whose context is lost (R164, R317, R381) -/

/-- Held PUTs to the troop's registers are answered with reason 6 (R164). -/
def State.refuseHeld (s : State) (t : Nat) : State :=
  let mine (m : PutMsg) : Bool :=
    !s.putAway m && s.putHeld m && troopOfCrew (s.cap (cwCore m.word) (cwEntry m.word)).crew == t
  (s.puts.filter mine).foldl (fun s m =>
    let s1 := s.dropPut m.id
    match m.tag with
    | some g => s1.uaAnswer (m.src % 256) putAnswerPort (answerBytes g.toNat 6)
    | none =>
      let a : PutAns := { id := m.id, src := m.src, tok := m.tok, idx := m.idx, reason := 6 }
      { s1 with putAns := s1.putAns ++ [a] }) s
/-- R230 does not say whether a gather lost with its troop is counted in `gin` for ever: one in its core's queue leaves it, one suspended
in a saved troop's image does not (DESIGN CHOICE, log 15). -/
def State.dropGathers (s : State) (t : Nat) : State :=
  ((s.core (coreOfTroop t)).kq.filter (fun o => o.troop == t)).foldl (fun s o =>
    match s.kvBind t o.handle with
    | some b => s.ungather b o
    | none => s) s
/-- The context goes: strands, ops where they stand, capabilities, handles, macros, bins. -/
def State.loseTroop (s : State) (t : Nat) : State :=
  let s1 := (s.refuseHeld t).dropGathers t
  let s2 := (s1.crewsOf t).foldl (fun s c => s.removeCrew c) s1
  let s3 := s2.modCore (coreOfTroop t) (fun k =>
    { k with tq := k.tq.filter (fun o => o.troop != t), sqe := k.sqe.filter (fun o => o.troop != t),
             xqe := k.xqe.filter (fun o => o.troop != t), kq := k.kq.filter (fun o => o.troop != t) })
  let s4 := s3.modDie (dieOfCore (coreOfTroop t)) (fun d => { d with savedCtx := d.savedCtx.filter (fun e => e.1 != t) })
  s4.removeTroop t
/-- A grid places no further troop and will end with a status. -/
def State.closeLaunch (s : State) (lid status : Nat) : State :=
  s.modLaunch lid (fun l => { l with closing := some (l.closing.getD status) })
/-- Troops of a launch, resident or saved. -/
def State.troopsOf (s : State) (lid : Nat) : List Nat := (s.troops.filter (fun t => t.2.lid == lid)).map (·.1)
/-- R317: every troop of the grid is halted and its record written with status 2. -/
def State.loseGrid (s : State) (lid : Nat) : Out :=
  let s1 := s.closeLaunch lid 2
  ((s1.troopsOf lid).foldl State.loseTroop s1).settleLaunch lid
/-- Grids that end one after another. -/
def State.loseGrids (s : State) : List Nat → Out
  | [] => .next s
  | l :: ls => match s.loseGrid l with
    | .next s1 => s1.loseGrids ls
    | .fault e => .fault e
    | .refused r => .refused r
/-- A pair of loops between the dies has failed (R396). -/
def State.diesCut (s : State) : Bool := (List.range 4).any (fun j => !s.loopOk (64 + 2 * j) && !s.loopOk (65 + 2 * j))
/-- PUTs on a path that is lost are answered with reason 5 at their senders (R164). -/
def State.putsLost (s : State) (gone : PutMsg → Bool) : State :=
  (s.puts.filter gone).foldl (fun s m => (s.dropPut m.id).putEnded m.src m.tok m.idx 5) s
/-- A PUT that a failed pair of loops carried. -/
def State.onCut (s : State) (m : PutMsg) : Bool :=
  s.loopPkts.any (fun p => p.id == m.id && !p.got && decide (64 ≤ p.loop) && !s.loopOk p.loop && !s.loopOk (partner p.loop))
/-- The event of a lost link; what its value holds is log 20. -/
def State.postLoss (s : State) (lids : List Nat) : State :=
  lids.foldl (fun s l => match s.launchAt l with
    | some v => (s.devEvent v.die 9 v.queue 0 l).evRecord (s.queueOwner v.queue) (evBytes 5 0 v.die l)
    | none => s) s
/-- Dies `unit` and `item` have lost a path between them, or (`flag`) package `item` has no live port left, and launch
`aux` spans it. -/
def execLinkLoss (s : State) : Out :=
  if s.ev.flag then
    let hit := (s.launches.filter (fun l => l.1 == s.ev.aux && l.2.spanId != 0 && l.2.closing.isNone)).map (·.1)
    if s.ev.item = s.pkg.toNat ∨ s.routeOk s.ev.item then .next s
    else
      let s1 := s.putsLost (fun m => m.tag.isNone && cwPkg m.word == s.ev.item)
      (s1.postLoss hit).loseGrids hit
  else
    let hit := (s.launches.filter (fun l => l.2.dies.testBit s.ev.unit && l.2.dies.testBit s.ev.item && l.2.closing.isNone)).map (·.1)
    if s.ev.unit = s.ev.item ∨ !s.diesCut then .next s
    else
      let s1 := s.putsLost s.onCut
      (s1.postLoss hit).loseGrids hit

/-- R381: every context of the die is lost; its grids end with status 4 once their other troops have retired. -/
def State.resetDie (s : State) (d : Nat) : Out :=
  let ts := (s.troops.filter (fun t => dieOfCore (coreOfTroop t.1) == d)).map (·.1)
  let lids := (ts.map (fun t => (s.troop t).lid)).eraseDups
  let s1 := lids.foldl (fun s l => s.closeLaunch l 4) (ts.foldl State.loseTroop s)
  let s2 := ((List.range 64).map (· + 64 * d)).foldl (fun s k => s.modCore k (fun c =>
    { c with l1 := [], miss := [], macros := [], mowner := [], bins := [] })) s1
  let s3 := { s2 with past := s2.past.filter (fun p => dieOfCore (coreOfTroop p.1) != d) }.modDie d (fun v => { v with keys := [], walks := [], wfaults := [], kfaults := [], savedCtx := [] })
  lids.foldl (fun r l => match r with
    | .next s => s.settleLaunch l
    | r => r) (.next s3)
/-- `HALT` of die `unit` is written with `value`. -/
def execHaltWrite (s : State) : Out :=
  let v := s.ev.value.toNat
  let t := 64 * (64 * s.ev.unit + bits v 5 0) + bits v 11 6
  .next (if 8 ≤ s.ev.unit then s else s.winStore s.ev.unit 0x428 (if (sfind s.troops t).isSome then s.haltTroop t else s))

/-! ## Requests (R373, R374, R388) -/

/-- R171: the crew awaits an op held behind a tile fault, or queued behind one. -/
def State.awaitsHeld (s : State) (c : Nat) : Bool :=
  (s.troop (troopOfCrew c)).theld.any (fun o => o.sigs.any (fun g => crewOf g.x == c && !g.gone && !g.dsts.isEmpty)) ||
  (s.troop (troopOfCrew c)).tfaults.any (fun f => f.op.sigs.any (fun g => crewOf g.x == c && !g.gone && !g.dsts.isEmpty))
/-- A troop-level request absorbs those of its crews; a second request merges. -/
def State.askTroop (s : State) (t age : Nat) : State :=
  let s1 := (s.crewsOf t).foldl (fun s c => s.modCrew c (fun v => if v.saving then v else { v with saveReq := none })) s
  s1.modTroop t (fun v => { v with saveReq := some (v.saveReq.getD age) })
def State.askCrew (s : State) (c : Nat) : State :=
  let t := troopOfCrew c
  if (s.troop t).saveReq.isSome then s
  else if s.awaitsHeld c then s.askTroop t 0
  else s.modCrew c (fun v => { v with saveReq := some (v.saveReq.getD 0) })
/-- A crew or troop that a save may be asked of. -/
def State.canSaveTroop (s : State) (t : Nat) : Bool :=
  (sfind s.troops t).isSome && (s.troop t).res == .resident && ((s.crewsOf t).flatMap s.liveLanes) != []
def State.canSaveCrew (s : State) (c : Nat) : Bool :=
  s.canSaveTroop (troopOfCrew c) && s.hasCrew c && (s.crew c).res == .resident && s.liveLanes c != []
/-- The save of a crew that now awaits a held op becomes one of its troop. -/
def State.raiseLevel (s : State) (c : Nat) : State :=
  if s.awaitsHeld c then
    (s.modCrew c (fun v => { v with saveReq := none, saving := false })).askTroop (troopOfCrew c) ((s.crew c).saveReq.getD 0)
  else s
/-- R374: the save of a crew begins. -/
def State.beginCrew (s : State) (c : Nat) : State :=
  let s1 := s.raiseLevel c
  if (s1.crew c).saveReq.isNone then s1
  else s1.modCrew c (fun v => { v with saving := true, grow := none })
def State.beginTroop (s : State) (t : Nat) : State :=
  s.modTroop t (fun v =>
    { v with saving := true, saveHead := ((s.core (coreOfTroop t)).tq.find? (fun o => o.troop == t)).map (·.opid) })
/-- `SAVE` of die `unit` is written with `value`. -/
def execSaveWrite (s : State) : Out :=
  let v := s.ev.value.toNat
  let t := 64 * (64 * s.ev.unit + bits v 5 0) + bits v 11 6
  let c := 64 * t + bits v 17 12
  .next (if 8 ≤ s.ev.unit then s
    else s.winStore s.ev.unit 0x410 (if (s.launchOf t).save = 0 then s
    else if bits v 17 12 = 63 then (if s.canSaveTroop t then (s.askTroop t 0).beginTroop t else s)
    else if s.canSaveCrew c && (s.troop t).saveReq.isNone then (s.askCrew c).beginCrew c
    else s))
/-- 65,536 cycles of the home core have passed since the request to troop `unit`, or crew `unit` (`flag`). -/
def execGracePeriodExpiry (s : State) : Out :=
  let n := s.ev.unit
  let due (r : Option Nat) : Bool := match r with
    | some a => decide (65536 ≤ a)
    | none => false
  .next (if s.ev.flag then
      (if s.hasCrew n && due (s.crew n).saveReq && !(s.crew n).saving && !s.still (coreOfTroop (troopOfCrew n)) then s.beginCrew n else s)
    else if (sfind s.troops n).isSome && due (s.troop n).saveReq && !(s.troop n).saving && !s.still (coreOfTroop n) then s.beginTroop n
    else s)

/-! ## Saving (R374, R375) -/

/-- Parked, Signed or Exited (R374). -/
def atRest (l : Life) : Bool := match l with | .parked | .signed | .exited => true | .eligible | .pending | .saved => false
/-- R375 step 2. -/
def State.crewSettled (s : State) (c : Nat) (alone : Bool) : Bool :=
  let v := s.crew c
  v.ld == 0 && v.st == 0 && v.pt == 0 && v.sq.isEmpty && !s.bankWaits c && s.chanMsgs.all (fun m => m.crew != c)
    && (!alone || (s.liveLanes c).all (fun x => (s.strand x).pend == 0))
/-- Issue sequences of a troop's engine ops that a save takes along: the suspended ones (R241, R266), and what cannot start
before a tile op of the image is over, which no running to retirement could reach (R182, R288; log 14). -/
def State.stuckOps (s : State) (t : Nat) : List Nat :=
  let k := s.core (coreOfTroop t)
  let sq := k.sqe.filter (fun o => o.troop == t)
  let xq := k.xqe.filter (fun o => o.troop == t)
  let kv := k.kq.filter (fun o => o.troop == t)
  let rest := (sq ++ xq).filter (fun o => o.susp.isSome && o.outs.isEmpty)
  let held := rest.map (·.opid) ++ (kv.filter (fun o => o.susp.isSome)).map (·.opid)
  let tiles := (k.tq.filter (fun o => o.troop == t && !o.running)).map (·.opid)
  let entry (n : Nat) : Option Score := k.score.find? (fun e => e.troop == t && e.opid == n)
  let meets (n m : Nat) : Bool := decide (m < n) && (match entry n, entry m with
    | some a, some b => s.conflict a b
    | _, _ => false)
  let behind (l : List Nat) (n : Nat) : Bool := l.any (meets n)
  let waits (l : List Nat) (o : EngOp) (xf : Bool) : Bool := !o.active &&
    (behind l o.opid || (xf && xq.any (fun p => decide (p.opid < o.opid) && l.contains p.opid)) ||
      (o.objRing && (sq ++ xq).any (fun p => !p.active && l.contains p.opid && p.objRing && p.obj == o.obj && decide (p.opid < o.opid))))
  let kvWaits (l : List Nat) (o : KvOp) : Bool := !o.active &&
    (behind l o.opid || kv.any (fun p => decide (p.opid < o.opid) && l.contains p.opid))
  held ++ (sortBy id (sq.map (·.opid) ++ xq.map (·.opid) ++ kv.map (·.opid))).foldl (fun l n =>
    if !l.contains n && (sq.any (fun o => o.opid == n && waits l o false) || xq.any (fun o => o.opid == n && waits l o true) ||
        kv.any (fun o => o.opid == n && kvWaits l o)) then n :: l else l) tiles
/-- R375 step 3: engine ops are retired, or cannot go on; of the tile ops none runs, and the one that was first has retired,
stopped at a boundary, or waits for a suspended op. -/
def State.opsSettled (s : State) (t : Nat) : Bool :=
  let k := s.core (coreOfTroop t)
  let headDone (o : TileOp) : Bool := some o.opid != (s.troop t).saveHead || o.part || s.scoreBlocked t o.opid
  let stuck := s.stuckOps t
  (k.sqe ++ k.xqe).all (fun o => o.troop != t || stuck.contains o.opid) && k.kq.all (fun o => o.troop != t || stuck.contains o.opid) && k.tq.all (fun o => o.troop != t || (!o.running && headDone o))
/-- A strand as it is held. -/
def Strand.save (t : Strand) : Strand :=
  if t.life = .exited then t else { t with life := .saved, held := heldLife t.life }
def State.saveStrands (s : State) (c : Nat) : State := (s.liveLanes c).foldl (fun s x => s.modStrand x Strand.save) s
/-- The crew gives up its slot and blocks (R373). -/
def State.parkCrew (s : State) (c : Nat) : State :=
  ((s.remapCrew c false).saveStrands c).modCrew c (fun v => { v with res := .saved, saveReq := none, saving := false })
/-- The troop's ops, entries and bins leave the core for its image. -/
def State.takeOps (s : State) (t : Nat) : State :=
  let k := s.core (coreOfTroop t)
  let s1 := s.modTroop t (fun v =>
    { v with timage := k.tq.filter (fun o => o.troop == t), eimage := (k.sqe ++ k.xqe).filter (fun o => o.troop == t),
             kimage := k.kq.filter (fun o => o.troop == t), simage := k.score.filter (fun e => e.troop == t),
             bimage := (k.bins.filter (fun b => b.2.troop == t)).map (·.2) })
  s1.modCore (coreOfTroop t) (fun c =>
    { c with tq := c.tq.filter (fun o => o.troop != t), sqe := c.sqe.filter (fun o => o.troop != t),
             xqe := c.xqe.filter (fun o => o.troop != t), kq := c.kq.filter (fun o => o.troop != t),
             score := c.score.filter (fun e => e.troop != t),
             bins := c.bins.filter (fun b => b.2.troop != t) })
def State.savedEvent (s : State) (t : Nat) (c : Option Nat) : State :=
  let d := dieOfCore (coreOfTroop t)
  (s.modDie d (fun v => { v with savedCtx := v.savedCtx ++ [(t, c)] })).devEvent d 7 (coreOfTroop t % 64) 0 (s.troop t).index
/-- The area cannot be written or read: the troop ends as abandoned, with status 4 (R378). R242 speaks of `wb` for a troop the watchdog
abandons only; here its handles close and `wb` is cleared (DESIGN CHOICE, log 15). -/
def State.abandon (s : State) (t : Nat) : Out :=
  let lid := (s.troop t).lid
  ((s.loseTroop t).closeLaunch lid 4).settleLaunch lid
def State.writeArea (s : State) (t base : Nat) (bs : List (Nat × Blob)) (done : State → State) : Out :=
  let p := s.blobs base bs
  match p.2.ctlWrite (s.launchOf t).queue p.1 with
  | .error .reserved => .fault .reservedPhysical
  | .error _ => s.abandon t
  | .ok s1 => .next (done s1)
def State.saveCrew (s : State) (c : Nat) : Out :=
  let t := troopOfCrew c
  s.writeArea t (s.saveArea t) (s.crewBlobs (recordAt c) c true) (fun s =>
    ((s.parkCrew c).savedEvent t (some c)).allocate t)
def State.saveTroop (s : State) (t : Nat) : Out :=
  let s0 := s.takeOps t
  s0.writeArea t (s0.saveArea t) (s0.troopBlobs t) (fun s =>
    let s1 := (s.crewsOf t).foldl (fun s c => if (s.crew c).res = .resident then s.parkCrew c else s) s
    ((s1.modCore (coreOfTroop t) (fun k => { k with kvcache := k.kvcache.filter (fun e => e.troop != t) })).modTroop t (fun v =>
      { v with res := .saved, saveReq := none, saving := false, writing := false, saveHead := none })).savedEvent t none)
/-- The header says that the area is being written or read (R378). -/
def State.markArea (s : State) (t : Nat) : Out :=
  let cs := (s.crewsOf t).filter (fun c => (s.liveLanes c) != [])
  s.writeArea t (s.saveArea t) [(0, .bytes (headerBytes t (s.troop t) cs 3))] (fun s => s.modTroop t (fun v => { v with writing := true }))
/-- The parts of a saved crew's record that differ between two states. -/
def State.imageDelta (s s1 : State) (c : Nat) : List (Nat × Blob) :=
  let alone := (s1.troop (troopOfCrew c)).res == .resident
  let old := s.crewBlobs (recordAt c) c alone
  (s1.crewBlobs (recordAt c) c alone).filter (fun p => match p.2 with
    | .bytes _ => !old.contains p
    | .open_ _ => false)
/-- Crews saved before and after a step whose record the step may have changed. -/
def State.imagesMoved (s s1 : State) : List Nat :=
  let mine (s : State) (c : Nat) : Sparse Strand := s.strands.filter (fun x => crewOf x.1 == c)
  (s.crews.filter (fun c => c.2.res == .saved && (s1.crew c.1).res == .saved && s1.hasCrew c.1 &&
    (c.2 != s1.crew c.1 || mine s c.1 != mine s1 c.1
      || (s.troop (troopOfCrew c.1)).tfaults != (s1.troop (troopOfCrew c.1)).tfaults))).map (·.1)
/-- R156, R375: what a step `s` to `s1` has changed of a saved crew is entered in its record: PUTs, EN and TL, tokens,
faults. -/
def State.keepImages (s s1 : State) : Out :=
  (s.imagesMoved s1).foldl (fun (r : Out) c => match r with
    | .next s2 => if (s2.crew c).res = .saved then s2.writeArea (troopOfCrew c) (s2.saveArea (troopOfCrew c)) (s.imageDelta s2 c) id else r
    | r => r) (.next s1)
/-- What follows a step `s` to `s1`: producers whose last store has been performed are noted (R39, R399), and records of
saved crews are brought up to date. -/
def State.afterStep (s s1 : State) : Out := s.keepImages ((s1.launches.map (·.1)).foldl State.noteLaunch s1)
/-- The save area of a troop is not within reach of its die's controller yet. -/
def State.areaHeld (s : State) (t : Nat) : Bool :=
  s.ctlHeld (dieOfCore (coreOfTroop t)) (s.launchOf t).queue needR ((s.areaParts t true (s.crewsOf t)).map (fun p => (s.saveArea t + p.1, p.2)))
/-- The save of troop `unit`, or of crew `unit` (`flag`), goes on: it begins once every live strand is quiet, and ends
once everything outstanding has settled. -/
def execContextSave (s : State) : Out :=
  let n := s.ev.unit
  if s.ev.flag then
    let v := s.crew n
    if !s.hasCrew n || v.saveReq.isNone || s.still (coreOfTroop (troopOfCrew n)) then .next s
    else if !v.saving then .next (if (s.liveLanes n).all (fun x => atRest (s.strand x).life) then s.beginCrew n else s)
    else if s.awaitsHeld n then .next (s.raiseLevel n)
    else if s.crewSettled n true && !s.areaHeld (troopOfCrew n) then s.saveCrew n
    else .next s
  else
    let v := s.troop n
    let cs := (s.crewsOf n).filter (fun c => (s.crew c).res == .resident)
    if (sfind s.troops n).isNone || v.saveReq.isNone || s.still (coreOfTroop n) then .next s
    else if !v.saving then
      .next (if (cs.flatMap s.liveLanes).all (fun x => atRest (s.strand x).life) then s.beginTroop n else s)
    else if cs.all (fun c => s.crewSettled c false) && s.opsSettled n && !s.bankDue n && !s.areaHeld n then (if v.writing then s.saveTroop n else s.markArea n)
    else .next s

/-! ## Restoring (R23, R320, R376, R377) -/

/-- A Parked strand rechecks its condition: what it waited for is met, or its instruction is tried again. A `pin` whose
request stands, and a `grow` whose crew's request does, wait on. -/
def Strand.unsave (t : Strand) (pinned grows : Bool) : Strand :=
  if t.life != .saved then t
  else
    let w := match t.wait with
      | .fill r => .fill r
      | .clock a => .clock a
      | .grow => if grows then .grow else .retry
      | .request n => if pinned then .request n else .retry
      | .none | .result _ | .key _ _ _ | .retry => .retry
    { t with xl := [], fetched := none, life := if t.held = .signed then .signed else .parked, wait := if t.held = .signed then .none else w }
/-- Strands of a crew come back; the Eligible ones, given first, take stamps in order of their saved ones; those the record
has exited exit. -/
def State.enterStrands (s : State) (xs : List Nat) : State :=
  let elig := sortBy (fun x => (s.strand x).stamp) (xs.filter (fun x => (s.strand x).life == .saved && (s.strand x).held == .eligible))
  let gone := xs.filter (fun x => (s.strand x).life == .saved && (s.strand x).held == .exited)
  let s1 := xs.foldl (fun s x => s.modStrand x (fun t =>
    t.unsave (s.pinReqs.any (fun r => r.strand == x)) (s.crew (crewOf x)).grow.isSome)) s
  gone.foldl State.exitStrand (elig.foldl State.toEligible s1)
/-- A crew takes a unit and its lowest free slot. -/
def State.seatCrew (s : State) (c u : Nat) : State :=
  let k := coreOfTroop (troopOfCrew c)
  let n := (s.slotsFree k u).headD 0
  (s.modCrew c (fun v => { v with res := .resident, unit := u, slot := n })).remapCrew c true
/-- A tile fault that only the log tells of ends: its op is discarded (log 14). -/
def State.dropTileFault (s : State) (x : Nat) (e : FaultEnt) : State :=
  let t := troopOf x
  match (s.troop t).tfaults.find? (fun f => f.anchor == x && !f.delivered && f.time == e.time && f.cause == e.cause && f.tval == e.tval) with
  | none => s
  | some f => ((s.modTroop t (fun v => { v with tfaults := v.tfaults.erase f, tilelost := true })).tileDiscard f).pumpCore (coreOf x)
/-- R379: faults beyond 13 become kind-2 records. -/
def State.trimFaults (s : State) (c : Nat) : State :=
  ((s.crewFaults c).drop 13).foldl (fun s e =>
    let x := 32 * c + e.lane
    let s1 := s.addLog c (logRecord 2 e.cause 0 0 e.lane 0 e.tval.toNat)
    match e.cls with
    | 2 => s1.dropTileFault x e
    | 3 => s1.modStrand x (fun t => { t with naks := [] })
    | _ => s1.modStrand x (fun t =>
      { t with faults := t.faults.eraseP (fun f => f.time == e.time && f.cause == e.cause && f.tval == e.tval) })) s
/-- Quarters a saved crew may return to (R23). -/
def State.unitsBack (s : State) (c : Nat) : List Nat :=
  let t := troopOfCrew c
  let k := coreOfTroop t
  let us := s.unitsFor t (s.crew c).role
  match (s.troop t).reins.find? (fun p => p.1 == crewIdx c || p.2.1 == crewIdx c) with
  | none => us
  | some p =>
    let q := 64 * t + (if p.1 = crewIdx c then p.2.1 else p.1)
    if !s.hasCrew q then us
    else if (s.crew q).res = .resident then us.filter (· == (s.crew q).unit)
    else us.filter (fun u => decide (2 ≤ (s.slotsFree k u).length))
def isXform (o : EngOp) : Bool := (xfOf o.sub).isSome
/-- The queues, active places and scoreboard of the core have room for a troop's images (R11, R166, R251). -/
def State.imageFits (s : State) (k : Nat) (v : Troop) : Bool :=
  let c := s.core k
  let sq := v.eimage.filter (fun o => !isXform o)
  decide (c.bins.length + v.bimage.length ≤ 16) && decide (s.queueUse k + v.timage.length + v.tfaults.length ≤ 16)
    && decide (c.score.length + v.simage.length ≤ 48) && decide (c.sqe.length + sq.length ≤ 32)
    && decide (c.sqe.countP (·.active) + sq.countP (·.active) ≤ 8)
    && decide (c.xqe.length + (v.eimage.length - sq.length) ≤ 16) && decide (c.kq.length + v.kimage.length ≤ 16)
/-- Crews of a saved context. -/
def State.ctxCrews (s : State) (e : Nat × Option Nat) : List Nat :=
  match e.2 with
  | some c => [c]
  | none =>
    let apart := (s.die (dieOfCore (coreOfTroop e.1))).savedCtx.filterMap (·.2)
    (s.crewsOf e.1).filter (fun c => !apart.contains c)
/-- The context can be held now: its units. -/
def State.canRestore (s : State) (e : Nat × Option Nat) : Option (List Nat) :=
  let t := e.1
  let k := coreOfTroop t
  let l := s.launchOf t
  match e.2 with
  | some c =>
    if (s.troop t).res != .resident || (s.troop t).saving || decide (s.freeBlocks t < 1 + (s.crew c).ext) then none
    else (s.unitsBack c).head?.map (fun u => [u])
  | none =>
    let cs := s.ctxCrews e
    let here := (s.troopsOn k).any (fun q => q != t && (s.troop q).lid == l.lid && (s.troop q).res == .resident)
    let set : CrewSet := { crews := cs.map (fun c => (crewIdx c, roleNum (s.crew c).role)),
                           pairs := (s.troop t).reins.map (fun p => (p.1, p.2.1)), det := l.det }
    if here || decide (s.gransFree k < l.grans) || !s.corralFree k l.lid
        || !s.imageFits k (s.troop t) then none
    else s.chooseUnits set k allQuarters []
/-- Bins of an image take the free places. -/
def putBins : List Bin → Sparse Bin → Sparse Bin
  | [], m => m
  | b :: bs, m => putBins bs (sput m (((List.range 16).find? (fun i => (sfind m i).isNone)).getD 0) b)
/-- Landings of other troops that waited are applied to the image first (R266). -/
def State.landImage (s : State) (t : Nat) : State :=
  let d := dieOfCore (coreOfTroop t)
  let me := coreOfTroop t % 64
  ((List.range 64).map (· + 64 * d)).foldl (fun s k =>
    ((s.core k).sqe.filter (fun o => o.lands && o.todo.contains me
        && (s.troop o.troop).lid == (s.troop t).lid && o.troop != t)).foldl (fun s o => s.land k o me) s) s
/-- Ops, entries and bins of an image stand on the core again, in their order (R182, R288). -/
def State.giveOps (s : State) (t : Nat) : State :=
  let v := s.troop t
  let back := v.eimage.map (fun o => { o with susp := none })
  let s1 := s.modCore (coreOfTroop t) (fun c =>
    { c with tq := c.tq ++ v.timage, sqe := c.sqe ++ back.filter (fun o => !isXform o), xqe := c.xqe ++ back.filter isXform,
             kq := c.kq ++ v.kimage, score := c.score ++ v.simage, bins := putBins v.bimage c.bins })
  s1.modTroop t (fun v => { v with timage := [], eimage := [], kimage := [], simage := [], bimage := [] })
/-- R414: the rotation state of the old quarter stands in the one the crews return to; a crew saved by itself belongs to
its rotation still (R321). -/
def State.moveRot (s : State) (t : Nat) (us : List Nat) : State :=
  match (s.troop t).quarter, us.find? (· != 4) with
  | some old, some new =>
    let s1 := (s.crewsOf t).foldl (fun s c => s.modCrew c (fun v => if v.unit = old then { v with unit := new } else v)) s
    s1.modTroop t (fun v => { v with quarter := some new, rots := match sfind v.rots old with
      | some r => sput (sdel v.rots old) new r
      | none => v.rots })
  | _, _ => s
/-- The context, read back, takes its units; its strands enter (R376 steps 4 and 5). -/
def State.enterCtx (s : State) (e : Nat × Option Nat) (cs us : List Nat) : State :=
  let t := e.1
  let k := coreOfTroop t
  let s2 := match e.2 with
    | some c => s.trimFaults c
    | none => ((s.giveOps t).moveRot t us).modTroop t (fun v => { v with res := .resident, writing := false })
  let s3 := ((cs.zip us).foldl (fun s p => s.seatCrew p.1 p.2) s2).invL1 k
  let s4 := s3.enterStrands (cs.flatMap s3.liveLanes)
  (s4.pumpCore k).devEvent (dieOfCore k) 8 (k % 64) 0 (s.troop t).index
/-- Landings that waited are applied to the scratchpad's image as it has been read, and stand in the area too (R266). -/
def State.landedArea (s : State) (t : Nat) : Out :=
  let s1 := s.landImage t
  if s1 = s then .next s
  else
    let g := (s1.troop t).sgw.toNat
    s1.writeArea t (s1.saveArea t) [(0x150000 + 16384 * (sgwTile g + sgwAcc g), .bytes (mread (s1.troop t).spm 0 (16384 * sgwSpm g)))] id
/-- The header of an area that has been read: empty, or with images of single crews left (R378). -/
def State.freeArea (s : State) (t : Nat) : Out :=
  let st := if (s.crewsOf t).any (fun c => (s.crew c).res == .saved) then 1 else 0
  s.writeArea t (s.saveArea t) [(6, .bytes (leBytes 1 (st + coreOfTroop t % 64 * 4)))] id
/-- A context is restored in units its core has: its area is read, and a troop's is free after that. An area that cannot be
read ends the troop as one that cannot be written does (log 14). -/
def State.restoreCtx (s : State) (e : Nat × Option Nat) (us : List Nat) : Out :=
  let t := e.1
  let cs := s.ctxCrews e
  let s1 := s.modDie (dieOfCore (coreOfTroop t)) (fun v => { v with savedCtx := v.savedCtx.erase e })
  match s1.reloadCtx t e.2.isNone cs with
  | .error .reserved => .fault .reservedPhysical
  | .error _ => s1.abandon t
  | .ok s2 =>
    if e.2.isSome then .next (s2.enterCtx e cs us)
    else match s2.landedArea t with
      | .next s3 => if (sfind s3.troops t).isSome then (s3.enterCtx e cs us).freeArea t else .next s3
      | r => r
/-- R156, R376 step 2: a PUT that has come to the home core of these crews, saved, and is held or pending there. -/
def State.putWaiting (s : State) (cs : List Nat) : Option PutMsg :=
  s.puts.find? (fun m =>
    let c := s.cap (cwCore m.word) (cwEntry m.word)
    !s.putAway m && c.live && cs.contains c.crew && s.putHere m)
/-- The next part of a restore: PUTs are applied to the image one by one, the header says that the area is read, then it is
read (R376, R378). -/
def State.restorePart (s : State) (e : Nat × Option Nat) (us : List Nat) : Out :=
  match s.putWaiting (s.ctxCrews e) with
  | some m => .next (s.servePut m)
  | none => if e.2.isNone && !(s.troop e.1).writing then s.markArea e.1 else s.restoreCtx e us
/-- Some saved context of the die can be held: it goes ahead of the lottery (R376). -/
def State.restoreDue (s : State) (d : Nat) : Bool := (s.die d).savedCtx.any (fun e => (s.canRestore e).isSome)
/-- Saved context `item` of die `unit`, in the order of their saves, is restored once its home core can hold it. -/
def execContextRestore (s : State) : Out :=
  match (s.die s.ev.unit).savedCtx[s.ev.item]? with
  | none => .next s
  | some e => match s.canRestore e with
    | some us => if s.still (coreOfTroop e.1) || s.areaHeld e.1 then .next s else s.restorePart e us
    | none => .next s
/-- `n` bytes of a controller's SRAM at an offset or address. -/
def State.sram (s : State) (c a n : Nat) : List Byte := mread (s.ctl c).sram (a % 2 ^ 20) n
/-- `RESTORE` of die `unit` is written with the SRAM address `value` of a restore record. -/
def execRestoreWrite (s : State) : Out :=
  let d := s.ev.unit
  let r := s.sram d s.ev.value.toNat 64
  let named (e : Nat × Option Nat) : Bool :=
    coreOfTroop e.1 == 64 * d + byteAt r 8 && s.saveArea e.1 == natAt r 0 8
      && (match e.2 with
          | some c => byteAt r 9 == 1 && crewIdx c == byteAt r 10
          | none => byteAt r 9 == 0)
  if 8 ≤ d then .next s
  else if !(s.ctl d).machine then .next (s.hartTrap d codeStoreFault (winAddr 0x418))
  else match (s.die d).savedCtx.find? named with
  | none => .next s
  | some e => match s.canRestore e with
    | some us => if natAt r 11 53 == 0 then s.restorePart e us else .next s
    | none => .next s

/-! ## Dispatch (R313, R376, R399) -/

/-- A decision of die `unit`: restores go first; then the lottery, and one troop of the winner or its herd. -/
def execDispatchDecision (s : State) : Out :=
  let d := s.ev.unit
  let es := s.candidates d
  let sum := (es.map (·.2)).sum
  .next (if 8 ≤ d ∨ !s.booted ∨ s.restoreDue d ∨ es.isEmpty then s
    else
      let x := xorshift (s.die d).lotseed
      let s1 := s.modDie d (fun v => { v with lotseed := x })
      match drawn es (x.toNat % sum) with
      | none => s1
      | some l => if l.gang then s1.placeHerd l d else s1.placeOne l d)
/-- `PLACESTAT` after a placement. -/
def State.placeStat (s : State) (d result slot : Nat) : State :=
  s.modDie d (fun v => { v with placeStat := BitVec.ofNat 64 (result * 2 + slot * 256) })
/-- `PLACE` of die `unit` is written with the SRAM address `value` of a placement record. The launch it names is the
accepted one, its block read again, or one not known yet. A launch whose producers hold it back finds no room (R39, R291;
DESIGN CHOICE, log 11). -/
def execPlaceWrite (s : State) : Out :=
  let d := s.ev.unit
  let r := s.sram d s.ev.value.toNat 256
  let lid := natAt r 112 4
  let index := natAt r 128 4
  let k := 64 * d + byteAt r 132 % 64
  let mask := byteAt r 133 % 16
  let allowed := if mask = 0 then allQuarters else allQuarters.filter mask.testBit
  let fresh : Launch := { noLaunch with lid := lid, die := d, queue := byteAt r 136 % 64, packet := lineOfBytes (r.take 128), headed := false }
  let l := (s.launchAt lid).getD fresh
  if 8 ≤ d then .next s
  else if !(s.ctl d).machine then .next (s.hartTrap d codeStoreFault (winAddr 0x400))
  else if s.ev.value.toNat % 64 ≠ 0 then .next s
  else match s.readExt l with
    | .error _ => .fault .reservedPhysical
    | .ok (.error _, s1) => .next (s1.placeStat d 2 0)
    | .ok (.ok ext, s1) =>
      let l1 := { l with ext := ext }
      match if s1.depMet (l.dep 0) && s1.depMet (l.dep 1) then s1.fitCore l1 k allowed [] else none with
      | none => .next (s1.placeStat d 1 0)
      | some us =>
        let slot := (s1.troopSlot k).getD 0
        let s2 := { s1 with launches := sput s1.launches lid { l1 with placed := max l.placed (index + 1) } }
        .next (((s2.placeTroop l1 k index us).packetDone lid).placeStat d 0 slot)

end Sys2Proof.Machine
end

