-- ==== Sys2Proof/Machine/Host.lean ====
section
/-! DEFINITION. Host.lean: the two BARs, the mailbox and its commands, the registers of the device, and invalidations
(spec/18_outside.md R384-R390, R399; spec/15_tables.md R333, R339; spec/10_memories.md R210, R211, R214;
spec/11_kv_space.md R231). -/

namespace Sys2Proof.Machine

/-! ## The aperture BAR (R384) -/

/-- Device address of an offset in a function's aperture. -/
def State.apertureAt (s : State) (f off n : Nat) : Option Nat :=
  if f = 0 then (if off + n ≤ 2 ^ 41 then some off else none)
  else match sfind s.vfwin f with
    | some w => if off + n ≤ 2 ^ 36 then some (w.toNat + off) else none
    | none => none
/-- Function `unit` reads `item` bytes, or writes (`flag`) `data`, at offset `value` of its aperture. -/
def execHostApertureAccess (s : State) : Out :=
  let n := if s.ev.flag then s.ev.data.length else s.ev.item
  match s.apertureAt s.ev.unit s.ev.value.toNat n with
  | none => .next s
  | some a =>
    if s.silent then .next s
    else if targetReserved .dev a n then .fault .reservedPhysical
    else if s.stackWaits a n then .next s
    else if s.ev.flag then .next (s.pwrite a s.ev.data false)
    else match s.errRead none a n with
      | some _ => .next { s with hostOut := [] }
      | none => .next { s.touch a n false false with hostOut := s.pread a n }

/-! ## The mailbox (R387) -/

def State.mbxAt (s : State) (f : Nat) : Mbx := sget s.mbx {} f
def State.setMbx (s : State) (f : Nat) (m : Mbx) : State := { s with mbx := sput s.mbx f m }
def Mbx.op (m : Mbx) : Nat := bits m.block.toNat 7 0
def Mbx.tag (m : Mbx) : Nat := bits m.block.toNat 31 16
def Mbx.arg (m : Mbx) (i : Nat) : Nat := bits m.block.toNat (64 * i + 127) (64 * i + 64)
/-- Function `unit` writes `MBXDB`. -/
def execMbxdbDoorbell (s : State) : Out :=
  let f := s.ev.unit
  let m := s.mbxAt f
  .next (if 32 ≤ f ∨ m.stat.getLsbD 0 ∨ s.silent then s
    else { s.setMbx f { m with stat := setBit m.stat 0 } with mbxq := s.mbxq ++ [f] }.mevEvent 1 f 0 m.op)
/-- A command is over: tag and result, and vector 0. -/
def State.endCmd (s : State) (f result : Nat) : State :=
  let m := s.mbxAt f
  let s1 := s.setMbx f { m with stat := w32 (m.tag * 2 ^ 16 + result % 256 * 2 ^ 8) }
  { s1 with mbxq := s1.mbxq.erase f }.signal f 0
/-- What a command does: a result with the state, a wait, or an access the spec gives no behaviour. -/
inductive CmdEnd where
  | done (result : Nat) (s : State)
  | wait (s : State)
  | reserved
/-- The oldest command of all functions is executed when it is `op`: whether it is the physical function's alone, the
widths of its arguments, and its action on function and arguments. A code outside Table 4 of R388 ends with result 1. -/
def State.command (s : State) (op : Nat) (pf : Bool) (widths : List Nat) (act : Nat → List Nat → CmdEnd) : Out :=
  match s.mbxq with
  | [] => .next s
  | f :: _ =>
    let m := s.mbxAt f
    let args := (List.range widths.length).map m.arg
    let plain := bits m.block.toNat 15 8 == 0 && bits m.block.toNat 63 32 == 0 && m.block.toNat / 2 ^ (64 + 64 * widths.length) == 0
      && (args.zip widths).all (fun p => decide (p.1 < 2 ^ p.2))
    if !s.booted || s.invFor == some f then .next s
    else if m.op = 0 ∨ 15 < m.op then .next (s.endCmd f 1)
    else if m.op ≠ op then .next s
    else if pf && f != 0 then .next (s.endCmd f 2)
    else if !plain then .next (s.endCmd f 1)
    else match act f args with
      | .done r s1 => .next (s1.endCmd f r)
      | .wait s1 => .next s1
      | .reserved => .fault .reservedPhysical
def nth (l : List Nat) (i : Nat) : Nat := l.getD i 0

def execPkgSet (s : State) : Out :=
  s.command 1 true [8] (fun _ a => if s.launches.isEmpty then .done 0 { s with pkg := BitVec.ofNat 8 (nth a 0) } else .done 3 s)
/-- R333: reserved fields of an address-space entry. -/
def spaceOk (v : Nat) : Bool := bits v 101 52 == 0 && bits v 11 0 == 0
/-- A troop of a launch bound to the entry is resident or saved. -/
def State.spaceBusy (s : State) (e : Nat) : Bool := s.troops.any (fun t => s.asidOf t.1 == e)
def execAsWrite (s : State) : Out :=
  s.command 2 true [6, 64, 64] (fun _ a =>
    let v := nth a 1 + nth a 2 * 2 ^ 64
    if !spaceOk v then .done 1 s
    else if s.spaceBusy (nth a 0) then .done 3 s
    else .done 0 { s with spaces := sput s.spaces (nth a 0) (BitVec.ofNat 128 v) })
def execRouteWrite (s : State) : Out :=
  s.command 4 true [8, 64, 1] (fun _ a => .done 0 { s with routes := sput s.routes (nth a 0) (BitVec.ofNat 64 (nth a 1), nth a 2 == 1) })

/-! ### Slices and stacks (R210, R211, R216) -/

/-- Every line of a slice leaves it. -/
def State.flushSlice (s : State) (n : Nat) : State := ((s.slice n).lines.map (·.1)).foldl State.dropLine s
/-- Every line of some ways of a slice leaves it. -/
def State.flushWays (s : State) (n : Nat) (ways : BitVec 16) : State :=
  (((s.slice n).lines.filter (fun l => ways.getLsbD l.2.way)).map (·.1)).foldl State.dropLine s
/-- R211: lines of the ways that leave cache use are written back, ways that join scratch use are filled with zeros. -/
def State.setWays (s : State) (n : Nat) (mask : BitVec 16) : State :=
  let old := (s.slice n).waymask
  let new := mask &&& ~~~(s.slice n).dead
  let s1 := s.flushWays n (old &&& ~~~new)
  let joins (a : Nat) : Bool := decide (scrBase + n * 2 ^ 28 ≤ a ∧ a < scrBase + (n + 1) * 2 ^ 28)
    && (old &&& ~~~new).getLsbD ((a - scrBase) / 2 ^ 24 % 16)
  { s1 with pmem := s1.pmem.filter (fun c => !joins c.1) }.modSlice n (fun q => { q with waymask := new })
def clampNat (v lo hi : Nat) : Nat := if v < lo then lo else if hi < v then hi else v
def State.setFiltwin (s : State) (n v : Nat) : State := s.modSlice n (fun q => { q with filtwin := clampNat (v % 32) 8 28 })
def State.setMergewin (s : State) (n v : Nat) : State := s.modSlice n (fun q => { q with mergewin := v % 4096 })
def State.setPagectl (s : State) (n : Nat) (v : Nat) : State :=
  s.modStack n (fun q => { q with pagectl := w32 ((if v % 65536 = 0 then 1 else v % 65536) + natOfBit (bitOf v 31) * 2 ^ 31) })
def execSliceWrite (s : State) : Out :=
  s.command 5 true [6, 2, 32] (fun _ a =>
    let n := nth a 0
    let v := nth a 2
    match nth a 1 with
    | 0 => if v < 2 ^ 16 then .done 0 (s.setWays n (BitVec.ofNat 16 v)) else .done 1 s
    | 1 => if v < 2 ^ 5 then .done 0 (s.setFiltwin n v) else .done 1 s
    | 2 => if v < 2 ^ 12 then .done 0 (s.setMergewin n v) else .done 1 s
    | _ => .done 1 s)
def execHbmWrite (s : State) : Out :=
  s.command 6 true [4, 32] (fun _ a =>
    if 12 ≤ nth a 0 ∨ bits (nth a 1) 30 16 ≠ 0 then .done 1 s else .done 0 (s.setPagectl (nth a 0) (nth a 1)))

/-! ### KV pool and pins (R214, R231) -/

/-- The bitmap of a pool of n granules: its own granules are never free (log 15). -/
def bitmapBytes (n : Nat) : List Byte :=
  (List.range ((n + 7) / 8)).map (fun i => BitVec.ofNat 8 (natOfBits ((List.range 8).map (fun j =>
    decide (poolBitmap n ≤ 8 * i + j ∧ 8 * i + j < n)))))
def State.buildPool (s : State) (base n : Nat) : State :=
  let s1 := s.pwrite base (bitmapBytes n) false
  { s1 with kvpoolbase := BitVec.ofNat 64 base, kvpooln := BitVec.ofNat 64 n, kvfree := BitVec.ofNat 64 (n - poolBitmap n) }
def execKvpoolInit (s : State) : Out :=
  s.command 7 true [44, 28] (fun _ a =>
    if bits (nth a 0) 19 0 ≠ 0 then .done 1 s
    else if s.troops.any (fun t => !t.2.kv.isEmpty) then .done 3 s
    else if targetReserved .dev (nth a 0) ((nth a 1 + 7) / 8) then .reserved
    else .done 0 (s.buildPool (nth a 0) (nth a 1)))
def execPinQuota (s : State) : Out :=
  s.command 8 true [5, 7] (fun _ a =>
    if 64 < nth a 1 then .done 1 s else .done 0 { s with quotas := sput s.quotas (nth a 0) (nth a 1) })
/-- DESIGN CHOICE: the results for a free entry (log 20). -/
def execPinRelease (s : State) : Out :=
  s.command 9 false [6] (fun f a =>
    match sfind s.pins (nth a 0) with
    | none => .done (if f = 0 then 3 else 2) s
    | some p => if f ≠ 0 ∧ p.func ≠ f then .done 2 s else .done 0 (s.endPin (nth a 0)))
/-- R373, R374, R388: the save of a crew, or of a troop (crew 255), is asked for. -/
def execPreempt (s : State) : Out :=
  s.command 10 false [32, 24, 8] (fun f a =>
    let index := nth a 1
    let cn := nth a 2
    match s.launchAt (nth a 0) with
    | none => .done 1 s
    | some l =>
      let here := (s.troops.find? (fun t => t.2.lid == l.lid && t.2.index == index)).map (·.1)
      let known := cn == 255 || decide (cn < l.ncrews) || (decide (cn < 64) && here.any (fun t => s.hasCrew (64 * t + cn)))
      if l.troops ≤ index ∨ !known then .done 1 s
      else if f ≠ 0 ∧ f ≠ s.queueOwner l.queue then .done 2 s
      else if l.save = 0 then .done 3 s
      else match here with
        | none => .done 3 s
        | some t =>
          let post (s : State) : State := s.devEvent (dieOfCore (coreOfTroop t)) 6 (coreOfTroop t % 64) 0 index
          if cn = 255 then (if s.canSaveTroop t then .done 0 (post (s.askTroop t 0)) else .done 3 s)
          else if s.canSaveCrew (64 * t + cn) then .done 0 (post (s.askCrew (64 * t + cn)))
          else .done 3 s)

/-! ### Rings and windows (R384, R389) -/

def isPow2 (n : Nat) : Bool := n != 0 && 2 ^ n.log2 == n
def execEvRing (s : State) : Out :=
  s.command 13 false [64, 17] (fun f a =>
    let n := nth a 1
    if nth a 0 % 4096 ≠ 0 ∨ n < 64 ∨ !isPow2 n then .done 1 s
    else
      let r : EvRing := { base := nth a 0, size := n }
      .done 0 { s with evrings := sput s.evrings f r, hostMem := mwrite s.hostMem (nth a 0) (leBytes 4 0) })
def execVfWindow (s : State) : Out :=
  s.command 14 true [5, 64] (fun _ a =>
    if nth a 0 = 0 ∨ nth a 1 % 2 ^ 36 ≠ 0 then .done 1 s
    else .done 0 { s with vfwin := sput s.vfwin (nth a 0) (BitVec.ofNat 64 (nth a 1)) })
def State.commitFuse (s : State) : State := { s with minSvn := max s.minSvn s.svn }
def execFuseCommit (s : State) : Out := s.command 15 true [] (fun _ _ => .done 0 s.commitFuse)
/-- `MBXDONE` of function `unit` is written with `value`. -/
def execMbxdoneWrite (s : State) : Out :=
  .next (s.winStore 8 (0x900 + 8 * s.ev.unit)
    (if (s.mbxAt s.ev.unit).stat.getLsbD 0 then s.endCmd s.ev.unit (bits s.ev.value.toNat 15 8) else s))

/-! ## Invalidations (R339) -/

def invMeets (asid lo len : Nat) (a b n : Nat) : Bool := a == asid && (len == 0 || (decide (b < lo + len) && decide (lo < b + n)))
/-- Covered translations leave the core TLBs, the die TLBs and waiting strands, and covered table pointers the walk caches. -/
def State.dropTlbs (s : State) (asid lo len : Nat) : State :=
  let keep (t : Tlb) : Bool := !invMeets asid lo len t.asid t.vbase (pageBytes t.size)
  let keepPtr (w : WPtr) : Bool := !invMeets asid lo len w.asid (w.pre * 2 ^ (21 + 9 * w.lvl)) (2 ^ (21 + 9 * w.lvl))
  let keepOp (o : EngOp) : EngOp := { o with xl := o.xl.filter keep }
  { s with strands := s.strands.map (fun x => (x.1, { x.2 with xl := x.2.xl.filter keep })),
           cores := s.cores.map (fun c => (c.1, { c.2 with tlb := c.2.tlb.filter keep, sqe := c.2.sqe.map keepOp })),
           dies := s.dies.map (fun d => (d.1, { d.2 with tlb := d.2.tlb.filter keep, wcache := d.2.wcache.filter keepPtr })) }
/-- The pages of size code `pg` that bytes of an access lie in meet the range. -/
def pagesMeet (asid lo len a va n pg : Nat) : Bool :=
  let b := pageBytes pg
  let v := va % 2 ^ 57
  invMeets asid lo len a (v / b * b) ((v + n + b - 1) / b * b - v / b * b)
/-- Accesses that may have translated by an old entry, and walks that may have read one, are not over: a request, a queued
store, a pin request, an engine's write to another package, whose page may be the largest (R339). -/
def State.oldLeft (s : State) (asid lo len : Nat) : Bool :=
  let hit (x va n pg : Nat) : Bool := pagesMeet asid lo len (s.asidOf (troopOf x)) va n pg
  s.cores.any (fun c => c.2.reqs.any (fun r => match r.tgt with
    | .spm _ => false
    | .dev | .host _ | .remote _ => hit (realX r.strand) r.va (max r.vlen (max r.size r.data.length)) r.pg)) ||
  s.cores.any (fun c => c.2.sqe.any (fun o => o.outs.any (fun w => hit o.strand w.2.2.1 256 6))) ||
  s.pinReqs.any (fun r => !r.release && pagesMeet asid lo len r.asid r.va (65536 * r.units) r.pg) ||
  s.crews.any (fun c => c.2.sq.any (fun e => match e.tgt with
    | .spm _ => false
    | .dev | .host _ | .remote _ => hit (32 * c.1) e.va e.data.length e.pg)) ||
  s.dies.any (fun d => d.2.walks.any (fun w => w.asid == asid))
def State.startInv (s : State) (asid va len : Nat) (by_ : Option Nat) : State :=
  { s.dropTlbs asid (va % 2 ^ 57) len with
    invas := BitVec.ofNat 64 asid, invva := BitVec.ofNat 64 va, invlen := BitVec.ofNat 64 len, invBusy := true, invFor := by_ }
/-- A virtual function names only its own entries. -/
def execTlbInval (s : State) : Out :=
  s.command 3 false [6, 64, 64] (fun f a =>
    if !canonical (BitVec.ofNat 64 (nth a 1)) then .done 1 s
    else if f ≠ 0 ∧ f ≠ s.queueOwner (nth a 0) then .done 2 s
    else if s.invBusy then .wait s
    else .wait (s.startInv (nth a 0) (nth a 1) (nth a 2) (some f)))
/-- `INVGO` is written with `value`. -/
def execInvgoWrite (s : State) : Out :=
  .next (s.winStore 8 0xD018
    (if s.ev.value.getLsbD 0 && !s.invBusy then s.startInv (s.invas.toNat % 64) s.invva.toNat s.invlen.toNat none else s))
def execInvalidationComplete (s : State) : Out :=
  let asid := s.invas.toNat % 64
  let lo := s.invva.toNat % 2 ^ 57
  .next (if !s.invBusy || s.oldLeft asid lo s.invlen.toNat then s
    else
      let s1 := { s.dropTlbs asid lo s.invlen.toNat with invBusy := false, invFor := none }
      match s.invFor with
      | some f => s1.endCmd f 0
      | none => s1)

/-! ## Registers with no behaviour of their own (R4, R309, R385, R399) -/

def setPart (v : Nat) (hi : Bool) (x : Dword) : Nat := if hi then v % 2 ^ 64 + x.toNat * 2 ^ 64 else v / 2 ^ 64 * 2 ^ 64 + x.toNat
/-- The bits of a 128-bit entry that a write sets. -/
def maskNat (v m : Nat) : Nat := v &&& m
def spaceMask : Nat := 2 ^ 128 - 1 - ((2 ^ 102 - 2 ^ 52) + (2 ^ 12 - 1))
def rootMask : Nat := 2 ^ 128 - 1 - (2 ^ 64 - 2 ^ 32)
/-- R357 Table 7: `thresh` and `win` of a domain register are written, its counts are not. -/
def State.writeRas (s : State) (i : Nat) (v : Dword) : State :=
  { s with ras := sput s.ras i (BitVec.ofNat 64 ((s.rasAt i).toNat % 2 ^ 43 + v.toNat / 2 ^ 43 * 2 ^ 43)) }
/-- Table 14 of R340 as a number, and an entry written as one. -/
def pinNat (p : Pin) : Nat :=
  2 ^ 127 + p.func * 2 ^ 122 + p.asid * 2 ^ 116 + p.counter * 2 ^ 100 + p.unit * 2 ^ 96 + p.fade * 2 ^ 80 + p.units * 2 ^ 65 + p.vbase / 2 ^ 16 * 2 ^ 16
def State.setPin (s : State) (i v : Nat) : State :=
  let old := sfind s.pins i
  let p : Pin := { func := bits v 126 122, asid := bits v 121 116, counter := bits v 115 100, unit := bits v 99 96, fade := bits v 95 80,
                   units := bits v 79 65, vbase := bits v 56 16 * 65536, pages := (old.map (·.pages)).getD [], since := (old.map (·.since)).getD 0 }
  if bitOf v 127 then { s with pins := sput s.pins i p } else s.endPin i
def State.pinWord (s : State) (i : Nat) : Nat := match sfind s.pins i with
  | some p => pinNat p
  | none => 0
/-- Registers the host writes through a control BAR: of queues it owns, its own mailbox and MSI-X table, and, as the
physical function, the dispatch, RAS and power registers. DESIGN CHOICE: bits [11:0] of a written `LQBASE` are dropped, its
base being a multiple of 4,096 (log 5). -/
def State.hostReg (s : State) (f : Nat) (v : Dword) : HwReg → State
  | .lqbase d q => if f = 0 ∨ f = s.queueOwner q then s.modQueue d q (fun u => { u with base := v.extractLsb' 12 52 ++ (0 : BitVec 12) }) else s
  | .lqctl d q =>
    if f = 0 ∨ f = s.queueOwner q then
      let n := v.toNat
      s.modQueue d q (fun u =>
        { u with ctl := w32 (bits n 15 0 + min 16 (bits n 20 16) * 2 ^ 16 + bits n 23 21 * 2 ^ 21
                             + natOfBit (u.ctl.getLsbD 31 && !bitOf n 31) * 2 ^ 31) })
    else s
  | .lotseed d => if f = 0 then s.modDie d (fun u => { u with lotseed := if v.extractLsb' 0 32 = 0 then 1 else v.extractLsb' 0 32 }) else s
  | .gangrounds d => if f = 0 then s.modDie d (fun u => { u with gangrounds := v.toNat % 65536 }) else s
  | .ras i => if f = 0 then s.writeRas i v else s
  | .pwrlim => if f = 0 then { s with pwrlim := w32 (clampNat (v.toNat % 4096) 1000 3900) } else s
  | .msixTable g n hi => if f = g ∧ n < 66 then s.setMsix g n (BitVec.ofNat 128 (setPart (s.msixEntry g n).toNat hi v)) else s
  | .mbxBlock g w =>
    if f = g then
      let m := s.mbxAt g
      let n := m.block.toNat
      s.setMbx g { m with block := BitVec.ofNat 512 (n - bits n (64 * w + 63) (64 * w) * 2 ^ (64 * w) + v.toNat * 2 ^ (64 * w)) }
    else s
  | _ => s
/-- Registers the dispatch controller of a die writes in its window. -/
def State.dieReg (s : State) (v : Dword) : HwReg → State
  | .lotseed d => s.modDie d (fun u => { u with lotseed := if v.extractLsb' 0 32 = 0 then 1 else v.extractLsb' 0 32 })
  | .gangrounds d => s.modDie d (fun u => { u with gangrounds := v.toNat % 65536 })
  | .devie d => s.modDie d (fun u => { u with devie := v &&& 1 })
  | .corral d => s.modDie d (fun u =>
      { u with corral := if v.extractLsb' 0 8 = 0 then none else some (v.extractLsb' 0 8, (u.corral.map (·.2)).getD 0) })
  | .dmasrc d => s.modDie d (fun u => { u with dmasrc := v })
  | .dmadst d => s.modDie d (fun u => { u with dmadst := v })
  | .dmalen d => s.modDie d (fun u => { u with dmalen := v })
  | .xwdctl c => s.modCtl c (fun u => { u with xwdctl := BitVec.ofNat 64 (max 0x10000 (v.toNat % 2 ^ 32)) })
  | _ => s
/-- Registers the management controller writes in its window. -/
def State.mgmtReg (s : State) (v : Dword) : HwReg → State
  | .mevie => { s with mevie := v &&& 1 }
  | .waymask n => s.setWays n (v.extractLsb' 0 16)
  | .filtwin n => s.setFiltwin n v.toNat
  | .mergewin n => s.setMergewin n v.toNat
  | .pagectl n => s.setPagectl n v.toNat
  | .kvpoolbase => { s with kvpoolbase := BitVec.ofNat 64 (bits v.toNat 43 20 * 2 ^ 20) }
  | .kvpooln => { s with kvpooln := BitVec.ofNat 64 (bits v.toNat 27 0) }
  | .asEntry e hi =>
    { s with spaces := sput s.spaces e (BitVec.ofNat 128 (maskNat (setPart (sget s.spaces 0 e).toNat hi v) spaceMask)) }
  | .routeMask p => { s with routes := sput s.routes p (v, (sget s.routes (0, false) p).2) }
  | .routeValid p => { s with routes := sput s.routes p ((sget s.routes (0, false) p).1, v.getLsbD 0) }
  | .pinEntry i hi => s.setPin i (setPart (s.pinWord i) hi v)
  | .pageList i => { s with pageLists := sput s.pageLists i v }
  | .ras i => s.writeRas i v
  | .pwrlim => { s with pwrlim := w32 (clampNat (v.toNat % 4096) 1000 3900) }
  | .invas => { s with invas := BitVec.ofNat 64 (v.toNat % 64) }
  | .invva => { s with invva := v }
  | .invlen => { s with invlen := v }
  | .signin => { s with signin := v }
  | .signout => { s with signout := v }
  | .spanRoot e hi =>
    { s with spanRoots := sput s.spanRoots e (BitVec.ofNat 128 (maskNat (setPart (sget s.spanRoots 0 e).toNat hi v) rootMask)) }
  | .xwdctl c => s.modCtl c (fun u => { u with xwdctl := BitVec.ofNat 64 (max 0x10000 (v.toNat % 2 ^ 32)) })
  | _ => s
/-- Offset of a register in the window of a dispatch controller, or of the management controller (R399 Tables 15, 16). -/
def winOff : HwReg → Nat
  | .lqbase _ q => 0x1000 + 0x20 * q
  | .lqctl _ q | .lqhead _ q => 0x1008 + 0x20 * q
  | .lotseed _ => 0x2000
  | .gangrounds _ => 0x2008
  | .devie _ | .mevie => 0x10
  | .corral _ => 0x300
  | .dmasrc _ => 0x500
  | .dmadst _ => 0x508
  | .dmalen _ => 0x510
  | .waymask n => 0x1000 + 0x20 * n
  | .filtwin n => 0x1008 + 0x20 * n
  | .mergewin n => 0x1010 + 0x20 * n
  | .pagectl n => 0x1800 + 8 * n
  | .kvpoolbase => 0x1880
  | .kvpooln => 0x1888
  | .kvfree => 0x1890
  | .asEntry e hi => 0x2000 + 0x10 * e + 8 * natOfBit hi
  | .routeMask p => 0x2800 + 0x10 * p
  | .routeValid p => 0x2808 + 0x10 * p
  | .pinEntry i hi => 0x4000 + 0x10 * i + 8 * natOfBit hi
  | .pageList i => 0x4800 + 8 * i
  | .ras i => 0x8000 + 8 * i
  | .pwrlim => 0xC000
  | .tempmax => 0xC008
  | .invas => 0xD000
  | .invva => 0xD008
  | .invlen => 0xD010
  | .spanRoot e hi => 0xE000 + 0x10 * e + 8 * natOfBit hi
  | .signin => 0xFA00
  | .signout => 0xFA08
  | .mbxBlock f w => 0x100 + 0x40 * f + 8 * w
  | .xwdctl _ | .mbxstat _ | .bootstat | .msixTable _ _ _ => 0
/-- Register `reg` is written with `value`: by function `aux` through its control BAR, or (`flag`) by controller `unit`,
which takes an access fault outside machine mode, and an illegal instruction for `xwdctl` (R398, R399). A register that
writer does not have, or has read-only, is left. -/
def execRegisterWrite (s : State) : Out :=
  .next (if s.silent then s
    else if !s.ev.flag then s.hostReg s.ev.aux s.ev.value s.ev.reg
    else if 9 ≤ s.ev.unit then s
    else if !(s.ctl s.ev.unit).machine then (match s.ev.reg with
      | .xwdctl _ => s.hartTrap s.ev.unit codeIllegal 0
      | r => s.hartTrap s.ev.unit codeStoreFault (winAddr (winOff r)))
    else if s.ev.unit = 8 then s.mgmtReg s.ev.value s.ev.reg
    else
      let mine := match s.ev.reg with
        | .lotseed d | .gangrounds d | .devie d | .corral d | .dmasrc d | .dmadst d | .dmalen d | .xwdctl d => d == s.ev.unit
        | _ => false
      if mine then s.dieReg s.ev.value s.ev.reg else s)

end Sys2Proof.Machine
end

