-- ==== Sys2Proof/Machine/Firmware.lean ====
section
/-! DEFINITION. Firmware.lean: the controllers' windows, boot, measurement and attestation, live replacement, the
watchdog ladder, resets and temperature (spec/18_outside.md R397-R408; spec/10_memories.md R217). -/

namespace Sys2Proof.Machine

/-! ## Resets (R5, R401) -/

/-- Function-level reset of the physical function: everything the device holds, but what fuses, HBM4, links, sensors
and the host hold (log 18). -/
def State.flr (s : State) : State :=
  let s1 := (List.range 64).foldl State.flushSlice s
  let kept (e : ErrRec) : Bool := match e.loc with
    | .hbm _ | .line _ _ => true
    | .pool _ _ _ | .tile _ _ _ | .acc _ _ _ | .l1 _ _ | .loop _ | .lane _ | .reg _ _ => false
  { State.reset with
    agenda := s1.agenda, focus := s1.focus, ev := s1.ev, freeCtr := s1.freeCtr, nextId := s1.nextId,
    pmem := s1.pmem.filter (fun c => decide (c.1 < hbmTop)), hostMem := s1.hostMem, errs := s1.errs.filter kept,
    ports := s1.ports, sensors := s1.sensors, msix := s1.msix, aer := s1.aer, uaOut := s1.uaOut, hostOut := s1.hostOut,
    revoked := s1.revoked, minSvn := s1.minSvn }
/-- Function-level reset of a virtual function: its mailbox, its event ring, its vectors (log 18). -/
def State.vfReset (s : State) (f : Nat) : State :=
  { s with mbx := sdel s.mbx f, mbxq := s.mbxq.erase f, evrings := sdel s.evrings f,
           msixTab := s.msixTab.filter (fun e => e.1 / 128 != f), msixPend := s.msixPend.filter (·.1 != f),
           invFor := if s.invFor = some f then none else s.invFor }
/-- Function `unit` is reset. -/
def execFunctionLevelReset (s : State) : Out :=
  .next (if s.ev.unit = 0 then s.flr else if s.ev.unit < 32 then s.vfReset s.ev.unit else s)
/-- Power-up: only the fuses, and what lies outside the device, are as before. -/
def execPowerUp (s : State) : Out :=
  .next { State.reset with
    agenda := s.agenda, focus := s.focus, ev := s.ev, freeCtr := s.freeCtr, nextId := s.nextId,
    hostMem := s.hostMem, msix := s.msix, aer := s.aer, uaOut := s.uaOut, hostOut := s.hostOut, revoked := s.revoked, minSvn := s.minSvn }

/-! ## Images (R400, R401) -/

/-- Payload offset, size, load offset and entry offset of segment c. -/
def imgSeg (img : List Byte) (c : Nat) : Nat × Nat × Nat × Nat :=
  let a := 16 + 16 * c
  (natAt img a 4, natAt img (a + 4) 4, natAt img (a + 8) 4, natAt img (a + 12) 4)
def imgSvn (img : List Byte) : Nat := natAt img 8 4
def segOk (len : Nat) (g : Nat × Nat × Nat × Nat) : Bool :=
  decide (g.2.1 ≤ 2 ^ 20 ∧ 3840 + g.1 + g.2.1 ≤ len ∧ g.2.2.1 + g.2.1 ≤ 2 ^ 20 ∧ g.2.2.2 < 2 ^ 20)
def lenOk (len : Nat) : Bool := decide (3841 ≤ len ∧ len ≤ 2 ^ 26)
/-- The form of an image (Table 9). Table 8 marks bytes 7, 160 to 255 and 2,049 to 2,303 zero and no check names them: other values
there are ignored (DESIGN CHOICE, log 20). -/
def imgFormOk (img : List Byte) (len : Nat) : Bool :=
  natAt img 0 4 == 0x4B56524A && natAt img 4 2 == 1 && natAt img 12 4 == len && lenOk len
    && (List.range 9).all (fun c => segOk len (imgSeg img c))
/-- The digest of the signed message. -/
def imgDigest (img : List Byte) : BitVec 512 := Config.shake256 (img.take 2304 ++ img.drop 3840)
def imgSigOk (img : List Byte) : Bool :=
  let n := natAt img 2304 2
  decide (n ≤ 1534) && Config.falconVerify (imgDigest img) ((img.drop 256).take 1793) ((img.drop 2306).take n)
/-- Verify of Table 9: the failure code, 0 when every check passes. -/
def State.verify (s : State) (img : List Byte) (len : Nat) : Nat :=
  let slot := byteAt img 6
  if !imgFormOk img len then 1
  else if s.revoked.testBit slot then 2
  else if decide (3 < slot) || Config.shake256 ((img.drop 256).take 1793) != Config.fusedKey slot then 3
  else if imgSvn img < s.minSvn then 4
  else if !imgSigOk img then 5
  else 0
/-- Bytes of an SRAM written from an offset, which ends a reservation; none beyond its end. -/
def State.sramWrite (s : State) (c a : Nat) (bs : List Byte) : State :=
  let o := a % 2 ^ 20
  s.modCtl c (fun q => { q with sram := mwrite q.sram o (bs.take (2 ^ 20 - o)), resv := none })
def entryAt (img : List Byte) (c : Nat) : Dword := BitVec.ofNat 64 (0x80000000 + (imgSeg img c).2.2.2)
/-- A controller gets its segment and starts at its entry in machine mode. -/
def State.loadSeg (s : State) (img : List Byte) (c : Nat) : State :=
  let g := imgSeg img c
  (s.sramWrite c g.2.2.1 ((img.drop (3840 + g.1)).take g.2.1)).modCtl c (fun q => { q with pc := entryAt img c, mode := 3 })
/-- R402: a measured event. -/
def State.measured (s : State) (type svn : Nat) (d : BitVec 512) : State :=
  { s with measure := Config.shake256 (leBytes 64 s.measure.toNat ++ leBytes 64 d.toNat),
           measureLog := if s.measureLog.length < 64 then s.measureLog ++ [(type, svn, d)] else s.measureLog }
/-- Load of Table 9. -/
def State.bootLoad (s : State) (img : List Byte) : State :=
  let s1 := (s.measured 1 Config.romSvn Config.romDigest).measured 2 (imgSvn img) (imgDigest img)
  { (List.range 9).foldl (fun s c => s.loadSeg img c) s1 with bootstat := 4, image := img, svn := imgSvn img }
/-- The boot ROM in Verify and in Load: Fail with a code, Load with the whole image read, Run. -/
def State.bootRom (s : State) : State :=
  let len := s.bootctl.toNat % 2 ^ 32
  match bits s.bootstat.toNat 2 0 with
  | 2 =>
    let img := if lenOk len then s.pread 0 len else []
    let code := if (s.errRead none 0 len).isSome then 5 else s.verify img len
    if code = 0 then { s with bootstat := 3, image := img } else { s with bootstat := w32 (5 + code * 2 ^ 8) }
  | 3 => s.bootLoad s.image
  | _ => s
/-- `BOOTCTL` is written with `value` by the physical function, which starts Verify from Wait or Fail; or (`flag`) the boot
ROM goes on to its next state (R401 Table 9). -/
def execBootVerify (s : State) : Out :=
  let v := s.ev.value
  let st := bits s.bootstat.toNat 2 0
  let s1 := { s with bootctl := v &&& 0x80000000FFFFFFFF }
  .next (if s.silent then s
    else if s.ev.flag then s.bootRom
    else if !v.getLsbD 63 || (st != 1 && st != 5) then s1
    else { s1 with bootstat := 2 })

/-! ## Live replacement (R404, R405) -/

def execFwStage (s : State) : Out :=
  s.command 11 true [64, 32] (fun _ a =>
    let pa := nth a 0
    let len := nth a 1
    if s.switching then .done 3 s
    else if !lenOk len then .done 1 s
    else if targetReserved .dev pa len then .reserved
    else
      let img := s.pread pa len
      if (s.errRead none pa len).isNone && s.verify img len == 0 && decide (s.svn ≤ imgSvn img) then .done 0 { s with staged := some img }
      else .done 1 s)
def askQuiet (q : Ctl) : Ctl := { q with xquiet := true }
/-- The numbers of the nine controllers. -/
def ctlNums : List Nat := List.range 9
def State.askQuietAll (s : State) : State := ctlNums.foldl (fun s c => s.modCtl c askQuiet) s
def execFwActivate (s : State) : Out :=
  s.command 12 true [] (fun _ _ =>
    if s.switching || s.staged.isNone then .done 3 s else .done 0 { s.askQuietAll with switching := true })
/-- An entry of 16 bytes for a troop, or a crew of it: launch, troop, crew (255 at troop level), level, age (log 14). -/
def State.handoverCtx (s : State) (t : Nat) (c : Option Nat) (age : Nat) : List Byte :=
  leBytes 4 (s.troop t).lid ++ leBytes 4 (s.troop t).index ++ leBytes 1 ((c.map crewIdx).getD 255) ++ leBytes 1 (natOfBit c.isSome) ++ leBytes 2 0
    ++ leBytes 4 (min age (2 ^ 32 - 1))
/-- Regions, the launch they stand for, and the failed rounds of the die's launches. -/
def State.handoverCorral (s : State) (d : Nat) : List Byte :=
  let c := (s.die d).corral
  let rounds := (s.launches.filter (fun l => sget l.2.rounds 0 d != 0)).flatMap (fun l => leBytes 4 l.1 ++ leBytes 4 (sget l.2.rounds 0 d))
  padTo 64 (leBytes 4 ((c.map (·.1.toNat)).getD 0) ++ leBytes 4 ((c.map (·.2)).getD 0) ++ rounds)
/-- Saves asked for on a die and not begun, of troops and then of crews. -/
def State.handoverSaves (s : State) (d : Nat) : List Byte :=
  let here (t : Nat) : Bool := dieOfCore (coreOfTroop t) == d
  padTo 1024 (s.troops.flatMap (fun t => match t.2.saveReq with
      | some a => if here t.1 && !t.2.saving then s.handoverCtx t.1 none a else []
      | none => [])
    ++ s.crews.flatMap (fun c => match c.2.saveReq with
      | some a => if here (troopOfCrew c.1) && !c.2.saving then s.handoverCtx (troopOfCrew c.1) (some c.1) a else []
      | none => []))
/-- Pins by entry, quotas and event ring indices by function. -/
def State.handoverMgmt (s : State) : List Byte :=
  padTo 1968 ((List.range 64).flatMap (fun i => leBytes 16 (s.pinWord i)) ++ (List.range 32).flatMap (fun f => leBytes 1 (sget s.quotas quotaDefault f))
    ++ (List.range 32).flatMap (fun f => leBytes 4 (sget s.evrings {} f).index))
/-- R405 Table 10; the order of the fields within its parts is the model's (log 14). -/
def State.handover (s : State) (c svn : Nat) : State :=
  let body := if c = 8 then List.replicate 2112 0 ++ s.handoverMgmt
    else s.handoverCorral c ++ s.handoverSaves c ++ padTo 1024 ((s.die c).savedCtx.flatMap (fun e => s.handoverCtx e.1 e.2 0)) ++ List.replicate 1968 0
  s.sramWrite c (2 ^ 20 - 4096) (leBytes 4 0x46484F56 ++ leBytes 4 1 ++ leBytes 8 svn ++ body)
/-- The image a switch goes to, and the one a controller runs. -/
def State.nextImage (s : State) : List Byte := if s.reverting then s.image else s.staged.getD s.image
def State.runImage (s : State) (c : Nat) : List Byte := if (s.ctl c).fresh then s.staged.getD s.image else s.image
/-- R404: nothing is in progress that a quiet point may not split, and its turn has come. -/
def State.canSwitch (s : State) (c : Nat) : Bool :=
  let inDie (t : Nat) : Bool := dieOfCore (coreOfTroop t) == c
  (ctlNums.filter (· < c)).all (fun k => !(s.ctl k).xquiet) &&
  (if c = 8 then s.invFor.isNone
   else (s.die c).wfaults.isEmpty && (s.die c).kfaults.isEmpty
     && s.troops.all (fun t => !(inDie t.1 && (t.2.saving || t.2.writing))) && s.crews.all (fun v => !(inDie (troopOfCrew v.1) && v.2.saving)))
/-- Every controller goes back to the previous image at its next quiet point. -/
def State.revertAll (s : State) : State :=
  { ctlNums.foldl (fun s k => s.modCtl k (fun q => { q with xquiet := true, age := none })) s with reverting := true }
/-- A controller switches; a new image that knows another format of the handover block reverts (R405). -/
def State.switchCtl (s : State) (c : Nat) : State :=
  let s1 := (s.handover c (imgSvn (s.runImage c))).loadSeg s.nextImage c
  let s2 := s1.modCtl c (fun q => { q with xquiet := false, fresh := !s.reverting, age := if s.reverting then none else some 0 })
  if !s.reverting && Config.handoverFormat s.nextImage != 1 then s2.revertAll else s2
/-- The switch is over once every controller runs one image, a new one having declared a quiet point of its own. -/
def State.endSwitch (s : State) : State :=
  let isOver := s.switching && ctlNums.all (fun k => !(s.ctl k).xquiet && (s.ctl k).age.isNone)
  let clean (s : State) : State := ctlNums.foldl (fun s k => s.modCtl k (fun q => { q with fresh := false })) s
  if !isOver then s
  else if s.reverting then ({ clean s with switching := false, reverting := false, staged := none }).evAll 7 0 0 s.svn
  else
    let img := s.staged.getD s.image
    let s1 := (clean s).measured 3 (imgSvn img) (imgDigest img)
    ({ s1 with switching := false, staged := none, image := img, svn := imgSvn img }).evAll 6 0 0 (imgSvn img)
/-- Controller `unit` writes 1 to `xquiet`. -/
def execQuietPoint (s : State) : Out :=
  let c := s.ev.unit
  .next (if 9 ≤ c then s
    else s.vendor c (if (s.ctl c).xquiet then (if s.canSwitch c then (s.switchCtl c).endSwitch else s)
      else (s.modCtl c (fun q => { q with age := none })).endSwitch))
/-- A new controller has declared no quiet point in 2^24 of its cycles. -/
def execFwRevertTimeout (s : State) : Out :=
  let late (a : Option Nat) : Bool := match a with
    | some n => decide (2 ^ 24 ≤ n)
    | none => false
  .next (if s.switching && !s.reverting && ctlNums.any (fun k => late (s.ctl k).age) then s.revertAll else s)

/-! ## The watchdog ladder (R398, R406) -/

/-- Controller `unit` writes `xwdog`. -/
def execXwdogWrite (s : State) : Out :=
  let c := s.ev.unit
  .next (if 9 ≤ c then s else s.vendor c (s.modCtl c (fun q => { q with xwdog := q.xwdctl.toNat % 2 ^ 32, wdOn := true })))
/-- The step an expiry takes. -/
def ladderStep (c : Nat) (q : Ctl) : Nat :=
  match q.since with
  | none => 1
  | some a => if 2 ^ 30 ≤ a then 1 else if c = 8 ∧ q.rung = 2 then 4 else min 5 (q.rung + 1)
/-- Fault resolutions of a die's controller are refused. -/
def State.refuseFaults (s : State) (d : Nat) : State :=
  let tags := (s.die d).wfaults.map (·.tag) ++ (s.die d).kfaults.map (·.1)
  tags.foldl (fun s t => s.faultResp d t false) s
/-- The last step of a ladder and its age outlast the resets of its steps 4 and 5; `xlevel` does not (log 5). -/
def keepLadder (q : Ctl) (v : Ctl) : Ctl := { v with rung := q.rung, since := q.since }
/-- The action of a step of Table 11 for a controller. -/
def State.ladder (s : State) (c step : Nat) : Out :=
  match step with
  | 1 => .next (s.modCtl c (fun q => { q with pc := entryAt (s.runImage c) c, mode := 3 }))
  | 2 => .next ((if c = 8 then s else s.refuseFaults c).loadSeg (s.runImage c) c)
  | 3 => s.resetDie c
  | 4 => .next (ctlNums.foldl (fun r k => r.modCtl k (keepLadder (s.ctl k))) s.flr)
  | _ => .next { ctlNums.foldl (fun r k => r.modCtl k (keepLadder (s.ctl k))) s.flr with bootstat := 0x80000001 }
/-- The watchdog of controller `unit` has run out. -/
def execWatchdogExpiry (s : State) : Out :=
  let c := s.ev.unit
  let q := s.ctl c
  if 9 ≤ c ∨ !q.wdOn ∨ q.xwdog ≠ 0 then .next s
  else
    let step := ladderStep c q
    let lv := (bits q.xlevel.toNat 31 8 + 1) % 2 ^ 24 * 2 ^ 8 + step
    let s1 := s.modCtl c (fun q => { q with xwdog := q.xwdctl.toNat % 2 ^ 32, xlevel := BitVec.ofNat 64 lv, rung := step, since := some 0 })
    ((s1.mevEvent 7 c 0 step).evAll 4 step c step).ladder c step
/-- The management controller writes `xevent` with the SRAM address `value` of a record. -/
def execXeventWrite (s : State) : Out :=
  .next (s.vendor 8 ((s.evrings.map (·.1)).foldl (fun s f => s.evRecord f (s.sram 8 s.ev.value.toNat 16)) s))

/-! ## Device windows (R399) -/

/-- A read pops the oldest event, 0 when there is none. -/
def execDevqRead (s : State) : Out :=
  let d := s.ev.unit
  let q := (s.die d).devq
  .next (if 8 ≤ d then s
    else s.winLoad d 0 ((s.modDie d (fun v => { v with devq := q.drop 1 })).modCtl d (fun v => { v with rdata := q.headD 0 })))
def countWord (n : Nat) (lost : Bool) : Dword := BitVec.ofNat 64 (n + natOfBit lost * 2 ^ 16)
/-- `DEVCNT` of die `unit`, or `MEVCNT` (8), is read. -/
def execDevcntRead (s : State) : Out :=
  let d := s.ev.unit
  .next (if 9 ≤ d then s
    else s.winLoad d 8 (if d = 8 then
        { s with mevLost := false }.modCtl 8 (fun v => { v with rdata := countWord s.mevq.length s.mevLost })
      else (s.modDie d (fun v => { v with devLost := false })).modCtl d (fun v =>
        { v with rdata := countWord (s.die d).devq.length (s.die d).devLost })))
def execMevqRead (s : State) : Out :=
  .next (s.winLoad 8 0 ({ s with mevq := s.mevq.drop 1 }.modCtl 8 (fun v => { v with rdata := s.mevq.headD 0 })))
/-- `DMAGO` of die `unit` is written with `value`. -/
def execDmagoWrite (s : State) : Out :=
  let d := s.ev.unit
  .next (if 8 ≤ d then s
    else s.winStore d 0x518 (if s.ev.value.getLsbD 0 then s.modDie d (fun v => { v with dmaBusy := true }) else s))
/-- An end of a copy: host memory, an SRAM, or device memory. -/
inductive DmaEnd where
  | host (a : Nat) | sram (a : Nat) | dev (a : Nat)
  deriving DecidableEq, Repr
def dmaEnd (v : Dword) : DmaEnd :=
  if v.getLsbD 63 then .host (v.toNat % 2 ^ 63) else if v.getLsbD 62 then .sram (v.toNat % 2 ^ 62) else .dev v.toNat
/-- A copy of n bytes can use this end: 0; it is an error: 1; it waits: 2; the spec gives it no behaviour: 3. -/
def State.dmaCheck (s : State) (d : Nat) (e : DmaEnd) (n : Nat) (read : Bool) : Nat :=
  match e with
  | .host _ => 0
  | .sram a => if a + n ≤ 2 ^ 20 then 0 else 1
  | .dev a => if targetReserved .dev a n then 3 else if s.stackWaits a n || s.linesHeld (stopOf (64 * d)) clsCtl a n then 2 else if read && (s.errRead none a n).isSome then 1 else 0
def State.dmaRead (s : State) (d : Nat) (e : DmaEnd) (n : Nat) : List Byte × State :=
  match e with
  | .host a => (mread s.hostMem a n, s)
  | .sram a => (s.sram d a n, s)
  | .dev a => (s.pread a n, (s.noteTurns clsCtl a n).touch a n false false)
def State.dmaWrite (s : State) (d : Nat) (e : DmaEnd) (bs : List Byte) : State :=
  match e with
  | .host a => { s with hostMem := mwrite s.hostMem a bs }
  | .sram a => s.sramWrite d a bs
  | .dev a => (s.noteTurns clsCtl a bs.length).pwrite a bs false
def State.endDma (s : State) (d : Nat) (err : Bool) : State := s.modDie d (fun v => { v with dmaBusy := false, dmaErr := err })
/-- The copy engine of die `unit` is done. -/
def execDmaComplete (s : State) : Out :=
  let d := s.ev.unit
  let v := s.die d
  let n := v.dmalen.toNat
  let src := dmaEnd v.dmasrc
  let dst := dmaEnd v.dmadst
  let checks := [s.dmaCheck d src n true, s.dmaCheck d dst n false]
  if 8 ≤ d ∨ !v.dmaBusy then .next s
  else if n = 0 ∨ 2 ^ 20 < n then .next (s.endDma d true)
  else if checks.contains 3 then .fault .reservedPhysical
  else if checks.contains 2 then .next s
  else if checks.contains 1 then .next (s.endDma d true)
  else
    let p := s.dmaRead d src n
    .next ((p.2.dmaWrite d dst p.1).endDma d false)
/-- `LQADV` of die `unit` is written with `value`: the packet at the head is no longer there. -/
def execLqadvWrite (s : State) : Out :=
  let d := s.ev.unit
  let q := bits s.ev.value.toNat 5 0
  .next (if 8 ≤ d then s
    else s.winStore d 0x1800 { s.headUp d q with launches := s.launches.map (fun l =>
      if l.2.die = d ∧ l.2.queue = q then (l.1, { l.2 with headed := false }) else l) })
def execLqerrWrite (s : State) : Out :=
  let d := s.ev.unit
  .next (if 8 ≤ d then s else s.winStore d 0x1808 (s.queueErr d (bits s.ev.value.toNat 5 0)))
/-- `PINANS` is written with `value`: the request of that tag is answered. -/
def execPinansWrite (s : State) : Out :=
  .next (s.winStore 8 0x4400 (match s.pinReqs.find? (fun r => r.tag == bits s.ev.value.toNat 15 0) with
    | some r =>
      if s.still (coreOf r.strand) then s
      else { s with pinReqs := s.pinReqs.erase r }.pinAnswer r (s.ev.value.getLsbD 16)
    | none => s))
def execFreezeWrite (s : State) : Out := .next (s.winStore 8 0xD100 { s with frozen := s.ev.value.getLsbD 0 })
def execPkgsetWrite (s : State) : Out := .next (s.winStore 8 0xD200 { s with pkg := s.ev.value.extractLsb' 0 8 })
def execFusecommitWrite (s : State) : Out :=
  .next (s.winStore 8 0xFB08 (if s.ev.value.getLsbD 0 then s.commitFuse else s))

/-! ## Attestation (R402, R403) -/

/-- A signature over the digest of a message, and the state with the signer's next (log 10). -/
def State.signature (s : State) (d : BitVec 512) (n : Nat) : List Byte := (List.range n).map (Config.falconSign s.freeCtr (leBytes 64 d.toNat))
def State.signLen (s : State) : Nat := Config.falconLen s.freeCtr % 1535
def State.nextSign (s : State) : State := { s with freeCtr := s.freeCtr + 1 }
def logEntry (e : Nat × Nat × BitVec 512) : List Byte := leBytes 4 e.1 ++ leBytes 4 e.2.1 ++ leBytes 64 e.2.2.toNat
/-- Answer of type 1, without its signature. -/
def State.attestBody (s : State) (nonce : List Byte) : List Byte :=
  leBytes 4 (0x81 + s.measureLog.length * 256) ++ leBytes 64 s.measure.toNat ++ nonce ++ leBytes 4 0
    ++ s.measureLog.flatMap logEntry ++ leBytes 2 s.signLen
def State.attest (s : State) (nonce : List Byte) : List Byte :=
  s.attestBody nonce ++ s.signature (Config.shake256 (s.attestBody nonce)) s.signLen
/-- Table 21: certificate i of a chain of n. -/
def certBytes (n i : Nat) : List Byte :=
  let issuer := if i + 1 = n then i else i + 1
  let sig := Config.certSigLen i % 1535
  let size := (1840 + sig + 3) / 4 * 4
  leBytes 4 size ++ leBytes 4 (if i = 0 then 1 else if i + 1 = n then 3 else 2) ++ leBytes 16 (Config.certSubject i).toNat
    ++ leBytes 16 (Config.certSubject issuer).toNat ++ leBytes 4 (if i = 0 then Config.certSvn.toNat else 0)
    ++ (List.range 1793).map (Config.certKey i) ++ [0] ++ leBytes 2 sig
    ++ (List.range sig).map (Config.certSig i) ++ List.replicate (size - 1840 - sig) 0
def chainCount : Nat := 2 + Config.certCount % 7
def chainAnswer : List Byte := leBytes 4 (0x82 + chainCount * 256) ++ (List.range chainCount).flatMap (certBytes chainCount)
def doeError (code : Nat) : List Byte := leBytes 4 (0xFF + code * 256)
/-- The answer to a request. -/
def State.doeAnswer (s : State) (req : List Byte) : List Byte :=
  match byteAt req 0 with
  | 1 => if req.length = 36 then s.attest (req.drop 4) else doeError 2
  | 2 => if req.length = 4 then chainAnswer else doeError 2
  | _ => doeError 1
/-- A request arrives and is answered. -/
def State.doe (s : State) (req : List Byte) : State :=
  { s.mevEvent 8 0 0 0 with doeReq := req.take 2048, doeAns := s.doeAnswer req }.nextSign
/-- The request `data`, of type 1 or of a type that is none. -/
def execDoeAttestRequest (s : State) : Out := .next (if byteAt s.ev.data 0 = 2 then s else s.doe s.ev.data)
/-- The request `data`, of type 2. -/
def execDoeCertRequest (s : State) : Out := .next (if byteAt s.ev.data 0 = 2 then s.doe s.ev.data else s)
/-- `DOESEND` is written with `value`. -/
def execDoesendWrite (s : State) : Out :=
  .next (s.winStore 8 0xF808 { s with doeAns := s.sram 8 (bits s.ev.value.toNat 31 0) (bits s.ev.value.toNat 63 32) })
/-- `SIGNGO` is written with `value`. -/
def execSigngoWrite (s : State) : Out :=
  .next (s.winStore 8 0xFA10 (if s.ev.value.getLsbD 0 then { s with signgo := setBit s.signgo 0 } else s))
/-- The signer is done. -/
def execSignComplete (s : State) : Out :=
  .next (if s.signgo.getLsbD 0 then
      let d : BitVec 512 := BitVec.ofNat 512 (leNat (s.sram 8 s.signin.toNat 64))
      let n := s.signLen
      { (s.sramWrite 8 s.signout.toNat (s.signature d n)).nextSign with signgo := BitVec.ofNat 64 (n * 16) }
    else s)

/-! ## Temperature (R217, R408) -/

/-- R408: a die's contexts stand still while it is critical. -/
def State.dieHeat (s : State) (d level : Nat) : State :=
  let was := (s.die d).hot
  if 2 ≤ level ∧ !was then
    let s1 := (s.modDie d (fun v => { v with hot := true })).freezeUp
    s1.evAll 2 0 d s1.freezes
  else if level < 2 ∧ was then (s.modDie d (fun v => { v with hot := false })).evAll 3 0 d s.freezes
  else s
/-- Sensor `unit` reads `item` degrees, at level `aux`. -/
def execTemperatureLevelChange (s : State) : Out :=
  let k := s.ev.unit
  if 20 ≤ k ∨ 3 < s.ev.aux ∨ 255 < s.ev.item then .next s
  else
    let ss := sput s.sensors k (s.ev.item, s.ev.aux)
    let deg := (ss.map (·.2.1)).foldl max 0
    let s1 := { s with sensors := ss, tempmax := w32 (s.freezes * 256 + deg) }.mevEvent 3 k 0 s.ev.aux
    let s2 := if k < 8 then s1.dieHeat k s.ev.aux else if s.ev.aux = 2 then s1.stackCritical (k - 8)
      else if s.ev.aux < 2 then s1.stackResume (k - 8) else s1
    if s.ev.aux = 3 then (s2.evAll 4 4 k 4).ladder 8 4 else .next s2

end Sys2Proof.Machine
end

