-- ==== Sys2Proof/Machine/Sfu.lean ====
section
/-! DEFINITION. Sfu.lean: the special functions of R121 (spec/06_registers_vector.md), each rounded once to
nearest-even from the mathematical value. A transcendental value is computed to 320 binary places (log 9), far beyond
what the rounding of any of the 2^32 arguments needs; exact cases are taken apart first. -/

namespace Sys2Proof.Machine

/-- Binary places of the fixed-point values below. -/
def sfuP : Nat := 320
def fxOne : Int := 2 ^ sfuP
def fxMul (a b : Int) : Int := (a * b) / fxOne
def fxDiv (a b : Int) : Int := (a * fxOne) / b
/-- m * 2^e as a fixed-point value (rounded down). -/
def fxOf (neg : Bool) (m : Nat) (e : Int) : Int :=
  let k := e + sfuP
  let v : Int := if 0 ≤ k then (m <<< k.toNat : Nat) else (m >>> (-k).toNat : Nat)
  if neg then -v else v

/-- Taylor sum of e^x: `n` terms from the k-th, `t` the k-th term. -/
def expGo (x : Int) : Nat → Nat → Int → Int → Int
  | 0, _, _, acc => acc
  | n + 1, k, t, acc => let t' := fxMul t x / (k + 1 : Nat); expGo x n (k + 1) t' (acc + t')
def fxExp (x : Int) : Int := expGo x 90 0 fxOne fxOne

/-- 2 * artanh(r) for |r| ≤ 1/3. -/
def atanhGo (r2 : Int) : Nat → Nat → Int → Int → Int
  | 0, _, _, acc => acc
  | n + 1, k, t, acc => let t' := fxMul t r2; atanhGo r2 n (k + 1) t' (acc + t' / (2 * k + 3 : Nat))
def fxAtanh2 (r : Int) : Int := 2 * atanhGo (fxMul r r) 110 0 r r
/-- ln 2 = 2 artanh(1/3). -/
def fxLn2 : Int := fxAtanh2 (fxOne / 3)
/-- arctan(1/q). -/
def atanGo (q2 : Int) : Nat → Nat → Int → Int → Int
  | 0, _, _, acc => acc
  | n + 1, k, t, acc => let t' := -(t / q2); atanGo q2 n (k + 1) t' (acc + t' / (2 * k + 3 : Nat))
def fxAtanInv (q : Int) : Int := atanGo (q * q) 145 0 (fxOne / q) (fxOne / q)
/-- Machin's formula. -/
def fxPi : Int := 16 * fxAtanInv 5 - 4 * fxAtanInv 239
/-- Alternating Taylor sum: terms x^(2j+1)/(2j+1)! from `t` at k = 1 (sine), or from 1 at k = 0 (cosine). -/
def trigGo (x2 : Int) : Nat → Nat → Int → Int → Int
  | 0, _, _, acc => acc
  | n + 1, k, t, acc => let t' := -(fxMul t x2 / ((k + 1) * (k + 2) : Nat)); trigGo x2 n (k + 2) t' (acc + t')
def fxSin (x : Int) : Int := trigGo (fxMul x x) 60 1 x x
def fxCos (x : Int) : Int := trigGo (fxMul x x) 60 0 fxOne fxOne

/-- A fixed-point value rounded to FP32, with an extra power of two. -/
def fxRound (v : Int) (e : Int) : Word := w32 (roundQ fp32 .rne (decide (v < 0)) v.natAbs 1 (e - sfuP))

def sfuRcp (a : Word) : Word :=
  match fval a with
  | .nan _ => quiet a
  | .inf n => w32 (if n then 0x80000000 else 0)
  | .fin n m e => if m = 0 then w32 (fmtInf fp32 n) else w32 (roundQ fp32 .rne n 1 m (-e))

/-- 1/√(m * 2^e): with m scaled so that the exponent is even, √(2^(2k)/m) with a sticky bit. -/
def sfuRsqrt (a : Word) : Word :=
  match fval a with
  | .nan _ => quiet a
  | .inf n => if n then nan32 0 0 else 0
  | .fin n m e =>
    if m = 0 then w32 (fmtInf fp32 n) else if n then nan32 0 0
    else
      let m' := if e % 2 = 0 then m else 2 * m
      let e' := if e % 2 = 0 then e else e - 1
      let q := 2 ^ 160 / m'
      let r := isqrt q
      let st := if r * r * m' = 2 ^ 160 then 0 else 1
      w32 (roundQ fp32 .rne false (2 * r + st) 1 (-81 - e' / 2))

def sfuExp2 (a : Word) : Word :=
  match fval a with
  | .nan _ => quiet a
  | .inf n => if n then 0 else a
  | .fin n m e =>
    if m = 0 then 0x3F800000
    else if 8 ≤ (m.log2 : Int) + e then (if n then 0 else 0x7F800000)
    else
      let x := fxOf n m e
      let i := x / fxOne
      let f := x - i * fxOne
      if f = 0 ∧ -300 < e then w32 (roundQ fp32 .rne false 1 1 i)
      else fxRound (fxExp (fxMul f fxLn2)) i

def sfuLog2 (a : Word) : Word :=
  match fval a with
  | .nan _ => quiet a
  | .inf n => if n then nan32 0 0 else a
  | .fin n m e =>
    if m = 0 then 0xFF800000 else if n then nan32 0 0
    else
      let l := m.log2
      let i : Int := (l : Int) + e
      if m = 2 ^ l then ofInt .rne i
      else
        let d := fxOf false m (-(l : Int))
        let r := fxDiv (fxAtanh2 (fxDiv (d - fxOne) (d + fxOne))) fxLn2
        fxRound (i * fxOne + r) 0

/-- sin(π x) for a fraction m * 2^e of a turn's half: x in [0, 2) as quarter turns and a remainder in [0, 1/2]. -/
def sinPiFrac (x : Int) : Int :=
  let half := fxOne / 2
  let q := x / half
  let r := x - q * half
  match (q % 4).toNat with
  | 0 => fxSin (fxMul r fxPi)
  | 1 => fxCos (fxMul r fxPi)
  | 2 => -(fxSin (fxMul r fxPi))
  | _ => -(fxCos (fxMul r fxPi))

def sfuSinpi (a : Word) : Word :=
  match fval a with
  | .nan _ => quiet a
  | .inf _ => nan32 0 0
  | .fin n m e =>
    let z : Word := if n then 0x80000000 else 0
    if m = 0 ∨ 0 ≤ e then z
    else
      let d := 2 ^ (-e).toNat
      let t := m % (2 * d)
      if m % d = 0 then z
      else if 2 * t = d then (if n then 0xBF800000 else 0x3F800000)
      else if 2 * t = 3 * d then (if n then 0x3F800000 else 0xBF800000)
      else
        let v := sinPiFrac (fxOf false t e)
        fxRound (if n then -v else v) 0

def sfuCospi (a : Word) : Word :=
  match fval a with
  | .nan _ => quiet a
  | .inf _ => nan32 0 0
  | .fin _ m e =>
    if m = 0 ∨ 1 ≤ e then 0x3F800000
    else
      let d := 2 ^ (-e).toNat
      let t := m % (2 * d)
      if 2 * t = d ∨ 2 * t = 3 * d then 0
      else if t = 0 then 0x3F800000
      else if t = d then 0xBF800000
      else fxRound (sinPiFrac (fxOf false t e + fxOne / 2)) 0

def sfuTanh (a : Word) : Word :=
  match fval a with
  | .nan _ => quiet a
  | .inf n => if n then 0xBF800000 else 0x3F800000
  | .fin n m e =>
    if m = 0 then a
    else if 4 ≤ (m.log2 : Int) + e then (if n then 0xBF800000 else 0x3F800000)
    else
      -- e^(2x) as the 32nd power of e^(x/16)
      let x := fxOf false m e
      let s (y : Int) : Int := fxMul y y
      let t := s (s (s (s (s (fxExp (x / 16))))))
      let v := if (m.log2 : Int) + e < -40 then x - fxMul (fxMul x x) x / 3 else fxDiv (t - fxOne) (t + fxOne)
      fxRound (if n then -v else v) 0

/-- R121. -/
def sfu (fn : SfuFn) (a : Word) : Word :=
  match fn with
  | .rcp => sfuRcp a | .rsqrt => sfuRsqrt a | .exp2 => sfuExp2 a | .log2 => sfuLog2 a
  | .sinpi => sfuSinpi a | .cospi => sfuCospi a | .tanh => sfuTanh a

end Sys2Proof.Machine
end

