-- ==== Sys2Proof/Machine/Float.lean ====
section
/-! DEFINITION. Float.lean: floating-point instructions (spec/06_registers_vector.md R117-R126). -/

namespace Sys2Proof.Machine

def execFadd (g : Guard) (d a : Reg) (b : BSrc) (s : State) : Out := aluBR g d a b (f32add .rne) s
def execFsub (g : Guard) (d a : Reg) (b : BSrc) (s : State) : Out := aluBR g d a b f32sub s
def execFmul (g : Guard) (d a : Reg) (b : BSrc) (s : State) : Out := aluBR g d a b (f32mul .rne) s
def execFfma (g : Guard) (d a : Reg) (b : BSrc) (s : State) : Out := aluBRd g d a b (f32fma .rne) s
def execFmin (g : Guard) (d a : Reg) (b : BSrc) (s : State) : Out := aluBR g d a b f32min s
def execFmax (g : Guard) (d a : Reg) (b : BSrc) (s : State) : Out := aluBR g d a b f32max s
def execFcmp (g : Guard) (cc : FCond) (pd : PReg) (a : Reg) (b : BSrc) (s : State) : Out :=
  .next (s.issueSimple (baseFr g (bsrcLit b)) { ops := [(bsrcOk b, 5)], srcs := a.toNat :: bsrcRegs b }
    (fun s => s.wrP pd (fcmpRel cc (s.rd a.toNat) (s.bsrc b))))
def execFsfu (g : Guard) (fn : SfuFn) (d a : Reg) (s : State) : Out := aluUn g d a (sfu fn) s
def execFcvt (g : Guard) (cv : Cvt) (d a : Reg) (s : State) : Out := aluUn g d a (fconvert cv .rne) s
def execFabs (g : Guard) (d a : Reg) (s : State) : Out := aluUn g d a (· &&& 0x7FFFFFFF) s
def execFneg (g : Guard) (d a : Reg) (s : State) : Out := aluUn g d a negBits s
def execHadd2 (g : Guard) (d a : Reg) (b : BSrc) (s : State) : Out := aluBR g d a b (map2 (bfAdd .rne)) s
def execHmul2 (g : Guard) (d a : Reg) (b : BSrc) (s : State) : Out := aluBR g d a b (map2 (bfMul .rne)) s
def execHfma2 (g : Guard) (d a : Reg) (b : BSrc) (s : State) : Out := aluBRd g d a b (map3 (bfFma .rne)) s
def execHmax2 (g : Guard) (d a : Reg) (b : BSrc) (s : State) : Out := aluBR g d a b (map2 bfMax) s
/-- R120: the class, and `p0` when it is a NaN. -/
def execFclass (g : Guard) (d a : Reg) (s : State) : Out :=
  .next (s.issueSimple (baseFr g false) (chkUn d a)
    (fun s => (s.wr d.toNat (f32class (s.rd a.toNat))).wrP 0 (isNan (s.rd a.toNat))))

def execFfmaX (x : XG) (rm : Rm) (d a : Reg) (b : XSrc) (e : Reg) (s : State) : Out := aluXRe x d a b e (f32fma rm) s
def execFaddX (x : XG) (rm : Rm) (d a : Reg) (b : XSrc) (s : State) : Out := aluXR x d a b (f32add rm) s
def execFmulX (x : XG) (rm : Rm) (d a : Reg) (b : XSrc) (s : State) : Out := aluXR x d a b (f32mul rm) s
def execFdiv (x : XG) (rm : Rm) (d a : Reg) (b : XSrc) (s : State) : Out := aluXR x d a b (f32div rm) s
def execFsqrt (x : XG) (d a : Reg) (s : State) : Out := aluXUn x d a f32sqrt s
def execFcvtX (x : XG) (rm : Rm) (cv : Cvt) (d a : Reg) (s : State) : Out := aluXUn x d a (fconvert cv rm) s
def execFrnd (x : XG) (rm : Rm) (d a : Reg) (s : State) : Out := aluXUn x d a (f32rnd rm) s
def execFldexp (x : XG) (rm : Rm) (d a : Reg) (b : XSrc) (s : State) : Out :=
  aluXR x d a b (fun v k => f32ldexp rm v k.toInt) s
def execFfrexp (x : XG) (d a e : Reg) (s : State) : Out :=
  .next (s.issueSimple (extFr x false) { srcs := [a.toNat], dsts := [d.toNat, e.toNat] } (fun s =>
    let r := f32frexp (s.rd a.toNat)
    (s.wr d.toNat r.1).wr e.toNat r.2))
def execHfma2X (x : XG) (rm : Rm) (d a : Reg) (b : XSrc) (e : Reg) (s : State) : Out :=
  aluXRe x d a b e (map3 (bfFma rm)) s
def execFdot2 (x : XG) (rm : Rm) (d a : Reg) (b : XSrc) (e : Reg) (s : State) : Out := aluXRe x d a b e (f32dot2 rm) s

end Sys2Proof.Machine
end

