-- ==== Sys2Proof/Machine/Ras.lean ====
section
/-! DEFINITION. Ras.lean: errors, their counts, and lasting faults (spec/16_counters.md R357; spec/10_memories.md R208,
R218; spec/18_outside.md R396). A domain has the number of its register: pools 0-511, L1s 512-1023, slices 1024-1087,
stacks 1088-1099, loops 1100-1171, lanes 1172 + 4 * port + lane. -/

namespace Sys2Proof.Machine

def rasDomains : Nat := 1428
/-- A domain's clock (Table 6): its core's cycles, or cycles of its own. -/
def State.rasClock (s : State) (i : Nat) : Nat := if i < 1024 then (s.core (i % 512)).cycle else (sget s.rasTrack {} i).clock
def State.modRas (s : State) (i : Nat) (f : RasTrack → RasTrack) : State := { s with rasTrack := sput s.rasTrack i (f (sget s.rasTrack {} i)) }
/-- Cycles of a domain's own clock pass; a stack's is its controller's, which its banks' idle timers count (R216). -/
def State.tickRas (s : State) (i n : Nat) : State :=
  let s1 := if 1024 ≤ i ∧ i < rasDomains then s.modRas i (fun v => { v with clock := v.clock + n }) else s
  if 1088 ≤ i ∧ i < 1100 then
    { s1 with hbmStacks := s1.hbmStacks.map (fun e => if e.1 = i - 1088 then (e.1, { e.2 with timers := e.2.timers.map (fun b => (b.1, b.2 - n)) }) else e) }
  else s1
/-- The domain's window is over. -/
def State.rasOver (s : State) (i : Nat) : Bool := decide ((sget s.rasTrack {} i).start + 2 ^ rasWin (s.rasAt i) ≤ s.rasClock i)
/-- A window that is over ends: counts per resource and `ccnt` are cleared, with the drops of a loop. -/
def State.rasRoll (s : State) (i : Nat) : State :=
  if !s.rasOver i then s
  else
    let v := s.rasAt i
    let w := 2 ^ rasWin v
    let now := s.rasClock i
    let s1 := (s.setRas i (rasPut v (rasRetired v) (rasUcnt v) 0)).modRas i (fun v =>
      { v with counts := [], start := v.start + (now - v.start) / w * w })
    if 1100 ≤ i ∧ i < 1172 then
      { s1 with loops := s1.loops.map (fun l => if l.1 = i - 1100 then (l.1, { l.2 with drops := 0 }) else l) }
    else s1

/-! ## Lasting faults -/

/-- One more error of a resource: at most 16 are tracked, and a seventeenth displaces the one of the lowest count. -/
def trackOne (cs : List (Nat × Nat)) (r : Nat) : List (Nat × Nat) :=
  if cs.any (fun e => e.1 == r) then cs.map (fun e => if e.1 = r then (r, e.2 + 1) else e)
  else if cs.length < 16 then cs ++ [(r, 1)]
  else match leastBy (·.2) cs with
    | some e => cs.erase e ++ [(r, 1)]
    | none => [(r, 1)]
def countOf (cs : List (Nat × Nat)) (r : Nat) : Nat := ((cs.find? (fun e => e.1 == r)).map (·.2)).getD 0
/-- A lane of a port is given up: it runs two lanes, or one, or none (log 21). -/
def State.dropLane (s : State) (p : Nat) : State :=
  let v := sget s.ports {} p
  let n : BitVec 3 := if v.width = 4 then 2 else if v.width = 2 then 1 else 0
  { s with ports := sput s.ports p { v with lanes := n, width := n, live := v.live && n != 0 } }
/-- A way leaves cache and scratch use. -/
def State.dropWay (s : State) (n way : Nat) : State :=
  (s.modSlice n (fun q => { q with dead := q.dead ||| BitVec.ofNat 16 (2 ^ way) })).setWays n (s.slice n).waymask
/-- Resource `r` of domain `i` is retired as Table 6 gives; a granule held by the troop in slot `slot` of the core goes
with that troop. -/
def State.retireResource (s : State) (i r slot : Nat) : State :=
  if i < 512 then
    if (sfind s.troops (64 * i + slot)).isSome then s.modCore i (fun c => { c with badGran := (64 * i + slot) :: c.badGran })
    else s.modCore i (fun c => { c with retiredGran := c.retiredGran + 1 })
  else if i < 1024 then s
  else if i < 1088 then s.dropWay (i - 1024) (r % 16)
  else if i < 1100 then s
  else if i < 1172 then (s.failLoop (i - 1100)).mevEvent 4 (i - 1100) 0 (i - 1100)
  else (s.dropLane ((i - 1172) / 4)).mevEvent 4 ((i - 1172) / 4) 0 ((i - 1172) / 4)
/-- Retired once, counted, and reported to the management controller and to host software (R389 kind 1); of a resource
that is retired already, nothing (log 21). -/
def State.lasting (s : State) (i r slot : Nat) : State :=
  let v := s.rasAt i
  if (sget s.rasTrack {} i).gone.contains r then s
  else
    let s1 := ((s.retireResource i r slot).setRas i (rasPut v (rasRetired v + 1) (rasUcnt v) (rasCcnt v))).modRas i (fun t =>
      { t with gone := r :: t.gone })
    (s1.mevEvent 2 (i % 256) 0 r).evAll 1 (i / 256) i r
/-- A corrected error of resource `item` of domain `unit`; of a pool granule, of the troop in slot `aux` when one
holds it. -/
def execCorrectedError (s0 : State) : Out :=
  let i := s0.ev.unit
  let r := s0.ev.item
  .next (if rasDomains ≤ i then s0
    else
      let s := s0.rasRoll i
      let cs := trackOne (sget s.rasTrack {} i).counts r
      let s1 := (s.countCorrected i).modRas i (fun t => { t with counts := cs })
      if rasThresh (s.rasAt i) ≠ 0 ∧ rasThresh (s.rasAt i) ≤ countOf cs r then s1.lasting i r s.ev.aux else s1)
/-- The window of domain `unit` ends, once its cycles have passed. -/
def execRasWindowEnd (s : State) : Out :=
  .next (if rasDomains ≤ s.ev.unit then s else s.rasRoll s.ev.unit)

/-! ## Uncorrectable errors (R208, R218) -/

def errDomain : ErrLoc → Nat
  | .pool c _ _ | .tile c _ _ | .acc c _ _ => c
  | .l1 c _ => 512 + c
  | .line l _ => 1024 + sliceOf l
  | .hbm pa => 1088 + pa / 128 % 12
  | .loop i => 1100 + i
  | .lane i => 1172 + i
  | .reg x _ => coreOf x
/-- An error that stands until its bytes are written. -/
def State.addErr (s : State) (l : ErrLoc) : State :=
  { s with errs := { loc := l : ErrRec } :: s.errs.filter (fun e => e.loc != l) }
/-- What an error does where it is found: a clean line of a slice is invalidated, a line of an L1 dropped, any other
word keeps its error. -/
def State.errorAt (s : State) (l : ErrLoc) : State :=
  match l with
  | .pool _ _ _ | .tile _ _ _ | .acc _ _ _ | .hbm _ => s.addErr l
  | .l1 c k => s.modCore c (fun q => { q with l1 := sdel q.l1 k })
  | .line n _ => match sfind (s.slice (sliceOf n)).lines n with
    | some v => if v.dirty then s.addErr (.line n true) else s.dropLine n
    | none => s
  | .reg x r => if (sfind s.strands x).isSome && decide (r < 128) then s.modStrand x (fun t => { t with bad := setBit t.bad r }) else s
  | .loop _ | .lane _ => s
/-- The count of its domain is all that shows of a parity error of an L1 line (R208). -/
def errReported : ErrLoc → Bool
  | .l1 _ _ => false
  | .pool _ _ _ | .tile _ _ _ | .acc _ _ _ | .line _ _ | .hbm _ | .loop _ | .lane _ | .reg _ _ => true
/-- An uncorrectable error is found at `loc`, and reported through AER as non-fatal (R383), but for an L1's. -/
def execUncorrectableError (s : State) : Out :=
  .next (if rasDomains ≤ errDomain s.ev.loc then s
    else { (s.errorAt s.ev.loc).countUncorrected (errDomain s.ev.loc) with
           aer := s.aer ++ (if errReported s.ev.loc then [s.ev.loc] else []) })

end Sys2Proof.Machine
end

