-- ==== Sys2Proof/Machine/Window.lean ====
section
/-! DEFINITION. Window.lean: what the host reads and writes at an offset of a control BAR, what a controller reads and
writes at an offset of its device window and in its control registers, and its external interrupt (spec/00_scope.md R4;
spec/18_outside.md R383, R385, R397-R399). `run` is the meaning of a row. -/

namespace Sys2Proof.Machine

/-! ## Control BAR (R385 Table 2) -/

/-- A queue's registers, by offset. -/
def LaunchQ.word (q : LaunchQ) : Nat → Nat
  | 0 => q.base.toNat % 2 ^ 32
  | 4 => q.base.toNat / 2 ^ 32
  | 8 => q.ctl.toNat
  | 12 => q.head
  | 16 => q.tail
  | _ => 0
/-- A slice's control registers, by number (R210). -/
def State.sliceCtl (s : State) (n : Nat) : Nat → Nat
  | 0 => (s.slice n).waymask.toNat
  | 1 => (s.slice n).filtwin
  | 2 => (s.slice n).mergewin
  | _ => 0
def State.pagectlAt (s : State) (n : Nat) : Nat := (sget s.hbmStacks {} n).pagectl.toNat
/-- First offset of the pending bits (log 11). -/
def pbaBase : Nat := 0x50800
/-- The word of 32 bits at an offset of function `f`'s control BAR: zero at an unassigned offset, at a register that is
only written, and, to a virtual function, at queues it does not own and in the device's regions. -/
def State.barWord (s : State) (f off : Nat) : Nat :=
  let o := off % 0x1000
  if off < 0x40 then bits (s.mbxAt f).block.toNat (8 * off + 31) (8 * off)
  else if off = 0x44 then (s.mbxAt f).stat.toNat
  else if off = 0x1000 then s.bootctl.toNat % 2 ^ 32
  else if off = 0x1004 then s.bootctl.toNat / 2 ^ 32
  else if off = 0x1008 then s.bootstat.toNat
  else if 0x10000 ≤ off ∧ off < 0x18000 then
    let d := off / 0x1000 - 0x10
    if o < 0x800 then (if f = 0 ∨ f = s.queueOwner (o / 0x20) then (s.queueAt d (o / 0x20)).word (o % 0x20) else 0)
    else if o = 0x800 then (s.die d).lotseed.toNat
    else if o = 0x804 then (s.die d).gangrounds
    else 0
  else if 0x50000 ≤ off ∧ off < 0x50000 + 66 * 16 then bits (s.msixEntry f (o / 16)).toNat (8 * (o % 16) + 31) (8 * (o % 16))
  else if pbaBase ≤ off ∧ off < pbaBase + 12 then
    natOfBits ((List.range 32).map (fun i => s.msixPend.contains (f, 8 * (off - pbaBase) + i)))
  else if f ≠ 0 then 0
  else if 0x20000 ≤ off ∧ off < 0x20400 then s.sliceCtl (o / 0x10) (o % 0x10 / 4)
  else if 0x21000 ≤ off ∧ off < 0x21030 then s.pagectlAt (o / 4)
  else if off = 0x22000 then s.kvpoolbase.toNat % 2 ^ 32
  else if off = 0x22004 then s.kvpoolbase.toNat / 2 ^ 32
  else if off = 0x22008 then s.kvpooln.toNat % 2 ^ 32
  else if off = 0x2200C then s.kvfree.toNat % 2 ^ 32
  else if 0x30000 ≤ off ∧ off < 0x30000 + 8 * rasDomains then
    (s.rasAt ((off - 0x30000) / 8)).toNat / 2 ^ (off % 8 * 8) % 2 ^ 32
  else if off = 0x40000 then s.pwrlim.toNat
  else if off = 0x40004 then s.tempmax.toNat
  else 0
/-- Bytes of a control BAR. -/
def State.barRead (s : State) (f off n : Nat) : List Byte :=
  (((span (off / 4) ((off + n + 3) / 4)).flatMap (fun w => leBytes 4 (s.barWord f (4 * w)))).drop (off % 4)).take n
/-- The host reads `n` bytes; a device in the last state of the watchdog ladder does not answer (R406). -/
def State.hostRead (s : State) (f off n : Nat) : State := { s with hostOut := if s.silent then [] else s.barRead f off n }
/-- The row that a write of `n` bytes `v` at an offset is: 4 bytes of a register, or 8 of one of 64 bits; half of such a
register leaves the other half as it reads, but for the bit that starts verification (R401). None where nothing is written. -/
def State.hostEvent (s : State) (f off n v : Nat) : Option (Instr × EvArgs) :=
  let o := off % 0x1000
  let d := off / 0x1000 - 0x10
  let cur := natAt (s.barRead f (off / 8 * 8) 8) 0 8
  let wide := if n = 8 then v else if off % 8 = 0 then cur / 2 ^ 32 * 2 ^ 32 + v % 2 ^ 32 else cur % 2 ^ 32 + v % 2 ^ 32 * 2 ^ 32
  let reg (r : HwReg) (x : Nat) : Option (Instr × EvArgs) := some (.registerWrite, { aux := f, reg := r, value := BitVec.ofNat 64 x })
  if !(n = 4 ∧ off % 4 = 0 ∨ n = 8 ∧ off % 8 = 0) then none
  else if off < 0x40 then reg (.mbxBlock f (off / 8)) wide
  else if off = 0x40 then some (.mbxdbDoorbell, { unit := f })
  else if off = 0x1000 ∨ off = 0x1004 then
    some (.bootVerify, { value := BitVec.ofNat 64 (if off = 0x1000 ∧ n = 4 then wide % 2 ^ 63 else wide) })
  else if 0x10000 ≤ off ∧ off < 0x18000 then
    if o < 0x800 then
      (if o % 0x20 < 8 then reg (.lqbase d (o / 0x20)) wide
       else if o % 0x20 = 8 then reg (.lqctl d (o / 0x20)) v
       else if o % 0x20 = 16 then some (.lqtailDoorbell, { unit := d, item := o / 0x20, aux := f, value := BitVec.ofNat 64 v })
       else none)
    else if o = 0x800 then reg (.lotseed d) v
    else if o = 0x804 then reg (.gangrounds d) v
    else none
  else if 0x30000 ≤ off ∧ off < 0x30000 + 8 * rasDomains then reg (.ras ((off - 0x30000) / 8)) wide
  else if off = 0x40000 then reg .pwrlim v
  else if 0x50000 ≤ off ∧ off < 0x50000 + 66 * 16 then reg (.msixTable f (o / 16) (o % 16 / 8 == 1)) wide
  else none

/-! ## Device windows (R399 Tables 15, 16) -/

/-- `CORESTAT` of a core. -/
def State.coreStat (s : State) (k : Nat) : Nat :=
  let free (u : Nat) : Nat := (s.slotsFree k u).length
  let shut := match (s.die (dieOfCore k)).corral with
    | some (m, _) => m.getLsbD (k % 64 / 8)
    | none => false
  s.gransFree k + free 4 * 2 ^ 8 + free 0 * 2 ^ 16 + free 1 * 2 ^ 20 + free 2 * 2 ^ 24 + free 3 * 2 ^ 28 + natOfBit shut * 2 ^ 32
    + natOfBit (decide (0 < (s.core k).retiredGran)) * 2 ^ 33
/-- A queue's registers as 64-bit words: `LQCTL` and `LQHEAD` share one (log 11). -/
def LaunchQ.dword (q : LaunchQ) : Nat → Option Nat
  | 0 => some q.base.toNat
  | 8 => some (q.ctl.toNat + q.head * 2 ^ 32)
  | 16 => some q.tail
  | _ => none
/-- What a dispatch controller reads at an offset beyond the event queue's; none at an unassigned one. -/
def State.dieWin (s : State) (d off : Nat) : Option Nat :=
  let v := s.die d
  if off = 0x10 then some v.devie.toNat
  else if 0x100 ≤ off ∧ off < 0x300 then some (s.coreStat (64 * d + (off - 0x100) / 8))
  else if off = 0x300 then some ((v.corral.map (·.1.toNat)).getD 0)
  else if off = 0x408 then some v.placeStat.toNat
  else if [0x400, 0x410, 0x418, 0x420, 0x428, 0x1800, 0x1808].contains off then some 0
  else if off = 0x500 then some v.dmasrc.toNat
  else if off = 0x508 then some v.dmadst.toNat
  else if off = 0x510 then some v.dmalen.toNat
  else if off = 0x518 then some (natOfBit v.dmaBusy + 2 * natOfBit v.dmaErr)
  else if 0x1000 ≤ off ∧ off < 0x1800 then (s.queueAt d ((off - 0x1000) / 0x20)).dword (off % 0x20)
  else if off = 0x2000 then some v.lotseed.toNat
  else if off = 0x2008 then some v.gangrounds
  else none
/-- What the management controller reads. -/
def State.mgmtWin (s : State) (off : Nat) : Option Nat :=
  let half (x : Nat) : Nat := x / 2 ^ (off % 16 * 8) % 2 ^ 64
  if off = 0x10 then some s.mevie.toNat
  else if 0x100 ≤ off ∧ off < 0x900 then some (bits (s.mbxAt ((off - 0x100) / 0x40)).block.toNat (off % 0x40 * 8 + 63) (off % 0x40 * 8))
  else if 0x900 ≤ off ∧ off < 0xA00 then some 0
  else if 0x1000 ≤ off ∧ off < 0x1800 then (if off % 0x20 = 0x18 then none else some (s.sliceCtl ((off - 0x1000) / 0x20) (off % 0x20 / 8)))
  else if 0x1800 ≤ off ∧ off < 0x1860 then some (s.pagectlAt ((off - 0x1800) / 8))
  else if off = 0x1880 then some s.kvpoolbase.toNat
  else if off = 0x1888 then some s.kvpooln.toNat
  else if off = 0x1890 then some s.kvfree.toNat
  else if 0x2000 ≤ off ∧ off < 0x2400 then some (half (sget s.spaces 0 ((off - 0x2000) / 16)).toNat)
  else if 0x2800 ≤ off ∧ off < 0x3800 then
    let r := sget s.routes (0, false) ((off - 0x2800) / 16)
    some (if off % 16 = 0 then r.1.toNat else natOfBit r.2)
  else if 0x4000 ≤ off ∧ off < 0x4400 then some (half (s.pinWord ((off - 0x4000) / 16)))
  else if 0x4800 ≤ off ∧ off < 0x4A00 then some (sget s.pageLists 0 ((off - 0x4800) / 8)).toNat
  else if 0x8000 ≤ off ∧ off < 0x8000 + 8 * rasDomains then some (s.rasAt ((off - 0x8000) / 8)).toNat
  else if off = 0xC000 then some s.pwrlim.toNat
  else if off = 0xC008 then some s.tempmax.toNat
  else if 0xC100 ≤ off ∧ off < 0xC100 + 8 * 20 then
    let v := sget s.sensors (0, 0) ((off - 0xC100) / 8)
    some (v.1 % 256 + v.2 % 8 * 256)
  else if off = 0xD000 then some s.invas.toNat
  else if off = 0xD008 then some s.invva.toNat
  else if off = 0xD010 then some s.invlen.toNat
  else if off = 0xD018 then some (natOfBit s.invBusy)
  else if off = 0xD100 then some (natOfBit s.frozen)
  else if off = 0xD200 then some s.pkg.toNat
  else if 0xE000 ≤ off ∧ off < 0xE400 then some (half (sget s.spanRoots 0 ((off - 0xE000) / 16)).toNat)
  else if 0xF000 ≤ off ∧ off < 0xF800 then some (natAt s.doeReq (off - 0xF000) 8)
  else if off = 0xF800 then some s.doeReq.length
  else if off = 0xFA10 then some s.signgo.toNat
  else if off = 0xFB00 then some (s.revoked % 16 + s.minSvn % 2 ^ 32 * 2 ^ 32)
  else if [0x4400, 0xF808, 0xFA00, 0xFA08, 0xFB08].contains off then some 0
  else none
def State.winAt (s : State) (c off : Nat) : Option Nat := if c = 8 then s.mgmtWin off else s.dieWin c off
/-- An access is good: machine mode, 64 bits, aligned. -/
def State.winOk (s : State) (c off w : Nat) : Bool := (s.ctl c).machine && w == 8 && off % 8 == 0
/-- Controller `c` loads `w` bytes at an offset of its window: the rows of the event queue, a register, or the access fault. -/
def State.winRead (run : Instr → State → Host.Outcome State Fault Refusal) (s : State) (c off w : Nat) : Host.Outcome State Fault Refusal :=
  if 9 ≤ c then .next s
  else if !s.winOk c off w then .next (s.hartTrap c codeLoadFault (winAddr off))
  else if off = 0 then run (if c = 8 then .mevqRead else .devqRead) { s with ev := { unit := c } }
  else if off = 8 then run .devcntRead { s with ev := { unit := c } }
  else match s.winAt c off with
    | some v => .next (s.modCtl c (fun q => { q with rdata := BitVec.ofNat 64 v }))
    | none => .next (s.hartTrap c codeLoadFault (winAddr off))
/-- The register a store of a dispatch controller sets. -/
def dieWrites (d off : Nat) : Option HwReg :=
  if off = 0x10 then some (.devie d)
  else if off = 0x300 then some (.corral d)
  else if off = 0x500 then some (.dmasrc d)
  else if off = 0x508 then some (.dmadst d)
  else if off = 0x510 then some (.dmalen d)
  else if off = 0x2000 then some (.lotseed d)
  else if off = 0x2008 then some (.gangrounds d)
  else none
/-- The row a store of a dispatch controller is. -/
def dieEvent (d off : Nat) (v : Dword) : Option (Instr × EvArgs) :=
  let go (i : Instr) : Option (Instr × EvArgs) := some (i, { unit := d, value := v })
  if off = 0x400 then go .placeWrite
  else if off = 0x410 then go .saveWrite
  else if off = 0x418 then go .restoreWrite
  else if off = 0x420 then go .faultrespWrite
  else if off = 0x428 then go .haltWrite
  else if off = 0x518 then go .dmagoWrite
  else if off = 0x1800 then go .lqadvWrite
  else if off = 0x1808 then go .lqerrWrite
  else (dieWrites d off).map (fun r => (.registerWrite, { unit := d, flag := true, reg := r, value := v }))
def mgmtWrites (off : Nat) : Option HwReg :=
  let hi := off % 16 == 8
  if off = 0x10 then some .mevie
  else if 0x1000 ≤ off ∧ off < 0x1800 then
    let n := (off - 0x1000) / 0x20
    if off % 0x20 = 0 then some (.waymask n) else if off % 0x20 = 8 then some (.filtwin n) else if off % 0x20 = 16 then some (.mergewin n) else none
  else if 0x1800 ≤ off ∧ off < 0x1860 then some (.pagectl ((off - 0x1800) / 8))
  else if off = 0x1880 then some .kvpoolbase
  else if off = 0x1888 then some .kvpooln
  else if 0x2000 ≤ off ∧ off < 0x2400 then some (.asEntry ((off - 0x2000) / 16) hi)
  else if 0x2800 ≤ off ∧ off < 0x3800 then some (if hi then .routeValid ((off - 0x2800) / 16) else .routeMask ((off - 0x2800) / 16))
  else if 0x4000 ≤ off ∧ off < 0x4400 then some (.pinEntry ((off - 0x4000) / 16) hi)
  else if 0x4800 ≤ off ∧ off < 0x4A00 then some (.pageList ((off - 0x4800) / 8))
  else if 0x8000 ≤ off ∧ off < 0x8000 + 8 * rasDomains then some (.ras ((off - 0x8000) / 8))
  else if off = 0xC000 then some .pwrlim
  else if off = 0xD000 then some .invas
  else if off = 0xD008 then some .invva
  else if off = 0xD010 then some .invlen
  else if 0xE000 ≤ off ∧ off < 0xE400 then some (.spanRoot ((off - 0xE000) / 16) hi)
  else if off = 0xFA00 then some .signin
  else if off = 0xFA08 then some .signout
  else none
def mgmtEvent (off : Nat) (v : Dword) : Option (Instr × EvArgs) :=
  let go (i : Instr) : Option (Instr × EvArgs) := some (i, { unit := 8, value := v })
  if 0x900 ≤ off ∧ off < 0xA00 then some (.mbxdoneWrite, { unit := (off - 0x900) / 8, value := v })
  else if off = 0x4400 then go .pinansWrite
  else if off = 0xD018 then go .invgoWrite
  else if off = 0xD100 then go .freezeWrite
  else if off = 0xD200 then go .pkgsetWrite
  else if off = 0xF808 then go .doesendWrite
  else if off = 0xFA10 then go .signgoWrite
  else if off = 0xFB08 then go .fusecommitWrite
  else (mgmtWrites off).map (fun r => (.registerWrite, { unit := 8, flag := true, reg := r, value := v }))
/-- A load, or store, of controller `c` at an offset raises no fault. -/
def State.winLoads (s : State) (c off w : Nat) : Bool := s.winOk c off w && (off == 0 || off == 8 || (s.winAt c off).isSome)
def State.winStores (s : State) (c off w : Nat) (v : Dword) : Bool :=
  s.winOk c off w && (off == 0 || off == 8 || (s.winAt c off).isSome || (if c = 8 then mgmtEvent off v else dieEvent c off v).isSome)
/-- Controller `c` stores `v`, of `w` bytes, at an offset of its window: a row, nothing at a register that is only read, or
the access fault. -/
def State.winWrite (run : Instr → State → Host.Outcome State Fault Refusal) (s : State) (c off w : Nat) (v : Dword) :
    Host.Outcome State Fault Refusal :=
  if 9 ≤ c then .next s
  else if !s.winOk c off w then .next (s.hartTrap c codeStoreFault (winAddr off))
  else match if c = 8 then mgmtEvent off v else dieEvent c off v with
    | some e => run e.1 { s with ev := e.2 }
    | none => .next (if off = 0 ∨ off = 8 ∨ (s.winAt c off).isSome then s else s.hartTrap c codeStoreFault (winAddr off))

/-! ## Control registers and the external interrupt (R397-R399; log 11) -/

def misaValue : Dword := 0x8000000000141105
/-- Events wait and the controller asked to be interrupted by them. -/
def State.hartPending (s : State) (c : Nat) : Bool :=
  if c = 8 then s.mevie.getLsbD 0 && !s.mevq.isEmpty else (s.die c).devie.getLsbD 0 && !(s.die c).devq.isEmpty
/-- A register of the hart at another number: the supervisor's status and interrupt registers are parts of the machine's. -/
def csrHome (n : Nat) : Nat := if n = 0x100 ∨ n = 0x104 ∨ n = 0x144 then n + 0x200 else n
/-- Bits of `mstatus` that `sstatus` shows: SIE, SPIE, SPP, SUM, MXR. -/
def sstatusMask : Nat := 0xC0122
/-- Bits of `mstatus` that hold what is written: those, MIE, MPIE, MPP, MPRV, TVM, TW, TSR. -/
def mstatusMask : Nat := 0x7E19AA
/-- Interrupts a controller has: external, and those software sets for a mode. -/
def mieMask : Nat := 0xAAA
def sieMask : Nat := 0x222
/-- `mip` as it reads. -/
def State.mip (s : State) (c : Nat) : Nat := ((s.ctl c).csrAt 0x344).toNat &&& sieMask ||| (if s.hartPending c then 2 ^ codeExternal else 0)
/-- The interrupt it takes: pending, enabled, and by the status when it is in the mode that takes it already; in the order of the
standard. -/
def State.hartIntr (s : State) (c : Nat) : Option Nat :=
  let q := s.ctl c
  let st := (q.csrAt csrStatus).toNat
  let ready := s.mip c &&& (q.csrAt 0x304).toNat
  let due (i : Nat) : Bool := bitOf ready i &&
    (if (q.csrAt 0x303).getLsbD i then decide (q.mode.toNat < 1) || (q.mode == 1 && bitOf st 1) else q.mode != 3 || bitOf st 3)
  [11, 3, 7, 9, 1, 5].find? due
def State.hartDue (s : State) (c : Nat) : Bool := (s.hartIntr c).isSome
def State.hartInterrupt (s : State) (c : Nat) : State :=
  match s.hartIntr c with
  | some i => s.modCtl c (fun q => q.trapTo true i 0)
  | none => s
/-- A control register is there for a mode (its number's bits [9:8]), and can be written (bits [11:10]). -/
def csrMode (n : Nat) : Nat := n / 256 % 4
def csrReadOnly (n : Nat) : Bool := n / 1024 % 4 == 3
/-- The control registers of the hart: the standard's, and those of Table 7. -/
def csrKnown (n : Nat) : Bool :=
  decide (0xC00 ≤ n ∧ n < 0xC20) || decide (0xB00 ≤ n ∧ n < 0xB20 ∧ n ≠ 0xB01) || decide (0x320 ≤ n ∧ n < 0x340 ∧ n ≠ 0x321 ∧ n ≠ 0x322) ||
  decide (0x3A0 ≤ n ∧ n < 0x3B0 ∧ n % 2 = 0) || decide (0x3B0 ≤ n ∧ n < 0x3F0) || decide (0xF11 ≤ n ∧ n ≤ 0xF15) || decide (0x7C0 ≤ n ∧ n ≤ 0x7C3) ||
  [0xFC0, 0xFC1, 0x100, 0x104, 0x105, 0x106, 0x10A, 0x140, 0x141, 0x142, 0x143, 0x144, 0x180, 0x300, 0x301, 0x302, 0x303, 0x304, 0x305, 0x306,
    0x30A, 0x340, 0x341, 0x342, 0x343, 0x344].contains n
/-- A counter is shown to a mode by the enables of the modes above it. -/
def Ctl.counterOn (q : Ctl) (n : Nat) : Bool :=
  q.mode == 3 || n / 32 != 0xC00 / 32 || ((q.csrAt 0x306).getLsbD (n % 32) && (q.mode == 1 || (q.csrAt 0x106).getLsbD (n % 32)))
/-- A controller in its mode has the register; `satp` of a supervisor that TVM traps it has not. -/
def Ctl.csrOk (q : Ctl) (n : Nat) : Bool :=
  csrKnown n && decide (csrMode n ≤ q.mode.toNat) && q.counterOn n && !(n == 0x180 && q.mode == 1 && (q.csrAt csrStatus).getLsbD 20)
/-- What a control register reads as: 16 PMP entries stand, further ones read zero, and so do counters of other events. -/
def State.csrValue (s : State) (c n : Nat) : Dword :=
  let q := s.ctl c
  let st := (q.csrAt csrStatus).toNat
  if n = 0x7C0 then BitVec.ofNat 64 q.xwdog
  else if n = 0x7C1 then q.xwdctl
  else if n = 0x7C2 then BitVec.ofNat 64 (natOfBit q.xquiet)
  else if n = 0x7C3 then 0
  else if n = 0xFC0 ∨ n = 0xF14 then BitVec.ofNat 64 c
  else if n = 0xFC1 then q.xlevel
  else if n = 0x301 then misaValue
  else if n = 0xC01 then BitVec.ofNat 64 q.time
  else if n = 0xC00 ∨ n = 0xB00 then q.csrAt 0xB00 + BitVec.ofNat 64 q.time
  else if n = 0xC02 then q.csrAt 0xB02
  else if n = csrStatus then BitVec.ofNat 64 (st + 0xA * 2 ^ 32)
  else if n = 0x100 then BitVec.ofNat 64 ((st &&& sstatusMask) + 2 * 2 ^ 32)
  else if n = 0x344 then BitVec.ofNat 64 (s.mip c)
  else if n = 0x144 then BitVec.ofNat 64 (s.mip c) &&& q.csrAt 0x303
  else if n = 0x104 then q.csrAt 0x304 &&& q.csrAt 0x303
  else q.csrAt n
/-- PMP entry `i`: its configuration, and whether it is locked. -/
def Ctl.pmpCfg (q : Ctl) (i : Nat) : Nat := bits (q.csrAt (0x3A0 + 2 * (i / 8))).toNat (8 * (i % 8) + 7) (8 * (i % 8))
def Ctl.pmpLocked (q : Ctl) (i : Nat) : Bool := bitOf (q.pmpCfg i) 7
/-- A written configuration: bits [6:5] are zero, and write without read stands for neither. -/
def pmpLegal (v : Nat) : Nat := if bits v 1 0 = 2 then (v &&& 0x9F) - 2 else v &&& 0x9F
/-- Bits of a register that hold what is written. -/
def csrMask (n : Nat) : Nat :=
  if n = csrStatus then mstatusMask
  else if n = 0x302 then 0xB3FF
  else if n = 0x303 ∨ n = 0x344 then sieMask
  else if n = 0x304 then mieMask
  else if n = 0x105 ∨ n = 0x305 then 2 ^ 64 - 3
  else if n = 0x141 ∨ n = 0x341 then 2 ^ 64 - 2
  else if n = 0x180 then 0xF0000FFFFFFFFFFF
  else if n = 0x106 ∨ n = 0x306 then 7
  else if n = 0x10A ∨ n = 0x30A ∨ (0x320 ≤ n ∧ n < 0x340) ∨ (0xB03 ≤ n ∧ n < 0xB20) then 0
  else 2 ^ 64 - 1
/-- The value a written control register takes: `satp` only a mode it has (Bare, Sv39, Sv48), a PMP register only what is
not locked, and only of the 16 entries, a mode of `mstatus` only one that is, `misa` none. -/
def Ctl.csrPut (q : Ctl) (n : Nat) (v : Dword) : Ctl :=
  let m := csrHome n
  let mask := if n = 0x100 then sstatusMask else if n = 0x104 then (q.csrAt 0x303).toNat else if n = 0x144 then (q.csrAt 0x303).toNat &&& 2 else csrMask m
  let old := (q.csrAt m).toNat
  let x := old &&& (2 ^ 64 - 1 - mask) ||| v.toNat &&& mask
  let set (y : Nat) : Ctl := { q with csr := sput q.csr m (BitVec.ofNat 64 y) }
  if m = 0x301 then q
  else if m = csrStatus then set (if bits x 12 11 = 2 then x - bits x 12 11 * 2 ^ 11 + bits old 12 11 * 2 ^ 11 else x)
  else if m = 0xB00 then set ((v - BitVec.ofNat 64 q.time).toNat)
  else if m = 0x180 then (if [0, 8, 9].contains (v.toNat / 2 ^ 60) then set x else q)
  else if 0x3A0 ≤ m ∧ m < 0x3B0 then
    (if m = 0x3A0 ∨ m = 0x3A2 then
      set (leNat ((List.range 8).map (fun j => BitVec.ofNat 8
        (if q.pmpLocked (4 * (m - 0x3A0) + j) then bits old (8 * j + 7) (8 * j) else pmpLegal (bits v.toNat (8 * j + 7) (8 * j))))))
     else q)
  else if 0x3B0 ≤ m ∧ m < 0x3F0 then
    (let i := m - 0x3B0
     if i < 16 && !q.pmpLocked i && !(i + 1 < 16 && q.pmpLocked (i + 1) && bits (q.pmpCfg (i + 1)) 4 3 == 1) then set (v.toNat % 2 ^ 54) else q)
  else set x
/-- Controller `c` reads control register `n`, or takes an illegal instruction. -/
def State.csrRead (s : State) (c n : Nat) : State :=
  if 9 ≤ c then s
  else if !(s.ctl c).csrOk n then s.hartTrap c codeIllegal 0
  else s.modCtl c (fun q => { q with rdata := s.csrValue c n })
/-- It writes `v`: the vendor registers are rows. -/
def State.csrWrite (run : Instr → State → Host.Outcome State Fault Refusal) (s : State) (c n : Nat) (v : Dword) :
    Host.Outcome State Fault Refusal :=
  if 9 ≤ c then .next s
  else if !(s.ctl c).csrOk n || csrReadOnly n then .next (s.hartTrap c codeIllegal 0)
  else if n = 0x7C0 then run .xwdogWrite { s with ev := { unit := c } }
  else if n = 0x7C1 then run .registerWrite { s with ev := { unit := c, flag := true, reg := .xwdctl c, value := v } }
  else if n = 0x7C2 then (if v.getLsbD 0 then run .quietPoint { s with ev := { unit := c } } else .next s)
  else if n = 0x7C3 then (if c = 8 then run .xeventWrite { s with ev := { unit := c, value := v } } else .next s)
  else .next (s.modCtl c (fun q => q.csrPut n v))

/-! ## DOE discovery and page requests (R383) -/

/-- Discovery of the protocols: the first is discovery itself, the second the attestation protocol, whose numbers the spec
does not give (log 10). -/
def doeDiscovery (i : Nat) : List Byte :=
  if i = 0 then leBytes 4 (1 + 2 ^ 24)
  else if i = 1 then leBytes 2 Config.doeVendor.toNat ++ leBytes 1 Config.doeType.toNat ++ leBytes 1 0
  else leBytes 4 0xFFFF
/-- A die asks the host for pages of a function whose walk faulted there, one group at a time. -/
def State.pageRequest (s : State) (f d : Nat) : State :=
  if s.pageGroups.contains (f, d) || !(s.die d).wfaults.any (fun w => s.funcOf w.asid == f) then s
  else { s with pageGroups := s.pageGroups ++ [(f, d)] }
/-- The host answers the group; the controller then resolves or refuses the fault by `FAULTRESP`. -/
def State.pageResponse (s : State) (f d : Nat) : State := { s with pageGroups := s.pageGroups.erase (f, d) }

end Sys2Proof.Machine
end

