-- ==== Sys2Proof/Machine/Hart.lean ====
section
/-! DEFINITION. Hart.lean: one instruction of a Myruern controller: RV64IMAC with Zicsr and Zifencei, the three modes, PMP, and
translation by Sv39 and Sv48 (spec/18_outside.md R397-R399). R397 takes these from the RISC-V standard by name: what an
instruction does there is PRESUMED from it (log 11). -/

namespace Sys2Proof.Machine

def sramBase : Nat := 0x80000000
def sramSize : Nat := 0x100000
def winBase : Nat := 0x40000000
/-- The bytes are SRAM. -/
def inSram (pa n : Nat) : Bool := decide (sramBase ≤ pa ∧ pa + n ≤ sramBase + sramSize)
def inWin (pa n : Nat) : Bool := decide (winBase ≤ pa ∧ pa + n ≤ winBase + 0x10000)
def Ctl.sramNat (q : Ctl) (pa n : Nat) : Nat := mnat q.sram (pa - sramBase) n
def Ctl.xr (q : Ctl) (r : Nat) : Dword := if r = 0 then 0 else sget q.x 0 r
/-- Register 0 stays zero. -/
def Ctl.xw (q : Ctl) (r : Nat) (v : Dword) : Ctl := if r = 0 then q else { q with x := sset q.x 0 r v }
/-- A field as a signed number, of 64 bits. -/
def sx64 (w v : Nat) : Dword := BitVec.ofInt 64 (sextInt w v)

/-! ## Accesses: kinds, PMP, translation -/

inductive HartAcc where
  | fetch | load | store
  deriving DecidableEq, Repr
/-- Codes of the exceptions of an access. -/
def HartAcc.misaligned : HartAcc → Nat | .fetch => 0 | .load => 4 | .store => 6
def HartAcc.accessFault : HartAcc → Nat | .fetch => 1 | .load => codeLoadFault | .store => codeStoreFault
def HartAcc.pageFault : HartAcc → Nat | .fetch => 12 | .load => 13 | .store => 15
/-- The bit that allows it: of a PMP configuration, and one higher of a page table entry. -/
def HartAcc.perm : HartAcc → Nat | .fetch => 2 | .load => 0 | .store => 1
/-- The mode an access is checked in: that of MPP when MPRV moves loads and stores there. -/
def Ctl.accMode (q : Ctl) (k : HartAcc) : Nat :=
  let st := q.csrAt csrStatus
  if k ≠ .fetch ∧ st.getLsbD 17 = true then bits st.toNat 12 11 else q.mode.toNat
/-- Bits set below the lowest that is clear. -/
def onesBelow : Nat → Nat → Nat
  | 0, _ => 0
  | n + 1, v => if v % 2 = 1 then onesBelow n (v / 2) + 1 else 0
/-- The bytes PMP entry `i` covers: none, up from the entry below, four, or a power of two. -/
def Ctl.pmpRange (q : Ctl) (i : Nat) : Nat × Nat :=
  let at_ (j : Nat) : Nat := (q.csrAt (0x3B0 + j)).toNat
  match bits (q.pmpCfg i) 4 3 with
  | 0 => (0, 0)
  | 1 => (if i = 0 then 0 else 4 * at_ (i - 1), 4 * at_ i)
  | 2 => (4 * at_ i, 4 * at_ i + 4)
  | _ =>
    let n := 2 ^ (onesBelow 54 (at_ i) + 3)
    (4 * at_ i / n * n, 4 * at_ i / n * n + n)
/-- The lowest entry that covers a byte of the access decides, and must cover it whole; with none, machine mode alone may. -/
def Ctl.pmpOk (q : Ctl) (mode : Nat) (k : HartAcc) (pa n : Nat) : Bool :=
  let meets (i : Nat) : Bool :=
    let r := q.pmpRange i
    decide (max r.1 pa < min r.2 (pa + n))
  match (List.range 16).find? meets with
  | none => mode == 3
  | some i =>
    let r := q.pmpRange i
    decide (r.1 ≤ pa ∧ pa + n ≤ r.2) && ((mode == 3 && !q.pmpLocked i) || bitOf (q.pmpCfg i) k.perm)
/-- A leaf of the page table allows an access: read, written and executable as it says, user pages by SUM, accessed and dirty. -/
def Ctl.leafOk (q : Ctl) (mode : Nat) (k : HartAcc) (p : Nat) : Bool :=
  let st := q.csrAt csrStatus
  (bitOf p (k.perm + 1) || (k == .load && bitOf p 3 && st.getLsbD 19)) && (if mode = 0 then bitOf p 4 else !bitOf p 4 || (k != .fetch && st.getLsbD 18))
    && bitOf p 6 && (k != .store || bitOf p 7)
/-- A walk of `n` levels more, whose table is at `base`: the physical address, or the code of the fault. -/
def Ctl.walkSv (q : Ctl) (mode : Nat) (k : HartAcc) (va : Nat) : Nat → Nat → Except Nat Nat
  | 0, _ => .error k.pageFault
  | l + 1, base =>
    let a := base + 8 * bits va (20 + 9 * l) (12 + 9 * l)
    if !inSram a 8 || !q.pmpOk 1 .load a 8 then .error k.accessFault
    else
      let p := q.sramNat a 8
      let low := 2 ^ (12 + 9 * l)
      if !bitOf p 0 || (!bitOf p 1 && bitOf p 2) || bits p 63 54 != 0 then .error k.pageFault
      else if bits p 3 1 = 0 then (if bits p 7 4 &&& 13 ≠ 0 then .error k.pageFault else q.walkSv mode k va l (bits p 53 10 * 4096))
      else if !q.leafOk mode k p || bits p 53 10 * 4096 % low != 0 then .error k.pageFault
      else .ok (bits p 53 10 * 4096 + va % low)
/-- The physical address of an access of `n` bytes, or the code of its fault. -/
def Ctl.hartAddr (q : Ctl) (k : HartAcc) (va : Dword) (n : Nat) : Except Nat Nat :=
  let mode := q.accMode k
  let satp := (q.csrAt 0x180).toNat
  let lvl := if satp / 2 ^ 60 = 8 then 3 else 4
  let pa : Except Nat Nat :=
    if mode = 3 ∨ satp / 2 ^ 60 = 0 then .ok va.toNat
    else if va ≠ sx64 (12 + 9 * lvl) va.toNat then .error k.pageFault
    else q.walkSv mode k va.toNat lvl (satp % 2 ^ 44 * 4096)
  match pa with
  | .error e => .error e
  | .ok a => if q.pmpOk mode k a n then .ok a else .error k.accessFault

/-! ## The word at the pc -/

def encI (op f3 rd r1 imm : Nat) : Nat := op + rd * 2 ^ 7 + f3 * 2 ^ 12 + r1 * 2 ^ 15 + imm % 2 ^ 12 * 2 ^ 20
def encR (op f3 f7 rd r1 r2 : Nat) : Nat := encI op f3 rd r1 (r2 + f7 * 2 ^ 5)
def encS (f3 r1 r2 imm : Nat) : Nat := encI 0x23 f3 (imm % 32) r1 (r2 + imm / 32 % 128 * 2 ^ 5)
def encB (f3 r1 imm : Nat) : Nat := encI 0x63 f3 (bits imm 4 1 * 2 + bits imm 11 11) r1 ((bits imm 10 5 + bits imm 12 12 * 64) * 32)
def encJ (rd imm : Nat) : Nat :=
  0x6F + rd * 2 ^ 7 + bits imm 19 12 * 2 ^ 12 + bits imm 11 11 * 2 ^ 20 + bits imm 10 1 * 2 ^ 21 + bits imm 20 20 * 2 ^ 31
/-- A six-bit immediate as twelve bits, or as `w`. -/
def sx6 (w v : Nat) : Nat := wrapNat w (sextInt 6 v)
/-- The instruction of 32 bits a compressed one stands for; 0, which is none, where it is reserved. -/
def expandC (h : Nat) : Nat :=
  let f3 := bits h 15 13
  let rd := bits h 11 7
  let r2 := bits h 6 2
  let rdc := bits h 4 2 + 8
  let r1c := bits h 9 7 + 8
  let imm6 := r2 + bits h 12 12 * 32
  let lw := bits h 12 10 * 8 + bits h 6 6 * 4 + bits h 5 5 * 64
  let ld := bits h 12 10 * 8 + bits h 6 5 * 64
  match bits h 1 0, f3 with
  | 0, 0 =>
    let i := bits h 12 11 * 16 + bits h 10 7 * 64 + bits h 6 6 * 4 + bits h 5 5 * 8
    if i = 0 then 0 else encI 0x13 0 rdc 2 i
  | 0, 2 => encI 0x03 2 rdc r1c lw
  | 0, 3 => encI 0x03 3 rdc r1c ld
  | 0, 6 => encS 2 r1c rdc lw
  | 0, 7 => encS 3 r1c rdc ld
  | 1, 0 => encI 0x13 0 rd rd (sx6 12 imm6)
  | 1, 1 => if rd = 0 then 0 else encI 0x1B 0 rd rd (sx6 12 imm6)
  | 1, 2 => encI 0x13 0 rd 0 (sx6 12 imm6)
  | 1, 3 =>
    if imm6 = 0 then 0
    else if rd = 2 then
      encI 0x13 0 2 2 (wrapNat 12 (sextInt 10 (bits h 12 12 * 512 + bits h 6 6 * 16 + bits h 5 5 * 64 + bits h 4 3 * 128 + bits h 2 2 * 32)))
    else 0x37 + rd * 2 ^ 7 + sx6 20 imm6 * 2 ^ 12
  | 1, 4 =>
    match bits h 11 10 with
    | 0 => encI 0x13 5 r1c r1c imm6
    | 1 => encI 0x13 5 r1c r1c (imm6 + 0x400)
    | 2 => encI 0x13 7 r1c r1c (sx6 12 imm6)
    | _ =>
      if bitOf h 12 then (if bits h 6 5 = 0 then encR 0x3B 0 0x20 r1c r1c rdc else if bits h 6 5 = 1 then encR 0x3B 0 0 r1c r1c rdc else 0)
      else match bits h 6 5 with
        | 0 => encR 0x33 0 0x20 r1c r1c rdc
        | 1 => encR 0x33 4 0 r1c r1c rdc
        | 2 => encR 0x33 6 0 r1c r1c rdc
        | _ => encR 0x33 7 0 r1c r1c rdc
  | 1, 5 =>
    encJ 0 (wrapNat 21 (sextInt 12 (bits h 12 12 * 2048 + bits h 11 11 * 16 + bits h 10 9 * 256 + bits h 8 8 * 1024 + bits h 7 7 * 64
      + bits h 6 6 * 128 + bits h 5 3 * 2 + bits h 2 2 * 32)))
  | 1, n + 6 =>
    encB n r1c (wrapNat 13 (sextInt 9 (bits h 12 12 * 256 + bits h 11 10 * 8 + bits h 6 5 * 64 + bits h 4 3 * 2 + bits h 2 2 * 32)))
  | 2, 0 => encI 0x13 1 rd rd imm6
  | 2, 2 => if rd = 0 then 0 else encI 0x03 2 rd 2 (bits h 12 12 * 32 + bits h 6 4 * 4 + bits h 3 2 * 64)
  | 2, 3 => if rd = 0 then 0 else encI 0x03 3 rd 2 (bits h 12 12 * 32 + bits h 6 5 * 8 + bits h 4 2 * 64)
  | 2, 4 =>
    if r2 ≠ 0 then encR 0x33 0 0 rd (if bitOf h 12 then rd else 0) r2
    else if rd = 0 then (if bitOf h 12 then 0x00100073 else 0)
    else encI 0x67 0 (bits h 12 12) rd 0
  | 2, 6 => encS 2 2 r2 (bits h 12 9 * 4 + bits h 8 7 * 64)
  | 2, 7 => encS 3 2 r2 (bits h 12 10 * 8 + bits h 9 7 * 64)
  | _, _ => 0
/-- Two bytes of the program, or the code of the fault; the window holds none. -/
def Ctl.fetch2 (q : Ctl) (va : Dword) : Except Nat Nat :=
  match q.hartAddr .fetch va 2 with
  | .error e => .error e
  | .ok a => if inSram a 2 then .ok (q.sramNat a 2) else .error HartAcc.fetch.accessFault
/-- The instruction at the pc as 32 bits, and its length; or code and address of the fault. -/
def Ctl.fetchWord (q : Ctl) : Except (Nat × Dword) (Nat × Nat) :=
  match q.fetch2 q.pc with
  | .error e => .error (e, q.pc)
  | .ok lo =>
    if lo % 4 ≠ 3 then .ok (expandC lo, 2)
    else match q.fetch2 (q.pc + 2) with
      | .error e => .error (e, q.pc + 2)
      | .ok hi => .ok (lo + hi * 2 ^ 16, 4)

/-! ## Arithmetic -/

/-- A quotient rounded towards zero, or a remainder, of `w` bits; of a division by zero and of the overflow as the standard has
them. -/
def hartDiv (w : Nat) (sgn rem : Bool) (a b : Nat) : Nat :=
  let x : Int := if sgn then sextInt w a else (a % 2 ^ w : Int)
  let y : Int := if sgn then sextInt w b else (b % 2 ^ w : Int)
  if y = 0 then (if rem then a % 2 ^ w else 2 ^ w - 1) else wrapNat w (if rem then x.tmod y else x.tdiv y)
/-- A register operation of 64 bits, by funct7 and funct3. -/
def hartAlu (f7 f3 : Nat) (a b : Dword) : Option Dword :=
  let sh := b.toNat % 64
  let high (x y : Int) : Dword := BitVec.ofInt 64 (x * y / 2 ^ 64)
  match f7, f3 with
  | 0, 0 => some (a + b)
  | 0x20, 0 => some (a - b)
  | 0, 1 => some (a <<< sh)
  | 0, 2 => some (if a.slt b then 1 else 0)
  | 0, 3 => some (if a.ult b then 1 else 0)
  | 0, 4 => some (a ^^^ b)
  | 0, 5 => some (a >>> sh)
  | 0x20, 5 => some (a.sshiftRight sh)
  | 0, 6 => some (a ||| b)
  | 0, 7 => some (a &&& b)
  | 1, 0 => some (a * b)
  | 1, 1 => some (high a.toInt b.toInt)
  | 1, 2 => some (high a.toInt b.toNat)
  | 1, 3 => some (high a.toNat b.toNat)
  | 1, 4 => some (BitVec.ofNat 64 (hartDiv 64 true false a.toNat b.toNat))
  | 1, 5 => some (BitVec.ofNat 64 (hartDiv 64 false false a.toNat b.toNat))
  | 1, 6 => some (BitVec.ofNat 64 (hartDiv 64 true true a.toNat b.toNat))
  | 1, 7 => some (BitVec.ofNat 64 (hartDiv 64 false true a.toNat b.toNat))
  | _, _ => none
/-- The same of 32 bits, whose result is sign-extended. -/
def hartAluW (f7 f3 : Nat) (a b : Dword) : Option Dword :=
  let x := a.extractLsb' 0 32
  let y := b.extractLsb' 0 32
  let sh := b.toNat % 32
  let w (v : Word) : Option Dword := some (v.signExtend 64)
  match f7, f3 with
  | 0, 0 => w (x + y)
  | 0x20, 0 => w (x - y)
  | 0, 1 => w (x <<< sh)
  | 0, 5 => w (x >>> sh)
  | 0x20, 5 => w (x.sshiftRight sh)
  | 1, 0 => w (x * y)
  | 1, 4 => w (BitVec.ofNat 32 (hartDiv 32 true false x.toNat y.toNat))
  | 1, 5 => w (BitVec.ofNat 32 (hartDiv 32 false false x.toNat y.toNat))
  | 1, 6 => w (BitVec.ofNat 32 (hartDiv 32 true true x.toNat y.toNat))
  | 1, 7 => w (BitVec.ofNat 32 (hartDiv 32 false true x.toNat y.toNat))
  | _, _ => none
/-- An immediate operation: shifts name their amount and kind in the immediate. -/
def hartImm (f3 imm : Nat) (a : Dword) : Option Dword :=
  if f3 = 1 ∨ f3 = 5 then hartAlu (if imm / 64 = 0x10 then 0x20 else if imm / 64 = 0 then 0 else 0x7F) f3 a (BitVec.ofNat 64 (imm % 64))
  else hartAlu 0 f3 a (sx64 12 imm)
def hartImmW (f3 imm : Nat) (a : Dword) : Option Dword :=
  if f3 = 0 then hartAluW 0 0 a (sx64 12 imm)
  else if (f3 = 1 ∨ f3 = 5) ∧ imm / 32 % 32 = 0 then hartAluW (imm / 32) f3 a (BitVec.ofNat 64 (imm % 32))
  else none
/-- A branch is taken. -/
def hartTaken (f3 : Nat) (a b : Dword) : Option Bool :=
  match f3 with
  | 0 => some (a == b) | 1 => some (a != b) | 4 => some (a.slt b) | 5 => some (!a.slt b) | 6 => some (a.ult b) | 7 => some (!a.ult b)
  | _ => none
/-- What an atomic of `n` bytes writes, by funct5. -/
def hartAmo (f5 n : Nat) (old b : Nat) : Option Nat :=
  match f5 with
  | 0 => some (atomNew .add n old b) | 1 => some b | 4 => some (old ^^^ b) | 8 => some (old ||| b) | 12 => some (old &&& b)
  | 16 => some (atomNew .minS n old b) | 20 => some (atomNew .maxS n old b) | 24 => some (min old b) | 28 => some (max old b)
  | _ => none
/-- The word a load of `n` bytes gives, zero-extended or sign-extended. -/
def hartWord (n : Nat) (zero : Bool) (v : Nat) : Dword := if zero then BitVec.ofNat 64 v else sx64 (8 * n) v

/-! ## An instruction -/

/-- It is done: the pc goes to `pc`, and one more is retired. -/
def Ctl.retired (q : Ctl) (pc : Dword) : Ctl := { q with pc := pc, csr := sput q.csr 0xB02 (q.csrAt 0xB02 + 1) }
/-- Its result goes to a register, and the pc past it. -/
def Ctl.result (q : Ctl) (len rd : Nat) (v : Dword) : Ctl := (q.xw rd v).retired (q.pc + BitVec.ofNat 64 len)
/-- Where a load or store of `n` bytes of SRAM, or of the window, acts; or code of its fault. -/
def Ctl.dataAddr (q : Ctl) (k : HartAcc) (va : Dword) (n : Nat) : Except Nat Nat :=
  match q.hartAddr k va n with
  | .error e => .error e
  | .ok a =>
    if inSram a n then (if va.toNat % n = 0 then .ok a else .error k.misaligned)
    else if inWin a n && q.accMode k == 3 then .ok a else .error k.accessFault
def Ctl.sramPut (q : Ctl) (pa n v : Nat) : Ctl := { q with sram := mwrite q.sram (pa - sramBase) (leBytes n v) }
abbrev RunRow := Instr → State → Host.Outcome State Fault Refusal
/-- A load: of SRAM, or of a register of the window. -/
def State.hartLoad (run : RunRow) (s : State) (c len rd : Nat) (va : Dword) (n : Nat) (zero : Bool) : Host.Outcome State Fault Refusal :=
  let q := s.ctl c
  match q.dataAddr .load va n with
  | .error e => .next (s.hartTrap c e va)
  | .ok a =>
    if inSram a n then .next (s.modCtl c (fun q => q.result len rd (hartWord n zero (q.sramNat a n))))
    else if !s.winLoads c (a - winBase) n then .next (s.hartTrap c codeLoadFault va)
    else match (s.modCtl c (fun q => q.result len 0 0)).winRead run c (a - winBase) n with
      | .next t => .next (t.modCtl c (fun q => q.xw rd q.rdata))
      | r => r
/-- A store. -/
def State.hartStore (run : RunRow) (s : State) (c len : Nat) (va : Dword) (n : Nat) (v : Dword) : Host.Outcome State Fault Refusal :=
  let q := s.ctl c
  match q.dataAddr .store va n with
  | .error e => .next (s.hartTrap c e va)
  | .ok a =>
    if inSram a n then .next (s.modCtl c (fun q => (q.sramPut a n v.toNat).result len 0 0))
    else if !s.winStores c (a - winBase) n v then .next (s.hartTrap c codeStoreFault va)
    else (s.modCtl c (fun q => q.result len 0 0)).winWrite run c (a - winBase) n v
/-- `lr`, `sc` and the other atomics, on SRAM; the window takes none. A store-conditional stores while its reservation stands. -/
def State.hartAtomic (s : State) (c len : Nat) (f5 rd r2 : Nat) (va : Dword) (n : Nat) : State :=
  let q := s.ctl c
  let k : HartAcc := if f5 = 2 then .load else .store
  if if f5 = 2 then r2 ≠ 0 else f5 ≠ 3 ∧ hartAmo f5 n 0 0 = none then s.hartTrap c codeIllegal 0
  else match q.dataAddr k va n with
  | .error e => s.hartTrap c e va
  | .ok a =>
    if !inSram a n then s.hartTrap c k.accessFault va
    else
      let old := q.sramNat a n
      let b := (q.xr r2).toNat % 2 ^ (8 * n)
      match f5 with
      | 2 => s.modCtl c (fun q => { q.result len rd (hartWord n false old) with resv := some (a - sramBase, n) })
      | 3 =>
        let ok := q.resv == some (a - sramBase, n)
        s.modCtl c (fun q => { (if ok then q.sramPut a n b else q).result len rd (if ok then 0 else 1) with resv := none })
      | _ => s.modCtl c (fun q => (q.sramPut a n ((hartAmo f5 n old b).getD old)).result len rd (hartWord n false old))
/-- A control register is read and written, by funct3; one that is only read is not written. -/
def State.hartCsr (run : RunRow) (s : State) (c len f3 rd r1 n : Nat) : Host.Outcome State Fault Refusal :=
  let q := s.ctl c
  let v := if 4 ≤ f3 then BitVec.ofNat 64 r1 else q.xr r1
  let writes := f3 % 4 == 1 || r1 != 0
  if !q.csrOk n || (writes && csrReadOnly n) then .next (s.hartTrap c codeIllegal 0)
  else
    let old := s.csrValue c n
    let new := if f3 % 4 = 1 then v else if f3 % 4 = 2 then old ||| v else old &&& ~~~v
    let s1 := s.modCtl c (fun q => q.result len rd old)
    if writes then s1.csrWrite run c n new else .next s1
/-- Return from a trap of machine mode, or of supervisor mode. -/
def Ctl.mret (q : Ctl) : Ctl :=
  let st := q.csrAt csrStatus
  let mpp := bits st.toNat 12 11
  let st1 := setField (setField (setField st 3 3 (bits st.toNat 7 7)) 7 7 1) 12 11 0
  ({ q with mode := BitVec.ofNat 2 mpp, csr := sput q.csr csrStatus (if mpp = 3 then st1 else setField st1 17 17 0) }).retired (q.csrAt 0x341)
def Ctl.sret (q : Ctl) : Ctl :=
  let st := q.csrAt csrStatus
  let st1 := setField (setField (setField (setField st 1 1 (bits st.toNat 5 5)) 5 5 1) 8 8 0) 17 17 0
  ({ q with mode := BitVec.ofNat 2 (bits st.toNat 8 8), csr := sput q.csr csrStatus st1 }).retired (q.csrAt 0x141)
/-- The system instructions but those of control registers. `wfi` ends at once, and a fence of translations has nothing to do,
since each access walks. -/
def State.hartSystem (s : State) (c len w : Nat) : State :=
  let q := s.ctl c
  let st := q.csrAt csrStatus
  let done := s.modCtl c (fun q => q.result len 0 0)
  let illegal := s.hartTrap c codeIllegal 0
  if w = 0x00000073 then s.hartTrap c (8 + q.mode.toNat) 0
  else if w = 0x00100073 then s.hartTrap c 3 q.pc
  else if w = 0x30200073 then (if q.mode = 3 then s.modCtl c Ctl.mret else illegal)
  else if w = 0x10200073 then (if q.mode = 3 ∨ (q.mode = 1 ∧ st.getLsbD 22 = false) then s.modCtl c Ctl.sret else illegal)
  else if w = 0x10500073 then (if q.mode = 3 ∨ st.getLsbD 21 = false then done else illegal)
  else if bits w 31 25 = 9 ∧ bits w 14 7 = 0 then (if q.mode = 3 ∨ (q.mode = 1 ∧ st.getLsbD 20 = false) then done else illegal)
  else illegal
/-- The instruction `w`, of `len` bytes. -/
def State.hartExec (run : RunRow) (s : State) (c w len : Nat) : Host.Outcome State Fault Refusal :=
  let q := s.ctl c
  let rd := bits w 11 7
  let f3 := bits w 14 12
  let f7 := bits w 31 25
  let a := q.xr (bits w 19 15)
  let b := q.xr (bits w 24 20)
  let immI := bits w 31 20
  let immS := bits w 11 7 + bits w 31 25 * 32
  let immU := sx64 32 (w / 2 ^ 12 * 2 ^ 12)
  let past := q.pc + BitVec.ofNat 64 len
  let illegal : Host.Outcome State Fault Refusal := .next (s.hartTrap c codeIllegal 0)
  let put (v : Option Dword) : Host.Outcome State Fault Refusal :=
    match v with
    | some v => .next (s.modCtl c (fun q => q.result len rd v))
    | none => illegal
  let jump (pc : Dword) : Host.Outcome State Fault Refusal := .next (s.modCtl c (fun q => (q.xw rd past).retired pc))
  match bits w 6 0 with
  | 0x37 => put (some immU)
  | 0x17 => put (some (q.pc + immU))
  | 0x6F => jump (q.pc + sx64 21 (bits w 31 31 * 2 ^ 20 + bits w 19 12 * 2 ^ 12 + bits w 20 20 * 2 ^ 11 + bits w 30 21 * 2))
  | 0x67 => if f3 ≠ 0 then illegal else jump ((a + sx64 12 immI) &&& ~~~1)
  | 0x63 => match hartTaken f3 a b with
    | none => illegal
    | some t =>
      let dest := q.pc + sx64 13 (bits w 31 31 * 2 ^ 12 + bits w 7 7 * 2 ^ 11 + bits w 30 25 * 2 ^ 5 + bits w 11 8 * 2)
      .next (s.modCtl c (fun q => q.retired (if t then dest else past)))
  | 0x03 => if f3 = 7 then illegal else s.hartLoad run c len rd (a + sx64 12 immI) (2 ^ (f3 % 4)) (decide (4 ≤ f3))
  | 0x23 => if 4 ≤ f3 then illegal else s.hartStore run c len (a + sx64 12 immS) (2 ^ f3) b
  | 0x13 => put (hartImm f3 immI a)
  | 0x1B => put (hartImmW f3 immI a)
  | 0x33 => put (hartAlu f7 f3 a b)
  | 0x3B => put (hartAluW f7 f3 a b)
  | 0x0F => if 2 ≤ f3 then illegal else .next (s.modCtl c (fun q => q.result len 0 0))
  | 0x2F => if f3 ≠ 2 ∧ f3 ≠ 3 then illegal else .next (s.hartAtomic c len (f7 / 4) rd (bits w 24 20) a (2 ^ f3))
  | 0x73 => if f3 = 0 then .next (s.hartSystem c len w) else if f3 = 4 then illegal else s.hartCsr run c len f3 rd (bits w 19 15) immI
  | _ => illegal
/-- Controller `c` takes an interrupt that is due, or runs the instruction at its pc. It runs none before Run (R401). -/
def State.hartStep (run : RunRow) (s : State) (c : Nat) : Host.Outcome State Fault Refusal :=
  if 9 ≤ c || !s.booted then .next s
  else if s.hartDue c then .next (s.hartInterrupt c)
  else match (s.ctl c).fetchWord with
    | .error e => .next (s.hartTrap c e.1 e.2)
    | .ok (w, len) => s.hartExec run c w len

end Sys2Proof.Machine
end

