-- ==== Sys2Proof/Machine/Issue.lean ====
section
/-! DEFINITION. Issue.lean: fetching, the choice of a team, micro-ops, the strand steps that are no instruction, and
which agent moves next (spec/02_execution.md R25-R29, R35-R38, R41; spec/04_encoding.md R64, R66, R80, R82;
spec/15_tables.md R320, R321, R331, R332; spec/13_memory_model.md R273, R284). `run` is the meaning of an instruction. -/

namespace Sys2Proof.Machine

/-- What executes an instruction for the strand of `cur`, or a step of another agent on the arguments of `ev`. -/
abbrev Run := Instr → State → Out

/-! ## Fetching (R64, R66) -/

/-- Why no word is at hand. -/
inductive FetchEnd where
  | trap (t : Trap)
  | wait (s : State)
  | reserved
/-- The line with this key that the strand has fetched for the instruction at its PC. -/
def Strand.lineOf (t : Strand) (key : Nat) : Option (BitVec 1024) :=
  match t.fetched with
  | some (pc, ls) => if pc = t.pc then sfind ls key else none
  | none => none
/-- One word of an instruction; `len` is its frame code, once word 0 is known. It is read as its memory holds it, stores of
the launch itself among them (DESIGN CHOICE: R67 leaves their effect on its fetches undefined; log 7). -/
def State.fetchWord (s : State) (len : BitVec 2) (va : Dword) : Except FetchEnd Word :=
  let k := coreOf s.x
  match s.xlate va needX with
  | .fault t => .error (.trap { t with nofetch := va == s.myStrand.pc })
  | .wait s1 => .error (.wait s1)
  | .at_ e =>
    let a := e.addr va
    match e.target with
    | .dev =>
      if reserved a 4 then .error .reserved
      else if (s.errRead none a 4).isSome then
        .error (.trap { code := causeEcc, tval := va.extractLsb' 0 32, taddr := va, nofetch := va == s.myStrand.pc })
      else .ok (BitVec.ofNat 32 (s.pnat a 4))
    | .host _ | .remote _ | .spm _ => match s.myStrand.lineOf (lineKey e.target a) with
      | some v => .ok (v.extractLsb' (8 * (a % 128)) 32)
      | none =>
        let r : Req := { id := 0, kind := .fetch, strand := s.x, tgt := e.target, addr := a, va := va.toNat, pg := e.size, nocache := e.nocache, len := len }
        .error (.wait ((s.addReq k r).park (.request (s.core k).nextReq)))
def State.fetchWords (s : State) (len : BitVec 2) : Nat → Dword → Except FetchEnd (List Word)
  | 0, _ => .ok []
  | n + 1, va => match s.fetchWord len va with
    | .error e => .error e
    | .ok w => match s.fetchWords len n (va + 4) with
      | .error e => .error e
      | .ok ws => .ok (w :: ws)
/-- What a fetch at the PC of the strand of `cur` gives. -/
inductive Fetched where
  | words (w0 : Word) (ws : List Word)
  | trap (len : BitVec 2) (t : Trap)
  | wait (s : State)
  | reserved
def State.fetchFrame (s : State) : Fetched :=
  let pc := s.myStrand.pc
  match s.fetchWord 0 pc with
  | .error (.trap t) => .trap 0 t
  | .error (.wait s1) => .wait s1
  | .error .reserved => .reserved
  | .ok w0 =>
    let len := w0.extractLsb' 0 2
    match s.fetchWords len (frameWords len - 1) (pc + 4) with
    | .error (.trap t) => .trap len t
    | .error (.wait s1) => .wait s1
    | .error .reserved => .reserved
    | .ok ws => .words w0 (w0 :: ws)

/-- The slices of the words of the frame at the PC are accessed, once for each line (R209, R212, R215). An `mcall` is fetched
with its first micro-op. -/
def State.fetchTouch (s : State) (n : Nat) : State :=
  let pc := s.myStrand.pc
  let ls := (List.range n).filterMap (fun i => match s.xlate (pc + BitVec.ofNat 64 (4 * i)) needX with
    | .at_ e => if e.target = .dev then some (e.addr (pc + BitVec.ofNat 64 (4 * i)) / 128, e.nocache) else none
    | .fault _ | .wait _ => none)
  ls.eraseDups.foldl (fun s l => s.touch (l.1 * 128) 128 l.2 false) s
/-- ILLEGAL_INSTR, whatever the guard (R80). -/
def State.illegalInstr (s : State) (w0 : Word) : State := s.trapLen (w0.extractLsb' 0 2) { code := causeIllegalInstr, tval := w0 }
/-- The strand of `cur` issues at words that are no instruction, or that cannot be fetched. -/
def execNotAnInstruction (s : State) : Out :=
  match s.fetchFrame with
  | .trap len t => .next (s.fetchTrap len t)
  | .wait s1 => .next s1
  | .reserved => .fault .reservedPhysical
  | .words w0 ws => match decodeWords ws with
    | .ok _ => .next s
    | .error _ => .next (s.illegalInstr w0)

/-! ## Micro-ops (R331, R332) -/

/-- The macro and the four parameters of a call. -/
def callOf : Instr → Option (Nat × (Nat → BitVec 7) × BitVec 2)
  | .mcall g m a b => some (m.toNat, fun i => if i = 0 then a else if i = 1 then b else 0, (baseFr g false).len)
  | .mcallX x m d a b e =>
    let v : BitVec 7 := match b with
      | .reg r => r
      | .imm w => w.extractLsb' 0 7
    some (m.toNat, fun i => if i = 0 then a else if i = 1 then v else if i = 2 then e else d, (extFr x false).len)
  | _ => none
/-- The micro-op at the strand's step. -/
def State.microOp (run : Run) (s : State) (m : Nat) (p : Nat → BitVec 7) (len : BitVec 2) : Out :=
  let r := s.macroRecord m s.myStrand.step
  let w := substWord r p
  let s1 := { s with cur := { strand := s.x, word0 := w, mop := some { idx := m, last := r.getLsbD 35, len := len } } }
  match decodeWords [w] with
  | .error _ => .next (s1.illegalInstr w)
  | .ok (j, _) => run j s1
/-- A call, or the micro-op a strand within one stands at; its first micro-op issues with the call. -/
def State.runCall (run : Run) (s : State) (i : Instr) (m : Nat) (p : Nat → BitVec 7) (len : BitVec 2) : Out :=
  if s.myStrand.step < 32 then s.microOp run m p len
  else match run i s with
    | .next s1 => if (s1.strand s.x).step < 32 then s1.microOp run m p len else .next s1
    | r => r

/-! ## One strand issues -/

/-- The instruction decoded at the PC runs for the strand of `cur`. -/
def State.runDecoded (run : Run) (s : State) (i : Instr) : Out :=
  match callOf i with
  | some (m, p, len) => s.runCall run i m p len
  | none => run i s
def State.issueStrand (run : Run) (s : State) (x : Nat) : Out :=
  let s0 := { s with cur := { strand := x } }
  match s0.fetchFrame with
  | .trap len t => .next (s0.fetchTrap len t)
  | .wait s1 => .next s1
  | .reserved => .fault .reservedPhysical
  | .words w0 ws =>
    let s1 := { (if s0.myStrand.step < 32 then s0 else s0.fetchTouch ws.length) with cur := { strand := x, word0 := w0 } }
    match decodeWords ws with
    | .error _ => run .notAnInstruction s1
    | .ok (i, _) => s1.runDecoded run i

/-! ## The choice of a team (R25, R35-R38, R320) -/

/-- Crews that hold a slot of a unit. -/
def State.crewsAt (s : State) (u : Nat) : List Nat :=
  ((s.crews.filter (fun c => c.1 / 4096 == u / 5 && c.2.unit == u % 5 && c.2.res == .resident)).map (·.1))
/-- The ready set of a unit: strands of troops that are not deterministic. The muster table of R320 is this (log 7). -/
def State.readySet (s : State) (u : Nat) : List Nat :=
  ((s.crewsAt u).filter (fun c => s.mayIssue c && !(s.launchOf (troopOfCrew c)).det)).flatMap (fun c =>
    (s.liveLanes c).filter (fun x => isEligible (s.strand x)))
/-- The crew holds the rein of a pair. -/
def State.holdsRein (s : State) (c : Nat) : Bool :=
  (s.troop (troopOfCrew c)).reins.any (fun p => p.2.2 == crewIdx c)
def State.oldest (s : State) (xs : List Nat) : Option Nat := leastBy (fun x => (s.strand x).stamp) xs
/-- R25. -/
def State.chooseTeam (s : State) (u : Nat) : List Nat :=
  let ready := s.readySet u
  let h := ready.filter (fun x => s.holdsRein (crewOf x))
  let cand := if !h.isEmpty && (s.unit u).issueCount % 16 != 15 then h else ready
  match s.oldest cand with
  | none => []
  | some o =>
    let same := ready.filter (fun x => s.issueKey x == s.issueKey o)
    (List.range 32).filterMap (fun l =>
      let at_ := same.filter (fun x => s.plane x == l)
      let held := at_.filter h.contains
      s.oldest (if held.isEmpty then at_ else held))

/-- Deterministic troops of a unit, by their first slot. -/
def State.detTroops (s : State) (u : Nat) : List Nat :=
  let first (t : Nat) : Nat := (((s.crewsAt u).filter (fun c => troopOfCrew c == t)).map (fun c => (s.crew c).slot)).foldl min 64
  sortBy first (((s.crewsAt u).map troopOfCrew).eraseDups.filter (fun t => (s.launchOf t).det))
def State.setRot (s : State) (t u : Nat) (r : Rot) : State := s.modTroop t (fun v => { v with rots := sput v.rots (u % 5) r })
/-- The troops are offered the cycle in turn; the first whose turn crew can issue takes it. -/
def State.detOffer (s : State) (u : Nat) : List Nat → State × Option (Nat × List Nat)
  | [] => (s, none)
  | t :: ts =>
    let r := s.detTurn t u 65 (sget (s.troop t).rots {} (u % 5))
    let s1 := s.setRot t u r.1
    if r.2.isEmpty then s1.detOffer u ts else (s1, some (t, r.2))
/-- The turn of a team none of which stalls is over, and the next round's crews are fixed at once. -/
def State.rotSettle (s : State) (t u : Nat) : State :=
  let r := sget (s.troop t).rots {} (u % 5)
  match r.crews[r.turn]? with
  | none => s
  | some i =>
    if r.busy && (s.liveLanes (64 * t + i)).all (fun x => (s.strand x).team.isNone) then
      s.setRot t u (s.rotStart t u r.advance)
    else s
def State.detTeam (s : State) (u : Nat) : State × List Nat :=
  let ts := s.detTroops u
  let at_ := ts.findIdx (· == (s.unit u).nextDet)
  let order := if at_ < ts.length then ts.drop at_ ++ ts.take at_ else ts
  match s.detOffer u order with
  | (s1, none) => (s1, [])
  | (s1, some (t, tm)) =>
    let after := ts.getD ((ts.findIdx (· == t) + 1) % ts.length) t
    (s1.modUnit u (fun v => { v with nextDet := after }), tm)

/-! ## Time -/

/-- Cycles of a core pass: its counter, and, unless its contexts stand still, save requests and paddock timers (log 12). -/
def State.tickCore (s : State) (k n : Nat) : State :=
  let s1 := (s.modCore k (fun c => { c with cycle := c.cycle + n })).perf k 1 0 n
  if s1.still k then s1
  else
    let ageC (c : Nat × Crew) : Nat × Crew := if c.1 / 4096 = k then (c.1, { c.2 with saveReq := c.2.saveReq.map (· + n) }) else c
    let ageT (t : Nat × Troop) : Nat × Troop := if t.1 / 64 = k then (t.1, { t.2 with saveReq := t.2.saveReq.map (· + n) }) else t
    let s2 := { s1 with crews := s1.crews.map ageC, troops := s1.troops.map ageT }
    ((s2.troopsOn k).filter (fun t => !(s2.launchOf t).det && !(s2.troop t).saving && (s2.troop t).res == .resident)).foldl
      (fun s t => s.tickBins t n) s2
/-- Cycles of a controller pass. -/
def State.tickCtl (s : State) (c n : Nat) : State :=
  s.modCtl c (fun q => { q with time := (q.time + n) % 2 ^ 64, xwdog := if q.wdOn then q.xwdog - n else q.xwdog, since := q.since.map (· + n), age := q.age.map (· + n) })
/-- Cores are 0-511, controllers follow, then the clocks of the RAS domains (R357). -/
def State.tick (s : State) (k n : Nat) : State :=
  if k < 512 then s.tickCore k n else if k < 521 then s.tickCtl (k - 512) n else s.tickRas (k - 521) n

/-! ## A team issues (R25-R27, R353, R355) -/

/-- Events 2 and 3: a team, and its strands. -/
def State.perfTeam (s : State) (k : Nat) (xs : List Nat) : State :=
  s.modCore k (fun c => { c with perf := c.perf.map (fun p =>
    let cfg := p.2.2.1.toNat
    let mine := if bitOf cfg 8 then xs.filter (fun x => troopOf x == p.2.2.2) else xs
    let n := if bits cfg 7 0 = 2 then min 1 mine.length else if bits cfg 7 0 = 3 then mine.length else 0
    (p.1, (p.2.1 + BitVec.ofNat 64 n, p.2.2))) })
/-- Order of a team's strands: crew index, then virtual lane (R324, R326), then troop slot (log 26). -/
def teamKey (x : Nat) : Nat := (crewIdx (crewOf x) * 32 + laneOf x) * 64 + slotOfTroop (troopOf x)
/-- The instruction at the PC of a strand is an `mstore`. -/
def State.atMstore (s : State) (x : Nat) : Bool :=
  match { s with cur := { strand := x } }.fetchFrame with
  | .words _ ws => match decodeWords ws with
    | .ok (.mstore .., _) => true
    | .ok _ | .error _ => false
  | .trap _ _ | .wait _ | .reserved => false
/-- The order in which a team's strands issue: by `teamKey`, but by troop slot where two troops may meet one free macro
(R327). -/
def State.teamOrder (s : State) (xs : List Nat) : List Nat :=
  if xs.any (fun x => troopOf x != troopOf (xs.headD 0)) && xs.any s.atMstore then sortBy (fun x => slotOfTroop (troopOf x)) (sortBy teamKey xs)
  else sortBy teamKey xs
/-- A team is formed: its cycle, its number, its members in their order. -/
def State.formTeam (s : State) (u : Nat) (xs : List Nat) (counted : Bool) : State :=
  let id := s.newId
  let s1 := ((id.2.tickCore (u / 5) 1).perfTeam (u / 5) xs).modUnit u (fun v =>
    { v with team := s.teamOrder xs, base := v.stampCtr, issueCount := if counted then (v.issueCount + 1) % 2 ^ 64 else v.issueCount })
  xs.foldl (fun s x => s.modStrand x (fun t => { t with team := some (t.team.getD id.1) })) s1
/-- The team a unit issues this cycle: a deterministic troop's, or the choice of R25. -/
def State.pickTeam (s : State) (u : Nat) : State :=
  match s.detTeam u with
  | (s1, []) => match s1.chooseTeam u with
    | [] => s1
    | xs => s1.formTeam u xs true
  | (s1, xs) => s1.formTeam u xs false
/-- Stamps of one cycle go in ascending slot, then physical lane (R25; log 26). -/
def State.restamp (s : State) (u : Nat) : State :=
  let base := (s.unit u).base
  let xs := ((s.crewsAt u).flatMap s.liveLanes).filter (fun x => isEligible (s.strand x) && decide (base ≤ (s.strand x).stamp))
  let sorted := sortBy s.stampKey xs
  (sorted.zip (List.range sorted.length)).foldl (fun s p => s.modStrand p.1 (fun t => { t with stamp := base + p.2 })) s
/-- The next strand of the team, when it can still issue. -/
def State.issueMember (run : Run) (s : State) (u x : Nat) (rest : List Nat) : Out :=
  let s1 := s.modUnit u (fun v => { v with team := rest })
  let r := if s1.alive x && isEligible (s1.strand x) && s1.mayIssue (crewOf x) then s1.issueStrand run x else .next s1
  if rest.isEmpty then
    match r with
    | .next s2 =>
      let s3 := s2.restamp u
      .next (if (s3.launchOf (troopOf x)).det then s3.rotSettle (troopOf x) u else s3)
    | r => r
  else r
/-- The unit of a core whose team is under way, or `u`: a team issues whole before another unit of the core moves, so that
what the teams of one cycle do is in the order of their units (R324). -/
def State.unitFirst (s : State) (u : Nat) : Nat :=
  ((List.range 5).map (· + u / 5 * 5)).find? (fun v => !(s.unit v).team.isEmpty) |>.getD u
/-- Unit `u` moves: the next strand of its team, or of a new one. -/
def State.issueUnit (run : Run) (s : State) (u0 : Nat) : Out :=
  let u := s.unitFirst u0
  if s.still (u / 5) then .next s
  else match (s.unit u).team with
    | x :: rest => s.issueMember run u x rest
    | [] =>
      let s1 := s.pickTeam u
      match (s1.unit u).team with
      | x :: rest => s1.issueMember run u x rest
      | [] => .next s1

/-! ## Stores leave their queue (R204, R219, R273, R366) -/

/-- The store at the head of a crew's queue passes the core order point: one to a scratchpad of the cluster goes on to its
bank, and one of 128 bits passes in halves, in an order that is a free choice (R270). -/
def State.drain (s : State) (c : Nat) : State :=
  let t := troopOfCrew c
  let k := coreOfTroop t
  match (s.crew c).sq with
  | [] => s
  | e :: rest =>
    let out := s.modCrew c (fun v => { v with sq := rest })
    if s.still k then s
    else match e.tgt with
      | .spm q =>
        if e.cluster then
          let r : Req := { id := e.id, kind := .store, strand := e.strand, tgt := e.tgt, addr := e.addr, va := e.va, data := e.data, cluster := true }
          out.pushReq k r
        else if s.bankOut k e.tgt e.addr e.data.length then s
        else if e.data.length ≠ 16 then out.spmWrite q e.addr e.data
        else
          let hi := s.free.1.getLsbD 0
          let at_ (h : Bool) : Nat := e.addr + (if h then 8 else 0)
          (s.free.2.modCrew c (fun v => { v with sq := { e with addr := at_ (!hi), data := half16 (!hi) e.data } :: rest })).spmWrite q (at_ hi)
            (half16 hi e.data)
      | .dev | .host _ | .remote _ =>
        if s.lost e.tgt then (out.decCls c .st).dropStore e.strand e.va
        else
          let r : Req := { id := e.id, kind := .store, strand := e.strand, tgt := e.tgt, addr := e.addr, va := e.va, data := e.data,
                           pg := e.pg, pol := e.pol, nocache := e.nocache }
          let at_ (h : Bool) : Nat := e.addr + (if h then 8 else 0)
          match e.half, decide (e.data.length = 16) with
          | none, true =>
            let hi := s.free.1.getLsbD 0
            (s.free.2.modCrew c (fun v => { v with sq := { e with half := some hi } :: rest })).updateL1 k e.tgt (at_ hi) (half16 hi e.data)
          | some hi, true => (out.updateL1 k e.tgt (at_ (!hi)) (half16 (!hi) e.data)).pushReq k r
          | _, false => (out.updateL1 k e.tgt e.addr e.data).pushReq k r

/-- The store at the head of a crew's queue passes the core order point and is on its way to its own core's bank: strands of
the core that name its bytes wait for it, and other cores see it when it arrives (R273, R276). -/
def State.drainLate (s : State) (c : Nat) : State :=
  let k := coreOfTroop (troopOfCrew c)
  match (s.crew c).sq with
  | [] => s
  | e :: rest =>
    match e.tgt with
    | .spm _ =>
      if e.cluster || s.still k then s.drain c
      else (s.modCrew c (fun v => { v with sq := rest })).pushReq k
        { id := e.id, kind := .store, strand := e.strand, tgt := e.tgt, addr := e.addr, va := e.va, data := e.data, cluster := true }
    | .dev | .host _ | .remote _ => s.drain c

/-! ## Parked and Pending strands (R29, R41, R365, R371) -/

/-- The strand would wait again for what it waits for. -/
def State.sameWait (s : State) (k : Nat) : Wait → Wait → Bool
  | .fill _, .fill _ | .retry, .retry | .grow, .grow => true
  | .key a p n, .key b q m => a == b && p == q && n == m && (s.core k).miss.any (fun v => v.asid == a && v.page == p)
  | _, _ => false
/-- Waits that end when the instruction, tried again, would not wait. -/
def Wait.tries : Wait → Bool
  | .fill _ | .retry | .grow | .key _ _ _ => true
  | .none | .result _ | .request _ | .clock _ => false
/-- A parked strand's condition is looked at: its instruction is tried. -/
def State.wake (run : Run) (s : State) (x : Nat) : State :=
  let me := s.strand x
  let k := coreOf x
  if !s.alive x || me.life != .parked || !me.wait.tries || s.still k || !s.mayIssue (crewOf x) then s
  else match s.issueStrand run x with
    | .next t =>
      let now := t.strand x
      if now.life = .parked ∧ s.sameWait k me.wait now.wait then
        (if now.latch = me.latch ∧ (t.crew (crewOf x)).grow = (s.crew (crewOf x)).grow then s else t)
      else if me.refused.isSome then t
      else s.toEligible x
    | _ => s.toEligible x
/-- The cycle counter has reached the count of sleeping strand `unit` (R371). -/
def execSleepExpiry (s : State) : Out :=
  let x := s.ev.unit
  .next (match (s.strand x).life, (s.strand x).wait with
    | .parked, .clock a =>
      if a ≤ (s.core (coreOf x)).cycle ∧ !s.still (coreOf x) ∧ s.mayIssue (crewOf x) then s.toEligible x else s
    | _, _ => s)
/-- The operand Pending strand `unit` awaits is there (R41). -/
def execOperandAvailable (s : State) : Out :=
  let x := s.ev.unit
  .next (match (s.strand x).life, (s.strand x).wait with
    | .pending, .result r =>
      if r &&& (s.strand x).pend = 0 ∧ !s.still (coreOf x) ∧ s.mayIssue (crewOf x) then s.toEligible x else s
    | _, _ => s)

/-! ## What is due when nobody is told to move (log 1) -/

abbrev Event := Instr × EvArgs
def noArgs : EvArgs := { unit := 0 }
/-- Steps that read what another package holds are due by themselves only while no package can be reached: what it
answers is given with the step. -/
def State.alone (s : State) : Bool := (List.range 256).all (fun p => !s.routeOk p)
def reqEvents (k : Nat) (r : Req) : List Event :=
  let a : EvArgs := { unit := k, item := r.id }
  if r.done then [if reqIsStore r then (.storeAck, a) else (.loadDataReturn, a)] else [(.sliceRequest, a)]
def engEvents (k : Nat) (e : Eng) (o : EngOp) : List Event :=
  let a : EvArgs := { unit := k, item := o.id, eng := e }
  [(.engineOpRetire, a), (.engineSegmentComplete, a), (.engineOpStart, a)] ++ o.todo.map (fun c => (.copymcLanding, { a with aux := c }))
    ++ o.outs.map (fun w => (.storeAck, { a with item := w.1 }))
def kvEvents (k : Nat) (o : KvOp) : List Event :=
  let a : EvArgs := { unit := k, item := o.id }
  [(.kvOpRetire, a), (.kvwinApply, a), (.kvtrimFree, a), (.kvSegmentComplete, a), (.kvOpStart, a)]
def State.coreEvents (s : State) (k : Nat) (c : Core) : List Event :=
  c.reqs.flatMap (reqEvents k) ++ [(.tileOpRetire, { unit := k }), (.tileOpStart, { unit := k })]
    ++ (if s.alone then c.sqe.flatMap (engEvents k .streamer) ++ c.xqe.flatMap (engEvents k .xform) ++ c.kq.flatMap (kvEvents k) else [])
    ++ c.bins.flatMap (fun b => [(.paddockTimerExpiry, { unit := k, item := b.1 }), (.paddockLaunch, { unit := k, item := b.1 })])
def State.dieEvents (s : State) (d : Nat) (v : Die) : List Event :=
  (.walkStart, { unit := d }) :: (List.range v.walks.length).map (fun i => (.walkComplete, { unit := d, item := i }))
    ++ [(.dmaComplete, { unit := d })]
    ++ (List.range v.savedCtx.length).map (fun i => (.contextRestore, { unit := d, item := i }))
    ++ (if s.alone then v.lq.map (fun q => (.launchPacketCheck, { unit := d, item := q.1 })) else [])
def State.strandEvents (s : State) : List Event :=
  s.strands.flatMap (fun x => match x.2.life with
    | .pending => [(.operandAvailable, { unit := x.1 })]
    | .parked => [(.sleepExpiry, { unit := x.1 })]
    | .eligible | .signed | .saved | .exited => [])
def State.contextEvents (s : State) : List Event :=
  s.crews.flatMap (fun c => (.crewRelease, { unit := c.1 }) :: (if c.2.saveReq.isSome then
      [(.gracePeriodExpiry, { unit := c.1, flag := true }), (.contextSave, { unit := c.1, flag := true })] else []))
    ++ s.troops.flatMap (fun t => (.troopRetire, { unit := t.1 }) :: (if t.2.saveReq.isSome then
      [(.gracePeriodExpiry, { unit := t.1 }), (.contextSave, { unit := t.1 })] else []))
def State.fabricEvents (s : State) : List Event :=
  s.loopPkts.flatMap (fun p => [(.loopAcknowledgement, { item := p.id }), (.loopPacketArrival, { item := p.id }), (.loopResendTimer, { item := p.id })])
    ++ s.puts.map (fun m => (.putArrival, { item := m.id })) ++ s.putAns.map (fun a => (.putAnswer, { item := a.id }))
    ++ s.chanMsgs.flatMap (fun m => [(.channelAck, { item := m.id }), (.channelEntryArrival, { item := m.id }),
                                      (.channelResendTimer, { item := m.id })])
/-- The command a mailbox holds. -/
def commandOf (op : Nat) : Instr :=
  match op with
  | 2 => .asWrite | 3 => .tlbInval | 4 => .routeWrite | 5 => .sliceWrite | 6 => .hbmWrite | 7 => .kvpoolInit | 8 => .pinQuota
  | 9 => .pinRelease | 10 => .preempt | 11 => .fwStage | 12 => .fwActivate | 13 => .evRing | 14 => .vfWindow | 15 => .fuseCommit
  | _ => .pkgSet
def State.packageEvents (s : State) : List Event :=
  [(.bootVerify, { flag := true }), (.pinRequestServe, noArgs), (.invalidationComplete, noArgs), (.signComplete, noArgs), (.fwRevertTimeout, noArgs)]
    ++ s.ctls.map (fun c => (.watchdogExpiry, { unit := c.1 })) ++ s.pins.map (fun p => (.pinFadeExpiry, { item := p.1 }))
    ++ s.slices.map (fun n => (.filterWindowEnd, { unit := n.1 }))
    ++ s.hbmStacks.flatMap (fun e => (e.2.timers.filter (fun b => b.2 == 0)).map (fun b => (.pageIdleTimer, { unit := e.1, item := b.1 })))
    ++ ((s.rasTrack.map (·.1)) ++ (s.ras.map (·.1))).eraseDups.map (fun i => (.rasWindowEnd, { unit := i }))
    ++ (s.mbxq.take 1).map (fun f => (commandOf (s.mbxAt f).op, noArgs))
/-- Every event that may be due, in the order they are looked at. -/
def State.events (s : State) : List Event :=
  s.cores.flatMap (fun c => s.coreEvents c.1 c.2) ++ s.fabricEvents ++ s.dies.flatMap (fun d => s.dieEvents d.1 d.2) ++ s.strandEvents
    ++ s.contextEvents ++ s.packageEvents
/-- The event, when it changes something. -/
def State.tryEvent (run : Run) (s : State) (e : Event) : Option Out :=
  let s1 := { s with ev := e.2 }
  match run e.1 s1 with
  | .next s2 => if s2 = s1 then none else some (.next s2)
  | r => some r
def State.tryState (s t : State) : Option Out := if t = s then none else some (.next t)
def State.tryDrains (s : State) : Option Out := s.crews.findSome? (fun c => if c.2.sq.isEmpty then none else s.tryState (s.drain c.1))
def State.tryWakes (run : Run) (s : State) : Option Out :=
  s.strands.findSome? (fun x => if x.2.life = .parked ∧ x.2.wait.tries then s.tryState (s.wake run x.1) else none)
/-- Units with a crew, those after the one that moved last first. -/
def State.unitOrder (s : State) : List Nat :=
  let us := sortBy (·) (((s.crews.filter (fun c => c.2.res == .resident)).map (fun c => s.unitOfCrew c.1)).eraseDups)
  us.filter (fun u => !(s.unit u).team.isEmpty) ++ us.filter (s.focus < ·) ++ us.filter (· ≤ s.focus)
def State.tryIssue (run : Run) (s : State) : Option Out :=
  s.unitOrder.findSome? (fun u =>
    let s1 := { s with focus := u }
    match s1.issueUnit run u with
    | .next t => if t = s1 then none else some (.next t)
    | r => some r)
/-- A dispatch decision that places something. -/
def State.tryDispatch (run : Run) (s : State) : Option Out :=
  if !s.alone || s.launches.isEmpty then none
  else (List.range 8).findSome? (fun d => match run .dispatchDecision { s with ev := { unit := d } } with
    | .next t => if t.troops = s.troops then none else some (.next t)
    | r => some r)
/-- The next strand of a team under way: the strands of a team issue in one cycle (R25), before anything else moves. -/
def State.tryTeam (run : Run) (s : State) : Option Out :=
  (s.units.find? (fun u => !u.2.team.isEmpty && !s.still (u.1 / 5))).map (fun u => { s with focus := u.1 }.issueUnit run u.1)
/-- Nothing is due: a cycle passes everywhere. -/
def State.idle (s0 : State) : State :=
  let clocks : List Nat := s0.rasTrack.map (fun t => t.1) ++ s0.loopPkts.map (fun p => 1100 + p.loop)
    ++ (s0.hbmStacks.filter (fun e => !e.2.timers.isEmpty)).map (fun e => 1088 + e.1)
  let s := clocks.eraseDups.foldl (fun s i => s.tickRas i 1) s0
  (span 512 521).foldl (fun s c => if (sfind s.ctls (c - 512)).isSome then s.tick c 1 else s)
    ((s.cores.map (·.1)).foldl (fun s k => s.tick k 1) s)
/-- A controller's external interrupt that is due. -/
def State.tryHarts (s : State) : Option Out :=
  (s.ctls.find? (fun c => s.hartDue c.1)).map (fun c => .next (s.hartInterrupt c.1))
/-- The first of: a team under way, a controller's interrupt, a due event, a store, a waiting strand, a placement, an issue; else time passes. -/
def State.auto (run : Run) (s : State) : Out :=
  (((((s.tryTeam run).or s.tryHarts).or (s.events.findSome? (s.tryEvent run))).or s.tryDrains).or (s.tryWakes run)).or (s.tryDispatch run)
    |>.or (s.tryIssue run)
    |>.getD (.next s.idle)

/-! ## One move -/

/-- The rows that are steps of agents, not of strands. -/
def isEvent (i : Instr) : Bool := (encodeFields i).isNone && i != .notAnInstruction
def State.move (run : Run) (s : State) : Move → Out
  | .issue u => { s with focus := u }.issueUnit run u
  | .drain c => .next (s.drain c)
  | .drainLate c => .next (s.drainLate c)
  | .wake x => .next (s.wake run x)
  | .tick k n => .next (s.tick k n)
  | .event i a => if isEvent i then run i { s with ev := a } else .next s
  | .hostRead f off n => .next (s.hostRead f off n)
  | .hostWrite f off n v => match s.hostEvent f off n v with
    | some e => run e.1 { s with ev := e.2 }
    | none => .next s
  | .winRead c off w => s.winRead run c off w
  | .winWrite c off w v => s.winWrite run c off w v
  | .csrRead c n => .next (s.csrRead c n)
  | .csrWrite c n v => s.csrWrite run c n v
  | .interrupt c => .next (s.hartInterrupt c)
  | .hart c => s.hartStep run c
  | .doeDiscovery i => .next { s with hostOut := doeDiscovery i }
  | .pageRequest f d => .next (s.pageRequest f d)
  | .pageResponse f d => .next (s.pageResponse f d)
/-- The step of the machine over a meaning of the instructions: the move the agenda names first, or what is due. -/
def State.stepWith (run : Run) (s : State) : Out :=
  match s.agenda with
  | m :: rest => { s with agenda := rest }.move run m
  | [] => s.auto run

/-! ## A program placed from outside (log 4) -/

def probeAddr : Nat := 0x10000
/-- A packet of one troop of one matrix crew, entered at the address of the words. -/
def probeLaunch : Launch := { noLaunch with lid := 1, packet := BitVec.ofNat 1024 (probeAddr + (probeAddr + 4096) * 2 ^ 128 + 2 ^ 448) }
def probePage : Tlb :=
  { asid := 0, vbase := probeAddr, size := 2, pa := probeAddr, tgt := 0, pkg := 0, nocache := false, r := false, w := false, x := true }
/-- The bytes stand at the address, and strand 0 is the team of unit 0, which moves next. -/
def probeState (s : State) (bs : List Byte) : State :=
  let s1 := { s with errs := s.errs.filter (fun e => match errUnit e.loc with
    | some (none, a, n) => !(decide (a < probeAddr + bs.length) && decide (probeAddr < a + n))
    | _ => true) }
  let s2 := (s1.psetAll probeAddr bs).modCore 0 (fun c => { c with tlb := probePage :: c.tlb })
  let s3 := ((s2.setTroop 0 { lid := 1 }).setCrew 0 { role := .matrix }).remapCrew 0 true
  let s4 := (s3.setStrand 0 { pc := BitVec.ofNat 64 probeAddr }).modUnit 0 (fun u => { u with team := [0], base := u.stampCtr })
  { s4.modDie 0 (fun d => { d with hot := false }) with
    frozen := false, launches := sput s4.launches 1 probeLaunch, agenda := .issue 0 :: s4.agenda }

end Sys2Proof.Machine
end

