-- ==== Sys2Proof/Machine/Dispatch.lean ====
section
/-! DEFINITION. Dispatch.lean: one arm for each row of spec/opcode_table.json, each a call of that row's meaning. -/

namespace Sys2Proof.Machine

def exec (i : Instr) (s : State) : Host.Outcome State Fault Refusal :=
  match i with
  | .add g d a b => Sys2Proof.Machine.execAdd g d a b s
  | .addi g d a n_i => Sys2Proof.Machine.execAddi g d a n_i s
  | .sub g d a b => Sys2Proof.Machine.execSub g d a b s
  | .mul g d a b => Sys2Proof.Machine.execMul g d a b s
  | .mulhiS g d a b => Sys2Proof.Machine.execMulhiS g d a b s
  | .mulhiU g d a b => Sys2Proof.Machine.execMulhiU g d a b s
  | .mad g d a b => Sys2Proof.Machine.execMad g d a b s
  | .and g d a b => Sys2Proof.Machine.execAnd g d a b s
  | .andi g d a n_i => Sys2Proof.Machine.execAndi g d a n_i s
  | .or g d a b => Sys2Proof.Machine.execOr g d a b s
  | .ori g d a n_i => Sys2Proof.Machine.execOri g d a n_i s
  | .xor g d a b => Sys2Proof.Machine.execXor g d a b s
  | .xori g d a n_i => Sys2Proof.Machine.execXori g d a n_i s
  | .shl g d a b => Sys2Proof.Machine.execShl g d a b s
  | .shli g d a n_i => Sys2Proof.Machine.execShli g d a n_i s
  | .shr g d a b => Sys2Proof.Machine.execShr g d a b s
  | .shri g d a n_i => Sys2Proof.Machine.execShri g d a n_i s
  | .sar g d a b => Sys2Proof.Machine.execSar g d a b s
  | .sari g d a n_i => Sys2Proof.Machine.execSari g d a n_i s
  | .minS g d a b => Sys2Proof.Machine.execMinS g d a b s
  | .minU g d a b => Sys2Proof.Machine.execMinU g d a b s
  | .maxS g d a b => Sys2Proof.Machine.execMaxS g d a b s
  | .maxU g d a b => Sys2Proof.Machine.execMaxU g d a b s
  | .clz g d a => Sys2Proof.Machine.execClz g d a s
  | .popc g d a => Sys2Proof.Machine.execPopc g d a s
  | .brev g d a => Sys2Proof.Machine.execBrev g d a s
  | .bfe g d a b => Sys2Proof.Machine.execBfe g d a b s
  | .bfi g d a b => Sys2Proof.Machine.execBfi g d a b s
  | .mov g d a => Sys2Proof.Machine.execMov g d a s
  | .li g d n_i => Sys2Proof.Machine.execLi g d n_i s
  | .add64 g d a b => Sys2Proof.Machine.execAdd64 g d a b s
  | .cmp g cc pd a b => Sys2Proof.Machine.execCmp g cc pd a b s
  | .cmpi g cc pd a n_i => Sys2Proof.Machine.execCmpi g cc pd a n_i s
  | .pop g fn pd pa pb => Sys2Proof.Machine.execPop g fn pd pa pb s
  | .sel g d a b => Sys2Proof.Machine.execSel g d a b s
  | .mcall g m a b => Sys2Proof.Machine.execMcall g m a b s
  | .spawn g pd a b => Sys2Proof.Machine.execSpawn g pd a b s
  | .rein g => Sys2Proof.Machine.execRein g s
  | .trigger g => Sys2Proof.Machine.execTrigger g s
  | .bra g off => Sys2Proof.Machine.execBra g off s
  | .call g off => Sys2Proof.Machine.execCall g off s
  | .brx g a => Sys2Proof.Machine.execBrx g a s
  | .ret g => Sys2Proof.Machine.execRet g s
  | .exit g => Sys2Proof.Machine.execExit g s
  | .yield g => Sys2Proof.Machine.execYield g s
  | .trap g code => Sys2Proof.Machine.execTrap g code s
  | .bkpt g code => Sys2Proof.Machine.execBkpt g code s
  | .fadd g d a b => Sys2Proof.Machine.execFadd g d a b s
  | .fsub g d a b => Sys2Proof.Machine.execFsub g d a b s
  | .fmul g d a b => Sys2Proof.Machine.execFmul g d a b s
  | .ffma g d a b => Sys2Proof.Machine.execFfma g d a b s
  | .fmin g d a b => Sys2Proof.Machine.execFmin g d a b s
  | .fmax g d a b => Sys2Proof.Machine.execFmax g d a b s
  | .fcmp g cc pd a b => Sys2Proof.Machine.execFcmp g cc pd a b s
  | .fsfu g fn d a => Sys2Proof.Machine.execFsfu g fn d a s
  | .fcvt g cv d a => Sys2Proof.Machine.execFcvt g cv d a s
  | .fabs g d a => Sys2Proof.Machine.execFabs g d a s
  | .fneg g d a => Sys2Proof.Machine.execFneg g d a s
  | .hadd2 g d a b => Sys2Proof.Machine.execHadd2 g d a b s
  | .hmul2 g d a b => Sys2Proof.Machine.execHmul2 g d a b s
  | .hfma2 g d a b => Sys2Proof.Machine.execHfma2 g d a b s
  | .hmax2 g d a b => Sys2Proof.Machine.execHmax2 g d a b s
  | .fclass g d a => Sys2Proof.Machine.execFclass g d a s
  | .shflIdx g d a b => Sys2Proof.Machine.execShflIdx g d a b s
  | .shflUp g d a b => Sys2Proof.Machine.execShflUp g d a b s
  | .shflDown g d a b => Sys2Proof.Machine.execShflDown g d a b s
  | .shflXor g d a b => Sys2Proof.Machine.execShflXor g d a b s
  | .vote g mode d ps => Sys2Proof.Machine.execVote g mode d ps s
  | .redux g op d a => Sys2Proof.Machine.execRedux g op d a s
  | .hbar g => Sys2Proof.Machine.execHbar g s
  | .vlane g d a => Sys2Proof.Machine.execVlane g d a s
  | .put g n_i a b => Sys2Proof.Machine.execPut g n_i a b s
  | .putv g n_i a b => Sys2Proof.Machine.execPutv g n_i a b s
  | .empty g d n => Sys2Proof.Machine.execEmpty g d n s
  | .fillq g pd a => Sys2Proof.Machine.execFillq g pd a s
  | .ldw g d a n_i => Sys2Proof.Machine.execLdw g d a n_i s
  | .stw g d a n_i => Sys2Proof.Machine.execStw g d a n_i s
  | .lds g d a n_i => Sys2Proof.Machine.execLds g d a n_i s
  | .sts g d a n_i => Sys2Proof.Machine.execSts g d a n_i s
  | .ldp g d n_i => Sys2Proof.Machine.execLdp g d n_i s
  | .atomsAdd g d a b => Sys2Proof.Machine.execAtomsAdd g d a b s
  | .wait g cls n => Sys2Proof.Machine.execWait g cls n s
  | .wtok g w => Sys2Proof.Machine.execWtok g w s
  | .await g d a => Sys2Proof.Machine.execAwait g d a s
  | .release g a b => Sys2Proof.Machine.execRelease g a b s
  | .send g d c => Sys2Proof.Machine.execSend g d c s
  | .recv g d c => Sys2Proof.Machine.execRecv g d c s
  | .enq g pd a b => Sys2Proof.Machine.execEnq g pd a b s
  | .deq g d a pd => Sys2Proof.Machine.execDeq g d a pd s
  | .selX x p d a b => Sys2Proof.Machine.execSelX x p d a b s
  | .divS x d a b => Sys2Proof.Machine.execDivS x d a b s
  | .divU x d a b => Sys2Proof.Machine.execDivU x d a b s
  | .remS x d a b => Sys2Proof.Machine.execRemS x d a b s
  | .remU x d a b => Sys2Proof.Machine.execRemU x d a b s
  | .addc x d a b pin pout => Sys2Proof.Machine.execAddc x d a b pin pout s
  | .subb x d a b pin pout => Sys2Proof.Machine.execSubb x d a b pin pout s
  | .mul64 x d a b => Sys2Proof.Machine.execMul64 x d a b s
  | .mulw x sgn d a b => Sys2Proof.Machine.execMulw x sgn d a b s
  | .lea x zx sh d a b => Sys2Proof.Machine.execLea x zx sh d a b s
  | .li64 x d n_i => Sys2Proof.Machine.execLi64 x d n_i s
  | .sext x d a w => Sys2Proof.Machine.execSext x d a w s
  | .zext x d a w => Sys2Proof.Machine.execZext x d a w s
  | .cmp64 x cc pd a b => Sys2Proof.Machine.execCmp64 x cc pd a b s
  | .dsh x left clamp d a b e => Sys2Proof.Machine.execDsh x left clamp d a b e s
  | .bsel x d a b e => Sys2Proof.Machine.execBsel x d a b e s
  | .ffmaX x rm d a b e => Sys2Proof.Machine.execFfmaX x rm d a b e s
  | .faddX x rm d a b => Sys2Proof.Machine.execFaddX x rm d a b s
  | .fmulX x rm d a b => Sys2Proof.Machine.execFmulX x rm d a b s
  | .fdiv x rm d a b => Sys2Proof.Machine.execFdiv x rm d a b s
  | .fsqrt x d a => Sys2Proof.Machine.execFsqrt x d a s
  | .fcvtX x rm cv d a => Sys2Proof.Machine.execFcvtX x rm cv d a s
  | .frnd x rm d a => Sys2Proof.Machine.execFrnd x rm d a s
  | .fldexp x rm d a b => Sys2Proof.Machine.execFldexp x rm d a b s
  | .ffrexp x d a e => Sys2Proof.Machine.execFfrexp x d a e s
  | .hfma2X x rm d a b e => Sys2Proof.Machine.execHfma2X x rm d a b e s
  | .fdot2 x rm d a b e => Sys2Proof.Machine.execFdot2 x rm d a b e s
  | .shflX x op w d a b pv h => Sys2Proof.Machine.execShflX x op w d a b pv h s
  | .voteX x mode w d ps pd h => Sys2Proof.Machine.execVoteX x mode w d ps pd h s
  | .reduxX x op w d a h => Sys2Proof.Machine.execReduxX x op w d a h s
  | .scan x op ex w d a h => Sys2Proof.Machine.execScan x op ex w d a h s
  | .peers x b64 all w d a pd h => Sys2Proof.Machine.execPeers x b64 all w d a pd h s
  | .hset x mask h v => Sys2Proof.Machine.execHset x mask h v s
  | .hbarX x h => Sys2Proof.Machine.execHbarX x h s
  | .kset x k v h => Sys2Proof.Machine.execKset x k v h s
  | .hq x d h => Sys2Proof.Machine.execHq x d h s
  | .sread x d r => Sys2Proof.Machine.execSread x d r s
  | .swrite x r a => Sys2Proof.Machine.execSwrite x r a s
  | .grow x pd n t => Sys2Proof.Machine.execGrow x pd n t s
  | .shrink x n => Sys2Proof.Machine.execShrink x n s
  | .kmov x d k => Sys2Proof.Machine.execKmov x d k s
  | .pmovGet x d => Sys2Proof.Machine.execPmovGet x d s
  | .pmovSet x a mask => Sys2Proof.Machine.execPmovSet x a mask s
  | .capmint x rt d a b pr n => Sys2Proof.Machine.execCapmint x rt d a b pr n s
  | .caprevoke x a pr => Sys2Proof.Machine.execCaprevoke x a pr s
  | .capinfo x d a => Sys2Proof.Machine.execCapinfo x d a s
  | .putX v n_i a b lane => Sys2Proof.Machine.execPutX v n_i a b lane s
  | .putvX v n_i a b => Sys2Proof.Machine.execPutvX v n_i a b s
  | .putadd v f n_i a b lane => Sys2Proof.Machine.execPutadd v f n_i a b lane s
  | .emptyX x d e n => Sys2Proof.Machine.execEmptyX x d e n s
  | .ld x sz sx acq pol d m => Sys2Proof.Machine.execLd x sz sx acq pol d m s
  | .st x sz rel pol m b => Sys2Proof.Machine.execSt x sz rel pol m b s
  | .atom x op sz o sc d m b => Sys2Proof.Machine.execAtom x op sz o sc d m b s
  | .cas x sz o sc d m b e => Sys2Proof.Machine.execCas x sz o sc d m b e s
  | .prefetch x pol m => Sys2Proof.Machine.execPrefetch x pol m s
  | .cflush x m b => Sys2Proof.Machine.execCflush x m b s
  | .cinval x all m b => Sys2Proof.Machine.execCinval x all m b s
  | .pin x pd m b e => Sys2Proof.Machine.execPin x pd m b e s
  | .unpin x pd m => Sys2Proof.Machine.execUnpin x pd m s
  | .fence x k sc => Sys2Proof.Machine.execFence x k sc s
  | .tdset t d a => Sys2Proof.Machine.execTdset t d a s
  | .tdget t d a => Sys2Proof.Machine.execTdget t d a s
  | .tload t cl d a disp => Sys2Proof.Machine.execTload t cl d a disp s
  | .tstore t cl a b disp => Sys2Proof.Machine.execTstore t cl a b disp s
  | .tzero t d => Sys2Proof.Machine.execTzero t d s
  | .split t sat cl d a disp => Sys2Proof.Machine.execSplit t sat cl d a disp s
  | .azero t d m n => Sys2Proof.Machine.execAzero t d m n s
  | .adrain t fmt z mon cl d a b disp => Sys2Proof.Machine.execAdrain t fmt z mon cl d a b disp s
  | .aread t d a b => Sys2Proof.Machine.execAread t d a b s
  | .awrite t d a b => Sys2Proof.Machine.execAwrite t d a b s
  | .ascale t d k => Sys2Proof.Machine.execAscale t d k s
  | .reefq t d a b => Sys2Proof.Machine.execReefq t d a b s
  | .mmaS t d a b => Sys2Proof.Machine.execMmaS t d a b s
  | .mmaB t d a b => Sys2Proof.Machine.execMmaB t d a b s
  | .mmaE t d a b => Sys2Proof.Machine.execMmaE t d a b s
  | .mmaprog t d a b n1 => Sys2Proof.Machine.execMmaprog t d a b n1 s
  | .copyLd v ring d a e h => Sys2Proof.Machine.execCopyLd v ring d a e h s
  | .copySt v d a e h => Sys2Proof.Machine.execCopySt v d a e h s
  | .copymc v d a b e h lw => Sys2Proof.Machine.execCopymc v d a b e h lw s
  | .gather v ring d a b e h => Sys2Proof.Machine.execGather v ring d a b e h s
  | .scatter v d a b e h => Sys2Proof.Machine.execScatter v d a b e h s
  | .xform v ring op d a b e h => Sys2Proof.Machine.execXform v ring op d a b e h s
  | .lrec x a n => Sys2Proof.Machine.execLrec x a n s
  | .kvappend v pub d a e n => Sys2Proof.Machine.execKvappend v pub d a e n s
  | .kvgather v part ring d a b e n => Sys2Proof.Machine.execKvgather v part ring d a b e n s
  | .kvlen x d a => Sys2Proof.Machine.execKvlen x d a s
  | .kvwin v a b => Sys2Proof.Machine.execKvwin v a b s
  | .kvtrim v a => Sys2Proof.Machine.execKvtrim v a s
  | .kvopen x w d a => Sys2Proof.Machine.execKvopen x w d a s
  | .kvclose x a => Sys2Proof.Machine.execKvclose x a s
  | .rinit x a b e => Sys2Proof.Machine.execRinit x a b e s
  | .rproduceClaim x d a => Sys2Proof.Machine.execRproduceClaim x d a s
  | .rproduceFill x a b => Sys2Proof.Machine.execRproduceFill x a b s
  | .rpeek x d a b => Sys2Proof.Machine.execRpeek x d a b s
  | .awaitX x d a b try_ => Sys2Proof.Machine.execAwaitX x d a b try_ s
  | .releaseX x a b => Sys2Proof.Machine.execReleaseX x a b s
  | .sendX x d c b => Sys2Proof.Machine.execSendX x d c b s
  | .recvX x d c try_ => Sys2Proof.Machine.execRecvX x d c try_ s
  | .enqX x sp sz pd a b => Sys2Proof.Machine.execEnqX x sp sz pd a b s
  | .deqX x sp sz d a pd => Sys2Proof.Machine.execDeqX x sp sz d a pd s
  | .spawnX x pd a k => Sys2Proof.Machine.execSpawnX x pd a k s
  | .pdkey x d k => Sys2Proof.Machine.execPdkey x d k s
  | .pdkeyFlush x k => Sys2Proof.Machine.execPdkeyFlush x k s
  | .waitX x ld st en tl pt => Sys2Proof.Machine.execWaitX x ld st en tl pt s
  | .wtokX x mask => Sys2Proof.Machine.execWtokX x mask s
  | .binit x a b => Sys2Proof.Machine.execBinit x a b s
  | .barrive x a b => Sys2Proof.Machine.execBarrive x a b s
  | .bwait x d a b => Sys2Proof.Machine.execBwait x d a b s
  | .bdue x a b n => Sys2Proof.Machine.execBdue x a b n s
  | .clock x d => Sys2Proof.Machine.execClock x d s
  | .retired x d => Sys2Proof.Machine.execRetired x d s
  | .perfcfg x k b => Sys2Proof.Machine.execPerfcfg x k b s
  | .perfrd x k d => Sys2Proof.Machine.execPerfrd x k d s
  | .fidrd x sel clr n_s d => Sys2Proof.Machine.execFidrd x sel clr n_s d s
  | .eret x => Sys2Proof.Machine.execEret x s
  | .eretSkip x => Sys2Proof.Machine.execEretSkip x s
  | .causeAddr x d => Sys2Proof.Machine.execCauseAddr x d s
  | .causeLog x d => Sys2Proof.Machine.execCauseLog x d s
  | .causeLogn x d => Sys2Proof.Machine.execCauseLogn x d s
  | .ppoint x park pd => Sys2Proof.Machine.execPpoint x park pd s
  | .sleep x b => Sys2Proof.Machine.execSleep x b s
  | .halt x => Sys2Proof.Machine.execHalt x s
  | .mstore x m a q pr => Sys2Proof.Machine.execMstore x m a q pr s
  | .mread x m d q => Sys2Proof.Machine.execMread x m d q s
  | .mcallX x m d a b e => Sys2Proof.Machine.execMcallX x m d a b e s
  | .putArrival => Sys2Proof.Machine.execPutArrival s
  | .putAnswer => Sys2Proof.Machine.execPutAnswer s
  | .loadDataReturn => Sys2Proof.Machine.execLoadDataReturn s
  | .storeAck => Sys2Proof.Machine.execStoreAck s
  | .sliceRequest => Sys2Proof.Machine.execSliceRequest s
  | .filterWindowEnd => Sys2Proof.Machine.execFilterWindowEnd s
  | .mergeWindowEnd => Sys2Proof.Machine.execMergeWindowEnd s
  | .pinRequestServe => Sys2Proof.Machine.execPinRequestServe s
  | .pinFadeExpiry => Sys2Proof.Machine.execPinFadeExpiry s
  | .pageIdleTimer => Sys2Proof.Machine.execPageIdleTimer s
  | .hbmRefresh => Sys2Proof.Machine.execHbmRefresh s
  | .thermalCritical => Sys2Proof.Machine.execThermalCritical s
  | .thermalResume => Sys2Proof.Machine.execThermalResume s
  | .temperatureLevelChange => Sys2Proof.Machine.execTemperatureLevelChange s
  | .walkStart => Sys2Proof.Machine.execWalkStart s
  | .walkComplete => Sys2Proof.Machine.execWalkComplete s
  | .tileOpStart => Sys2Proof.Machine.execTileOpStart s
  | .tileOpRetire => Sys2Proof.Machine.execTileOpRetire s
  | .engineOpStart => Sys2Proof.Machine.execEngineOpStart s
  | .engineSegmentComplete => Sys2Proof.Machine.execEngineSegmentComplete s
  | .engineOpRetire => Sys2Proof.Machine.execEngineOpRetire s
  | .copymcLanding => Sys2Proof.Machine.execCopymcLanding s
  | .kvOpStart => Sys2Proof.Machine.execKvOpStart s
  | .kvSegmentComplete => Sys2Proof.Machine.execKvSegmentComplete s
  | .kvwinApply => Sys2Proof.Machine.execKvwinApply s
  | .kvtrimFree => Sys2Proof.Machine.execKvtrimFree s
  | .kvOpRetire => Sys2Proof.Machine.execKvOpRetire s
  | .channelEntryArrival => Sys2Proof.Machine.execChannelEntryArrival s
  | .channelAck => Sys2Proof.Machine.execChannelAck s
  | .channelResendTimer => Sys2Proof.Machine.execChannelResendTimer s
  | .paddockTimerExpiry => Sys2Proof.Machine.execPaddockTimerExpiry s
  | .paddockLaunch => Sys2Proof.Machine.execPaddockLaunch s
  | .sleepExpiry => Sys2Proof.Machine.execSleepExpiry s
  | .crewRelease => Sys2Proof.Machine.execCrewRelease s
  | .troopRetire => Sys2Proof.Machine.execTroopRetire s
  | .lqtailDoorbell => Sys2Proof.Machine.execLqtailDoorbell s
  | .launchPacketCheck => Sys2Proof.Machine.execLaunchPacketCheck s
  | .dispatchDecision => Sys2Proof.Machine.execDispatchDecision s
  | .gracePeriodExpiry => Sys2Proof.Machine.execGracePeriodExpiry s
  | .contextSave => Sys2Proof.Machine.execContextSave s
  | .contextRestore => Sys2Proof.Machine.execContextRestore s
  | .linkLoss => Sys2Proof.Machine.execLinkLoss s
  | .loopPacketArrival => Sys2Proof.Machine.execLoopPacketArrival s
  | .loopResendTimer => Sys2Proof.Machine.execLoopResendTimer s
  | .loopFailure => Sys2Proof.Machine.execLoopFailure s
  | .ualinkPortFailure => Sys2Proof.Machine.execUalinkPortFailure s
  | .ualinkMemoryRequest => Sys2Proof.Machine.execUalinkMemoryRequest s
  | .ualinkPutRequest => Sys2Proof.Machine.execUalinkPutRequest s
  | .ualinkPutAnswer => Sys2Proof.Machine.execUalinkPutAnswer s
  | .ualinkChannelRequest => Sys2Proof.Machine.execUalinkChannelRequest s
  | .ualinkChannelAnswer => Sys2Proof.Machine.execUalinkChannelAnswer s
  | .ualinkAtomicRequest => Sys2Proof.Machine.execUalinkAtomicRequest s
  | .ualinkAtomicAnswer => Sys2Proof.Machine.execUalinkAtomicAnswer s
  | .hostApertureAccess => Sys2Proof.Machine.execHostApertureAccess s
  | .mbxdbDoorbell => Sys2Proof.Machine.execMbxdbDoorbell s
  | .pkgSet => Sys2Proof.Machine.execPkgSet s
  | .asWrite => Sys2Proof.Machine.execAsWrite s
  | .tlbInval => Sys2Proof.Machine.execTlbInval s
  | .routeWrite => Sys2Proof.Machine.execRouteWrite s
  | .sliceWrite => Sys2Proof.Machine.execSliceWrite s
  | .hbmWrite => Sys2Proof.Machine.execHbmWrite s
  | .kvpoolInit => Sys2Proof.Machine.execKvpoolInit s
  | .pinQuota => Sys2Proof.Machine.execPinQuota s
  | .pinRelease => Sys2Proof.Machine.execPinRelease s
  | .preempt => Sys2Proof.Machine.execPreempt s
  | .fwStage => Sys2Proof.Machine.execFwStage s
  | .fwActivate => Sys2Proof.Machine.execFwActivate s
  | .evRing => Sys2Proof.Machine.execEvRing s
  | .vfWindow => Sys2Proof.Machine.execVfWindow s
  | .fuseCommit => Sys2Proof.Machine.execFuseCommit s
  | .bootVerify => Sys2Proof.Machine.execBootVerify s
  | .powerUp => Sys2Proof.Machine.execPowerUp s
  | .functionLevelReset => Sys2Proof.Machine.execFunctionLevelReset s
  | .doeAttestRequest => Sys2Proof.Machine.execDoeAttestRequest s
  | .doeCertRequest => Sys2Proof.Machine.execDoeCertRequest s
  | .quietPoint => Sys2Proof.Machine.execQuietPoint s
  | .fwRevertTimeout => Sys2Proof.Machine.execFwRevertTimeout s
  | .watchdogExpiry => Sys2Proof.Machine.execWatchdogExpiry s
  | .xwdogWrite => Sys2Proof.Machine.execXwdogWrite s
  | .xeventWrite => Sys2Proof.Machine.execXeventWrite s
  | .devqRead => Sys2Proof.Machine.execDevqRead s
  | .devcntRead => Sys2Proof.Machine.execDevcntRead s
  | .mevqRead => Sys2Proof.Machine.execMevqRead s
  | .placeWrite => Sys2Proof.Machine.execPlaceWrite s
  | .saveWrite => Sys2Proof.Machine.execSaveWrite s
  | .restoreWrite => Sys2Proof.Machine.execRestoreWrite s
  | .faultrespWrite => Sys2Proof.Machine.execFaultrespWrite s
  | .haltWrite => Sys2Proof.Machine.execHaltWrite s
  | .dmagoWrite => Sys2Proof.Machine.execDmagoWrite s
  | .dmaComplete => Sys2Proof.Machine.execDmaComplete s
  | .lqadvWrite => Sys2Proof.Machine.execLqadvWrite s
  | .lqerrWrite => Sys2Proof.Machine.execLqerrWrite s
  | .mbxdoneWrite => Sys2Proof.Machine.execMbxdoneWrite s
  | .pinansWrite => Sys2Proof.Machine.execPinansWrite s
  | .invgoWrite => Sys2Proof.Machine.execInvgoWrite s
  | .invalidationComplete => Sys2Proof.Machine.execInvalidationComplete s
  | .freezeWrite => Sys2Proof.Machine.execFreezeWrite s
  | .pkgsetWrite => Sys2Proof.Machine.execPkgsetWrite s
  | .doesendWrite => Sys2Proof.Machine.execDoesendWrite s
  | .signgoWrite => Sys2Proof.Machine.execSigngoWrite s
  | .signComplete => Sys2Proof.Machine.execSignComplete s
  | .fusecommitWrite => Sys2Proof.Machine.execFusecommitWrite s
  | .correctedError => Sys2Proof.Machine.execCorrectedError s
  | .rasWindowEnd => Sys2Proof.Machine.execRasWindowEnd s
  | .registerWrite => Sys2Proof.Machine.execRegisterWrite s
  | .notAnInstruction => Sys2Proof.Machine.execNotAnInstruction s
  | .operandAvailable => Sys2Proof.Machine.execOperandAvailable s
  | .linkTraining => Sys2Proof.Machine.execLinkTraining s
  | .loopAcknowledgement => Sys2Proof.Machine.execLoopAcknowledgement s
  | .uncorrectableError => Sys2Proof.Machine.execUncorrectableError s

end Sys2Proof.Machine
end

