-- ==== Sys2Proof/Machine/Step.lean ====
section
/-! DEFINITION. Step.lean: one step of the machine, and the state in which a given instruction runs next. -/

namespace Sys2Proof.Machine

/-- One step: the move the agenda names, or what is due (log 1), and what follows from it. -/
def step (s : State) : Host.Outcome State Fault Refusal :=
  match s.stepWith exec with
  | .next t => s.afterStep t
  | r => r

/-- `s` with a launch of one troop of one crew of one strand, on core 0, at address 0x10000, whose page translates to the
same physical address and holds the words; the unit of the crew moves next, with that strand as its team (log 4). -/
def State.withFetchWord (s : State) (nbits w : Nat) : State :=
  probeState s (tableBytes nbits w)

end Sys2Proof.Machine
end

