-- ==== Sys2Proof/Laws/State.lean ====
section
/-! SUPPORT. Laws/State.lean: what each update of the state's tables leaves, field by field, and reading an entry back. -/

namespace Sys2Proof.Machine

/-! ## Tables -/

@[simp] theorem sfind_sput_self {α : Type} (m : Sparse α) (k : Nat) (v : α) : sfind (sput m k v) k = some v := by
  induction m with
  | nil => simp [sput, sfind]
  | cons h t ih =>
    obtain ⟨j, w⟩ := h
    simp only [sput]
    split
    · simp [sfind]
    · split
      · simp [sfind]
      · rename_i h1 h2
        simp only [sfind]
        rw [if_neg (fun h => h2 h.symm)]
        exact ih

theorem sfind_sput_ne {α : Type} (m : Sparse α) {k j : Nat} (v : α) (h : k ≠ j) : sfind (sput m k v) j = sfind m j := by
  induction m with
  | nil => simp [sput, sfind, h]
  | cons e t ih =>
    obtain ⟨i, w⟩ := e
    simp only [sput]
    split
    · simp [sfind, h]
    · split
      · rename_i h1 h2
        subst h2
        simp [sfind, h]
      · simp only [sfind]
        split
        · rfl
        · exact ih

@[simp] theorem sget_sput_self {α : Type} (m : Sparse α) (d : α) (k : Nat) (v : α) : sget (sput m k v) d k = v := by simp [sget]
theorem sget_sput_ne {α : Type} (m : Sparse α) (d : α) {k j : Nat} (v : α) (h : k ≠ j) : sget (sput m k v) d j = sget m d j := by
  simp [sget, sfind_sput_ne m v h]
theorem sfind_sdel_self {α : Type} (m : Sparse α) (k : Nat) : sfind (sdel m k) k = none := by
  induction m with
  | nil => rfl
  | cons e t ih =>
    obtain ⟨i, w⟩ := e
    simp only [sdel, List.filter] at ih ⊢
    by_cases hi : i = k
    · simpa [hi] using ih
    · simp [hi, sfind]
      simpa [sdel] using ih
theorem sfind_sdel_ne {α : Type} (m : Sparse α) {k j : Nat} (h : k ≠ j) : sfind (sdel m k) j = sfind m j := by
  induction m with
  | nil => rfl
  | cons e t ih =>
    obtain ⟨i, w⟩ := e
    by_cases hi : i = k
    · have h2 : ¬ i = j := fun q => h (hi.symm.trans q)
      simpa [sdel, List.filter, hi, sfind, h] using ih
    · simp only [sdel, List.filter, hi, ne_eq, not_false_eq_true, decide_true, sfind]
      split
      · rfl
      · simpa [sdel] using ih

/-! ## `strands` -/

@[simp] theorem setStrand_agenda (s : State) (k : Nat) (v : Strand) : (s.setStrand k v).agenda = s.agenda := rfl
@[simp] theorem setStrand_focus (s : State) (k : Nat) (v : Strand) : (s.setStrand k v).focus = s.focus := rfl
@[simp] theorem setStrand_cur (s : State) (k : Nat) (v : Strand) : (s.setStrand k v).cur = s.cur := rfl
@[simp] theorem setStrand_ev (s : State) (k : Nat) (v : Strand) : (s.setStrand k v).ev = s.ev := rfl
@[simp] theorem setStrand_freeCtr (s : State) (k : Nat) (v : Strand) : (s.setStrand k v).freeCtr = s.freeCtr := rfl
@[simp] theorem setStrand_nextId (s : State) (k : Nat) (v : Strand) : (s.setStrand k v).nextId = s.nextId := rfl
@[simp] theorem setStrand_crews (s : State) (k : Nat) (v : Strand) : (s.setStrand k v).crews = s.crews := rfl
@[simp] theorem setStrand_troops (s : State) (k : Nat) (v : Strand) : (s.setStrand k v).troops = s.troops := rfl
@[simp] theorem setStrand_past (s : State) (k : Nat) (v : Strand) : (s.setStrand k v).past = s.past := rfl
@[simp] theorem setStrand_cores (s : State) (k : Nat) (v : Strand) : (s.setStrand k v).cores = s.cores := rfl
@[simp] theorem setStrand_units (s : State) (k : Nat) (v : Strand) : (s.setStrand k v).units = s.units := rfl
@[simp] theorem setStrand_dies (s : State) (k : Nat) (v : Strand) : (s.setStrand k v).dies = s.dies := rfl
@[simp] theorem setStrand_launches (s : State) (k : Nat) (v : Strand) : (s.setStrand k v).launches = s.launches := rfl
@[simp] theorem setStrand_pmem (s : State) (k : Nat) (v : Strand) : (s.setStrand k v).pmem = s.pmem := rfl
@[simp] theorem setStrand_hostMem (s : State) (k : Nat) (v : Strand) : (s.setStrand k v).hostMem = s.hostMem := rfl
@[simp] theorem setStrand_errs (s : State) (k : Nat) (v : Strand) : (s.setStrand k v).errs = s.errs := rfl
@[simp] theorem setStrand_slices (s : State) (k : Nat) (v : Strand) : (s.setStrand k v).slices = s.slices := rfl
@[simp] theorem setStrand_hbmStacks (s : State) (k : Nat) (v : Strand) : (s.setStrand k v).hbmStacks = s.hbmStacks := rfl
@[simp] theorem setStrand_pins (s : State) (k : Nat) (v : Strand) : (s.setStrand k v).pins = s.pins := rfl
@[simp] theorem setStrand_pinReqs (s : State) (k : Nat) (v : Strand) : (s.setStrand k v).pinReqs = s.pinReqs := rfl
@[simp] theorem setStrand_quotas (s : State) (k : Nat) (v : Strand) : (s.setStrand k v).quotas = s.quotas := rfl
@[simp] theorem setStrand_pageLists (s : State) (k : Nat) (v : Strand) : (s.setStrand k v).pageLists = s.pageLists := rfl
@[simp] theorem setStrand_frozen (s : State) (k : Nat) (v : Strand) : (s.setStrand k v).frozen = s.frozen := rfl
@[simp] theorem setStrand_sensors (s : State) (k : Nat) (v : Strand) : (s.setStrand k v).sensors = s.sensors := rfl
@[simp] theorem setStrand_pkg (s : State) (k : Nat) (v : Strand) : (s.setStrand k v).pkg = s.pkg := rfl
@[simp] theorem setStrand_spaces (s : State) (k : Nat) (v : Strand) : (s.setStrand k v).spaces = s.spaces := rfl
@[simp] theorem setStrand_routes (s : State) (k : Nat) (v : Strand) : (s.setStrand k v).routes = s.routes := rfl
@[simp] theorem setStrand_spanRoots (s : State) (k : Nat) (v : Strand) : (s.setStrand k v).spanRoots = s.spanRoots := rfl
@[simp] theorem setStrand_kvpoolbase (s : State) (k : Nat) (v : Strand) : (s.setStrand k v).kvpoolbase = s.kvpoolbase := rfl
@[simp] theorem setStrand_kvpooln (s : State) (k : Nat) (v : Strand) : (s.setStrand k v).kvpooln = s.kvpooln := rfl
@[simp] theorem setStrand_kvfree (s : State) (k : Nat) (v : Strand) : (s.setStrand k v).kvfree = s.kvfree := rfl
@[simp] theorem setStrand_ports (s : State) (k : Nat) (v : Strand) : (s.setStrand k v).ports = s.ports := rfl
@[simp] theorem setStrand_loops (s : State) (k : Nat) (v : Strand) : (s.setStrand k v).loops = s.loops := rfl
@[simp] theorem setStrand_loopSeq (s : State) (k : Nat) (v : Strand) : (s.setStrand k v).loopSeq = s.loopSeq := rfl
@[simp] theorem setStrand_loopSeen (s : State) (k : Nat) (v : Strand) : (s.setStrand k v).loopSeen = s.loopSeen := rfl
@[simp] theorem setStrand_loopPkts (s : State) (k : Nat) (v : Strand) : (s.setStrand k v).loopPkts = s.loopPkts := rfl
@[simp] theorem setStrand_puts (s : State) (k : Nat) (v : Strand) : (s.setStrand k v).puts = s.puts := rfl
@[simp] theorem setStrand_putAns (s : State) (k : Nat) (v : Strand) : (s.setStrand k v).putAns = s.putAns := rfl
@[simp] theorem setStrand_chanMsgs (s : State) (k : Nat) (v : Strand) : (s.setStrand k v).chanMsgs = s.chanMsgs := rfl
@[simp] theorem setStrand_chanNext (s : State) (k : Nat) (v : Strand) : (s.setStrand k v).chanNext = s.chanNext := rfl
@[simp] theorem setStrand_uaOut (s : State) (k : Nat) (v : Strand) : (s.setStrand k v).uaOut = s.uaOut := rfl
@[simp] theorem setStrand_hostOut (s : State) (k : Nat) (v : Strand) : (s.setStrand k v).hostOut = s.hostOut := rfl
@[simp] theorem setStrand_ctls (s : State) (k : Nat) (v : Strand) : (s.setStrand k v).ctls = s.ctls := rfl
@[simp] theorem setStrand_mbx (s : State) (k : Nat) (v : Strand) : (s.setStrand k v).mbx = s.mbx := rfl
@[simp] theorem setStrand_mbxq (s : State) (k : Nat) (v : Strand) : (s.setStrand k v).mbxq = s.mbxq := rfl
@[simp] theorem setStrand_evrings (s : State) (k : Nat) (v : Strand) : (s.setStrand k v).evrings = s.evrings := rfl
@[simp] theorem setStrand_vfwin (s : State) (k : Nat) (v : Strand) : (s.setStrand k v).vfwin = s.vfwin := rfl
@[simp] theorem setStrand_msix (s : State) (k : Nat) (v : Strand) : (s.setStrand k v).msix = s.msix := rfl
@[simp] theorem setStrand_msixTab (s : State) (k : Nat) (v : Strand) : (s.setStrand k v).msixTab = s.msixTab := rfl
@[simp] theorem setStrand_msixPend (s : State) (k : Nat) (v : Strand) : (s.setStrand k v).msixPend = s.msixPend := rfl
@[simp] theorem setStrand_aer (s : State) (k : Nat) (v : Strand) : (s.setStrand k v).aer = s.aer := rfl
@[simp] theorem setStrand_pageGroups (s : State) (k : Nat) (v : Strand) : (s.setStrand k v).pageGroups = s.pageGroups := rfl
@[simp] theorem setStrand_bootctl (s : State) (k : Nat) (v : Strand) : (s.setStrand k v).bootctl = s.bootctl := rfl
@[simp] theorem setStrand_bootstat (s : State) (k : Nat) (v : Strand) : (s.setStrand k v).bootstat = s.bootstat := rfl
@[simp] theorem setStrand_measure (s : State) (k : Nat) (v : Strand) : (s.setStrand k v).measure = s.measure := rfl
@[simp] theorem setStrand_measureLog (s : State) (k : Nat) (v : Strand) : (s.setStrand k v).measureLog = s.measureLog := rfl
@[simp] theorem setStrand_revoked (s : State) (k : Nat) (v : Strand) : (s.setStrand k v).revoked = s.revoked := rfl
@[simp] theorem setStrand_minSvn (s : State) (k : Nat) (v : Strand) : (s.setStrand k v).minSvn = s.minSvn := rfl
@[simp] theorem setStrand_svn (s : State) (k : Nat) (v : Strand) : (s.setStrand k v).svn = s.svn := rfl
@[simp] theorem setStrand_image (s : State) (k : Nat) (v : Strand) : (s.setStrand k v).image = s.image := rfl
@[simp] theorem setStrand_staged (s : State) (k : Nat) (v : Strand) : (s.setStrand k v).staged = s.staged := rfl
@[simp] theorem setStrand_switching (s : State) (k : Nat) (v : Strand) : (s.setStrand k v).switching = s.switching := rfl
@[simp] theorem setStrand_reverting (s : State) (k : Nat) (v : Strand) : (s.setStrand k v).reverting = s.reverting := rfl
@[simp] theorem setStrand_ras (s : State) (k : Nat) (v : Strand) : (s.setStrand k v).ras = s.ras := rfl
@[simp] theorem setStrand_rasTrack (s : State) (k : Nat) (v : Strand) : (s.setStrand k v).rasTrack = s.rasTrack := rfl
@[simp] theorem setStrand_pwrlim (s : State) (k : Nat) (v : Strand) : (s.setStrand k v).pwrlim = s.pwrlim := rfl
@[simp] theorem setStrand_tempmax (s : State) (k : Nat) (v : Strand) : (s.setStrand k v).tempmax = s.tempmax := rfl
@[simp] theorem setStrand_mevq (s : State) (k : Nat) (v : Strand) : (s.setStrand k v).mevq = s.mevq := rfl
@[simp] theorem setStrand_mevLost (s : State) (k : Nat) (v : Strand) : (s.setStrand k v).mevLost = s.mevLost := rfl
@[simp] theorem setStrand_mevTag (s : State) (k : Nat) (v : Strand) : (s.setStrand k v).mevTag = s.mevTag := rfl
@[simp] theorem setStrand_mevie (s : State) (k : Nat) (v : Strand) : (s.setStrand k v).mevie = s.mevie := rfl
@[simp] theorem setStrand_invas (s : State) (k : Nat) (v : Strand) : (s.setStrand k v).invas = s.invas := rfl
@[simp] theorem setStrand_invva (s : State) (k : Nat) (v : Strand) : (s.setStrand k v).invva = s.invva := rfl
@[simp] theorem setStrand_invlen (s : State) (k : Nat) (v : Strand) : (s.setStrand k v).invlen = s.invlen := rfl
@[simp] theorem setStrand_invBusy (s : State) (k : Nat) (v : Strand) : (s.setStrand k v).invBusy = s.invBusy := rfl
@[simp] theorem setStrand_invFor (s : State) (k : Nat) (v : Strand) : (s.setStrand k v).invFor = s.invFor := rfl
@[simp] theorem setStrand_signin (s : State) (k : Nat) (v : Strand) : (s.setStrand k v).signin = s.signin := rfl
@[simp] theorem setStrand_signout (s : State) (k : Nat) (v : Strand) : (s.setStrand k v).signout = s.signout := rfl
@[simp] theorem setStrand_signgo (s : State) (k : Nat) (v : Strand) : (s.setStrand k v).signgo = s.signgo := rfl
@[simp] theorem setStrand_doeReq (s : State) (k : Nat) (v : Strand) : (s.setStrand k v).doeReq = s.doeReq := rfl
@[simp] theorem setStrand_doeAns (s : State) (k : Nat) (v : Strand) : (s.setStrand k v).doeAns = s.doeAns := rfl
@[simp] theorem setStrand_crew (s : State) (k j : Nat) (v : Strand) : (s.setStrand k v).crew j = s.crew j := rfl
@[simp] theorem setStrand_troop (s : State) (k j : Nat) (v : Strand) : (s.setStrand k v).troop j = s.troop j := rfl
@[simp] theorem setStrand_core (s : State) (k j : Nat) (v : Strand) : (s.setStrand k v).core j = s.core j := rfl
@[simp] theorem setStrand_unit (s : State) (k j : Nat) (v : Strand) : (s.setStrand k v).unit j = s.unit j := rfl
@[simp] theorem setStrand_die (s : State) (k j : Nat) (v : Strand) : (s.setStrand k v).die j = s.die j := rfl
@[simp] theorem setStrand_slice (s : State) (k j : Nat) (v : Strand) : (s.setStrand k v).slice j = s.slice j := rfl
@[simp] theorem setStrand_strand_self (s : State) (k : Nat) (v : Strand) : (s.setStrand k v).strand k = v := by simp [State.strand, State.setStrand]
theorem setStrand_strand_ne (s : State) {k j : Nat} (v : Strand) (h : k ≠ j) : (s.setStrand k v).strand j = s.strand j := by
  simp [State.strand, State.setStrand, sget_sput_ne _ _ _ h]
theorem modStrand_eq (s : State) (k : Nat) (f : Strand → Strand) : s.modStrand k f = s.setStrand k (f (s.strand k)) := rfl

/-! ## `crews` -/

@[simp] theorem setCrew_agenda (s : State) (k : Nat) (v : Crew) : (s.setCrew k v).agenda = s.agenda := rfl
@[simp] theorem setCrew_focus (s : State) (k : Nat) (v : Crew) : (s.setCrew k v).focus = s.focus := rfl
@[simp] theorem setCrew_cur (s : State) (k : Nat) (v : Crew) : (s.setCrew k v).cur = s.cur := rfl
@[simp] theorem setCrew_ev (s : State) (k : Nat) (v : Crew) : (s.setCrew k v).ev = s.ev := rfl
@[simp] theorem setCrew_freeCtr (s : State) (k : Nat) (v : Crew) : (s.setCrew k v).freeCtr = s.freeCtr := rfl
@[simp] theorem setCrew_nextId (s : State) (k : Nat) (v : Crew) : (s.setCrew k v).nextId = s.nextId := rfl
@[simp] theorem setCrew_strands (s : State) (k : Nat) (v : Crew) : (s.setCrew k v).strands = s.strands := rfl
@[simp] theorem setCrew_troops (s : State) (k : Nat) (v : Crew) : (s.setCrew k v).troops = s.troops := rfl
@[simp] theorem setCrew_past (s : State) (k : Nat) (v : Crew) : (s.setCrew k v).past = s.past := rfl
@[simp] theorem setCrew_cores (s : State) (k : Nat) (v : Crew) : (s.setCrew k v).cores = s.cores := rfl
@[simp] theorem setCrew_units (s : State) (k : Nat) (v : Crew) : (s.setCrew k v).units = s.units := rfl
@[simp] theorem setCrew_dies (s : State) (k : Nat) (v : Crew) : (s.setCrew k v).dies = s.dies := rfl
@[simp] theorem setCrew_launches (s : State) (k : Nat) (v : Crew) : (s.setCrew k v).launches = s.launches := rfl
@[simp] theorem setCrew_pmem (s : State) (k : Nat) (v : Crew) : (s.setCrew k v).pmem = s.pmem := rfl
@[simp] theorem setCrew_hostMem (s : State) (k : Nat) (v : Crew) : (s.setCrew k v).hostMem = s.hostMem := rfl
@[simp] theorem setCrew_errs (s : State) (k : Nat) (v : Crew) : (s.setCrew k v).errs = s.errs := rfl
@[simp] theorem setCrew_slices (s : State) (k : Nat) (v : Crew) : (s.setCrew k v).slices = s.slices := rfl
@[simp] theorem setCrew_hbmStacks (s : State) (k : Nat) (v : Crew) : (s.setCrew k v).hbmStacks = s.hbmStacks := rfl
@[simp] theorem setCrew_pins (s : State) (k : Nat) (v : Crew) : (s.setCrew k v).pins = s.pins := rfl
@[simp] theorem setCrew_pinReqs (s : State) (k : Nat) (v : Crew) : (s.setCrew k v).pinReqs = s.pinReqs := rfl
@[simp] theorem setCrew_quotas (s : State) (k : Nat) (v : Crew) : (s.setCrew k v).quotas = s.quotas := rfl
@[simp] theorem setCrew_pageLists (s : State) (k : Nat) (v : Crew) : (s.setCrew k v).pageLists = s.pageLists := rfl
@[simp] theorem setCrew_frozen (s : State) (k : Nat) (v : Crew) : (s.setCrew k v).frozen = s.frozen := rfl
@[simp] theorem setCrew_sensors (s : State) (k : Nat) (v : Crew) : (s.setCrew k v).sensors = s.sensors := rfl
@[simp] theorem setCrew_pkg (s : State) (k : Nat) (v : Crew) : (s.setCrew k v).pkg = s.pkg := rfl
@[simp] theorem setCrew_spaces (s : State) (k : Nat) (v : Crew) : (s.setCrew k v).spaces = s.spaces := rfl
@[simp] theorem setCrew_routes (s : State) (k : Nat) (v : Crew) : (s.setCrew k v).routes = s.routes := rfl
@[simp] theorem setCrew_spanRoots (s : State) (k : Nat) (v : Crew) : (s.setCrew k v).spanRoots = s.spanRoots := rfl
@[simp] theorem setCrew_kvpoolbase (s : State) (k : Nat) (v : Crew) : (s.setCrew k v).kvpoolbase = s.kvpoolbase := rfl
@[simp] theorem setCrew_kvpooln (s : State) (k : Nat) (v : Crew) : (s.setCrew k v).kvpooln = s.kvpooln := rfl
@[simp] theorem setCrew_kvfree (s : State) (k : Nat) (v : Crew) : (s.setCrew k v).kvfree = s.kvfree := rfl
@[simp] theorem setCrew_ports (s : State) (k : Nat) (v : Crew) : (s.setCrew k v).ports = s.ports := rfl
@[simp] theorem setCrew_loops (s : State) (k : Nat) (v : Crew) : (s.setCrew k v).loops = s.loops := rfl
@[simp] theorem setCrew_loopSeq (s : State) (k : Nat) (v : Crew) : (s.setCrew k v).loopSeq = s.loopSeq := rfl
@[simp] theorem setCrew_loopSeen (s : State) (k : Nat) (v : Crew) : (s.setCrew k v).loopSeen = s.loopSeen := rfl
@[simp] theorem setCrew_loopPkts (s : State) (k : Nat) (v : Crew) : (s.setCrew k v).loopPkts = s.loopPkts := rfl
@[simp] theorem setCrew_puts (s : State) (k : Nat) (v : Crew) : (s.setCrew k v).puts = s.puts := rfl
@[simp] theorem setCrew_putAns (s : State) (k : Nat) (v : Crew) : (s.setCrew k v).putAns = s.putAns := rfl
@[simp] theorem setCrew_chanMsgs (s : State) (k : Nat) (v : Crew) : (s.setCrew k v).chanMsgs = s.chanMsgs := rfl
@[simp] theorem setCrew_chanNext (s : State) (k : Nat) (v : Crew) : (s.setCrew k v).chanNext = s.chanNext := rfl
@[simp] theorem setCrew_uaOut (s : State) (k : Nat) (v : Crew) : (s.setCrew k v).uaOut = s.uaOut := rfl
@[simp] theorem setCrew_hostOut (s : State) (k : Nat) (v : Crew) : (s.setCrew k v).hostOut = s.hostOut := rfl
@[simp] theorem setCrew_ctls (s : State) (k : Nat) (v : Crew) : (s.setCrew k v).ctls = s.ctls := rfl
@[simp] theorem setCrew_mbx (s : State) (k : Nat) (v : Crew) : (s.setCrew k v).mbx = s.mbx := rfl
@[simp] theorem setCrew_mbxq (s : State) (k : Nat) (v : Crew) : (s.setCrew k v).mbxq = s.mbxq := rfl
@[simp] theorem setCrew_evrings (s : State) (k : Nat) (v : Crew) : (s.setCrew k v).evrings = s.evrings := rfl
@[simp] theorem setCrew_vfwin (s : State) (k : Nat) (v : Crew) : (s.setCrew k v).vfwin = s.vfwin := rfl
@[simp] theorem setCrew_msix (s : State) (k : Nat) (v : Crew) : (s.setCrew k v).msix = s.msix := rfl
@[simp] theorem setCrew_msixTab (s : State) (k : Nat) (v : Crew) : (s.setCrew k v).msixTab = s.msixTab := rfl
@[simp] theorem setCrew_msixPend (s : State) (k : Nat) (v : Crew) : (s.setCrew k v).msixPend = s.msixPend := rfl
@[simp] theorem setCrew_aer (s : State) (k : Nat) (v : Crew) : (s.setCrew k v).aer = s.aer := rfl
@[simp] theorem setCrew_pageGroups (s : State) (k : Nat) (v : Crew) : (s.setCrew k v).pageGroups = s.pageGroups := rfl
@[simp] theorem setCrew_bootctl (s : State) (k : Nat) (v : Crew) : (s.setCrew k v).bootctl = s.bootctl := rfl
@[simp] theorem setCrew_bootstat (s : State) (k : Nat) (v : Crew) : (s.setCrew k v).bootstat = s.bootstat := rfl
@[simp] theorem setCrew_measure (s : State) (k : Nat) (v : Crew) : (s.setCrew k v).measure = s.measure := rfl
@[simp] theorem setCrew_measureLog (s : State) (k : Nat) (v : Crew) : (s.setCrew k v).measureLog = s.measureLog := rfl
@[simp] theorem setCrew_revoked (s : State) (k : Nat) (v : Crew) : (s.setCrew k v).revoked = s.revoked := rfl
@[simp] theorem setCrew_minSvn (s : State) (k : Nat) (v : Crew) : (s.setCrew k v).minSvn = s.minSvn := rfl
@[simp] theorem setCrew_svn (s : State) (k : Nat) (v : Crew) : (s.setCrew k v).svn = s.svn := rfl
@[simp] theorem setCrew_image (s : State) (k : Nat) (v : Crew) : (s.setCrew k v).image = s.image := rfl
@[simp] theorem setCrew_staged (s : State) (k : Nat) (v : Crew) : (s.setCrew k v).staged = s.staged := rfl
@[simp] theorem setCrew_switching (s : State) (k : Nat) (v : Crew) : (s.setCrew k v).switching = s.switching := rfl
@[simp] theorem setCrew_reverting (s : State) (k : Nat) (v : Crew) : (s.setCrew k v).reverting = s.reverting := rfl
@[simp] theorem setCrew_ras (s : State) (k : Nat) (v : Crew) : (s.setCrew k v).ras = s.ras := rfl
@[simp] theorem setCrew_rasTrack (s : State) (k : Nat) (v : Crew) : (s.setCrew k v).rasTrack = s.rasTrack := rfl
@[simp] theorem setCrew_pwrlim (s : State) (k : Nat) (v : Crew) : (s.setCrew k v).pwrlim = s.pwrlim := rfl
@[simp] theorem setCrew_tempmax (s : State) (k : Nat) (v : Crew) : (s.setCrew k v).tempmax = s.tempmax := rfl
@[simp] theorem setCrew_mevq (s : State) (k : Nat) (v : Crew) : (s.setCrew k v).mevq = s.mevq := rfl
@[simp] theorem setCrew_mevLost (s : State) (k : Nat) (v : Crew) : (s.setCrew k v).mevLost = s.mevLost := rfl
@[simp] theorem setCrew_mevTag (s : State) (k : Nat) (v : Crew) : (s.setCrew k v).mevTag = s.mevTag := rfl
@[simp] theorem setCrew_mevie (s : State) (k : Nat) (v : Crew) : (s.setCrew k v).mevie = s.mevie := rfl
@[simp] theorem setCrew_invas (s : State) (k : Nat) (v : Crew) : (s.setCrew k v).invas = s.invas := rfl
@[simp] theorem setCrew_invva (s : State) (k : Nat) (v : Crew) : (s.setCrew k v).invva = s.invva := rfl
@[simp] theorem setCrew_invlen (s : State) (k : Nat) (v : Crew) : (s.setCrew k v).invlen = s.invlen := rfl
@[simp] theorem setCrew_invBusy (s : State) (k : Nat) (v : Crew) : (s.setCrew k v).invBusy = s.invBusy := rfl
@[simp] theorem setCrew_invFor (s : State) (k : Nat) (v : Crew) : (s.setCrew k v).invFor = s.invFor := rfl
@[simp] theorem setCrew_signin (s : State) (k : Nat) (v : Crew) : (s.setCrew k v).signin = s.signin := rfl
@[simp] theorem setCrew_signout (s : State) (k : Nat) (v : Crew) : (s.setCrew k v).signout = s.signout := rfl
@[simp] theorem setCrew_signgo (s : State) (k : Nat) (v : Crew) : (s.setCrew k v).signgo = s.signgo := rfl
@[simp] theorem setCrew_doeReq (s : State) (k : Nat) (v : Crew) : (s.setCrew k v).doeReq = s.doeReq := rfl
@[simp] theorem setCrew_doeAns (s : State) (k : Nat) (v : Crew) : (s.setCrew k v).doeAns = s.doeAns := rfl
@[simp] theorem setCrew_strand (s : State) (k j : Nat) (v : Crew) : (s.setCrew k v).strand j = s.strand j := rfl
@[simp] theorem setCrew_troop (s : State) (k j : Nat) (v : Crew) : (s.setCrew k v).troop j = s.troop j := rfl
@[simp] theorem setCrew_core (s : State) (k j : Nat) (v : Crew) : (s.setCrew k v).core j = s.core j := rfl
@[simp] theorem setCrew_unit (s : State) (k j : Nat) (v : Crew) : (s.setCrew k v).unit j = s.unit j := rfl
@[simp] theorem setCrew_die (s : State) (k j : Nat) (v : Crew) : (s.setCrew k v).die j = s.die j := rfl
@[simp] theorem setCrew_slice (s : State) (k j : Nat) (v : Crew) : (s.setCrew k v).slice j = s.slice j := rfl
@[simp] theorem setCrew_crew_self (s : State) (k : Nat) (v : Crew) : (s.setCrew k v).crew k = v := by simp [State.crew, State.setCrew]
theorem setCrew_crew_ne (s : State) {k j : Nat} (v : Crew) (h : k ≠ j) : (s.setCrew k v).crew j = s.crew j := by
  simp [State.crew, State.setCrew, sget_sput_ne _ _ _ h]
theorem modCrew_eq (s : State) (k : Nat) (f : Crew → Crew) : s.modCrew k f = s.setCrew k (f (s.crew k)) := rfl

/-! ## `troops` -/

@[simp] theorem setTroop_agenda (s : State) (k : Nat) (v : Troop) : (s.setTroop k v).agenda = s.agenda := rfl
@[simp] theorem setTroop_focus (s : State) (k : Nat) (v : Troop) : (s.setTroop k v).focus = s.focus := rfl
@[simp] theorem setTroop_cur (s : State) (k : Nat) (v : Troop) : (s.setTroop k v).cur = s.cur := rfl
@[simp] theorem setTroop_ev (s : State) (k : Nat) (v : Troop) : (s.setTroop k v).ev = s.ev := rfl
@[simp] theorem setTroop_freeCtr (s : State) (k : Nat) (v : Troop) : (s.setTroop k v).freeCtr = s.freeCtr := rfl
@[simp] theorem setTroop_nextId (s : State) (k : Nat) (v : Troop) : (s.setTroop k v).nextId = s.nextId := rfl
@[simp] theorem setTroop_strands (s : State) (k : Nat) (v : Troop) : (s.setTroop k v).strands = s.strands := rfl
@[simp] theorem setTroop_crews (s : State) (k : Nat) (v : Troop) : (s.setTroop k v).crews = s.crews := rfl
@[simp] theorem setTroop_past (s : State) (k : Nat) (v : Troop) : (s.setTroop k v).past = s.past := rfl
@[simp] theorem setTroop_cores (s : State) (k : Nat) (v : Troop) : (s.setTroop k v).cores = s.cores := rfl
@[simp] theorem setTroop_units (s : State) (k : Nat) (v : Troop) : (s.setTroop k v).units = s.units := rfl
@[simp] theorem setTroop_dies (s : State) (k : Nat) (v : Troop) : (s.setTroop k v).dies = s.dies := rfl
@[simp] theorem setTroop_launches (s : State) (k : Nat) (v : Troop) : (s.setTroop k v).launches = s.launches := rfl
@[simp] theorem setTroop_pmem (s : State) (k : Nat) (v : Troop) : (s.setTroop k v).pmem = s.pmem := rfl
@[simp] theorem setTroop_hostMem (s : State) (k : Nat) (v : Troop) : (s.setTroop k v).hostMem = s.hostMem := rfl
@[simp] theorem setTroop_errs (s : State) (k : Nat) (v : Troop) : (s.setTroop k v).errs = s.errs := rfl
@[simp] theorem setTroop_slices (s : State) (k : Nat) (v : Troop) : (s.setTroop k v).slices = s.slices := rfl
@[simp] theorem setTroop_hbmStacks (s : State) (k : Nat) (v : Troop) : (s.setTroop k v).hbmStacks = s.hbmStacks := rfl
@[simp] theorem setTroop_pins (s : State) (k : Nat) (v : Troop) : (s.setTroop k v).pins = s.pins := rfl
@[simp] theorem setTroop_pinReqs (s : State) (k : Nat) (v : Troop) : (s.setTroop k v).pinReqs = s.pinReqs := rfl
@[simp] theorem setTroop_quotas (s : State) (k : Nat) (v : Troop) : (s.setTroop k v).quotas = s.quotas := rfl
@[simp] theorem setTroop_pageLists (s : State) (k : Nat) (v : Troop) : (s.setTroop k v).pageLists = s.pageLists := rfl
@[simp] theorem setTroop_frozen (s : State) (k : Nat) (v : Troop) : (s.setTroop k v).frozen = s.frozen := rfl
@[simp] theorem setTroop_sensors (s : State) (k : Nat) (v : Troop) : (s.setTroop k v).sensors = s.sensors := rfl
@[simp] theorem setTroop_pkg (s : State) (k : Nat) (v : Troop) : (s.setTroop k v).pkg = s.pkg := rfl
@[simp] theorem setTroop_spaces (s : State) (k : Nat) (v : Troop) : (s.setTroop k v).spaces = s.spaces := rfl
@[simp] theorem setTroop_routes (s : State) (k : Nat) (v : Troop) : (s.setTroop k v).routes = s.routes := rfl
@[simp] theorem setTroop_spanRoots (s : State) (k : Nat) (v : Troop) : (s.setTroop k v).spanRoots = s.spanRoots := rfl
@[simp] theorem setTroop_kvpoolbase (s : State) (k : Nat) (v : Troop) : (s.setTroop k v).kvpoolbase = s.kvpoolbase := rfl
@[simp] theorem setTroop_kvpooln (s : State) (k : Nat) (v : Troop) : (s.setTroop k v).kvpooln = s.kvpooln := rfl
@[simp] theorem setTroop_kvfree (s : State) (k : Nat) (v : Troop) : (s.setTroop k v).kvfree = s.kvfree := rfl
@[simp] theorem setTroop_ports (s : State) (k : Nat) (v : Troop) : (s.setTroop k v).ports = s.ports := rfl
@[simp] theorem setTroop_loops (s : State) (k : Nat) (v : Troop) : (s.setTroop k v).loops = s.loops := rfl
@[simp] theorem setTroop_loopSeq (s : State) (k : Nat) (v : Troop) : (s.setTroop k v).loopSeq = s.loopSeq := rfl
@[simp] theorem setTroop_loopSeen (s : State) (k : Nat) (v : Troop) : (s.setTroop k v).loopSeen = s.loopSeen := rfl
@[simp] theorem setTroop_loopPkts (s : State) (k : Nat) (v : Troop) : (s.setTroop k v).loopPkts = s.loopPkts := rfl
@[simp] theorem setTroop_puts (s : State) (k : Nat) (v : Troop) : (s.setTroop k v).puts = s.puts := rfl
@[simp] theorem setTroop_putAns (s : State) (k : Nat) (v : Troop) : (s.setTroop k v).putAns = s.putAns := rfl
@[simp] theorem setTroop_chanMsgs (s : State) (k : Nat) (v : Troop) : (s.setTroop k v).chanMsgs = s.chanMsgs := rfl
@[simp] theorem setTroop_chanNext (s : State) (k : Nat) (v : Troop) : (s.setTroop k v).chanNext = s.chanNext := rfl
@[simp] theorem setTroop_uaOut (s : State) (k : Nat) (v : Troop) : (s.setTroop k v).uaOut = s.uaOut := rfl
@[simp] theorem setTroop_hostOut (s : State) (k : Nat) (v : Troop) : (s.setTroop k v).hostOut = s.hostOut := rfl
@[simp] theorem setTroop_ctls (s : State) (k : Nat) (v : Troop) : (s.setTroop k v).ctls = s.ctls := rfl
@[simp] theorem setTroop_mbx (s : State) (k : Nat) (v : Troop) : (s.setTroop k v).mbx = s.mbx := rfl
@[simp] theorem setTroop_mbxq (s : State) (k : Nat) (v : Troop) : (s.setTroop k v).mbxq = s.mbxq := rfl
@[simp] theorem setTroop_evrings (s : State) (k : Nat) (v : Troop) : (s.setTroop k v).evrings = s.evrings := rfl
@[simp] theorem setTroop_vfwin (s : State) (k : Nat) (v : Troop) : (s.setTroop k v).vfwin = s.vfwin := rfl
@[simp] theorem setTroop_msix (s : State) (k : Nat) (v : Troop) : (s.setTroop k v).msix = s.msix := rfl
@[simp] theorem setTroop_msixTab (s : State) (k : Nat) (v : Troop) : (s.setTroop k v).msixTab = s.msixTab := rfl
@[simp] theorem setTroop_msixPend (s : State) (k : Nat) (v : Troop) : (s.setTroop k v).msixPend = s.msixPend := rfl
@[simp] theorem setTroop_aer (s : State) (k : Nat) (v : Troop) : (s.setTroop k v).aer = s.aer := rfl
@[simp] theorem setTroop_pageGroups (s : State) (k : Nat) (v : Troop) : (s.setTroop k v).pageGroups = s.pageGroups := rfl
@[simp] theorem setTroop_bootctl (s : State) (k : Nat) (v : Troop) : (s.setTroop k v).bootctl = s.bootctl := rfl
@[simp] theorem setTroop_bootstat (s : State) (k : Nat) (v : Troop) : (s.setTroop k v).bootstat = s.bootstat := rfl
@[simp] theorem setTroop_measure (s : State) (k : Nat) (v : Troop) : (s.setTroop k v).measure = s.measure := rfl
@[simp] theorem setTroop_measureLog (s : State) (k : Nat) (v : Troop) : (s.setTroop k v).measureLog = s.measureLog := rfl
@[simp] theorem setTroop_revoked (s : State) (k : Nat) (v : Troop) : (s.setTroop k v).revoked = s.revoked := rfl
@[simp] theorem setTroop_minSvn (s : State) (k : Nat) (v : Troop) : (s.setTroop k v).minSvn = s.minSvn := rfl
@[simp] theorem setTroop_svn (s : State) (k : Nat) (v : Troop) : (s.setTroop k v).svn = s.svn := rfl
@[simp] theorem setTroop_image (s : State) (k : Nat) (v : Troop) : (s.setTroop k v).image = s.image := rfl
@[simp] theorem setTroop_staged (s : State) (k : Nat) (v : Troop) : (s.setTroop k v).staged = s.staged := rfl
@[simp] theorem setTroop_switching (s : State) (k : Nat) (v : Troop) : (s.setTroop k v).switching = s.switching := rfl
@[simp] theorem setTroop_reverting (s : State) (k : Nat) (v : Troop) : (s.setTroop k v).reverting = s.reverting := rfl
@[simp] theorem setTroop_ras (s : State) (k : Nat) (v : Troop) : (s.setTroop k v).ras = s.ras := rfl
@[simp] theorem setTroop_rasTrack (s : State) (k : Nat) (v : Troop) : (s.setTroop k v).rasTrack = s.rasTrack := rfl
@[simp] theorem setTroop_pwrlim (s : State) (k : Nat) (v : Troop) : (s.setTroop k v).pwrlim = s.pwrlim := rfl
@[simp] theorem setTroop_tempmax (s : State) (k : Nat) (v : Troop) : (s.setTroop k v).tempmax = s.tempmax := rfl
@[simp] theorem setTroop_mevq (s : State) (k : Nat) (v : Troop) : (s.setTroop k v).mevq = s.mevq := rfl
@[simp] theorem setTroop_mevLost (s : State) (k : Nat) (v : Troop) : (s.setTroop k v).mevLost = s.mevLost := rfl
@[simp] theorem setTroop_mevTag (s : State) (k : Nat) (v : Troop) : (s.setTroop k v).mevTag = s.mevTag := rfl
@[simp] theorem setTroop_mevie (s : State) (k : Nat) (v : Troop) : (s.setTroop k v).mevie = s.mevie := rfl
@[simp] theorem setTroop_invas (s : State) (k : Nat) (v : Troop) : (s.setTroop k v).invas = s.invas := rfl
@[simp] theorem setTroop_invva (s : State) (k : Nat) (v : Troop) : (s.setTroop k v).invva = s.invva := rfl
@[simp] theorem setTroop_invlen (s : State) (k : Nat) (v : Troop) : (s.setTroop k v).invlen = s.invlen := rfl
@[simp] theorem setTroop_invBusy (s : State) (k : Nat) (v : Troop) : (s.setTroop k v).invBusy = s.invBusy := rfl
@[simp] theorem setTroop_invFor (s : State) (k : Nat) (v : Troop) : (s.setTroop k v).invFor = s.invFor := rfl
@[simp] theorem setTroop_signin (s : State) (k : Nat) (v : Troop) : (s.setTroop k v).signin = s.signin := rfl
@[simp] theorem setTroop_signout (s : State) (k : Nat) (v : Troop) : (s.setTroop k v).signout = s.signout := rfl
@[simp] theorem setTroop_signgo (s : State) (k : Nat) (v : Troop) : (s.setTroop k v).signgo = s.signgo := rfl
@[simp] theorem setTroop_doeReq (s : State) (k : Nat) (v : Troop) : (s.setTroop k v).doeReq = s.doeReq := rfl
@[simp] theorem setTroop_doeAns (s : State) (k : Nat) (v : Troop) : (s.setTroop k v).doeAns = s.doeAns := rfl
@[simp] theorem setTroop_strand (s : State) (k j : Nat) (v : Troop) : (s.setTroop k v).strand j = s.strand j := rfl
@[simp] theorem setTroop_crew (s : State) (k j : Nat) (v : Troop) : (s.setTroop k v).crew j = s.crew j := rfl
@[simp] theorem setTroop_core (s : State) (k j : Nat) (v : Troop) : (s.setTroop k v).core j = s.core j := rfl
@[simp] theorem setTroop_unit (s : State) (k j : Nat) (v : Troop) : (s.setTroop k v).unit j = s.unit j := rfl
@[simp] theorem setTroop_die (s : State) (k j : Nat) (v : Troop) : (s.setTroop k v).die j = s.die j := rfl
@[simp] theorem setTroop_slice (s : State) (k j : Nat) (v : Troop) : (s.setTroop k v).slice j = s.slice j := rfl
@[simp] theorem setTroop_troop_self (s : State) (k : Nat) (v : Troop) : (s.setTroop k v).troop k = v := by simp [State.troop, State.setTroop]
theorem setTroop_troop_ne (s : State) {k j : Nat} (v : Troop) (h : k ≠ j) : (s.setTroop k v).troop j = s.troop j := by
  simp [State.troop, State.setTroop, sget_sput_ne _ _ _ h]
theorem modTroop_eq (s : State) (k : Nat) (f : Troop → Troop) : s.modTroop k f = s.setTroop k (f (s.troop k)) := rfl

/-! ## `cores` -/

@[simp] theorem setCore_agenda (s : State) (k : Nat) (v : Core) : (s.setCore k v).agenda = s.agenda := rfl
@[simp] theorem setCore_focus (s : State) (k : Nat) (v : Core) : (s.setCore k v).focus = s.focus := rfl
@[simp] theorem setCore_cur (s : State) (k : Nat) (v : Core) : (s.setCore k v).cur = s.cur := rfl
@[simp] theorem setCore_ev (s : State) (k : Nat) (v : Core) : (s.setCore k v).ev = s.ev := rfl
@[simp] theorem setCore_freeCtr (s : State) (k : Nat) (v : Core) : (s.setCore k v).freeCtr = s.freeCtr := rfl
@[simp] theorem setCore_nextId (s : State) (k : Nat) (v : Core) : (s.setCore k v).nextId = s.nextId := rfl
@[simp] theorem setCore_strands (s : State) (k : Nat) (v : Core) : (s.setCore k v).strands = s.strands := rfl
@[simp] theorem setCore_crews (s : State) (k : Nat) (v : Core) : (s.setCore k v).crews = s.crews := rfl
@[simp] theorem setCore_troops (s : State) (k : Nat) (v : Core) : (s.setCore k v).troops = s.troops := rfl
@[simp] theorem setCore_past (s : State) (k : Nat) (v : Core) : (s.setCore k v).past = s.past := rfl
@[simp] theorem setCore_units (s : State) (k : Nat) (v : Core) : (s.setCore k v).units = s.units := rfl
@[simp] theorem setCore_dies (s : State) (k : Nat) (v : Core) : (s.setCore k v).dies = s.dies := rfl
@[simp] theorem setCore_launches (s : State) (k : Nat) (v : Core) : (s.setCore k v).launches = s.launches := rfl
@[simp] theorem setCore_pmem (s : State) (k : Nat) (v : Core) : (s.setCore k v).pmem = s.pmem := rfl
@[simp] theorem setCore_hostMem (s : State) (k : Nat) (v : Core) : (s.setCore k v).hostMem = s.hostMem := rfl
@[simp] theorem setCore_errs (s : State) (k : Nat) (v : Core) : (s.setCore k v).errs = s.errs := rfl
@[simp] theorem setCore_slices (s : State) (k : Nat) (v : Core) : (s.setCore k v).slices = s.slices := rfl
@[simp] theorem setCore_hbmStacks (s : State) (k : Nat) (v : Core) : (s.setCore k v).hbmStacks = s.hbmStacks := rfl
@[simp] theorem setCore_pins (s : State) (k : Nat) (v : Core) : (s.setCore k v).pins = s.pins := rfl
@[simp] theorem setCore_pinReqs (s : State) (k : Nat) (v : Core) : (s.setCore k v).pinReqs = s.pinReqs := rfl
@[simp] theorem setCore_quotas (s : State) (k : Nat) (v : Core) : (s.setCore k v).quotas = s.quotas := rfl
@[simp] theorem setCore_pageLists (s : State) (k : Nat) (v : Core) : (s.setCore k v).pageLists = s.pageLists := rfl
@[simp] theorem setCore_frozen (s : State) (k : Nat) (v : Core) : (s.setCore k v).frozen = s.frozen := rfl
@[simp] theorem setCore_sensors (s : State) (k : Nat) (v : Core) : (s.setCore k v).sensors = s.sensors := rfl
@[simp] theorem setCore_pkg (s : State) (k : Nat) (v : Core) : (s.setCore k v).pkg = s.pkg := rfl
@[simp] theorem setCore_spaces (s : State) (k : Nat) (v : Core) : (s.setCore k v).spaces = s.spaces := rfl
@[simp] theorem setCore_routes (s : State) (k : Nat) (v : Core) : (s.setCore k v).routes = s.routes := rfl
@[simp] theorem setCore_spanRoots (s : State) (k : Nat) (v : Core) : (s.setCore k v).spanRoots = s.spanRoots := rfl
@[simp] theorem setCore_kvpoolbase (s : State) (k : Nat) (v : Core) : (s.setCore k v).kvpoolbase = s.kvpoolbase := rfl
@[simp] theorem setCore_kvpooln (s : State) (k : Nat) (v : Core) : (s.setCore k v).kvpooln = s.kvpooln := rfl
@[simp] theorem setCore_kvfree (s : State) (k : Nat) (v : Core) : (s.setCore k v).kvfree = s.kvfree := rfl
@[simp] theorem setCore_ports (s : State) (k : Nat) (v : Core) : (s.setCore k v).ports = s.ports := rfl
@[simp] theorem setCore_loops (s : State) (k : Nat) (v : Core) : (s.setCore k v).loops = s.loops := rfl
@[simp] theorem setCore_loopSeq (s : State) (k : Nat) (v : Core) : (s.setCore k v).loopSeq = s.loopSeq := rfl
@[simp] theorem setCore_loopSeen (s : State) (k : Nat) (v : Core) : (s.setCore k v).loopSeen = s.loopSeen := rfl
@[simp] theorem setCore_loopPkts (s : State) (k : Nat) (v : Core) : (s.setCore k v).loopPkts = s.loopPkts := rfl
@[simp] theorem setCore_puts (s : State) (k : Nat) (v : Core) : (s.setCore k v).puts = s.puts := rfl
@[simp] theorem setCore_putAns (s : State) (k : Nat) (v : Core) : (s.setCore k v).putAns = s.putAns := rfl
@[simp] theorem setCore_chanMsgs (s : State) (k : Nat) (v : Core) : (s.setCore k v).chanMsgs = s.chanMsgs := rfl
@[simp] theorem setCore_chanNext (s : State) (k : Nat) (v : Core) : (s.setCore k v).chanNext = s.chanNext := rfl
@[simp] theorem setCore_uaOut (s : State) (k : Nat) (v : Core) : (s.setCore k v).uaOut = s.uaOut := rfl
@[simp] theorem setCore_hostOut (s : State) (k : Nat) (v : Core) : (s.setCore k v).hostOut = s.hostOut := rfl
@[simp] theorem setCore_ctls (s : State) (k : Nat) (v : Core) : (s.setCore k v).ctls = s.ctls := rfl
@[simp] theorem setCore_mbx (s : State) (k : Nat) (v : Core) : (s.setCore k v).mbx = s.mbx := rfl
@[simp] theorem setCore_mbxq (s : State) (k : Nat) (v : Core) : (s.setCore k v).mbxq = s.mbxq := rfl
@[simp] theorem setCore_evrings (s : State) (k : Nat) (v : Core) : (s.setCore k v).evrings = s.evrings := rfl
@[simp] theorem setCore_vfwin (s : State) (k : Nat) (v : Core) : (s.setCore k v).vfwin = s.vfwin := rfl
@[simp] theorem setCore_msix (s : State) (k : Nat) (v : Core) : (s.setCore k v).msix = s.msix := rfl
@[simp] theorem setCore_msixTab (s : State) (k : Nat) (v : Core) : (s.setCore k v).msixTab = s.msixTab := rfl
@[simp] theorem setCore_msixPend (s : State) (k : Nat) (v : Core) : (s.setCore k v).msixPend = s.msixPend := rfl
@[simp] theorem setCore_aer (s : State) (k : Nat) (v : Core) : (s.setCore k v).aer = s.aer := rfl
@[simp] theorem setCore_pageGroups (s : State) (k : Nat) (v : Core) : (s.setCore k v).pageGroups = s.pageGroups := rfl
@[simp] theorem setCore_bootctl (s : State) (k : Nat) (v : Core) : (s.setCore k v).bootctl = s.bootctl := rfl
@[simp] theorem setCore_bootstat (s : State) (k : Nat) (v : Core) : (s.setCore k v).bootstat = s.bootstat := rfl
@[simp] theorem setCore_measure (s : State) (k : Nat) (v : Core) : (s.setCore k v).measure = s.measure := rfl
@[simp] theorem setCore_measureLog (s : State) (k : Nat) (v : Core) : (s.setCore k v).measureLog = s.measureLog := rfl
@[simp] theorem setCore_revoked (s : State) (k : Nat) (v : Core) : (s.setCore k v).revoked = s.revoked := rfl
@[simp] theorem setCore_minSvn (s : State) (k : Nat) (v : Core) : (s.setCore k v).minSvn = s.minSvn := rfl
@[simp] theorem setCore_svn (s : State) (k : Nat) (v : Core) : (s.setCore k v).svn = s.svn := rfl
@[simp] theorem setCore_image (s : State) (k : Nat) (v : Core) : (s.setCore k v).image = s.image := rfl
@[simp] theorem setCore_staged (s : State) (k : Nat) (v : Core) : (s.setCore k v).staged = s.staged := rfl
@[simp] theorem setCore_switching (s : State) (k : Nat) (v : Core) : (s.setCore k v).switching = s.switching := rfl
@[simp] theorem setCore_reverting (s : State) (k : Nat) (v : Core) : (s.setCore k v).reverting = s.reverting := rfl
@[simp] theorem setCore_ras (s : State) (k : Nat) (v : Core) : (s.setCore k v).ras = s.ras := rfl
@[simp] theorem setCore_rasTrack (s : State) (k : Nat) (v : Core) : (s.setCore k v).rasTrack = s.rasTrack := rfl
@[simp] theorem setCore_pwrlim (s : State) (k : Nat) (v : Core) : (s.setCore k v).pwrlim = s.pwrlim := rfl
@[simp] theorem setCore_tempmax (s : State) (k : Nat) (v : Core) : (s.setCore k v).tempmax = s.tempmax := rfl
@[simp] theorem setCore_mevq (s : State) (k : Nat) (v : Core) : (s.setCore k v).mevq = s.mevq := rfl
@[simp] theorem setCore_mevLost (s : State) (k : Nat) (v : Core) : (s.setCore k v).mevLost = s.mevLost := rfl
@[simp] theorem setCore_mevTag (s : State) (k : Nat) (v : Core) : (s.setCore k v).mevTag = s.mevTag := rfl
@[simp] theorem setCore_mevie (s : State) (k : Nat) (v : Core) : (s.setCore k v).mevie = s.mevie := rfl
@[simp] theorem setCore_invas (s : State) (k : Nat) (v : Core) : (s.setCore k v).invas = s.invas := rfl
@[simp] theorem setCore_invva (s : State) (k : Nat) (v : Core) : (s.setCore k v).invva = s.invva := rfl
@[simp] theorem setCore_invlen (s : State) (k : Nat) (v : Core) : (s.setCore k v).invlen = s.invlen := rfl
@[simp] theorem setCore_invBusy (s : State) (k : Nat) (v : Core) : (s.setCore k v).invBusy = s.invBusy := rfl
@[simp] theorem setCore_invFor (s : State) (k : Nat) (v : Core) : (s.setCore k v).invFor = s.invFor := rfl
@[simp] theorem setCore_signin (s : State) (k : Nat) (v : Core) : (s.setCore k v).signin = s.signin := rfl
@[simp] theorem setCore_signout (s : State) (k : Nat) (v : Core) : (s.setCore k v).signout = s.signout := rfl
@[simp] theorem setCore_signgo (s : State) (k : Nat) (v : Core) : (s.setCore k v).signgo = s.signgo := rfl
@[simp] theorem setCore_doeReq (s : State) (k : Nat) (v : Core) : (s.setCore k v).doeReq = s.doeReq := rfl
@[simp] theorem setCore_doeAns (s : State) (k : Nat) (v : Core) : (s.setCore k v).doeAns = s.doeAns := rfl
@[simp] theorem setCore_strand (s : State) (k j : Nat) (v : Core) : (s.setCore k v).strand j = s.strand j := rfl
@[simp] theorem setCore_crew (s : State) (k j : Nat) (v : Core) : (s.setCore k v).crew j = s.crew j := rfl
@[simp] theorem setCore_troop (s : State) (k j : Nat) (v : Core) : (s.setCore k v).troop j = s.troop j := rfl
@[simp] theorem setCore_unit (s : State) (k j : Nat) (v : Core) : (s.setCore k v).unit j = s.unit j := rfl
@[simp] theorem setCore_die (s : State) (k j : Nat) (v : Core) : (s.setCore k v).die j = s.die j := rfl
@[simp] theorem setCore_slice (s : State) (k j : Nat) (v : Core) : (s.setCore k v).slice j = s.slice j := rfl
@[simp] theorem setCore_core_self (s : State) (k : Nat) (v : Core) : (s.setCore k v).core k = v := by simp [State.core, State.setCore]
theorem setCore_core_ne (s : State) {k j : Nat} (v : Core) (h : k ≠ j) : (s.setCore k v).core j = s.core j := by
  simp [State.core, State.setCore, sget_sput_ne _ _ _ h]
theorem modCore_eq (s : State) (k : Nat) (f : Core → Core) : s.modCore k f = s.setCore k (f (s.core k)) := rfl

/-! ## `units` -/

@[simp] theorem setUnit_agenda (s : State) (k : Nat) (v : IssueUnit) : (s.setUnit k v).agenda = s.agenda := rfl
@[simp] theorem setUnit_focus (s : State) (k : Nat) (v : IssueUnit) : (s.setUnit k v).focus = s.focus := rfl
@[simp] theorem setUnit_cur (s : State) (k : Nat) (v : IssueUnit) : (s.setUnit k v).cur = s.cur := rfl
@[simp] theorem setUnit_ev (s : State) (k : Nat) (v : IssueUnit) : (s.setUnit k v).ev = s.ev := rfl
@[simp] theorem setUnit_freeCtr (s : State) (k : Nat) (v : IssueUnit) : (s.setUnit k v).freeCtr = s.freeCtr := rfl
@[simp] theorem setUnit_nextId (s : State) (k : Nat) (v : IssueUnit) : (s.setUnit k v).nextId = s.nextId := rfl
@[simp] theorem setUnit_strands (s : State) (k : Nat) (v : IssueUnit) : (s.setUnit k v).strands = s.strands := rfl
@[simp] theorem setUnit_crews (s : State) (k : Nat) (v : IssueUnit) : (s.setUnit k v).crews = s.crews := rfl
@[simp] theorem setUnit_troops (s : State) (k : Nat) (v : IssueUnit) : (s.setUnit k v).troops = s.troops := rfl
@[simp] theorem setUnit_past (s : State) (k : Nat) (v : IssueUnit) : (s.setUnit k v).past = s.past := rfl
@[simp] theorem setUnit_cores (s : State) (k : Nat) (v : IssueUnit) : (s.setUnit k v).cores = s.cores := rfl
@[simp] theorem setUnit_dies (s : State) (k : Nat) (v : IssueUnit) : (s.setUnit k v).dies = s.dies := rfl
@[simp] theorem setUnit_launches (s : State) (k : Nat) (v : IssueUnit) : (s.setUnit k v).launches = s.launches := rfl
@[simp] theorem setUnit_pmem (s : State) (k : Nat) (v : IssueUnit) : (s.setUnit k v).pmem = s.pmem := rfl
@[simp] theorem setUnit_hostMem (s : State) (k : Nat) (v : IssueUnit) : (s.setUnit k v).hostMem = s.hostMem := rfl
@[simp] theorem setUnit_errs (s : State) (k : Nat) (v : IssueUnit) : (s.setUnit k v).errs = s.errs := rfl
@[simp] theorem setUnit_slices (s : State) (k : Nat) (v : IssueUnit) : (s.setUnit k v).slices = s.slices := rfl
@[simp] theorem setUnit_hbmStacks (s : State) (k : Nat) (v : IssueUnit) : (s.setUnit k v).hbmStacks = s.hbmStacks := rfl
@[simp] theorem setUnit_pins (s : State) (k : Nat) (v : IssueUnit) : (s.setUnit k v).pins = s.pins := rfl
@[simp] theorem setUnit_pinReqs (s : State) (k : Nat) (v : IssueUnit) : (s.setUnit k v).pinReqs = s.pinReqs := rfl
@[simp] theorem setUnit_quotas (s : State) (k : Nat) (v : IssueUnit) : (s.setUnit k v).quotas = s.quotas := rfl
@[simp] theorem setUnit_pageLists (s : State) (k : Nat) (v : IssueUnit) : (s.setUnit k v).pageLists = s.pageLists := rfl
@[simp] theorem setUnit_frozen (s : State) (k : Nat) (v : IssueUnit) : (s.setUnit k v).frozen = s.frozen := rfl
@[simp] theorem setUnit_sensors (s : State) (k : Nat) (v : IssueUnit) : (s.setUnit k v).sensors = s.sensors := rfl
@[simp] theorem setUnit_pkg (s : State) (k : Nat) (v : IssueUnit) : (s.setUnit k v).pkg = s.pkg := rfl
@[simp] theorem setUnit_spaces (s : State) (k : Nat) (v : IssueUnit) : (s.setUnit k v).spaces = s.spaces := rfl
@[simp] theorem setUnit_routes (s : State) (k : Nat) (v : IssueUnit) : (s.setUnit k v).routes = s.routes := rfl
@[simp] theorem setUnit_spanRoots (s : State) (k : Nat) (v : IssueUnit) : (s.setUnit k v).spanRoots = s.spanRoots := rfl
@[simp] theorem setUnit_kvpoolbase (s : State) (k : Nat) (v : IssueUnit) : (s.setUnit k v).kvpoolbase = s.kvpoolbase := rfl
@[simp] theorem setUnit_kvpooln (s : State) (k : Nat) (v : IssueUnit) : (s.setUnit k v).kvpooln = s.kvpooln := rfl
@[simp] theorem setUnit_kvfree (s : State) (k : Nat) (v : IssueUnit) : (s.setUnit k v).kvfree = s.kvfree := rfl
@[simp] theorem setUnit_ports (s : State) (k : Nat) (v : IssueUnit) : (s.setUnit k v).ports = s.ports := rfl
@[simp] theorem setUnit_loops (s : State) (k : Nat) (v : IssueUnit) : (s.setUnit k v).loops = s.loops := rfl
@[simp] theorem setUnit_loopSeq (s : State) (k : Nat) (v : IssueUnit) : (s.setUnit k v).loopSeq = s.loopSeq := rfl
@[simp] theorem setUnit_loopSeen (s : State) (k : Nat) (v : IssueUnit) : (s.setUnit k v).loopSeen = s.loopSeen := rfl
@[simp] theorem setUnit_loopPkts (s : State) (k : Nat) (v : IssueUnit) : (s.setUnit k v).loopPkts = s.loopPkts := rfl
@[simp] theorem setUnit_puts (s : State) (k : Nat) (v : IssueUnit) : (s.setUnit k v).puts = s.puts := rfl
@[simp] theorem setUnit_putAns (s : State) (k : Nat) (v : IssueUnit) : (s.setUnit k v).putAns = s.putAns := rfl
@[simp] theorem setUnit_chanMsgs (s : State) (k : Nat) (v : IssueUnit) : (s.setUnit k v).chanMsgs = s.chanMsgs := rfl
@[simp] theorem setUnit_chanNext (s : State) (k : Nat) (v : IssueUnit) : (s.setUnit k v).chanNext = s.chanNext := rfl
@[simp] theorem setUnit_uaOut (s : State) (k : Nat) (v : IssueUnit) : (s.setUnit k v).uaOut = s.uaOut := rfl
@[simp] theorem setUnit_hostOut (s : State) (k : Nat) (v : IssueUnit) : (s.setUnit k v).hostOut = s.hostOut := rfl
@[simp] theorem setUnit_ctls (s : State) (k : Nat) (v : IssueUnit) : (s.setUnit k v).ctls = s.ctls := rfl
@[simp] theorem setUnit_mbx (s : State) (k : Nat) (v : IssueUnit) : (s.setUnit k v).mbx = s.mbx := rfl
@[simp] theorem setUnit_mbxq (s : State) (k : Nat) (v : IssueUnit) : (s.setUnit k v).mbxq = s.mbxq := rfl
@[simp] theorem setUnit_evrings (s : State) (k : Nat) (v : IssueUnit) : (s.setUnit k v).evrings = s.evrings := rfl
@[simp] theorem setUnit_vfwin (s : State) (k : Nat) (v : IssueUnit) : (s.setUnit k v).vfwin = s.vfwin := rfl
@[simp] theorem setUnit_msix (s : State) (k : Nat) (v : IssueUnit) : (s.setUnit k v).msix = s.msix := rfl
@[simp] theorem setUnit_msixTab (s : State) (k : Nat) (v : IssueUnit) : (s.setUnit k v).msixTab = s.msixTab := rfl
@[simp] theorem setUnit_msixPend (s : State) (k : Nat) (v : IssueUnit) : (s.setUnit k v).msixPend = s.msixPend := rfl
@[simp] theorem setUnit_aer (s : State) (k : Nat) (v : IssueUnit) : (s.setUnit k v).aer = s.aer := rfl
@[simp] theorem setUnit_pageGroups (s : State) (k : Nat) (v : IssueUnit) : (s.setUnit k v).pageGroups = s.pageGroups := rfl
@[simp] theorem setUnit_bootctl (s : State) (k : Nat) (v : IssueUnit) : (s.setUnit k v).bootctl = s.bootctl := rfl
@[simp] theorem setUnit_bootstat (s : State) (k : Nat) (v : IssueUnit) : (s.setUnit k v).bootstat = s.bootstat := rfl
@[simp] theorem setUnit_measure (s : State) (k : Nat) (v : IssueUnit) : (s.setUnit k v).measure = s.measure := rfl
@[simp] theorem setUnit_measureLog (s : State) (k : Nat) (v : IssueUnit) : (s.setUnit k v).measureLog = s.measureLog := rfl
@[simp] theorem setUnit_revoked (s : State) (k : Nat) (v : IssueUnit) : (s.setUnit k v).revoked = s.revoked := rfl
@[simp] theorem setUnit_minSvn (s : State) (k : Nat) (v : IssueUnit) : (s.setUnit k v).minSvn = s.minSvn := rfl
@[simp] theorem setUnit_svn (s : State) (k : Nat) (v : IssueUnit) : (s.setUnit k v).svn = s.svn := rfl
@[simp] theorem setUnit_image (s : State) (k : Nat) (v : IssueUnit) : (s.setUnit k v).image = s.image := rfl
@[simp] theorem setUnit_staged (s : State) (k : Nat) (v : IssueUnit) : (s.setUnit k v).staged = s.staged := rfl
@[simp] theorem setUnit_switching (s : State) (k : Nat) (v : IssueUnit) : (s.setUnit k v).switching = s.switching := rfl
@[simp] theorem setUnit_reverting (s : State) (k : Nat) (v : IssueUnit) : (s.setUnit k v).reverting = s.reverting := rfl
@[simp] theorem setUnit_ras (s : State) (k : Nat) (v : IssueUnit) : (s.setUnit k v).ras = s.ras := rfl
@[simp] theorem setUnit_rasTrack (s : State) (k : Nat) (v : IssueUnit) : (s.setUnit k v).rasTrack = s.rasTrack := rfl
@[simp] theorem setUnit_pwrlim (s : State) (k : Nat) (v : IssueUnit) : (s.setUnit k v).pwrlim = s.pwrlim := rfl
@[simp] theorem setUnit_tempmax (s : State) (k : Nat) (v : IssueUnit) : (s.setUnit k v).tempmax = s.tempmax := rfl
@[simp] theorem setUnit_mevq (s : State) (k : Nat) (v : IssueUnit) : (s.setUnit k v).mevq = s.mevq := rfl
@[simp] theorem setUnit_mevLost (s : State) (k : Nat) (v : IssueUnit) : (s.setUnit k v).mevLost = s.mevLost := rfl
@[simp] theorem setUnit_mevTag (s : State) (k : Nat) (v : IssueUnit) : (s.setUnit k v).mevTag = s.mevTag := rfl
@[simp] theorem setUnit_mevie (s : State) (k : Nat) (v : IssueUnit) : (s.setUnit k v).mevie = s.mevie := rfl
@[simp] theorem setUnit_invas (s : State) (k : Nat) (v : IssueUnit) : (s.setUnit k v).invas = s.invas := rfl
@[simp] theorem setUnit_invva (s : State) (k : Nat) (v : IssueUnit) : (s.setUnit k v).invva = s.invva := rfl
@[simp] theorem setUnit_invlen (s : State) (k : Nat) (v : IssueUnit) : (s.setUnit k v).invlen = s.invlen := rfl
@[simp] theorem setUnit_invBusy (s : State) (k : Nat) (v : IssueUnit) : (s.setUnit k v).invBusy = s.invBusy := rfl
@[simp] theorem setUnit_invFor (s : State) (k : Nat) (v : IssueUnit) : (s.setUnit k v).invFor = s.invFor := rfl
@[simp] theorem setUnit_signin (s : State) (k : Nat) (v : IssueUnit) : (s.setUnit k v).signin = s.signin := rfl
@[simp] theorem setUnit_signout (s : State) (k : Nat) (v : IssueUnit) : (s.setUnit k v).signout = s.signout := rfl
@[simp] theorem setUnit_signgo (s : State) (k : Nat) (v : IssueUnit) : (s.setUnit k v).signgo = s.signgo := rfl
@[simp] theorem setUnit_doeReq (s : State) (k : Nat) (v : IssueUnit) : (s.setUnit k v).doeReq = s.doeReq := rfl
@[simp] theorem setUnit_doeAns (s : State) (k : Nat) (v : IssueUnit) : (s.setUnit k v).doeAns = s.doeAns := rfl
@[simp] theorem setUnit_strand (s : State) (k j : Nat) (v : IssueUnit) : (s.setUnit k v).strand j = s.strand j := rfl
@[simp] theorem setUnit_crew (s : State) (k j : Nat) (v : IssueUnit) : (s.setUnit k v).crew j = s.crew j := rfl
@[simp] theorem setUnit_troop (s : State) (k j : Nat) (v : IssueUnit) : (s.setUnit k v).troop j = s.troop j := rfl
@[simp] theorem setUnit_core (s : State) (k j : Nat) (v : IssueUnit) : (s.setUnit k v).core j = s.core j := rfl
@[simp] theorem setUnit_die (s : State) (k j : Nat) (v : IssueUnit) : (s.setUnit k v).die j = s.die j := rfl
@[simp] theorem setUnit_slice (s : State) (k j : Nat) (v : IssueUnit) : (s.setUnit k v).slice j = s.slice j := rfl
@[simp] theorem setUnit_unit_self (s : State) (k : Nat) (v : IssueUnit) : (s.setUnit k v).unit k = v := by simp [State.unit, State.setUnit]
theorem setUnit_unit_ne (s : State) {k j : Nat} (v : IssueUnit) (h : k ≠ j) : (s.setUnit k v).unit j = s.unit j := by
  simp [State.unit, State.setUnit, sget_sput_ne _ _ _ h]
theorem modUnit_eq (s : State) (k : Nat) (f : IssueUnit → IssueUnit) : s.modUnit k f = s.setUnit k (f (s.unit k)) := rfl

/-! ## `dies` -/

@[simp] theorem setDie_agenda (s : State) (k : Nat) (v : Die) : (s.setDie k v).agenda = s.agenda := rfl
@[simp] theorem setDie_focus (s : State) (k : Nat) (v : Die) : (s.setDie k v).focus = s.focus := rfl
@[simp] theorem setDie_cur (s : State) (k : Nat) (v : Die) : (s.setDie k v).cur = s.cur := rfl
@[simp] theorem setDie_ev (s : State) (k : Nat) (v : Die) : (s.setDie k v).ev = s.ev := rfl
@[simp] theorem setDie_freeCtr (s : State) (k : Nat) (v : Die) : (s.setDie k v).freeCtr = s.freeCtr := rfl
@[simp] theorem setDie_nextId (s : State) (k : Nat) (v : Die) : (s.setDie k v).nextId = s.nextId := rfl
@[simp] theorem setDie_strands (s : State) (k : Nat) (v : Die) : (s.setDie k v).strands = s.strands := rfl
@[simp] theorem setDie_crews (s : State) (k : Nat) (v : Die) : (s.setDie k v).crews = s.crews := rfl
@[simp] theorem setDie_troops (s : State) (k : Nat) (v : Die) : (s.setDie k v).troops = s.troops := rfl
@[simp] theorem setDie_past (s : State) (k : Nat) (v : Die) : (s.setDie k v).past = s.past := rfl
@[simp] theorem setDie_cores (s : State) (k : Nat) (v : Die) : (s.setDie k v).cores = s.cores := rfl
@[simp] theorem setDie_units (s : State) (k : Nat) (v : Die) : (s.setDie k v).units = s.units := rfl
@[simp] theorem setDie_launches (s : State) (k : Nat) (v : Die) : (s.setDie k v).launches = s.launches := rfl
@[simp] theorem setDie_pmem (s : State) (k : Nat) (v : Die) : (s.setDie k v).pmem = s.pmem := rfl
@[simp] theorem setDie_hostMem (s : State) (k : Nat) (v : Die) : (s.setDie k v).hostMem = s.hostMem := rfl
@[simp] theorem setDie_errs (s : State) (k : Nat) (v : Die) : (s.setDie k v).errs = s.errs := rfl
@[simp] theorem setDie_slices (s : State) (k : Nat) (v : Die) : (s.setDie k v).slices = s.slices := rfl
@[simp] theorem setDie_hbmStacks (s : State) (k : Nat) (v : Die) : (s.setDie k v).hbmStacks = s.hbmStacks := rfl
@[simp] theorem setDie_pins (s : State) (k : Nat) (v : Die) : (s.setDie k v).pins = s.pins := rfl
@[simp] theorem setDie_pinReqs (s : State) (k : Nat) (v : Die) : (s.setDie k v).pinReqs = s.pinReqs := rfl
@[simp] theorem setDie_quotas (s : State) (k : Nat) (v : Die) : (s.setDie k v).quotas = s.quotas := rfl
@[simp] theorem setDie_pageLists (s : State) (k : Nat) (v : Die) : (s.setDie k v).pageLists = s.pageLists := rfl
@[simp] theorem setDie_frozen (s : State) (k : Nat) (v : Die) : (s.setDie k v).frozen = s.frozen := rfl
@[simp] theorem setDie_sensors (s : State) (k : Nat) (v : Die) : (s.setDie k v).sensors = s.sensors := rfl
@[simp] theorem setDie_pkg (s : State) (k : Nat) (v : Die) : (s.setDie k v).pkg = s.pkg := rfl
@[simp] theorem setDie_spaces (s : State) (k : Nat) (v : Die) : (s.setDie k v).spaces = s.spaces := rfl
@[simp] theorem setDie_routes (s : State) (k : Nat) (v : Die) : (s.setDie k v).routes = s.routes := rfl
@[simp] theorem setDie_spanRoots (s : State) (k : Nat) (v : Die) : (s.setDie k v).spanRoots = s.spanRoots := rfl
@[simp] theorem setDie_kvpoolbase (s : State) (k : Nat) (v : Die) : (s.setDie k v).kvpoolbase = s.kvpoolbase := rfl
@[simp] theorem setDie_kvpooln (s : State) (k : Nat) (v : Die) : (s.setDie k v).kvpooln = s.kvpooln := rfl
@[simp] theorem setDie_kvfree (s : State) (k : Nat) (v : Die) : (s.setDie k v).kvfree = s.kvfree := rfl
@[simp] theorem setDie_ports (s : State) (k : Nat) (v : Die) : (s.setDie k v).ports = s.ports := rfl
@[simp] theorem setDie_loops (s : State) (k : Nat) (v : Die) : (s.setDie k v).loops = s.loops := rfl
@[simp] theorem setDie_loopSeq (s : State) (k : Nat) (v : Die) : (s.setDie k v).loopSeq = s.loopSeq := rfl
@[simp] theorem setDie_loopSeen (s : State) (k : Nat) (v : Die) : (s.setDie k v).loopSeen = s.loopSeen := rfl
@[simp] theorem setDie_loopPkts (s : State) (k : Nat) (v : Die) : (s.setDie k v).loopPkts = s.loopPkts := rfl
@[simp] theorem setDie_puts (s : State) (k : Nat) (v : Die) : (s.setDie k v).puts = s.puts := rfl
@[simp] theorem setDie_putAns (s : State) (k : Nat) (v : Die) : (s.setDie k v).putAns = s.putAns := rfl
@[simp] theorem setDie_chanMsgs (s : State) (k : Nat) (v : Die) : (s.setDie k v).chanMsgs = s.chanMsgs := rfl
@[simp] theorem setDie_chanNext (s : State) (k : Nat) (v : Die) : (s.setDie k v).chanNext = s.chanNext := rfl
@[simp] theorem setDie_uaOut (s : State) (k : Nat) (v : Die) : (s.setDie k v).uaOut = s.uaOut := rfl
@[simp] theorem setDie_hostOut (s : State) (k : Nat) (v : Die) : (s.setDie k v).hostOut = s.hostOut := rfl
@[simp] theorem setDie_ctls (s : State) (k : Nat) (v : Die) : (s.setDie k v).ctls = s.ctls := rfl
@[simp] theorem setDie_mbx (s : State) (k : Nat) (v : Die) : (s.setDie k v).mbx = s.mbx := rfl
@[simp] theorem setDie_mbxq (s : State) (k : Nat) (v : Die) : (s.setDie k v).mbxq = s.mbxq := rfl
@[simp] theorem setDie_evrings (s : State) (k : Nat) (v : Die) : (s.setDie k v).evrings = s.evrings := rfl
@[simp] theorem setDie_vfwin (s : State) (k : Nat) (v : Die) : (s.setDie k v).vfwin = s.vfwin := rfl
@[simp] theorem setDie_msix (s : State) (k : Nat) (v : Die) : (s.setDie k v).msix = s.msix := rfl
@[simp] theorem setDie_msixTab (s : State) (k : Nat) (v : Die) : (s.setDie k v).msixTab = s.msixTab := rfl
@[simp] theorem setDie_msixPend (s : State) (k : Nat) (v : Die) : (s.setDie k v).msixPend = s.msixPend := rfl
@[simp] theorem setDie_aer (s : State) (k : Nat) (v : Die) : (s.setDie k v).aer = s.aer := rfl
@[simp] theorem setDie_pageGroups (s : State) (k : Nat) (v : Die) : (s.setDie k v).pageGroups = s.pageGroups := rfl
@[simp] theorem setDie_bootctl (s : State) (k : Nat) (v : Die) : (s.setDie k v).bootctl = s.bootctl := rfl
@[simp] theorem setDie_bootstat (s : State) (k : Nat) (v : Die) : (s.setDie k v).bootstat = s.bootstat := rfl
@[simp] theorem setDie_measure (s : State) (k : Nat) (v : Die) : (s.setDie k v).measure = s.measure := rfl
@[simp] theorem setDie_measureLog (s : State) (k : Nat) (v : Die) : (s.setDie k v).measureLog = s.measureLog := rfl
@[simp] theorem setDie_revoked (s : State) (k : Nat) (v : Die) : (s.setDie k v).revoked = s.revoked := rfl
@[simp] theorem setDie_minSvn (s : State) (k : Nat) (v : Die) : (s.setDie k v).minSvn = s.minSvn := rfl
@[simp] theorem setDie_svn (s : State) (k : Nat) (v : Die) : (s.setDie k v).svn = s.svn := rfl
@[simp] theorem setDie_image (s : State) (k : Nat) (v : Die) : (s.setDie k v).image = s.image := rfl
@[simp] theorem setDie_staged (s : State) (k : Nat) (v : Die) : (s.setDie k v).staged = s.staged := rfl
@[simp] theorem setDie_switching (s : State) (k : Nat) (v : Die) : (s.setDie k v).switching = s.switching := rfl
@[simp] theorem setDie_reverting (s : State) (k : Nat) (v : Die) : (s.setDie k v).reverting = s.reverting := rfl
@[simp] theorem setDie_ras (s : State) (k : Nat) (v : Die) : (s.setDie k v).ras = s.ras := rfl
@[simp] theorem setDie_rasTrack (s : State) (k : Nat) (v : Die) : (s.setDie k v).rasTrack = s.rasTrack := rfl
@[simp] theorem setDie_pwrlim (s : State) (k : Nat) (v : Die) : (s.setDie k v).pwrlim = s.pwrlim := rfl
@[simp] theorem setDie_tempmax (s : State) (k : Nat) (v : Die) : (s.setDie k v).tempmax = s.tempmax := rfl
@[simp] theorem setDie_mevq (s : State) (k : Nat) (v : Die) : (s.setDie k v).mevq = s.mevq := rfl
@[simp] theorem setDie_mevLost (s : State) (k : Nat) (v : Die) : (s.setDie k v).mevLost = s.mevLost := rfl
@[simp] theorem setDie_mevTag (s : State) (k : Nat) (v : Die) : (s.setDie k v).mevTag = s.mevTag := rfl
@[simp] theorem setDie_mevie (s : State) (k : Nat) (v : Die) : (s.setDie k v).mevie = s.mevie := rfl
@[simp] theorem setDie_invas (s : State) (k : Nat) (v : Die) : (s.setDie k v).invas = s.invas := rfl
@[simp] theorem setDie_invva (s : State) (k : Nat) (v : Die) : (s.setDie k v).invva = s.invva := rfl
@[simp] theorem setDie_invlen (s : State) (k : Nat) (v : Die) : (s.setDie k v).invlen = s.invlen := rfl
@[simp] theorem setDie_invBusy (s : State) (k : Nat) (v : Die) : (s.setDie k v).invBusy = s.invBusy := rfl
@[simp] theorem setDie_invFor (s : State) (k : Nat) (v : Die) : (s.setDie k v).invFor = s.invFor := rfl
@[simp] theorem setDie_signin (s : State) (k : Nat) (v : Die) : (s.setDie k v).signin = s.signin := rfl
@[simp] theorem setDie_signout (s : State) (k : Nat) (v : Die) : (s.setDie k v).signout = s.signout := rfl
@[simp] theorem setDie_signgo (s : State) (k : Nat) (v : Die) : (s.setDie k v).signgo = s.signgo := rfl
@[simp] theorem setDie_doeReq (s : State) (k : Nat) (v : Die) : (s.setDie k v).doeReq = s.doeReq := rfl
@[simp] theorem setDie_doeAns (s : State) (k : Nat) (v : Die) : (s.setDie k v).doeAns = s.doeAns := rfl
@[simp] theorem setDie_strand (s : State) (k j : Nat) (v : Die) : (s.setDie k v).strand j = s.strand j := rfl
@[simp] theorem setDie_crew (s : State) (k j : Nat) (v : Die) : (s.setDie k v).crew j = s.crew j := rfl
@[simp] theorem setDie_troop (s : State) (k j : Nat) (v : Die) : (s.setDie k v).troop j = s.troop j := rfl
@[simp] theorem setDie_core (s : State) (k j : Nat) (v : Die) : (s.setDie k v).core j = s.core j := rfl
@[simp] theorem setDie_unit (s : State) (k j : Nat) (v : Die) : (s.setDie k v).unit j = s.unit j := rfl
@[simp] theorem setDie_slice (s : State) (k j : Nat) (v : Die) : (s.setDie k v).slice j = s.slice j := rfl
@[simp] theorem setDie_die_self (s : State) (k : Nat) (v : Die) : (s.setDie k v).die k = v := by simp [State.die, State.setDie]
theorem setDie_die_ne (s : State) {k j : Nat} (v : Die) (h : k ≠ j) : (s.setDie k v).die j = s.die j := by
  simp [State.die, State.setDie, sget_sput_ne _ _ _ h]
theorem modDie_eq (s : State) (k : Nat) (f : Die → Die) : s.modDie k f = s.setDie k (f (s.die k)) := rfl

/-! ## `slices` -/

@[simp] theorem setSlice_agenda (s : State) (k : Nat) (v : Slice) : (s.setSlice k v).agenda = s.agenda := rfl
@[simp] theorem setSlice_focus (s : State) (k : Nat) (v : Slice) : (s.setSlice k v).focus = s.focus := rfl
@[simp] theorem setSlice_cur (s : State) (k : Nat) (v : Slice) : (s.setSlice k v).cur = s.cur := rfl
@[simp] theorem setSlice_ev (s : State) (k : Nat) (v : Slice) : (s.setSlice k v).ev = s.ev := rfl
@[simp] theorem setSlice_freeCtr (s : State) (k : Nat) (v : Slice) : (s.setSlice k v).freeCtr = s.freeCtr := rfl
@[simp] theorem setSlice_nextId (s : State) (k : Nat) (v : Slice) : (s.setSlice k v).nextId = s.nextId := rfl
@[simp] theorem setSlice_strands (s : State) (k : Nat) (v : Slice) : (s.setSlice k v).strands = s.strands := rfl
@[simp] theorem setSlice_crews (s : State) (k : Nat) (v : Slice) : (s.setSlice k v).crews = s.crews := rfl
@[simp] theorem setSlice_troops (s : State) (k : Nat) (v : Slice) : (s.setSlice k v).troops = s.troops := rfl
@[simp] theorem setSlice_past (s : State) (k : Nat) (v : Slice) : (s.setSlice k v).past = s.past := rfl
@[simp] theorem setSlice_cores (s : State) (k : Nat) (v : Slice) : (s.setSlice k v).cores = s.cores := rfl
@[simp] theorem setSlice_units (s : State) (k : Nat) (v : Slice) : (s.setSlice k v).units = s.units := rfl
@[simp] theorem setSlice_dies (s : State) (k : Nat) (v : Slice) : (s.setSlice k v).dies = s.dies := rfl
@[simp] theorem setSlice_launches (s : State) (k : Nat) (v : Slice) : (s.setSlice k v).launches = s.launches := rfl
@[simp] theorem setSlice_pmem (s : State) (k : Nat) (v : Slice) : (s.setSlice k v).pmem = s.pmem := rfl
@[simp] theorem setSlice_hostMem (s : State) (k : Nat) (v : Slice) : (s.setSlice k v).hostMem = s.hostMem := rfl
@[simp] theorem setSlice_errs (s : State) (k : Nat) (v : Slice) : (s.setSlice k v).errs = s.errs := rfl
@[simp] theorem setSlice_hbmStacks (s : State) (k : Nat) (v : Slice) : (s.setSlice k v).hbmStacks = s.hbmStacks := rfl
@[simp] theorem setSlice_pins (s : State) (k : Nat) (v : Slice) : (s.setSlice k v).pins = s.pins := rfl
@[simp] theorem setSlice_pinReqs (s : State) (k : Nat) (v : Slice) : (s.setSlice k v).pinReqs = s.pinReqs := rfl
@[simp] theorem setSlice_quotas (s : State) (k : Nat) (v : Slice) : (s.setSlice k v).quotas = s.quotas := rfl
@[simp] theorem setSlice_pageLists (s : State) (k : Nat) (v : Slice) : (s.setSlice k v).pageLists = s.pageLists := rfl
@[simp] theorem setSlice_frozen (s : State) (k : Nat) (v : Slice) : (s.setSlice k v).frozen = s.frozen := rfl
@[simp] theorem setSlice_sensors (s : State) (k : Nat) (v : Slice) : (s.setSlice k v).sensors = s.sensors := rfl
@[simp] theorem setSlice_pkg (s : State) (k : Nat) (v : Slice) : (s.setSlice k v).pkg = s.pkg := rfl
@[simp] theorem setSlice_spaces (s : State) (k : Nat) (v : Slice) : (s.setSlice k v).spaces = s.spaces := rfl
@[simp] theorem setSlice_routes (s : State) (k : Nat) (v : Slice) : (s.setSlice k v).routes = s.routes := rfl
@[simp] theorem setSlice_spanRoots (s : State) (k : Nat) (v : Slice) : (s.setSlice k v).spanRoots = s.spanRoots := rfl
@[simp] theorem setSlice_kvpoolbase (s : State) (k : Nat) (v : Slice) : (s.setSlice k v).kvpoolbase = s.kvpoolbase := rfl
@[simp] theorem setSlice_kvpooln (s : State) (k : Nat) (v : Slice) : (s.setSlice k v).kvpooln = s.kvpooln := rfl
@[simp] theorem setSlice_kvfree (s : State) (k : Nat) (v : Slice) : (s.setSlice k v).kvfree = s.kvfree := rfl
@[simp] theorem setSlice_ports (s : State) (k : Nat) (v : Slice) : (s.setSlice k v).ports = s.ports := rfl
@[simp] theorem setSlice_loops (s : State) (k : Nat) (v : Slice) : (s.setSlice k v).loops = s.loops := rfl
@[simp] theorem setSlice_loopSeq (s : State) (k : Nat) (v : Slice) : (s.setSlice k v).loopSeq = s.loopSeq := rfl
@[simp] theorem setSlice_loopSeen (s : State) (k : Nat) (v : Slice) : (s.setSlice k v).loopSeen = s.loopSeen := rfl
@[simp] theorem setSlice_loopPkts (s : State) (k : Nat) (v : Slice) : (s.setSlice k v).loopPkts = s.loopPkts := rfl
@[simp] theorem setSlice_puts (s : State) (k : Nat) (v : Slice) : (s.setSlice k v).puts = s.puts := rfl
@[simp] theorem setSlice_putAns (s : State) (k : Nat) (v : Slice) : (s.setSlice k v).putAns = s.putAns := rfl
@[simp] theorem setSlice_chanMsgs (s : State) (k : Nat) (v : Slice) : (s.setSlice k v).chanMsgs = s.chanMsgs := rfl
@[simp] theorem setSlice_chanNext (s : State) (k : Nat) (v : Slice) : (s.setSlice k v).chanNext = s.chanNext := rfl
@[simp] theorem setSlice_uaOut (s : State) (k : Nat) (v : Slice) : (s.setSlice k v).uaOut = s.uaOut := rfl
@[simp] theorem setSlice_hostOut (s : State) (k : Nat) (v : Slice) : (s.setSlice k v).hostOut = s.hostOut := rfl
@[simp] theorem setSlice_ctls (s : State) (k : Nat) (v : Slice) : (s.setSlice k v).ctls = s.ctls := rfl
@[simp] theorem setSlice_mbx (s : State) (k : Nat) (v : Slice) : (s.setSlice k v).mbx = s.mbx := rfl
@[simp] theorem setSlice_mbxq (s : State) (k : Nat) (v : Slice) : (s.setSlice k v).mbxq = s.mbxq := rfl
@[simp] theorem setSlice_evrings (s : State) (k : Nat) (v : Slice) : (s.setSlice k v).evrings = s.evrings := rfl
@[simp] theorem setSlice_vfwin (s : State) (k : Nat) (v : Slice) : (s.setSlice k v).vfwin = s.vfwin := rfl
@[simp] theorem setSlice_msix (s : State) (k : Nat) (v : Slice) : (s.setSlice k v).msix = s.msix := rfl
@[simp] theorem setSlice_msixTab (s : State) (k : Nat) (v : Slice) : (s.setSlice k v).msixTab = s.msixTab := rfl
@[simp] theorem setSlice_msixPend (s : State) (k : Nat) (v : Slice) : (s.setSlice k v).msixPend = s.msixPend := rfl
@[simp] theorem setSlice_aer (s : State) (k : Nat) (v : Slice) : (s.setSlice k v).aer = s.aer := rfl
@[simp] theorem setSlice_pageGroups (s : State) (k : Nat) (v : Slice) : (s.setSlice k v).pageGroups = s.pageGroups := rfl
@[simp] theorem setSlice_bootctl (s : State) (k : Nat) (v : Slice) : (s.setSlice k v).bootctl = s.bootctl := rfl
@[simp] theorem setSlice_bootstat (s : State) (k : Nat) (v : Slice) : (s.setSlice k v).bootstat = s.bootstat := rfl
@[simp] theorem setSlice_measure (s : State) (k : Nat) (v : Slice) : (s.setSlice k v).measure = s.measure := rfl
@[simp] theorem setSlice_measureLog (s : State) (k : Nat) (v : Slice) : (s.setSlice k v).measureLog = s.measureLog := rfl
@[simp] theorem setSlice_revoked (s : State) (k : Nat) (v : Slice) : (s.setSlice k v).revoked = s.revoked := rfl
@[simp] theorem setSlice_minSvn (s : State) (k : Nat) (v : Slice) : (s.setSlice k v).minSvn = s.minSvn := rfl
@[simp] theorem setSlice_svn (s : State) (k : Nat) (v : Slice) : (s.setSlice k v).svn = s.svn := rfl
@[simp] theorem setSlice_image (s : State) (k : Nat) (v : Slice) : (s.setSlice k v).image = s.image := rfl
@[simp] theorem setSlice_staged (s : State) (k : Nat) (v : Slice) : (s.setSlice k v).staged = s.staged := rfl
@[simp] theorem setSlice_switching (s : State) (k : Nat) (v : Slice) : (s.setSlice k v).switching = s.switching := rfl
@[simp] theorem setSlice_reverting (s : State) (k : Nat) (v : Slice) : (s.setSlice k v).reverting = s.reverting := rfl
@[simp] theorem setSlice_ras (s : State) (k : Nat) (v : Slice) : (s.setSlice k v).ras = s.ras := rfl
@[simp] theorem setSlice_rasTrack (s : State) (k : Nat) (v : Slice) : (s.setSlice k v).rasTrack = s.rasTrack := rfl
@[simp] theorem setSlice_pwrlim (s : State) (k : Nat) (v : Slice) : (s.setSlice k v).pwrlim = s.pwrlim := rfl
@[simp] theorem setSlice_tempmax (s : State) (k : Nat) (v : Slice) : (s.setSlice k v).tempmax = s.tempmax := rfl
@[simp] theorem setSlice_mevq (s : State) (k : Nat) (v : Slice) : (s.setSlice k v).mevq = s.mevq := rfl
@[simp] theorem setSlice_mevLost (s : State) (k : Nat) (v : Slice) : (s.setSlice k v).mevLost = s.mevLost := rfl
@[simp] theorem setSlice_mevTag (s : State) (k : Nat) (v : Slice) : (s.setSlice k v).mevTag = s.mevTag := rfl
@[simp] theorem setSlice_mevie (s : State) (k : Nat) (v : Slice) : (s.setSlice k v).mevie = s.mevie := rfl
@[simp] theorem setSlice_invas (s : State) (k : Nat) (v : Slice) : (s.setSlice k v).invas = s.invas := rfl
@[simp] theorem setSlice_invva (s : State) (k : Nat) (v : Slice) : (s.setSlice k v).invva = s.invva := rfl
@[simp] theorem setSlice_invlen (s : State) (k : Nat) (v : Slice) : (s.setSlice k v).invlen = s.invlen := rfl
@[simp] theorem setSlice_invBusy (s : State) (k : Nat) (v : Slice) : (s.setSlice k v).invBusy = s.invBusy := rfl
@[simp] theorem setSlice_invFor (s : State) (k : Nat) (v : Slice) : (s.setSlice k v).invFor = s.invFor := rfl
@[simp] theorem setSlice_signin (s : State) (k : Nat) (v : Slice) : (s.setSlice k v).signin = s.signin := rfl
@[simp] theorem setSlice_signout (s : State) (k : Nat) (v : Slice) : (s.setSlice k v).signout = s.signout := rfl
@[simp] theorem setSlice_signgo (s : State) (k : Nat) (v : Slice) : (s.setSlice k v).signgo = s.signgo := rfl
@[simp] theorem setSlice_doeReq (s : State) (k : Nat) (v : Slice) : (s.setSlice k v).doeReq = s.doeReq := rfl
@[simp] theorem setSlice_doeAns (s : State) (k : Nat) (v : Slice) : (s.setSlice k v).doeAns = s.doeAns := rfl
@[simp] theorem setSlice_strand (s : State) (k j : Nat) (v : Slice) : (s.setSlice k v).strand j = s.strand j := rfl
@[simp] theorem setSlice_crew (s : State) (k j : Nat) (v : Slice) : (s.setSlice k v).crew j = s.crew j := rfl
@[simp] theorem setSlice_troop (s : State) (k j : Nat) (v : Slice) : (s.setSlice k v).troop j = s.troop j := rfl
@[simp] theorem setSlice_core (s : State) (k j : Nat) (v : Slice) : (s.setSlice k v).core j = s.core j := rfl
@[simp] theorem setSlice_unit (s : State) (k j : Nat) (v : Slice) : (s.setSlice k v).unit j = s.unit j := rfl
@[simp] theorem setSlice_die (s : State) (k j : Nat) (v : Slice) : (s.setSlice k v).die j = s.die j := rfl
@[simp] theorem setSlice_slice_self (s : State) (k : Nat) (v : Slice) : (s.setSlice k v).slice k = v := by simp [State.slice, State.setSlice]
theorem setSlice_slice_ne (s : State) {k j : Nat} (v : Slice) (h : k ≠ j) : (s.setSlice k v).slice j = s.slice j := by
  simp [State.slice, State.setSlice, sget_sput_ne _ _ _ h]
theorem modSlice_eq (s : State) (k : Nat) (f : Slice → Slice) : s.modSlice k f = s.setSlice k (f (s.slice k)) := rfl

end Sys2Proof.Machine
end

