-- ==== Sys2Proof/Safety.lean ====
section
/-! DEFINITION. Safety.lean: the terms claims are stated in: memories in canonical form, a strand ready to issue, what
an instruction may change, and where it continues. -/

namespace Sys2Proof.Machine

/-! ## Memories -/

/-- The memories a troop holds are in canonical form. -/
def Troop.memOk (t : Troop) : Bool := t.spm.wf && t.tiles.wf
/-- Every memory of the machine is in canonical form. -/
def State.memOk (s : State) : Bool :=
  s.pmem.wf && s.hostMem.wf && s.troops.all (fun t => t.2.memOk) && s.ctls.all (fun c => c.2.sram.wf)
    && s.past.all (fun p => p.2.spm.wf && p.2.tiles.wf)

/-- Every byte of physical memory, of host memory, of every scratchpad, tile slot and controller SRAM reads as before. -/
def SameBytes (s t : State) : Prop :=
  (∀ a, t.pbyte a = s.pbyte a) ∧ (∀ a, mbyte t.hostMem a = mbyte s.hostMem a)
    ∧ (∀ q a, mbyte (t.troop q).spm a = mbyte (s.troop q).spm a) ∧ (∀ q a, mbyte (t.troop q).tiles a = mbyte (s.troop q).tiles a)
    ∧ (∀ c a, mbyte (t.ctl c).sram a = mbyte (s.ctl c).sram a)

/-! ## Issue -/

/-- The guard holds, the crew's role allows it, every operand meets its limit, every register is allocated, the
registers read are filled and not in error, and no register awaits a result (R27, R82, R146, R171, R218): the instruction has its
effect. -/
def State.ready (s : State) (f : Fr) (c : Chk) : Bool :=
  s.guardOk f && c.role && c.ops.all (·.1) && (c.srcs ++ c.dsts ++ c.names).all (fun r => !s.regBad r)
    && c.srcs.all (fun r => s.myStrand.fill.getLsbD r) && (c.srcs ++ c.dsts).all (fun r => !s.myStrand.pend.getLsbD r)
    && c.srcs.all (fun r => !s.myStrand.bad.getLsbD r)

/-- Nothing stands before an action on the object of `n` bytes at a scratchpad offset: it lies in the partition, no
scoreboard entry but its own op's holds it, no store waits in the crew's queue and no request on its way to a bank for it, for
a write no load of the strand is out, a deterministic troop's turn is reached, and its bytes hold no error (R202, R219, R284, R287, R296, R348). -/
def State.objClear (s : State) (ring : Bool) (off n : Nat) (write : Bool) : Bool :=
  let t := troopOf s.x
  off % 16 == 0 && s.spmIn t off n && (s.objNamed t ring off || !s.spmBlocked t off n write) && s.myCrew.sq.isEmpty
    && !s.bankOut (coreOf s.x) (.spm t) off n && (!write || s.loadsIn) && (!s.myLaunch.det || s.detReady) && (s.errRead (some t) off n).isNone
/-- Where the strand continues: past the instruction, or at its macro's next step, or past the call (R66, R331). -/
def State.nextPc (s : State) (f : Fr) : Dword × Nat :=
  match s.cur.mop with
  | none => (s.myStrand.pc + BitVec.ofNat 64 (4 * frameWords f.len), s.myStrand.step)
  | some m =>
    if m.last || s.myStrand.step == 31 then (s.myStrand.pc + BitVec.ofNat 64 (4 * frameWords m.len), 63)
    else (s.myStrand.pc, s.myStrand.step + 1)

/-- The registers after the writes of a list, the last write of a register standing. -/
def regAfter : List (Nat × Word) → (Nat → Word) → Nat → Word
  | [], old, r => old r
  | w :: ws, old, r => regAfter ws (fun q => if q = w.1 then w.2 else old q) r
/-- The predicates after the writes of a list: `p7` stays true (R95). -/
def predAfter : List (PReg × Bool) → (PReg → Bool) → PReg → Bool
  | [], old, p => old p
  | w :: ws, old, p => predAfter ws (fun q => if q = w.1 ∧ w.1 ≠ 7 then w.2 else old q) p
/-- The register file of the issuing strand has exactly these writes: their registers are full, await nothing, and are not
in error. -/
def RegFile (s t : State) (ws : List (Nat × Word)) (ps : List (PReg × Bool)) : Prop :=
  (∀ r, t.rdX s.x r = regAfter ws (s.rdX s.x) r)
    ∧ (∀ r, (t.strand s.x).fill.getLsbD r = (s.myStrand.fill.getLsbD r || (decide (r < 128) && ws.any (fun w => w.1 == r))))
    ∧ (∀ r, (t.strand s.x).pend.getLsbD r = (s.myStrand.pend.getLsbD r && !ws.any (fun w => w.1 == r)))
    ∧ (∀ r, (t.strand s.x).bad.getLsbD r = (s.myStrand.bad.getLsbD r && !ws.any (fun w => w.1 == r)))
    ∧ (∀ p : PReg, (t.strand s.x).prd p.toNat = predAfter ps (fun q => s.myStrand.prd q.toNat) p)
/-- Nothing beyond the issuing strand changes but its crew's retired instructions, its unit's stamps, the timers of its
core's bins, and lines of its L1. -/
def Elsewhere (s t : State) : Prop :=
  (∀ y, y ≠ s.x → t.strand y = s.strand y)
    ∧ (∀ c, { t.crew c with retired := (s.crew c).retired, counted := (s.crew c).counted } = s.crew c)
    ∧ (∀ c, c ≠ crewOf s.x → t.crew c = s.crew c)
    ∧ (∀ u, { t.unit u with stampCtr := (s.unit u).stampCtr } = s.unit u)
    ∧ (∀ k, { t.core k with l1 := (s.core k).l1, reqs := (s.core k).reqs, bins := (s.core k).bins } = s.core k)
    ∧ { t with strands := s.strands, crews := s.crews, units := s.units, cores := s.cores } = s
    ∧ SameBytes s t
/-- The instruction is done: these writes, the strand Eligible at an address and macro step, and nothing else. -/
def WroteAt (s t : State) (at_ : Dword × Nat) (ws : List (Nat × Word)) (ps : List (PReg × Bool)) : Prop :=
  RegFile s t ws ps ∧ ((t.strand s.x).pc, (t.strand s.x).step) = at_
    ∧ { t.strand s.x with regs := s.myStrand.regs, fill := s.myStrand.fill, pend := s.myStrand.pend, putAcq := s.myStrand.putAcq,
                          preds := s.myStrand.preds, pc := s.myStrand.pc, step := s.myStrand.step, stamp := s.myStrand.stamp,
                          team := s.myStrand.team, bad := s.myStrand.bad, fetched := s.myStrand.fetched }
        = { s.myStrand with life := .eligible, wait := .none, refused := none, latch := none, xl := [] }
    ∧ Elsewhere s t
/-- As `WroteAt`, at the next instruction. -/
def Wrote (s t : State) (f : Fr) (ws : List (Nat × Word)) (ps : List (PReg × Bool)) : Prop := WroteAt s t (s.nextPc f) ws ps
/-- The instruction answers a next state in which it has written these registers and predicates and is done. -/
def Computes (i : Instr) (s : State) (f : Fr) (ws : List (Nat × Word)) (ps : List (PReg × Bool)) : Prop :=
  ∃ t, exec i s = .next t ∧ Wrote s t f ws ps

/-- The issuing strand goes on past the instruction with these writes, and no other strand changes. -/
def Goes (s t : State) (f : Fr) (ws : List (Nat × Word)) (ps : List (PReg × Bool)) : Prop :=
  RegFile s t ws ps ∧ ((t.strand s.x).pc, (t.strand s.x).step) = s.nextPc f ∧ (t.strand s.x).life = .eligible
    ∧ ∀ y, y ≠ s.x → t.strand y = s.strand y
/-- As `Goes`, and of every memory exactly the bytes `bs` of a scratchpad from an offset are written. -/
def GoesWith (s t : State) (f : Fr) (ws : List (Nat × Word)) (ps : List (PReg × Bool)) (q at_ : Nat) (bs : List Byte) : Prop :=
  Goes s t f ws ps ∧ (∀ pa, t.pbyte pa = s.pbyte pa) ∧ (∀ a, mbyte t.hostMem a = mbyte s.hostMem a)
    ∧ (∀ p a, mbyte (t.troop p).tiles a = mbyte (s.troop p).tiles a)
    ∧ ∀ p a, mbyte (t.troop p).spm a = if p = q ∧ at_ ≤ a ∧ a < at_ + bs.length then bs.getD (a - at_) 0 else mbyte (s.troop p).spm a
/-- The issuing strand goes on with no write; of other strands only the NAK marks of a token it joins may clear (R346). -/
def GoesTok (s t : State) (f : Fr) : Prop :=
  RegFile s t [] [] ∧ ((t.strand s.x).pc, (t.strand s.x).step) = s.nextPc f ∧ (t.strand s.x).life = .eligible
    ∧ ∀ y, y ≠ s.x → { t.strand y with nakMarks := (s.strand y).nakMarks } = s.strand y
/-- The issuing strand waits for request `id`, to continue at this instruction. -/
def AwaitsRequest (s t : State) (id : Nat) : Prop :=
  (t.strand s.x).life = .parked ∧ (t.strand s.x).wait = .request id ∧ (t.strand s.x).pc = s.myStrand.pc
    ∧ (t.strand s.x).step = s.myStrand.step ∧ RegFile s t [] [] ∧ ∀ y, y ≠ s.x → t.strand y = s.strand y
/-- Words written to consecutive registers. -/
def runWrites (d : Nat) (vs : List Word) : List (Nat × Word) := vs.zipIdx.map (fun p => (d + p.2, p.1))
/-- Where the instruction is ready it answers the state `body` gives, from `s` with the reads of its source registers
acquired (R161). -/
def Answers (i : Instr) (s : State) (f : Fr) (c : Chk) (body : State → State) : Prop :=
  s.ready f c = true → exec i s = .next (body (s.readAcquire c.srcs))
/-- As `Answers`: it has this effect and its strand goes on at the next instruction. -/
def Does (i : Instr) (s : State) (f : Fr) (c : Chk) (eff : State → State) : Prop := Answers i s f c (fun u => (eff u).finish f.len)

/-- The issuing strand has taken a trap: the record of the trap, the handler's address, and nothing else, but that it waits
for no scoreboard entry (R360, R361, R324). -/
def TookTrap (s t : State) (f : Fr) (tr : Trap) : Prop :=
  t.strand s.x = { s.myStrand with
      life := .eligible, wait := .none, team := none, latch := none, refused := none, xl := [], fetched := none,
      stamp := (t.strand s.x).stamp, mended := s.cur.mop.map (fun m => (m.idx % 64, s.myStrand.step, m.last)),
      trappc := s.myStrand.pc, tval := tr.tval, taddr := tr.taddr, pc := pcOf s.myLaunch.handler, step := 63,
      cause := match s.cur.mop with
        | none => causeWord tr f.len s.myStrand.step s.myStrand.mindex
        | some m => causeWord tr m.len s.myStrand.step m.idx }
    ∧ (∀ y, y ≠ s.x → t.strand y = s.strand y) ∧ (∀ u, { t.unit u with stampCtr := (s.unit u).stampCtr } = s.unit u)
    ∧ (∀ k, { t.core k with scoreWait := (s.core k).scoreWait } = s.core k)
    ∧ (t.core (coreOf s.x)).scoreWait = (s.core (coreOf s.x)).scoreWait.filter (· != s.x)
    ∧ { t with strands := s.strands, units := s.units, cores := s.cores } = s

/-! ## Products of the tile engine (R187-R192) -/

/-- The number an FP32 word holds; 0 for an infinity or a NaN. -/
def wordVal (w : Word) : ℚ :=
  match fval w with
  | .fin n m e => (if n then -1 else 1) * m * (2 : ℚ) ^ e
  | .inf _ | .nan _ => 0
/-- R187, R189: a term is added to an accumulator; an exact zero is not. -/
def addTerm (acc y : Word) : Word := if y &&& 0x7FFFFFFF = 0 then acc else f32addSrc .rne acc y 3
/-- R191: the term of one chunk, of these pairs of elements. -/
def ChunkTerm (ps : List (Word × Word)) (t : Word) : Prop :=
  let inf (w : Word) : Bool := w &&& 0x7FFFFFFF == 0x7F800000
  let zero (w : Word) : Bool := w &&& 0x7FFFFFFF == 0
  let infinite (neg : Bool) : Bool := ps.any (fun p => (inf p.1 || inf p.2) && ((p.1.getLsbD 31 != p.2.getLsbD 31) == neg))
  match (ps.flatMap (fun p => [p.1, p.2])).find? isNan with
  | some n => t = n ||| 0x00400000
  | none =>
    if ps.any (fun p => inf p.1 && zero p.2 || zero p.1 && inf p.2) then t = 0x7FC0001C
    else if infinite false && infinite true then t = 0x7FC0001B
    else if infinite false then t = 0x7F800000
    else if infinite true then t = 0xFF800000
    else ∃ (neg : Bool) (n : Nat) (e : Int), (if neg then -1 else 1) * n * (2 : ℚ) ^ e = (ps.map (fun p => wordVal p.1 * wordVal p.2)).sum
      ∧ t = BitVec.ofNat 32 (roundQ fp32 .rne neg n 1 e)
/-- R188: element (i, j) of a reef-form product. -/
def reefElement (a b : Opnd) (i j : Nat) (acc0 : Word) : Word :=
  let e := a.geo.e
  let body (kb : Nat) : Word :=
    let sa := imgScale a.img (blockOf a.geo i (kb * e))
    let sb := imgScale b.img (blockOf b.geo (kb * e) j)
    let sum : Int := ((List.range e).map (fun k =>
      imgCodeZ a.geo a.img (blockOf a.geo i (kb * e)) (i % e) k * imgCodeZ b.geo b.img (blockOf b.geo (kb * e) j) k (j % e))).sum
    if sa = 255 then 0x7FC00002 else if sb = 255 then 0x7FC0000A
    else BitVec.ofNat 32 (roundQ fp32 .rne (decide (sum < 0)) sum.natAbs 1 ((sa : Int) + sb - 254))
  let acc1 := (List.range (a.cols / e)).foldl (fun acc kb => addTerm acc (body kb)) acc0
  let acc2 := ((entsA a).filter (fun r => r.r == i)).foldl (fun acc r =>
    addTerm acc (f32mulSrc .rne r.v (imgElem b.geo b.img 1 r.c j) 3)) acc1
  ((entsB b).filter (fun r => r.c == j)).foldl (fun acc r =>
    let ab := aBody a i r.r
    if ab &&& 0x7FFFFFFF = 0 ∧ (entsA a).any (fun q => q.r == i && q.c == r.r) then acc else addTerm acc (f32mulSrc .rne ab r.v 3)) acc2
/-- R191, R192: what the product of one pair makes of element (i, j). -/
def PairElement (reef : Bool) (a b : Opnd) (i j : Nat) (acc v : Word) : Prop :=
  if reef then v = reefElement a b i j acc
  else ∃ ts : List Word, ts.length = a.cols / 16 ∧ v = ts.foldl addTerm acc
    ∧ ∀ ch < ts.length, ChunkTerm ((List.range 16).map (fun q => (a.dense 0 i (16 * ch + q), b.dense 1 (16 * ch + q) j))) (ts.getD ch 0)

/-! ## Guards, and mailbox commands -/

/-- The guard and the frame code that the fields of an instruction give (R64, R70, R74). -/
def guardFr (f : Fields) : Fr :=
  if f.len.getLsbD 1 then ⟨f.gp.toNat, f.gs, f.len⟩
  else match f.g.toNat with
    | 0 => ⟨7, false, f.len⟩ | 1 => ⟨0, false, f.len⟩ | 2 => ⟨0, true, f.len⟩ | _ => ⟨1, false, f.len⟩
/-- The fields of a collective, which a strand signs even when its guard is false (R27, R30). -/
def signsWhenFalse (f : Fields) : Bool :=
  decide (0x40 ≤ f.op7.toNat ∧ f.op7.toNat ≤ 0x46) || (f.op7.toNat == 0x62 && f.subop.toNat != 5) || f.op7.toNat == 0x66 || f.op7.toNat == 0x67

/-- The oldest mailbox command is `op` of function `f`, which may give it, and its arguments have the widths of R388. -/
def State.commanded (s : State) (f op : Nat) (pf : Bool) (widths : List Nat) : Bool :=
  let m := s.mbxAt f
  s.mbxq.head? == some f && s.booted && s.invFor != some f && m.op == op && (!pf || f == 0)
    && bits m.block.toNat 15 8 == 0 && bits m.block.toNat 63 32 == 0 && m.block.toNat / 2 ^ (64 + 64 * widths.length) == 0
    && (List.range widths.length).all (fun i => decide (m.arg i < 2 ^ widths.getD i 0))
/-- Vector `v` of a function is signalled: its message is sent, or pends while its table entry is masked (R383, R386). -/
def Signals (s t : State) (f v : Nat) : Prop :=
  if (s.msixEntry f v).getLsbD 96 then t.msix = s.msix ∧ ∀ e, e ∈ t.msixPend ↔ e ∈ s.msixPend ∨ e = (f, v)
  else t.msix = s.msix ++ [(f, v)] ∧ t.msixPend = s.msixPend
/-- The command of function `f` is over with a result: its tag and the result in `MBXSTAT`, and vector 0 (R387). -/
def Ended (i : Instr) (s t : State) (f result : Nat) : Prop :=
  exec i s = .next t ∧ t.mbxq = s.mbxq.erase f ∧ Signals s t f 0
    ∧ t.mbxAt f = { s.mbxAt f with stat := BitVec.ofNat 32 ((s.mbxAt f).tag * 2 ^ 16 + result * 2 ^ 8) }

/-- The relation an integer condition names (R71 Table 5). -/
def condHolds {w : Nat} (cc : ICond) (x y : BitVec w) : Bool :=
  match cc with
  | .eq => decide (x = y) | .ne => decide (x ≠ y)
  | .lt => decide (x.toInt < y.toInt) | .le => decide (x.toInt ≤ y.toInt)
  | .gt => decide (y.toInt < x.toInt) | .ge => decide (y.toInt ≤ x.toInt)
  | .ltu => decide (x.toNat < y.toNat) | .leu => decide (x.toNat ≤ y.toNat)
  | .gtu => decide (y.toNat < x.toNat) | .geu => decide (y.toNat ≤ x.toNat)

end Sys2Proof.Machine
end

