-- ==== Sys2Proof/Laws/Memory.lean ====
section
/-! SUPPORT. Laws/Memory.lean: every memory operation keeps the canonical form, and reading a byte after a write. -/

namespace Sys2Proof.Machine

/-! ## Rising order -/

/-- Every number of a table is above `i`. -/
def above {α : Type} (i : Nat) (m : Sparse α) : Prop := ∀ e ∈ m, i < e.1

theorem srising_cons {α : Type} (i : Nat) (v : α) (m : Sparse α) : srising ((i, v) :: m) = true ↔ above i m ∧ srising m = true := by
  induction m generalizing i v with
  | nil => simp [srising, above]
  | cons e t ih =>
    obtain ⟨j, w⟩ := e
    rw [srising, Bool.and_eq_true, decide_eq_true_iff]
    constructor
    · rintro ⟨h1, h2⟩
      refine ⟨?_, h2⟩
      intro e he
      rcases List.mem_cons.mp he with rfl | he
      · exact h1
      · exact Nat.lt_trans h1 (((ih j w).mp h2).1 e he)
    · rintro ⟨h1, h2⟩
      exact ⟨h1 (j, w) (List.mem_cons_self ..), h2⟩

theorem mem_sput {α : Type} (m : Sparse α) (k : Nat) (v : α) (e : Nat × α) (h : e ∈ sput m k v) : e = (k, v) ∨ e ∈ m := by
  induction m with
  | nil => simpa [sput] using h
  | cons f t ih =>
    obtain ⟨j, w⟩ := f
    rw [sput] at h
    split at h
    · rcases List.mem_cons.mp h with h | h
      · exact .inl h
      · exact .inr h
    · split at h
      · rcases List.mem_cons.mp h with h | h
        · exact .inl h
        · exact .inr (List.mem_cons_of_mem _ h)
      · rcases List.mem_cons.mp h with h | h
        · exact .inr (h ▸ List.mem_cons_self ..)
        · exact (ih h).imp_right (List.mem_cons_of_mem _)

theorem srising_sput {α : Type} (m : Sparse α) (k : Nat) (v : α) (h : srising m = true) : srising (sput m k v) = true := by
  induction m with
  | nil => rfl
  | cons f t ih =>
    obtain ⟨j, w⟩ := f
    have hc := (srising_cons j w t).mp h
    rw [sput]
    split
    · rename_i hk
      refine (srising_cons ..).mpr ⟨?_, h⟩
      intro e he
      rcases List.mem_cons.mp he with rfl | he
      · exact hk
      · exact Nat.lt_trans hk (hc.1 e he)
    · split
      · rename_i hk
        subst hk
        exact (srising_cons ..).mpr hc
      · rename_i h1 h2
        refine (srising_cons ..).mpr ⟨?_, ih hc.2⟩
        intro e he
        rcases mem_sput t k v e he with rfl | he
        · show j < k
          omega
        · exact hc.1 e he

theorem srising_filter {α : Type} (m : Sparse α) (p : Nat × α → Bool) (h : srising m = true) : srising (m.filter p) = true := by
  induction m with
  | nil => rfl
  | cons f t ih =>
    obtain ⟨j, w⟩ := f
    have hc := (srising_cons j w t).mp h
    rw [List.filter_cons]
    split
    · exact (srising_cons ..).mpr ⟨fun e he => hc.1 e (List.mem_filter.mp he).1, ih hc.2⟩
    · exact ih hc.2

/-! ## Memories -/

theorem wf_iff (m : Memory) : m.wf = true ↔ srising m = true ∧ ∀ c ∈ m, c.2 ≠ 0 := by
  unfold Memory.wf
  rw [Bool.and_eq_true, List.all_eq_true]
  simp only [decide_eq_true_iff]

theorem wf_empty : Memory.wf [] = true := rfl
theorem wf_filter (m : Memory) (p : Host.Cell → Bool) (h : m.wf = true) : Memory.wf (m.filter p) = true := by
  have h := (wf_iff m).mp h
  exact (wf_iff _).mpr ⟨srising_filter m p h.1, fun c hc => h.2 c (List.mem_filter.mp hc).1⟩
theorem wf_mset (m : Memory) (a : Nat) (v : Byte) (h : m.wf = true) : (mset m a v).wf = true := by
  unfold mset sset
  split
  · exact wf_filter m _ h
  · rename_i hv
    have h := (wf_iff m).mp h
    refine (wf_iff _).mpr ⟨srising_sput m a v h.1, fun c hc => ?_⟩
    rcases mem_sput m a v c hc with rfl | hc
    · exact hv
    · exact h.2 c hc
theorem wf_mwrite (m : Memory) (a : Nat) (bs : List Byte) (h : m.wf = true) : (mwrite m a bs).wf = true := by
  induction bs generalizing m a with
  | nil => exact h
  | cons v vs ih => exact ih _ _ (wf_mset m a v h)

/-- A byte written reads back. -/
@[simp] theorem mbyte_mset_self (m : Memory) (a : Nat) (v : Byte) : mbyte (mset m a v) a = v := by
  unfold mbyte mset sset
  split
  · rename_i h
    rw [sget, sfind_sdel_self, h]
    rfl
  · exact sget_sput_self ..
/-- Every other byte is as before. -/
theorem mbyte_mset_ne (m : Memory) {a b : Nat} (v : Byte) (h : a ≠ b) : mbyte (mset m a v) b = mbyte m b := by
  unfold mbyte mset sset
  split
  · rw [sget, sfind_sdel_ne m h]
    rfl
  · exact sget_sput_ne m 0 v h
/-- A byte outside the range written is as before. -/
theorem mbyte_mwrite_outside (m : Memory) (a : Nat) (bs : List Byte) (b : Nat) (h : b < a ∨ a + bs.length ≤ b) :
    mbyte (mwrite m a bs) b = mbyte m b := by
  induction bs generalizing m a with
  | nil => rfl
  | cons v vs ih =>
    rw [List.length_cons] at h
    rw [mwrite, ih _ _ (by omega), mbyte_mset_ne m v (by omega)]
/-- A byte of the range written is the one of the list. -/
theorem mbyte_mwrite_inside (m : Memory) (a : Nat) (bs : List Byte) (i : Nat) (h : i < bs.length) :
    mbyte (mwrite m a bs) (a + i) = bs[i] := by
  induction bs generalizing m a i with
  | nil => exact absurd h (Nat.not_lt_zero _)
  | cons v vs ih =>
    rw [mwrite]
    cases i with
    | zero => rw [Nat.add_zero, mbyte_mwrite_outside _ _ _ _ (by omega)]; exact mbyte_mset_self ..
    | succ i =>
      have e : a + (i + 1) = a + 1 + i := by omega
      rw [e, ih _ _ i (Nat.lt_of_succ_lt_succ h)]
      rfl
/-- Bytes written read back. -/
theorem mread_mwrite (m : Memory) (a : Nat) (bs : List Byte) : mread (mwrite m a bs) a bs.length = bs := by
  apply List.ext_getElem
  · simp [mread]
  · intro i h1 h2
    simp only [mread, List.getElem_map, List.getElem_range]
    exact mbyte_mwrite_inside m a bs i h2

/-! ## Tables of memories -/

theorem all_sput {α : Type} (m : Sparse α) (k : Nat) (v : α) (p : Nat × α → Bool) (hm : m.all p = true) (hv : p (k, v) = true) :
    (sput m k v).all p = true := by
  rw [List.all_eq_true] at hm ⊢
  intro e he
  rcases mem_sput m k v e he with rfl | he
  · exact hv
  · exact hm e he
theorem mem_sfind {α : Type} (m : Sparse α) (k : Nat) (v : α) (h : sfind m k = some v) : (k, v) ∈ m := by
  induction m with
  | nil => cases h
  | cons e t ih =>
    obtain ⟨j, w⟩ := e
    rw [sfind] at h
    split at h
    · rename_i hj
      cases h
      subst hj
      exact List.mem_cons_self ..
    · exact List.mem_cons_of_mem _ (ih h)
theorem all_sget {α : Type} (m : Sparse α) (d : α) (k : Nat) (p : α → Bool) (hm : m.all (fun e => p e.2) = true) (hd : p d = true) :
    p (sget m d k) = true := by
  unfold sget
  cases h : sfind m k with
  | none => exact hd
  | some v => exact List.all_eq_true.mp hm (k, v) (mem_sfind m k v h)

/-! ## The machine -/

theorem memOk_iff (s : State) : s.memOk = true ↔ s.pmem.wf = true ∧ s.hostMem.wf = true
    ∧ s.troops.all (fun t => t.2.memOk) = true ∧ s.ctls.all (fun c => c.2.sram.wf) = true
    ∧ s.past.all (fun p => p.2.spm.wf && p.2.tiles.wf) = true := by
  unfold State.memOk
  simp only [Bool.and_eq_true, and_assoc]
theorem memOk_reset : State.reset.memOk = true := rfl
theorem memOk_troop (s : State) (t : Nat) (h : s.memOk = true) : (s.troop t).memOk = true :=
  all_sget s.troops {} t Troop.memOk ((memOk_iff s).mp h).2.2.1 rfl
/-- An update of a troop that keeps its memories canonical keeps the machine's so. -/
theorem memOk_modTroop (s : State) (t : Nat) (f : Troop → Troop) (h : s.memOk = true)
    (hf : (s.troop t).memOk = true → (f (s.troop t)).memOk = true) : (s.modTroop t f).memOk = true := by
  have q := (memOk_iff s).mp h
  exact (memOk_iff _).mpr ⟨q.1, q.2.1, all_sput s.troops t _ _ q.2.2.1 (hf (memOk_troop s t h)), q.2.2.2⟩
/-- A change of tables that hold no memory. -/
theorem memOk_of_eq (s t : State) (h1 : t.pmem = s.pmem) (h2 : t.hostMem = s.hostMem) (h3 : t.troops = s.troops)
    (h4 : t.ctls = s.ctls) (h5 : t.past = s.past) : t.memOk = s.memOk := by
  unfold State.memOk
  rw [h1, h2, h3, h4, h5]

theorem memOk_errWriteAll (s : State) (sp : Option Nat) (a n : Nat) : (s.errWriteAll sp a n).memOk = s.memOk := by
  unfold State.errWriteAll
  split <;> rfl
theorem memOk_pset (s : State) (pa : Nat) (v : Byte) (h : s.memOk = true) : (s.pset pa v).memOk = true := by
  have q := (memOk_iff _).mp h
  have hw : ({ s with pmem := mset s.pmem pa v } : State).memOk = true :=
    (memOk_iff _).mpr ⟨wf_mset _ _ _ q.1, q.2⟩
  unfold State.pset
  dsimp only
  split
  · split
    · exact h
    · exact hw
  · split
    · exact hw
    · exact h
theorem memOk_psetFrom (s : State) (pa : Nat) (bs : List Byte) (h : s.memOk = true) : (s.psetFrom pa bs).memOk = true := by
  induction bs generalizing s pa with
  | nil => exact h
  | cons v vs ih => exact ih _ _ (memOk_pset s pa v h)
theorem memOk_psetAll (s : State) (pa : Nat) (bs : List Byte) (h : s.memOk = true) : (s.psetAll pa bs).memOk = true :=
  memOk_psetFrom _ _ _ (by rw [memOk_errWriteAll]; exact h)
theorem memOk_hostSet (s : State) (asid a : Nat) (bs : List Byte) (h : s.memOk = true) : (s.hostSet asid a bs).memOk = true := by
  induction bs generalizing s a with
  | nil => exact h
  | cons v vs ih =>
    have q := (memOk_iff s).mp h
    exact ih _ _ ((memOk_iff _).mpr ⟨q.1, wf_mset _ _ _ q.2.1, q.2.2⟩)
theorem memOk_chanTouch (s : State) (t a n : Nat) (h : s.memOk = true) : (s.chanTouch t a n).memOk = true := by
  unfold State.chanTouch
  split
  · exact h
  · exact memOk_modTroop s t _ h id
/-- A write to a scratchpad keeps every memory canonical. -/
theorem memOk_spmWrite (s : State) (t a : Nat) (bs : List Byte) (h : s.memOk = true) : (s.spmWrite t a bs).memOk = true := by
  unfold State.spmWrite
  apply memOk_chanTouch
  apply memOk_modTroop
  · rw [memOk_errWriteAll]; exact h
  · intro hq
    unfold Troop.memOk at hq ⊢
    rw [Bool.and_eq_true] at hq ⊢
    exact ⟨wf_mwrite _ _ _ hq.1, hq.2⟩
theorem memOk_foldl {α : Type} (f : State → α → State) (l : List α) (hf : ∀ s x, s.memOk = true → (f s x).memOk = true)
    (s : State) (h : s.memOk = true) : (l.foldl f s).memOk = true := by
  induction l generalizing s with
  | nil => exact h
  | cons x l ih => exact ih _ (hf s x h)
theorem memOk_dropLine (s : State) (l : Nat) (h : s.memOk = true) : (s.dropLine l).memOk = true := by
  have q := (memOk_iff s).mp h
  unfold State.dropLine
  dsimp only
  split
  · exact h
  · split
    · exact (memOk_iff _).mpr ⟨wf_mwrite _ _ _ q.1, q.2⟩
    · exact h
theorem memOk_fillLine (s : State) (l : Nat) (p : Bool) (h : s.memOk = true) : (s.fillLine l p).memOk = true := by
  have hh : (s.hbmAccess l).memOk = true := h
  unfold State.fillLine
  dsimp only
  split
  · exact hh
  · split
    · exact hh
    · split
      · exact memOk_dropLine _ _ hh
      · exact hh

end Sys2Proof.Machine
end

