-- ==== Sys2Proof/Laws/Ops.lean ====
section
/-! SUPPORT. Laws/Ops.lean: what each operation shared by the instructions does to the state. -/

namespace Sys2Proof.Machine

/-! ## Bits of a register mask -/

theorem getLsbD_setBit {w : Nat} (v : BitVec w) (i r : Nat) :
    (setBit v i).getLsbD r = (v.getLsbD r || (decide (r < w) && i == r)) := by
  unfold setBit
  rw [BitVec.getLsbD_or, BitVec.getLsbD_twoPow]
  by_cases h1 : i = r <;> by_cases h2 : r < w <;> simp [h1, h2]
theorem getLsbD_clrBit {w : Nat} (v : BitVec w) (i r : Nat) : (clrBit v i).getLsbD r = (v.getLsbD r && !(i == r)) := by
  unfold clrBit
  rw [BitVec.getLsbD_and, BitVec.getLsbD_not, BitVec.getLsbD_twoPow]
  by_cases h : r < w
  · by_cases h1 : i = r <;> simp [h, h1]
  · simp [BitVec.getLsbD_of_ge v r (Nat.le_of_not_lt h)]

/-! ## Issue -/

theorem find_none_of_all {c : Chk} (h : c.ops.all (·.1) = true) : c.ops.find? (fun o => !o.1) = none := by
  rw [List.find?_eq_none]
  intro o ho
  simp [List.all_eq_true.mp h o ho]
theorem leastBy_nil {α : Type} (key : α → Nat) : leastBy key ([] : List α) = none := rfl

/-- The parts of readiness. -/
theorem ready_iff (s : State) (f : Fr) (c : Chk) : s.ready f c = true ↔ s.guardOk f = true ∧ c.role = true
    ∧ c.ops.all (·.1) = true ∧ (∀ r ∈ c.srcs ++ c.dsts ++ c.names, s.regBad r = false)
    ∧ (∀ r ∈ c.srcs, s.myStrand.fill.getLsbD r = true) ∧ (∀ r ∈ c.srcs ++ c.dsts, s.myStrand.pend.getLsbD r = false)
    ∧ (∀ r ∈ c.srcs, s.myStrand.bad.getLsbD r = false) := by
  unfold State.ready
  simp only [Bool.and_eq_true, List.all_eq_true, Bool.not_eq_true', and_assoc]
/-- A ready instruction has its effect. -/
theorem issue_ready {s : State} {f : Fr} {c : Chk} (h : s.ready f c = true) (body : State → State) :
    s.issue f c body = body (s.readAcquire c.srcs) := by
  obtain ⟨h1, h2, h3, h4, h5, h6, h7⟩ := (ready_iff s f c).mp h
  have e1 : (c.srcs ++ c.dsts ++ c.names).filter s.regBad = [] := by
    rw [List.filter_eq_nil_iff]
    intro r hr
    simp [h4 r hr]
  have e2 : c.srcs.filter (fun r => !s.myStrand.fill.getLsbD r) = [] := by
    rw [List.filter_eq_nil_iff]
    intro r hr
    simp [h5 r hr]
  have e3 : (c.srcs ++ c.dsts).filter (fun r => s.myStrand.pend.getLsbD r) = [] := by
    rw [List.filter_eq_nil_iff]
    intro r hr
    simp [h6 r hr]
  have e4 : c.srcs.filter (fun r => s.myStrand.bad.getLsbD r) = [] := by
    rw [List.filter_eq_nil_iff]
    intro r hr
    simp [h7 r hr]
  unfold State.issue State.checked
  rw [if_pos h1, h2, find_none_of_all h3, e1, e2, e3, e4]
  rfl
/-- A test of an operand's value that holds leaves an instruction ready. -/
theorem withVal_ready {s : State} {f : Fr} {c : Chk} (h : s.ready f c = true) (rs : List Nat) (n : Nat) {ok : Bool} (hok : ok = true) :
    s.ready f (s.withVal c rs n ok) = true := by
  obtain ⟨h1, h2, h3, h4, h5, h6, h7⟩ := (ready_iff s f c).mp h
  refine (ready_iff s f _).mpr ⟨h1, h2, ?_, h4, h5, h6, h7⟩
  simp only [State.withVal, List.all_append, List.all_cons, List.all_nil, hok, Bool.or_true, Bool.and_true, Bool.and_eq_true,
    List.all_eq_true] at h3 ⊢
  exact ⟨fun o ho => h3 o ((List.mem_filter.mp ho).1), fun o ho => h3 o ((List.mem_filter.mp ho).1)⟩
/-- An instruction otherwise ready, with an operand whose value fails its test, takes ILLEGAL_OPERAND with its number. -/
theorem issue_withVal_false {s : State} {f : Fr} {c : Chk} (h : s.ready f c = true) {rs : List Nat} (hrs : ∀ r ∈ rs, r ∈ c.srcs)
    (n : Nat) {ok : Bool} (hok : ok = false) (body : State → State) :
    s.issue f (s.withVal c rs n ok) body = s.illegalOp f n := by
  obtain ⟨h1, h2, h3, h4, h5, h6, h7⟩ := (ready_iff s f c).mp h
  have hr : s.readable rs = true := by
    unfold State.readable
    rw [List.all_eq_true]
    intro r hr
    simp [h4 r (by simp [hrs r hr]), h5 r (hrs r hr), h6 r (by simp [hrs r hr]), h7 r (hrs r hr)]
  have hl : (c.ops.filter (fun o => decide (o.2 ≤ n))).find? (fun o => !o.1) = none := by
    rw [List.find?_eq_none]
    intro o ho
    simp [List.all_eq_true.mp h3 o ((List.mem_filter.mp ho).1)]
  unfold State.issue State.checked
  rw [if_pos h1]
  simp [State.withVal, h2, List.find?_append, hl, hr, hok]
theorem issueSimple_ready {s : State} {f : Fr} {c : Chk} (h : s.ready f c = true) (eff : State → State) :
    s.issueSimple f c eff = (eff (s.readAcquire c.srcs)).finish f.len := issue_ready h _
/-- A false guard only moves past the instruction. -/
theorem issue_guard_false {s : State} {f : Fr} (h : s.guardOk f = false) (c : Chk) (body : State → State) :
    s.issue f c body = s.finish f.len := by
  unfold State.issue
  rw [h]
  rfl

/-! ## Tracking an instruction's writes -/

/-- The writes so far, the strand otherwise as it was, and nothing else. -/
def Track (s t : State) (ws : List (Nat × Word)) (ps : List (PReg × Bool)) : Prop :=
  t.cur = s.cur ∧ RegFile s t ws ps
    ∧ { t.strand s.x with regs := s.myStrand.regs, fill := s.myStrand.fill, pend := s.myStrand.pend, putAcq := s.myStrand.putAcq,
                          preds := s.myStrand.preds, bad := s.myStrand.bad } = s.myStrand
    ∧ Elsewhere s t

theorem SameBytes.refl (s : State) : SameBytes s s := ⟨fun _ => rfl, fun _ => rfl, fun _ _ => rfl, fun _ _ => rfl, fun _ _ => rfl⟩
theorem SameBytes.of_eq {s t : State} (h : { t with strands := s.strands, crews := s.crews, units := s.units, cores := s.cores } = s) :
    SameBytes s t := by
  refine h ▸ ?_
  exact ⟨fun _ => rfl, fun _ => rfl, fun _ _ => rfl, fun _ _ => rfl, fun _ _ => rfl⟩
theorem Elsewhere.refl (s : State) : Elsewhere s s :=
  ⟨fun _ _ => rfl, fun _ => rfl, fun _ _ => rfl, fun _ => rfl, fun _ => rfl, rfl, SameBytes.refl s⟩
theorem Track.refl (s : State) : Track s s [] [] := by
  refine ⟨rfl, ⟨fun _ => rfl, fun r => ?_, fun r => ?_, fun r => ?_, fun _ => rfl⟩, rfl, Elsewhere.refl s⟩
  · simp; rfl
  · simp; rfl
  · simp; rfl

theorem regAfter_append (ws : List (Nat × Word)) (r0 : Nat) (v : Word) (old : Nat → Word) (r : Nat) :
    regAfter (ws ++ [(r0, v)]) old r = if r = r0 then v else regAfter ws old r := by
  induction ws generalizing old with
  | nil => rfl
  | cons w ws ih => exact ih _
theorem predAfter_append (ps : List (PReg × Bool)) (p0 : PReg) (v : Bool) (old : PReg → Bool) (p : PReg) :
    predAfter (ps ++ [(p0, v)]) old p = if p = p0 ∧ p0 ≠ 7 then v else predAfter ps old p := by
  induction ps generalizing old with
  | nil => rfl
  | cons w ps ih => exact ih _

/-! ## Reading a table entry back by its modifier -/

theorem strand_modStrand (s : State) (k j : Nat) (f : Strand → Strand) :
    (s.modStrand k f).strand j = if j = k then f (s.strand k) else s.strand j := by
  split
  · rename_i h; subst h; exact sget_sput_self ..
  · rename_i h; exact sget_sput_ne _ _ _ (fun e => h e.symm)
theorem crew_modCrew (s : State) (k j : Nat) (f : Crew → Crew) :
    (s.modCrew k f).crew j = if j = k then f (s.crew k) else s.crew j := by
  split
  · rename_i h; subst h; exact sget_sput_self ..
  · rename_i h; exact sget_sput_ne _ _ _ (fun e => h e.symm)
theorem core_modCore (s : State) (k j : Nat) (f : Core → Core) :
    (s.modCore k f).core j = if j = k then f (s.core k) else s.core j := by
  split
  · rename_i h; subst h; exact sget_sput_self ..
  · rename_i h; exact sget_sput_ne _ _ _ (fun e => h e.symm)
theorem unit_modUnit (s : State) (k j : Nat) (f : IssueUnit → IssueUnit) :
    (s.modUnit k f).unit j = if j = k then f (s.unit k) else s.unit j := by
  split
  · rename_i h; subst h; exact sget_sput_self ..
  · rename_i h; exact sget_sput_ne _ _ _ (fun e => h e.symm)
theorem troop_modTroop (s : State) (k j : Nat) (f : Troop → Troop) :
    (s.modTroop k f).troop j = if j = k then f (s.troop k) else s.troop j := by
  split
  · rename_i h; subst h; exact sget_sput_self ..
  · rename_i h; exact sget_sput_ne _ _ _ (fun e => h e.symm)
theorem sget_sset {α : Type} [DecidableEq α] (m : Sparse α) (d : α) (k j : Nat) (v : α) :
    sget (sset m d k v) d j = if j = k then v else sget m d j := by
  unfold sset
  split
  · rename_i hv
    split
    · rename_i h
      subst h
      rw [sget, sfind_sdel_self, hv]
      rfl
    · rename_i h
      rw [sget, sfind_sdel_ne m (fun e => h e.symm)]
      rfl
  · split
    · rename_i h; subst h; exact sget_sput_self ..
    · rename_i h; exact sget_sput_ne _ _ _ (fun e => h e.symm)

/-! ## Updates that leave the rest of the machine alone -/

theorem Elsewhere.strand {s t : State} (h : Elsewhere s t) (g : Strand → Strand) : Elsewhere s (t.modStrand s.x g) := by
  obtain ⟨h1, h2, h3, h4, h5, h6, h7⟩ := h
  refine ⟨fun y hy => ?_, h2, h3, h4, h5, h6, h7⟩
  rw [strand_modStrand, if_neg hy]
  exact h1 y hy
theorem Elsewhere.crew {s t : State} (h : Elsewhere s t) (g : Crew → Crew)
    (hg : ∀ v, { g v with retired := v.retired, counted := v.counted } = v) : Elsewhere s (t.modCrew (crewOf s.x) g) := by
  obtain ⟨h1, h2, h3, h4, h5, h6, h7⟩ := h
  refine ⟨h1, fun c => ?_, fun c hc => ?_, h4, h5, h6, h7⟩
  · rw [crew_modCrew]
    split
    · rename_i e
      subst e
      have a := h2 (crewOf s.x)
      have b := hg (t.crew (crewOf s.x))
      generalize g (t.crew (crewOf s.x)) = q at b ⊢
      rw [← b] at a
      exact a
    · exact h2 c
  · rw [crew_modCrew, if_neg hc]
    exact h3 c hc
theorem Elsewhere.unit {s t : State} (h : Elsewhere s t) (u : Nat) (g : IssueUnit → IssueUnit)
    (hg : ∀ v, { g v with stampCtr := v.stampCtr } = v) : Elsewhere s (t.modUnit u g) := by
  obtain ⟨h1, h2, h3, h4, h5, h6, h7⟩ := h
  refine ⟨h1, h2, h3, fun c => ?_, h5, h6, h7⟩
  rw [unit_modUnit]
  split
  · rename_i e
    subst e
    have a := h4 c
    have b := hg (t.unit c)
    generalize g (t.unit c) = q at b ⊢
    rw [← b] at a
    exact a
  · exact h4 c
theorem Elsewhere.core {s t : State} (h : Elsewhere s t) (k : Nat) (g : Core → Core)
    (hg : ∀ v, { g v with l1 := v.l1, reqs := v.reqs, bins := v.bins } = v) : Elsewhere s (t.modCore k g) := by
  obtain ⟨h1, h2, h3, h4, h5, h6, h7⟩ := h
  refine ⟨h1, h2, h3, h4, fun c => ?_, h6, h7⟩
  rw [core_modCore]
  split
  · rename_i e
    subst e
    have a := h5 c
    have b := hg (t.core c)
    generalize g (t.core c) = q at b ⊢
    rw [← b] at a
    exact a
  · exact h5 c

/-! ## Writes -/

theorem Track.x {s t : State} {ws ps} (h : Track s t ws ps) : t.x = s.x := by
  show t.cur.strand = s.cur.strand
  rw [h.1]
theorem Track.wr {s t : State} {ws ps} (h : Track s t ws ps) (r : Nat) (v : Word) : Track s (t.wr r v) (ws ++ [(r, v)]) ps := by
  have hx := h.x
  obtain ⟨hc, ⟨r1, r2, r3, r5, r4⟩, hm, he⟩ := h
  have hs : (t.wr r v).strand s.x = (t.strand s.x).wr r v := by
    show (t.modStrand t.x _).strand s.x = _
    rw [hx, strand_modStrand, if_pos rfl]
  refine ⟨hc, ⟨fun q => ?_, fun q => ?_, fun q => ?_, fun q => ?_, fun p => ?_⟩, ?_, ?_⟩
  · rw [regAfter_append, ← r1 q]
    show sget ((t.wr r v).strand s.x).regs 0 q = _
    rw [hs]
    exact sget_sset ..
  · rw [hs]
    show (setBit (t.strand s.x).fill r).getLsbD q = _
    rw [getLsbD_setBit, r2 q, List.any_append]
    simp only [List.any_cons, List.any_nil, Bool.or_false]
    cases s.myStrand.fill.getLsbD q <;> cases ws.any (fun w => w.1 == q) <;> cases decide (q < 128) <;> rfl
  · rw [hs]
    show (clrBit (t.strand s.x).pend r).getLsbD q = _
    rw [getLsbD_clrBit, r3 q, List.any_append]
    simp only [List.any_cons, List.any_nil, Bool.or_false]
    cases s.myStrand.pend.getLsbD q <;> cases ws.any (fun w => w.1 == q) <;> cases (r == q) <;> rfl
  · rw [hs]
    show (clrBit (t.strand s.x).bad r).getLsbD q = _
    rw [getLsbD_clrBit, r5 q, List.any_append]
    simp only [List.any_cons, List.any_nil, Bool.or_false]
    cases s.myStrand.bad.getLsbD q <;> cases ws.any (fun w => w.1 == q) <;> cases (r == q) <;> rfl
  · rw [hs]
    exact r4 p
  · rw [hs]
    exact hm
  · show Elsewhere s (t.modStrand t.x _)
    rw [hx]
    exact he.strand _
theorem prd_wrP (t : Strand) (p q : PReg) (v : Bool) :
    (t.wrP p.toNat v).prd q.toNat = if q = p ∧ p ≠ 7 then v else t.prd q.toNat := by
  by_cases hp : p.toNat < 7
  · have hp7 : p ≠ 7 := by rintro rfl; exact absurd hp (by decide)
    have hw : t.wrP p.toNat v = { t with preds := putBit t.preds p.toNat v } := if_pos hp
    rw [hw]
    unfold Strand.prd
    by_cases hq : q = p
    · subst hq
      rw [if_pos hp, if_pos (And.intro rfl hp7)]
      cases v
      · exact (getLsbD_clrBit ..).trans (by rw [beq_self_eq_true, Bool.not_true, Bool.and_false])
      · exact (getLsbD_setBit ..).trans (by rw [beq_self_eq_true, decide_eq_true hp, Bool.and_true, Bool.or_true])
    · rw [if_neg (fun h : q = p ∧ p ≠ 7 => hq h.1)]
      have hne : (p.toNat == q.toNat) = false := by
        rw [beq_eq_false_iff_ne]
        exact fun e => hq (BitVec.eq_of_toNat_eq e).symm
      by_cases h7 : q.toNat < 7
      · rw [if_pos h7, if_pos h7]
        cases v
        · exact (getLsbD_clrBit ..).trans (by rw [hne, Bool.not_false, Bool.and_true])
        · exact (getLsbD_setBit ..).trans (by rw [hne, Bool.and_false, Bool.or_false])
      · rw [if_neg h7, if_neg h7]
  · have hp7 : p = 7 := BitVec.eq_of_toNat_eq (by have := p.isLt; show p.toNat = 7; omega)
    have hw : t.wrP p.toNat v = t := if_neg hp
    rw [hw, if_neg (fun h : q = p ∧ p ≠ 7 => h.2 hp7)]
theorem wrP_rest (t : Strand) (p : Nat) (v : Bool) : ∃ b, t.wrP p v = { t with preds := b } := by
  unfold Strand.wrP
  split
  · exact ⟨_, rfl⟩
  · exact ⟨t.preds, rfl⟩
theorem Track.wrP {s t : State} {ws ps} (h : Track s t ws ps) (p : PReg) (v : Bool) : Track s (t.wrP p v) ws (ps ++ [(p, v)]) := by
  have hx := h.x
  obtain ⟨hc, ⟨r1, r2, r3, r5, r4⟩, hm, he⟩ := h
  have hs : (t.wrP p v).strand s.x = (t.strand s.x).wrP p.toNat v := by
    show (t.modStrand t.x _).strand s.x = _
    rw [hx, strand_modStrand, if_pos rfl]
  have h4 : ∀ q : PReg, ((t.wrP p v).strand s.x).prd q.toNat = predAfter (ps ++ [(p, v)]) (fun q => s.myStrand.prd q.toNat) q := by
    intro q
    rw [hs, prd_wrP, predAfter_append, r4 q]
  obtain ⟨b, hb⟩ := wrP_rest (t.strand s.x) p.toNat v
  rw [hb] at hs
  refine ⟨hc, ⟨fun q => ?_, fun q => ?_, fun q => ?_, fun q => ?_, h4⟩, ?_, ?_⟩
  · rw [← r1 q]
    show sget ((t.wrP p v).strand s.x).regs 0 q = sget (t.strand s.x).regs 0 q
    rw [hs]
  · rw [hs]
    exact r2 q
  · rw [hs]
    exact r3 q
  · rw [hs]
    exact r5 q
  · rw [hs]
    exact hm
  · show Elsewhere s (t.modStrand t.x _)
    rw [hx]
    exact he.strand _
theorem Track.wr64 {s t : State} {ws ps} (h : Track s t ws ps) (r : Nat) (v : Dword) :
    Track s (t.wr64 r v) (ws ++ [(r, v.extractLsb' 0 32), (r + 1, v.extractLsb' 32 32)]) ps := by
  have := (h.wr r (v.extractLsb' 0 32)).wr (r + 1) (v.extractLsb' 32 32)
  rwa [List.append_assoc] at this
/-- Reading registers changes at most marks of the strand and lines of its core's L1. -/
theorem Track.readAcquire (s : State) (rs : List Nat) : Track s (s.readAcquire rs) [] [] := by
  have h := Track.refl s
  unfold State.readAcquire
  split
  · obtain ⟨hc, ⟨r1, r2, r3, r5, r4⟩, hm, he⟩ := h
    have hs : ((s.modMe (fun t => { t with putAcq := rs.foldl clrBit t.putAcq })).invL1 (coreOf s.x)).strand s.x
        = { s.myStrand with putAcq := rs.foldl clrBit s.myStrand.putAcq } := by
      exact (strand_modStrand s s.x s.x (fun t => { t with putAcq := rs.foldl clrBit t.putAcq })).trans (if_pos rfl)
    refine ⟨hc, ⟨fun q => ?_, fun q => ?_, fun q => ?_, fun q => ?_, fun q => ?_⟩, ?_, ?_⟩
    · show sget (State.strand _ s.x).regs 0 q = _
      rw [hs]; rfl
    · rw [hs]; exact r2 q
    · rw [hs]; exact r3 q
    · rw [hs]; exact r5 q
    · rw [hs]; rfl
    · rw [hs]
    · exact (he.strand _).core _ _ (fun _ => rfl)
  · exact h
/-- A strand reads its registers as before. -/
theorem Track.rd {s t : State} {ps} (h : Track s t [] ps) (r : Nat) : t.rd r = s.rd r := by
  show t.rdX t.x r = s.rdX s.x r
  rw [h.x]
  exact h.2.1.1 r

/-! ## Done -/

theorem advance_strand (s : State) (f : Fr) : ∃ q, (s.advance f.len).strand s.x
    = { s.myStrand with refused := none, latch := none, xl := [], pc := (s.nextPc f).1, step := (s.nextPc f).2, fetched := q } := by
  have h0 : (s.modMe (fun t => { t with refused := none, latch := none, xl := [] })).strand s.x
      = { s.myStrand with refused := none, latch := none, xl := [] } :=
    (strand_modStrand s s.x s.x (fun t => { t with refused := none, latch := none, xl := [] })).trans (if_pos rfl)
  have hx (g : Strand → Strand) : ((s.modMe (fun t => { t with refused := none, latch := none, xl := [] })).modMe g).strand s.x
      = g { s.myStrand with refused := none, latch := none, xl := [] } := by
    refine ((strand_modStrand _ s.x s.x g).trans (if_pos rfl)).trans ?_
    rw [h0]
  unfold State.advance State.nextPc
  dsimp only
  show ∃ q, State.strand (match s.cur.mop with
    | none => _
    | some m => _) s.x = _
  cases s.cur.mop with
  | none => exact ⟨_, hx _⟩
  | some m =>
    dsimp only
    have e : (s.modMe (fun t => { t with refused := none, latch := none, xl := [] })).myStrand.step = s.myStrand.step := by
      show (State.strand _ s.x).step = _
      rw [h0]
    rw [e]
    split
    · exact ⟨_, hx _⟩
    · exact ⟨_, hx _⟩
theorem Elsewhere.advance {s t : State} (h : Elsewhere s t) (hc : t.cur = s.cur) (len : BitVec 2) : Elsewhere s (t.advance len) := by
  have hx : t.x = s.x := congrArg Cur.strand hc
  have h0 : Elsewhere s (t.modMe (fun v => { v with refused := none, latch := none, xl := [] })) := by
    show Elsewhere s (t.modStrand t.x _)
    rw [hx]
    exact h.strand _
  have h1 (g : Strand → Strand) : Elsewhere s ((t.modMe (fun v => { v with refused := none, latch := none, xl := [] })).modMe g) := by
    show Elsewhere s (State.modStrand _ t.x g)
    rw [hx]
    exact h0.strand g
  unfold State.advance
  dsimp only
  split
  · exact h1 _
  · split
    · exact h1 _
    · exact h1 _
theorem advance_cur (s : State) (len : BitVec 2) : (s.advance len).cur = s.cur := by
  unfold State.advance
  dsimp only
  split
  · rfl
  · split <;> rfl

theorem countRetired_cur (s : State) (c : Nat) : (s.countRetired c).cur = s.cur := by
  unfold State.countRetired
  dsimp only
  split
  · unfold State.tickBins
    split <;> rfl
  · rfl
theorem countRetired_strands (s : State) (c : Nat) : (s.countRetired c).strands = s.strands := by
  unfold State.countRetired
  dsimp only
  split
  · unfold State.tickBins
    split <;> rfl
  · rfl
theorem Elsewhere.countRetired {s t : State} (h : Elsewhere s t) : Elsewhere s (t.countRetired (crewOf s.x)) := by
  have h1 := h.crew (fun v => { v with retired := v.retired + 1 }) (fun _ => rfl)
  unfold State.countRetired
  dsimp only
  split
  · unfold State.tickBins
    split
    · exact h1
    · exact h1.core _ _ (fun _ => rfl)
  · exact h1
theorem retire_cur (s : State) : s.retire.cur = s.cur := by
  unfold State.retire
  dsimp only
  split
  · exact countRetired_cur ..
  · split
    · rfl
    · exact countRetired_cur ..
/-- Retiring takes the strand from its team. -/
theorem retire_strand (s : State) : s.retire.strand s.x = { s.myStrand with team := none } := by
  have h0 : (s.modMe (fun t => { t with team := none })).strand s.x = { s.myStrand with team := none } :=
    (strand_modStrand s s.x s.x (fun t => { t with team := none })).trans (if_pos rfl)
  unfold State.retire
  dsimp only
  split
  · rename_i h
    show sget (State.strands _) {} s.x = _
    rw [countRetired_strands]
    show s.myStrand = _
    exact (congrArg (fun q => { s.myStrand with team := q }) h).symm ▸ rfl
  · split
    · exact h0
    · show sget (State.strands (State.countRetired _ _)) {} s.x = _
      rw [countRetired_strands]
      exact h0
theorem Elsewhere.retire {s t : State} (h : Elsewhere s t) (hc : t.cur = s.cur) : Elsewhere s t.retire := by
  have hx : t.x = s.x := congrArg Cur.strand hc
  have h0 : Elsewhere s (t.modMe (fun v => { v with team := none })) := by
    show Elsewhere s (t.modStrand t.x _)
    rw [hx]
    exact h.strand _
  unfold State.retire
  dsimp only
  rw [hx]
  split
  · exact h.countRetired
  · split
    · exact h0.crew _ (fun _ => rfl)
    · exact h0.countRetired.crew _ (fun _ => rfl)
theorem toEligible_strand (s : State) (x : Nat) :
    (s.toEligible x).strand x = { s.strand x with life := .eligible, stamp := (s.unit (s.unitOfCrew (crewOf x))).stampCtr, wait := .none } :=
  (strand_modStrand s x x (fun t => { t with life := .eligible, stamp := (s.unit (s.unitOfCrew (crewOf x))).stampCtr, wait := .none })).trans
    (if_pos rfl)
theorem Elsewhere.toEligible {s t : State} (h : Elsewhere s t) : Elsewhere s (t.toEligible s.x) :=
  (h.strand _).unit _ _ (fun _ => rfl)
theorem finish_strand (s : State) (f : Fr) : ∃ n q, (s.finish f.len).strand s.x
    = { s.myStrand with refused := none, latch := none, xl := [], pc := (s.nextPc f).1, step := (s.nextPc f).2, team := none,
                        fetched := q, life := .eligible, stamp := n, wait := .none } := by
  have hx : (s.advance f.len).x = s.x := congrArg Cur.strand (advance_cur s f.len)
  have h1 := retire_strand (s.advance f.len)
  rw [hx] at h1
  obtain ⟨q, hq⟩ := advance_strand s f
  have h2 : (s.advance f.len).myStrand = _ := (congrArg (s.advance f.len).strand hx).trans hq
  rw [h2] at h1
  have h3 := toEligible_strand (s.advance f.len).retire s.x
  rw [h1] at h3
  rw [hx] at *
  exact ⟨_, q, (congrArg (fun y => (State.toEligible (s.advance f.len).retire y).strand s.x) hx.symm ▸ h3)⟩
/-- The writes made, `finish` moves the strand on and changes nothing else. -/
theorem Track.finish {s t : State} {ws ps} (h : Track s t ws ps) (f : Fr) : Wrote s (t.finish f.len) f ws ps := by
  have hx := h.x
  obtain ⟨hc, ⟨r1, r2, r3, r5, r4⟩, hm, he⟩ := h
  obtain ⟨n, _, hn⟩ := finish_strand t f
  have hmy : t.myStrand = t.strand s.x := congrArg t.strand hx
  rw [hx, hmy] at hn
  have hpc : t.nextPc f = s.nextPc f := by
    have a : (t.strand s.x).pc = s.myStrand.pc := by have q := congrArg Strand.pc hm; exact q
    have b : (t.strand s.x).step = s.myStrand.step := by have q := congrArg Strand.step hm; exact q
    unfold State.nextPc
    rw [hc, hmy, a, b]
  refine ⟨⟨fun q => ?_, fun q => ?_, fun q => ?_, fun q => ?_, fun p => ?_⟩, ?_, ?_, ?_⟩
  · rw [← r1 q]
    show sget ((t.finish f.len).strand s.x).regs 0 q = sget (t.strand s.x).regs 0 q
    rw [hn]
  · rw [hn]; exact r2 q
  · rw [hn]; exact r3 q
  · rw [hn]; exact r5 q
  · rw [hn]; exact r4 p
  · rw [hn, ← hpc]
  · rw [hn]
    have q := congrArg (fun (w : Strand) => ({ w with stamp := s.myStrand.stamp, team := s.myStrand.team, pc := s.myStrand.pc,
                                                      step := s.myStrand.step, life := .eligible, wait := .none, refused := none,
                                                      latch := none, xl := [], fetched := s.myStrand.fetched, bad := s.myStrand.bad } : Strand)) hm
    exact q
  · show Elsewhere s (State.toEligible _ t.x)
    rw [hx]
    exact ((he.advance hc f.len).retire ((advance_cur t f.len).trans hc)).toEligible
/-- Nothing written: what a false guard, or an instruction without a result, leaves. -/
theorem finish_wrote (s : State) (f : Fr) : Wrote s (s.finish f.len) f [] [] := (Track.refl s).finish f

/-! ## Instructions that write registers and predicates -/

theorem Track.rd64 {s t : State} {ps} (h : Track s t [] ps) (r : Nat) : t.rd64 r = s.rd64 r := by
  unfold State.rd64
  rw [h.rd, h.rd]
theorem Track.bsrc {s t : State} {ps} (h : Track s t [] ps) (b : BSrc) : t.bsrc b = s.bsrc b := by
  cases b with
  | reg r => exact h.rd _
  | lit v => rfl
theorem Track.bsrc64 {s t : State} {ps} (h : Track s t [] ps) (b : BSrc) : t.bsrc64 b = s.bsrc64 b := by
  cases b with
  | reg r => exact h.rd64 _
  | lit v => rfl
theorem Track.xsrc {s t : State} {ps} (h : Track s t [] ps) (b : XSrc) : t.xsrc b = s.xsrc b := by
  cases b with
  | reg r => exact h.rd _
  | imm v => rfl
  | lit v => rfl
theorem Track.xsrc64 {s t : State} {ps} (h : Track s t [] ps) (b : XSrc) : t.xsrc64 b = s.xsrc64 b := by
  cases b with
  | reg r => exact h.rd64 _
  | imm v => rfl
  | lit v => rfl
theorem Track.xsrcExt {s t : State} {ps} (h : Track s t [] ps) (z : Bool) (b : XSrc) : t.xsrcExt z b = s.xsrcExt z b := by
  cases b with
  | reg r => simp only [State.xsrcExt, h.rd]
  | imm v => rfl
  | lit v => rfl
theorem Track.rsrc {s t : State} {ps} (h : Track s t [] ps) (b : RSrc) : t.rsrc b = s.rsrc b := by
  cases b with
  | reg r => exact h.rd _
  | imm v => rfl
theorem Track.pr {s t : State} {ws} (h : Track s t ws []) (p : PReg) : t.pr p = s.pr p := by
  show (t.strand t.x).prd p.toNat = _
  rw [h.x]
  exact h.2.1.2.2.2.2 p
/-- A ready instruction of one effect writes what its effect writes. -/
theorem computes_of {i : Instr} {s : State} {f : Fr} {c : Chk} {eff : State → State} {ws ps}
    (hx : exec i s = .next (s.issueSimple f c eff)) (hr : s.ready f c = true)
    (ht : Track s (s.readAcquire c.srcs) [] [] → Track s (eff (s.readAcquire c.srcs)) ws ps) : Computes i s f ws ps :=
  ⟨_, hx.trans (congrArg _ (issueSimple_ready hr eff)), (ht (Track.readAcquire s c.srcs)).finish f⟩
/-- One register written. -/
theorem computes_wr {i : Instr} {s : State} {f : Fr} {c : Chk} {d : Nat} {v : State → Word}
    (hx : exec i s = .next (s.issueSimple f c (fun s => s.wr d (v s)))) (hr : s.ready f c = true)
    (hv : ∀ t, Track s t [] [] → v t = v s) : Computes i s f [(d, v s)] [] :=
  computes_of hx hr (fun h => hv _ h ▸ h.wr d (v _))
/-- A pair written. -/
theorem computes_wr64 {i : Instr} {s : State} {f : Fr} {c : Chk} {d : Nat} {v : State → Dword}
    (hx : exec i s = .next (s.issueSimple f c (fun s => s.wr64 d (v s)))) (hr : s.ready f c = true)
    (hv : ∀ t, Track s t [] [] → v t = v s) :
    Computes i s f [(d, (v s).extractLsb' 0 32), (d + 1, (v s).extractLsb' 32 32)] [] :=
  computes_of hx hr (fun h => hv _ h ▸ h.wr64 d (v _))
/-- One predicate written. -/
theorem computes_wrP {i : Instr} {s : State} {f : Fr} {c : Chk} {p : PReg} {v : State → Bool}
    (hx : exec i s = .next (s.issueSimple f c (fun s => s.wrP p (v s)))) (hr : s.ready f c = true)
    (hv : ∀ t, Track s t [] [] → v t = v s) : Computes i s f [] [(p, v s)] :=
  computes_of hx hr (fun h => hv _ h ▸ h.wrP p (v _))
theorem computes_aluBR {i : Instr} {s : State} {g : Guard} {d a : Reg} {b : BSrc} {op : Word → Word → Word}
    (hx : exec i s = aluBR g d a b op s) (hr : s.ready (baseFr g (bsrcLit b)) (chkBR d a b) = true) :
    Computes i s (baseFr g (bsrcLit b)) [(d.toNat, op (s.rd a.toNat) (s.bsrc b))] [] :=
  computes_wr (v := fun s => op (s.rd a.toNat) (s.bsrc b)) hx hr (fun t h => by rw [h.rd, h.bsrc])
theorem computes_aluBRd {i : Instr} {s : State} {g : Guard} {d a : Reg} {b : BSrc} {op : Word → Word → Word → Word}
    (hx : exec i s = aluBRd g d a b op s) (hr : s.ready (baseFr g (bsrcLit b)) (chkBRd d a b) = true) :
    Computes i s (baseFr g (bsrcLit b)) [(d.toNat, op (s.rd a.toNat) (s.bsrc b) (s.rd d.toNat))] [] :=
  computes_wr (v := fun s => op (s.rd a.toNat) (s.bsrc b) (s.rd d.toNat)) hx hr (fun t h => by rw [h.rd, h.bsrc, h.rd])
theorem computes_aluBI {i : Instr} {s : State} {g : Guard} {d a : Reg} {n : BImm} {op : Word → Word → Word}
    (hx : exec i s = aluBI g d a n op s) (hr : s.ready (baseFr g (bimmLit n)) (chkBI d a n) = true) :
    Computes i s (baseFr g (bimmLit n)) [(d.toNat, op (s.rd a.toNat) (bimmVal n))] [] :=
  computes_wr (v := fun s => op (s.rd a.toNat) (bimmVal n)) hx hr (fun t h => by rw [h.rd])
theorem computes_aluShI {i : Instr} {s : State} {g : Guard} {d a : Reg} {n : BImm} {op : Word → Nat → Word}
    (hx : exec i s = aluShI g d a n op s) (hr : s.ready (baseFr g (bimmLit n)) (chkSh d a n) = true) :
    Computes i s (baseFr g (bimmLit n)) [(d.toNat, op (s.rd a.toNat) (shiftImm n))] [] :=
  computes_wr (v := fun s => op (s.rd a.toNat) (shiftImm n)) hx hr (fun t h => by rw [h.rd])
theorem computes_aluUn {i : Instr} {s : State} {g : Guard} {d a : Reg} {op : Word → Word}
    (hx : exec i s = aluUn g d a op s) (hr : s.ready (baseFr g false) (chkUn d a) = true) :
    Computes i s (baseFr g false) [(d.toNat, op (s.rd a.toNat))] [] :=
  computes_wr (v := fun s => op (s.rd a.toNat)) hx hr (fun t h => by rw [h.rd])
theorem computes_aluXR {i : Instr} {s : State} {x : XG} {d a : Reg} {b : XSrc} {op : Word → Word → Word}
    (hx : exec i s = aluXR x d a b op s) (hr : s.ready (extFr x (xsrcLit b)) (chkXR d a b) = true) :
    Computes i s (extFr x (xsrcLit b)) [(d.toNat, op (s.rd a.toNat) (s.xsrc b))] [] :=
  computes_wr (v := fun s => op (s.rd a.toNat) (s.xsrc b)) hx hr (fun t h => by rw [h.rd, h.xsrc])
theorem computes_aluXRe {i : Instr} {s : State} {x : XG} {d a e : Reg} {b : XSrc} {op : Word → Word → Word → Word}
    (hx : exec i s = aluXRe x d a b e op s) (hr : s.ready (extFr x (xsrcLit b)) (chkXRe d a b e) = true) :
    Computes i s (extFr x (xsrcLit b)) [(d.toNat, op (s.rd a.toNat) (s.xsrc b) (s.rd e.toNat))] [] :=
  computes_wr (v := fun s => op (s.rd a.toNat) (s.xsrc b) (s.rd e.toNat)) hx hr (fun t h => by rw [h.rd, h.xsrc, h.rd])
theorem computes_aluXUn {i : Instr} {s : State} {x : XG} {d a : Reg} {op : Word → Word}
    (hx : exec i s = aluXUn x d a op s) (hr : s.ready (extFr x false) (chkUn d a) = true) :
    Computes i s (extFr x false) [(d.toNat, op (s.rd a.toNat))] [] :=
  computes_wr (v := fun s => op (s.rd a.toNat)) hx hr (fun t h => by rw [h.rd])

/-- A meaning that is `issue` answers its body where it is ready. -/
theorem answers_of {i : Instr} {s : State} {f : Fr} {c : Chk} {body : State → State}
    (hx : exec i s = .next (s.issue f c body)) : Answers i s f c body := fun hr => hx.trans (congrArg _ (issue_ready hr body))
/-- A meaning that is `issueSimple` has its effect where it is ready. -/
theorem does_of {i : Instr} {s : State} {f : Fr} {c : Chk} {eff : State → State}
    (hx : exec i s = .next (s.issueSimple f c eff)) : Does i s f c eff := fun hr => hx.trans (congrArg _ (issueSimple_ready hr eff))

end Sys2Proof.Machine
end

