-- ==== Sys2Proof/Laws/Bits.lean ====
section
/-! SUPPORT. Bits.lean: fields put together and taken apart again. -/

namespace Sys2Proof.Laws.Bits

theorem take_low {n m : Nat} (a : BitVec n) (b : BitVec m) : (a ++ b).extractLsb' 0 m = b := by
  ext i hi
  simp [BitVec.getLsbD_append, hi]
theorem take_high {n m : Nat} (a : BitVec n) (b : BitVec m) : (a ++ b).extractLsb' m n = a := by
  ext i hi
  have h : m + i < n + m := by omega
  simp [BitVec.getLsbD_append, hi]
theorem take_above {n m : Nat} (a : BitVec n) (b : BitVec m) (k w : Nat) :
    (a ++ b).extractLsb' (m + k) w = a.extractLsb' k w := by
  ext i hi
  simp [BitVec.getLsbD_append, Nat.add_assoc]
theorem take_below {n m : Nat} (a : BitVec n) (b : BitVec m) (k w : Nat) (h : k + w ≤ m) :
    (a ++ b).extractLsb' k w = b.extractLsb' k w := by
  ext i hi
  have h : k + i < m := by omega
  simp [BitVec.getLsbD_append, h]
theorem take_mid {n m k : Nat} (a : BitVec n) (b : BitVec m) (c : BitVec k) : (a ++ b ++ c).extractLsb' k m = b := by
  have h := take_above (a ++ b) c 0 m
  rw [Nat.add_zero] at h
  rw [h, take_low]
theorem take_wide {k m : Nat} (v : BitVec k) (h : k ≤ m) : (v.setWidth m).extractLsb' 0 k = v := by
  ext i hi
  have h2 : i < m := by omega
  simp [h2, hi]
theorem take_wide_at {k m : Nat} (v : BitVec k) (j w : Nat) (h : j + w ≤ m) :
    (v.setWidth m).extractLsb' j w = v.extractLsb' j w := by
  ext i hi
  have h2 : j + i < m := by omega
  simp [h2]
/-- Two halves make the whole. -/
theorem join {n m : Nat} (v : BitVec (n + m)) : v.extractLsb' m n ++ v.extractLsb' 0 m = v := by
  ext i hi
  simp only [BitVec.getElem_append, BitVec.getElem_extractLsb']
  split
  · simp [BitVec.getLsbD_eq_getElem, hi]
  · rename_i h
    have h3 : m + (i - m) = i := by omega
    simp [h3, BitVec.getLsbD_eq_getElem, hi]

end Sys2Proof.Laws.Bits
end

