-- ==== Sys2Proof/Laws/PerInstr.lean ====
section
/-! SUPPORT. PerInstr.lean: of each instruction, that reading the fields it writes gives it back (R64-R80). An event
row writes no fields. -/

namespace Sys2Proof.Laws

/-- The fields of a well-formed instruction name that instruction. -/
def RoundTrip.Statement (i : Instr) : Prop :=
  ∀ f, wellFormed i = true → encodeFields i = some f → decodeFields f = .ok i

theorem of_read {i : Instr} {f : Fields} (he : encodeFields i = some f)
    (hm : (f.op7.toNat ≥ 0x60 && f.op7.toNat ≤ 0x6D && !f.len.getLsbD 1) = false)
    (hr : readFields f = .ok i) : RoundTrip.Statement i := by
  intro f' hw he'
  rw [he] at he'
  obtain rfl := Option.some.inj he'
  unfold decodeFields
  rw [hm, hr]
  simp [hw, he]

/-! ## Fields packed together -/

theorem cond_high (n : Nat) (p : PReg) : BitVec.extractLsb' 3 4 (condD n p) = BitVec.ofNat 4 n := Bits.take_high _ p
theorem cond_low (n : Nat) (p : PReg) : BitVec.extractLsb' 0 3 (condD n p) = p := Bits.take_low _ p
theorem join21 (v : BitVec 21) : BitVec.extractLsb' 14 7 v ++ BitVec.extractLsb' 7 7 v ++ BitVec.extractLsb' 0 7 v = v := by
  have h1 : BitVec.extractLsb' 14 7 v = BitVec.extractLsb' 7 7 (BitVec.extractLsb' 7 14 v) := by
    ext i hi
    have h : 7 + i < 14 := by omega
    have e : 7 + (7 + i) = 14 + i := by omega
    simp [h, e]
  have h2 : BitVec.extractLsb' 7 7 v = BitVec.extractLsb' 0 7 (BitVec.extractLsb' 7 14 v) := by
    ext i hi
    have h : i < 14 := by omega
    simp [h]
  have h3 := Bits.join (n := 7) (m := 7) (BitVec.extractLsb' 7 14 v)
  rw [h1, h2, h3]
  exact Bits.join (n := 14) (m := 7) v
theorem tok_xa (t : Option (BitVec 4)) (r : Bool) (f : Fields) (h : f.fmt8 = tokBits t ++ BitVec.ofBool r ++ (0 : BitVec 2)) :
    tokOf f = t := by
  unfold tokOf
  rw [h]
  cases t with
  | none => cases r <;> rfl
  | some v => clear h; cases r <;> (revert v; decide)
theorem tok_xt (t : Option (BitVec 4)) (f : Fields) (h : f.fmt8 = tokBits t ++ (0 : BitVec 3)) : tokOf f = t := by
  unfold tokOf
  rw [h]
  cases t with
  | none => rfl
  | some v => clear h; revert v; decide
theorem ring_bit (t : Option (BitVec 4)) (r : Bool) :
    (tokBits t ++ BitVec.ofBool r ++ (0 : BitVec 2)).getLsbD 2 = r := by
  cases t with
  | none => cases r <;> rfl
  | some v => cases r <;> (revert v; decide)
theorem lane_bits (l : Option (BitVec 5)) :
    (if (laneImm l).getLsbD 5 then some ((laneImm l).extractLsb' 0 5) else none) = l := by
  cases l with
  | none => rfl
  | some v => revert v; decide
theorem lw_bits (lw : BitVec 20) (h : BitVec 4) : (lw ++ (0 : BitVec 4) ++ h).extractLsb' 8 20 = lw := by
  have a := Bits.take_above (lw ++ (0 : BitVec 4)) h 4 20
  rw [show 4 + 4 = 8 from rfl] at a
  rw [a, Bits.take_high]
theorem mon_bits (m : BitVec 4) (d : BitVec 21) : (m ++ (0 : BitVec 7) ++ d).extractLsb' 28 4 = m := by
  have a := Bits.take_above (m ++ (0 : BitVec 7)) d 7 4
  rw [show 21 + 7 = 28 from rfl] at a
  rw [a, Bits.take_high]
theorem wait_en {n : Nat} (x : BitVec n) (en st ld : BitVec 6) : (x ++ en ++ st ++ ld).extractLsb' 12 6 = en := by
  have a := Bits.take_above (x ++ en ++ st) ld 6 6
  rw [show 6 + 6 = 12 from rfl] at a
  rw [a, Bits.take_mid]
theorem wait_tl {n : Nat} (x : BitVec n) (tl en st ld : BitVec 6) : (x ++ tl ++ en ++ st ++ ld).extractLsb' 18 6 = tl := by
  have a := Bits.take_above (x ++ tl ++ en ++ st) ld 12 6
  rw [show 6 + 12 = 18 from rfl] at a
  rw [a, wait_en]
theorem wait_pt {n : Nat} (x : BitVec n) (pt tl en st ld : BitVec 6) :
    (x ++ pt ++ tl ++ en ++ st ++ ld).extractLsb' 24 6 = pt := by
  have a := Bits.take_above (x ++ pt ++ tl ++ en ++ st) ld 18 6
  rw [show 6 + 18 = 24 from rfl] at a
  rw [a, wait_tl]

/-! ## Format XM (R76) -/

theorem mods_xm (sub : Nat) (x : XG) (sc pol sp sz o : Nat) (dp : Disp) (w : XW) :
    (encXM sub x sc pol sp sz o dp w).mods = BitVec.ofNat 3 sz ++ BitVec.ofNat 2 o := by
  have h (m : BitVec 5) : m.extractLsb' 1 4 ++ BitVec.ofBool (m.getLsbD 0) = m := by revert m; decide
  cases dp <;> exact h _
theorem fmt_xm (sub : Nat) (x : XG) (sc pol sp sz o : Nat) (dp : Disp) (w : XW) :
    (encXM sub x sc pol sp sz o dp w).fmt8 = BitVec.ofNat 3 sc ++ BitVec.ofNat 2 pol ++ BitVec.ofNat 3 sp := by
  cases dp <;> rfl
theorem size_xm (sub : Nat) (x : XG) (sc pol sp o : Nat) (sz : Size) (dp : Disp) (w : XW) :
    sizeOf' (encXM sub x sc pol sp (sizeCodes.idxOf sz) o dp w) = .ok sz := by
  unfold sizeOf'
  rw [mods_xm, Bits.take_high]
  cases sz <;> rfl
theorem order_xm (sub : Nat) (x : XG) (sc pol sp sz : Nat) (o : MemOrd) (dp : Disp) (w : XW) :
    orderOf (encXM sub x sc pol sp sz (orderCodes.idxOf o) dp w) = .ok o := by
  unfold orderOf
  rw [mods_xm, Bits.take_low]
  cases o <;> rfl
theorem scope_xm (sub : Nat) (x : XG) (pol sp sz o : Nat) (sc : Scope) (dp : Disp) (w : XW) :
    scopeOf (encXM sub x (scopeCodes.idxOf sc) pol sp sz o dp w) = .ok sc := by
  unfold scopeOf
  rw [fmt_xm, show (5 : Nat) = 3 + 2 from rfl, Bits.take_above, Bits.take_high]
  cases sc <;> rfl
theorem policy_xm (sub : Nat) (x : XG) (sc sp sz o : Nat) (pol : Policy) (dp : Disp) (w : XW) :
    policyOf (encXM sub x sc (policyCodes.idxOf pol) sp sz o dp w) = .ok pol := by
  unfold policyOf
  rw [fmt_xm, Bits.take_mid]
  cases pol <;> rfl
theorem mem_xm (sub : Nat) (x : XG) (sc pol sz o : Nat) (sp : Space) (dp : Disp) (w : XW) (h1 : w.lit = none) :
    memOf (encXM sub x sc pol (spaceCodes.idxOf sp) sz o dp w) = .ok ⟨sp, w.a, dp⟩ := by
  unfold memOf
  rw [fmt_xm, Bits.take_low]
  obtain ⟨d, a, b, e, hi, sel, fmt8, imm, lit⟩ := w
  cases h1
  cases dp <;> cases sp <;> with_unfolding_all rfl
theorem scopeIf_acq (sub : Nat) (x : XG) (acq : Option Scope) (pol sp sz : Nat) (dp : Disp) (w : XW) :
    scopeIf (encXM sub x (scopeN acq) pol sp sz (if acq.isSome then 1 else 0) dp w) .acq = .ok acq := by
  unfold scopeIf
  cases acq with
  | none => rw [show (if (none : Option Scope).isSome then 1 else 0) = orderCodes.idxOf .relaxed from rfl, order_xm]; rfl
  | some v =>
    rw [show (if (some v).isSome then 1 else 0) = orderCodes.idxOf .acq from rfl, order_xm, show scopeN (some v) = scopeCodes.idxOf v from rfl, scope_xm]
    rfl
theorem scopeIf_rel (sub : Nat) (x : XG) (rel : Option Scope) (pol sp sz : Nat) (dp : Disp) (w : XW) :
    scopeIf (encXM sub x (scopeN rel) pol sp sz (if rel.isSome then 2 else 0) dp w) .rel = .ok rel := by
  unfold scopeIf
  cases rel with
  | none => rw [show (if (none : Option Scope).isSome then 2 else 0) = orderCodes.idxOf .relaxed from rfl, order_xm]; rfl
  | some v =>
    rw [show (if (some v).isSome then 2 else 0) = orderCodes.idxOf .rel from rfl, order_xm, show scopeN (some v) = scopeCodes.idxOf v from rfl, scope_xm]
    rfl
theorem rd_ld (f : Fields) (h1 : f.op7 = 0x65) (h2 : f.subop = 0x00) :
    readFields f = (do .ok (.ld (xgOf f) (← sizeOf' f) (f.e.getLsbD 0) (← scopeIf f .acq) (← policyOf f) f.d (← memOf f))) := by
  obtain ⟨_, _, _, _, _, _, _, _, _, _, _, _, _, _⟩ := f
  cases h1; cases h2; with_unfolding_all rfl
theorem rd_st (f : Fields) (h1 : f.op7 = 0x65) (h2 : f.subop = 0x01) :
    readFields f = (do .ok (.st (xgOf f) (← sizeOf' f) (← scopeIf f .rel) (← policyOf f) (← memOf f) f.b)) := by
  obtain ⟨_, _, _, _, _, _, _, _, _, _, _, _, _, _⟩ := f
  cases h1; cases h2; with_unfolding_all rfl
theorem rd_atom (f : Fields) (h1 : f.op7 = 0x65) (h2 : f.subop = 0x02) :
    readFields f = (do .ok (.atom (xgOf f) (← codeItem atomCodes (f.e.extractLsb' 0 4).toNat) (← sizeOf' f) (← orderOf f)
      (← scopeOf f) f.d (← memOf f) f.b)) := by
  obtain ⟨_, _, _, _, _, _, _, _, _, _, _, _, _, _⟩ := f
  cases h1; cases h2; with_unfolding_all rfl
theorem rd_cas (f : Fields) (h1 : f.op7 = 0x65) (h2 : f.subop = 0x03) :
    readFields f = (do .ok (.cas (xgOf f) (← sizeOf' f) (← orderOf f) (← scopeOf f) f.d (← memOf f) f.b f.e)) := by
  obtain ⟨_, _, _, _, _, _, _, _, _, _, _, _, _, _⟩ := f
  cases h1; cases h2; with_unfolding_all rfl
theorem rd_fence (f : Fields) (h1 : f.op7 = 0x65) (h2 : f.subop = 0x09) :
    readFields f = (do
      let k ← match (f.mods.extractLsb' 0 2).toNat with
        | 1 => Except.ok FenceKind.acq | 2 => .ok .rel | 3 => .ok .full | _ => .error .unassignedCode
      .ok (.fence (xgOf f) k (← scopeOf f))) := by
  obtain ⟨_, _, _, _, _, _, _, _, _, _, _, _, _, _⟩ := f
  cases h1; cases h2; with_unfolding_all rfl
theorem rd_adrain (f : Fields) (h1 : f.op7 = 0x66) (h2 : f.subop = 0x07) :
    readFields f = (do
      let fm ← codeItem drainCodes (f.mods.extractLsb' 1 2).toNat
      .ok (.adrain (xtOf f) fm (f.mods.getLsbD 3) (if f.mods.getLsbD 4 then some (f.imm.extractLsb' 28 4) else none)
        (f.mods.getLsbD 0) f.d f.a f.b (f.imm.extractLsb' 0 21))) := by
  obtain ⟨_, _, _, _, _, _, _, _, _, _, _, _, _, _⟩ := f
  cases h1; cases h2; with_unfolding_all rfl
theorem mods_fmt (h : BitVec 4) (c : Bool) : (h ++ BitVec.ofBool c).extractLsb' 1 2 = h.extractLsb' 0 2 := by
  cases c <;> (revert h; decide)
theorem mods_0 (h : BitVec 4) (c : Bool) : (h ++ BitVec.ofBool c).getLsbD 0 = c := by cases c <;> (revert h; decide)
theorem mods_3 (h : BitVec 4) (c : Bool) : (h ++ BitVec.ofBool c).getLsbD 3 = h.getLsbD 2 := by
  cases c <;> (revert h; decide)
theorem mods_4 (h : BitVec 4) (c : Bool) : (h ++ BitVec.ofBool c).getLsbD 4 = h.getLsbD 3 := by
  cases c <;> (revert h; decide)
theorem xt_of (op sub : Nat) (t : XT) (w : XW) : xtOf (encXT op sub t w) = t := by
  obtain ⟨x, h, tok⟩ := t
  unfold xtOf
  rw [tok_xt tok _ rfl, show (encXT op sub ⟨x, h, tok⟩ w).e = h.setWidth 7 from rfl, Bits.take_wide h (by omega)]
  rfl

/-! ## Each constructor -/

theorem RoundTrip.add (g : Guard) (d : Reg) (a : Reg) (b : BSrc) : RoundTrip.Statement (.add g d a b) := by
  cases g <;> cases b <;>
    exact of_read rfl (by with_unfolding_all rfl) (by with_unfolding_all rfl)
theorem RoundTrip.addi (g : Guard) (d : Reg) (a : Reg) (i : BImm) : RoundTrip.Statement (.addi g d a i) := by
  cases g <;> cases i <;>
    exact of_read rfl (by with_unfolding_all rfl) (by with_unfolding_all rfl)
theorem RoundTrip.sub (g : Guard) (d : Reg) (a : Reg) (b : BSrc) : RoundTrip.Statement (.sub g d a b) := by
  cases g <;> cases b <;>
    exact of_read rfl (by with_unfolding_all rfl) (by with_unfolding_all rfl)
theorem RoundTrip.mul (g : Guard) (d : Reg) (a : Reg) (b : BSrc) : RoundTrip.Statement (.mul g d a b) := by
  cases g <;> cases b <;>
    exact of_read rfl (by with_unfolding_all rfl) (by with_unfolding_all rfl)
theorem RoundTrip.mulhiS (g : Guard) (d : Reg) (a : Reg) (b : BSrc) : RoundTrip.Statement (.mulhiS g d a b) := by
  cases g <;> cases b <;>
    exact of_read rfl (by with_unfolding_all rfl) (by with_unfolding_all rfl)
theorem RoundTrip.mulhiU (g : Guard) (d : Reg) (a : Reg) (b : BSrc) : RoundTrip.Statement (.mulhiU g d a b) := by
  cases g <;> cases b <;>
    exact of_read rfl (by with_unfolding_all rfl) (by with_unfolding_all rfl)
theorem RoundTrip.mad (g : Guard) (d : Reg) (a : Reg) (b : BSrc) : RoundTrip.Statement (.mad g d a b) := by
  cases g <;> cases b <;>
    exact of_read rfl (by with_unfolding_all rfl) (by with_unfolding_all rfl)
theorem RoundTrip.and (g : Guard) (d : Reg) (a : Reg) (b : BSrc) : RoundTrip.Statement (.and g d a b) := by
  cases g <;> cases b <;>
    exact of_read rfl (by with_unfolding_all rfl) (by with_unfolding_all rfl)
theorem RoundTrip.andi (g : Guard) (d : Reg) (a : Reg) (i : BImm) : RoundTrip.Statement (.andi g d a i) := by
  cases g <;> cases i <;>
    exact of_read rfl (by with_unfolding_all rfl) (by with_unfolding_all rfl)
theorem RoundTrip.or (g : Guard) (d : Reg) (a : Reg) (b : BSrc) : RoundTrip.Statement (.or g d a b) := by
  cases g <;> cases b <;>
    exact of_read rfl (by with_unfolding_all rfl) (by with_unfolding_all rfl)
theorem RoundTrip.ori (g : Guard) (d : Reg) (a : Reg) (i : BImm) : RoundTrip.Statement (.ori g d a i) := by
  cases g <;> cases i <;>
    exact of_read rfl (by with_unfolding_all rfl) (by with_unfolding_all rfl)
theorem RoundTrip.xor (g : Guard) (d : Reg) (a : Reg) (b : BSrc) : RoundTrip.Statement (.xor g d a b) := by
  cases g <;> cases b <;>
    exact of_read rfl (by with_unfolding_all rfl) (by with_unfolding_all rfl)
theorem RoundTrip.xori (g : Guard) (d : Reg) (a : Reg) (i : BImm) : RoundTrip.Statement (.xori g d a i) := by
  cases g <;> cases i <;>
    exact of_read rfl (by with_unfolding_all rfl) (by with_unfolding_all rfl)
theorem RoundTrip.shl (g : Guard) (d : Reg) (a : Reg) (b : BSrc) : RoundTrip.Statement (.shl g d a b) := by
  cases g <;> cases b <;>
    exact of_read rfl (by with_unfolding_all rfl) (by with_unfolding_all rfl)
theorem RoundTrip.shli (g : Guard) (d : Reg) (a : Reg) (i : BImm) : RoundTrip.Statement (.shli g d a i) := by
  cases g <;> cases i <;>
    exact of_read rfl (by with_unfolding_all rfl) (by with_unfolding_all rfl)
theorem RoundTrip.shr (g : Guard) (d : Reg) (a : Reg) (b : BSrc) : RoundTrip.Statement (.shr g d a b) := by
  cases g <;> cases b <;>
    exact of_read rfl (by with_unfolding_all rfl) (by with_unfolding_all rfl)
theorem RoundTrip.shri (g : Guard) (d : Reg) (a : Reg) (i : BImm) : RoundTrip.Statement (.shri g d a i) := by
  cases g <;> cases i <;>
    exact of_read rfl (by with_unfolding_all rfl) (by with_unfolding_all rfl)
theorem RoundTrip.sar (g : Guard) (d : Reg) (a : Reg) (b : BSrc) : RoundTrip.Statement (.sar g d a b) := by
  cases g <;> cases b <;>
    exact of_read rfl (by with_unfolding_all rfl) (by with_unfolding_all rfl)
theorem RoundTrip.sari (g : Guard) (d : Reg) (a : Reg) (i : BImm) : RoundTrip.Statement (.sari g d a i) := by
  cases g <;> cases i <;>
    exact of_read rfl (by with_unfolding_all rfl) (by with_unfolding_all rfl)
theorem RoundTrip.minS (g : Guard) (d : Reg) (a : Reg) (b : BSrc) : RoundTrip.Statement (.minS g d a b) := by
  cases g <;> cases b <;>
    exact of_read rfl (by with_unfolding_all rfl) (by with_unfolding_all rfl)
theorem RoundTrip.minU (g : Guard) (d : Reg) (a : Reg) (b : BSrc) : RoundTrip.Statement (.minU g d a b) := by
  cases g <;> cases b <;>
    exact of_read rfl (by with_unfolding_all rfl) (by with_unfolding_all rfl)
theorem RoundTrip.maxS (g : Guard) (d : Reg) (a : Reg) (b : BSrc) : RoundTrip.Statement (.maxS g d a b) := by
  cases g <;> cases b <;>
    exact of_read rfl (by with_unfolding_all rfl) (by with_unfolding_all rfl)
theorem RoundTrip.maxU (g : Guard) (d : Reg) (a : Reg) (b : BSrc) : RoundTrip.Statement (.maxU g d a b) := by
  cases g <;> cases b <;>
    exact of_read rfl (by with_unfolding_all rfl) (by with_unfolding_all rfl)
theorem RoundTrip.clz (g : Guard) (d : Reg) (a : Reg) : RoundTrip.Statement (.clz g d a) := by
  cases g <;>
    exact of_read rfl (by with_unfolding_all rfl) (by with_unfolding_all rfl)
theorem RoundTrip.popc (g : Guard) (d : Reg) (a : Reg) : RoundTrip.Statement (.popc g d a) := by
  cases g <;>
    exact of_read rfl (by with_unfolding_all rfl) (by with_unfolding_all rfl)
theorem RoundTrip.brev (g : Guard) (d : Reg) (a : Reg) : RoundTrip.Statement (.brev g d a) := by
  cases g <;>
    exact of_read rfl (by with_unfolding_all rfl) (by with_unfolding_all rfl)
theorem RoundTrip.bfe (g : Guard) (d : Reg) (a : Reg) (b : BSrc) : RoundTrip.Statement (.bfe g d a b) := by
  cases g <;> cases b <;>
    exact of_read rfl (by with_unfolding_all rfl) (by with_unfolding_all rfl)
theorem RoundTrip.bfi (g : Guard) (d : Reg) (a : Reg) (b : BSrc) : RoundTrip.Statement (.bfi g d a b) := by
  cases g <;> cases b <;>
    exact of_read rfl (by with_unfolding_all rfl) (by with_unfolding_all rfl)
theorem RoundTrip.mov (g : Guard) (d : Reg) (a : Reg) : RoundTrip.Statement (.mov g d a) := by
  cases g <;>
    exact of_read rfl (by with_unfolding_all rfl) (by with_unfolding_all rfl)
theorem RoundTrip.li (g : Guard) (d : Reg) (i : WImm) : RoundTrip.Statement (.li g d i) := by
  cases i with
  | imm v =>
    cases g <;>
    exact of_read rfl (by with_unfolding_all rfl) ((show _ = Except.ok (Instr.li _ d (.imm (BitVec.extractLsb' 7 7 v ++ BitVec.extractLsb' 0 7 v))) by with_unfolding_all rfl).trans
        (by rw [Bits.join (n := 7) (m := 7)] <;> with_unfolding_all rfl))
  | lit v => cases g <;> exact of_read rfl (by with_unfolding_all rfl) (by with_unfolding_all rfl)
theorem RoundTrip.add64 (g : Guard) (d : Reg) (a : Reg) (b : BSrc) : RoundTrip.Statement (.add64 g d a b) := by
  cases g <;> cases b <;>
    exact of_read rfl (by with_unfolding_all rfl) (by with_unfolding_all rfl)
theorem RoundTrip.cmp (g : Guard) (cc : ICond) (pd : PReg) (a : Reg) (b : BSrc) : RoundTrip.Statement (.cmp g cc pd a b) := by
  cases g <;> cases b <;>
    exact of_read rfl (by with_unfolding_all rfl) ((show _ = (do Except.ok (Instr.cmp _ (← codeItem icondCodes (BitVec.extractLsb' 3 4 (condD (icondCodes.idxOf cc) pd)).toNat) (BitVec.extractLsb' 0 3 (condD (icondCodes.idxOf cc) pd)) a _)) by with_unfolding_all rfl).trans
      (by rw [cond_high, cond_low]; cases cc <;> with_unfolding_all rfl))
theorem RoundTrip.cmpi (g : Guard) (cc : ICond) (pd : PReg) (a : Reg) (i : BImm) : RoundTrip.Statement (.cmpi g cc pd a i) := by
  cases g <;> cases i <;>
    exact of_read rfl (by with_unfolding_all rfl) ((show _ = (do Except.ok (Instr.cmpi _ (← codeItem icondCodes (BitVec.extractLsb' 3 4 (condD (icondCodes.idxOf cc) pd)).toNat) (BitVec.extractLsb' 0 3 (condD (icondCodes.idxOf cc) pd)) a _)) by with_unfolding_all rfl).trans
      (by rw [cond_high, cond_low]; cases cc <;> with_unfolding_all rfl))
theorem RoundTrip.pop (g : Guard) (fn : PopFn) (pd : PReg) (pa : PReg) (pb : PReg) : RoundTrip.Statement (.pop g fn pd pa pb) := by
  cases g <;>
    exact of_read rfl (by with_unfolding_all rfl) ((show _ = (do Except.ok (Instr.pop _ (← codeItem popCodes (BitVec.extractLsb' 3 4 (condD (popCodes.idxOf fn) pd)).toNat)
      (BitVec.extractLsb' 0 3 (condD (popCodes.idxOf fn) pd)) (BitVec.extractLsb' 0 3 (BitVec.setWidth 7 pa)) (BitVec.extractLsb' 0 3 (BitVec.setWidth 7 pb)))) by with_unfolding_all rfl).trans
      (by rw [cond_high, cond_low, Bits.take_wide pa (show 3 ≤ 7 by omega), Bits.take_wide pb (show 3 ≤ 7 by omega)]; cases fn <;> with_unfolding_all rfl))
theorem RoundTrip.sel (g : Guard) (d : Reg) (a : Reg) (b : BSrc) : RoundTrip.Statement (.sel g d a b) := by
  cases g <;> cases b <;>
    exact of_read rfl (by with_unfolding_all rfl) (by with_unfolding_all rfl)
theorem RoundTrip.mcall (g : Guard) (m : Reg) (a : Reg) (b : Reg) : RoundTrip.Statement (.mcall g m a b) := by
  cases g <;>
    exact of_read rfl (by with_unfolding_all rfl) (by with_unfolding_all rfl)
theorem RoundTrip.spawn (g : Guard) (pd : PReg) (a : Reg) (b : Reg) : RoundTrip.Statement (.spawn g pd a b) := by
  cases g <;>
    exact of_read rfl (by with_unfolding_all rfl) ((show _ = Except.ok (Instr.spawn _ (BitVec.extractLsb' 0 3 (BitVec.setWidth 7 pd)) a b) by with_unfolding_all rfl).trans (by rw [Bits.take_wide pd (show 3 ≤ 7 by omega)] <;> with_unfolding_all rfl))
theorem RoundTrip.rein (g : Guard) : RoundTrip.Statement (.rein g) := by
  cases g <;>
    exact of_read rfl (by with_unfolding_all rfl) (by with_unfolding_all rfl)
theorem RoundTrip.trigger (g : Guard) : RoundTrip.Statement (.trigger g) := by
  cases g <;>
    exact of_read rfl (by with_unfolding_all rfl) (by with_unfolding_all rfl)
theorem RoundTrip.bra (g : Guard) (off : BitVec 21) : RoundTrip.Statement (.bra g off) := by
  cases g <;>
    exact of_read rfl (by with_unfolding_all rfl) ((show _ = Except.ok (Instr.bra _ (BitVec.extractLsb' 14 7 off ++ BitVec.extractLsb' 7 7 off ++ BitVec.extractLsb' 0 7 off)) by with_unfolding_all rfl).trans (by rw [join21] <;> with_unfolding_all rfl))
theorem RoundTrip.call (g : Guard) (off : BitVec 21) : RoundTrip.Statement (.call g off) := by
  cases g <;>
    exact of_read rfl (by with_unfolding_all rfl) ((show _ = Except.ok (Instr.call _ (BitVec.extractLsb' 14 7 off ++ BitVec.extractLsb' 7 7 off ++ BitVec.extractLsb' 0 7 off)) by with_unfolding_all rfl).trans (by rw [join21] <;> with_unfolding_all rfl))
theorem RoundTrip.brx (g : Guard) (a : Reg) : RoundTrip.Statement (.brx g a) := by
  cases g <;>
    exact of_read rfl (by with_unfolding_all rfl) (by with_unfolding_all rfl)
theorem RoundTrip.ret (g : Guard) : RoundTrip.Statement (.ret g) := by
  cases g <;>
    exact of_read rfl (by with_unfolding_all rfl) (by with_unfolding_all rfl)
theorem RoundTrip.exit (g : Guard) : RoundTrip.Statement (.exit g) := by
  cases g <;>
    exact of_read rfl (by with_unfolding_all rfl) (by with_unfolding_all rfl)
theorem RoundTrip.yield (g : Guard) : RoundTrip.Statement (.yield g) := by
  cases g <;>
    exact of_read rfl (by with_unfolding_all rfl) (by with_unfolding_all rfl)
theorem RoundTrip.trap (g : Guard) (code : BitVec 14) : RoundTrip.Statement (.trap g code) := by
  cases g <;>
    exact of_read rfl (by with_unfolding_all rfl) ((show _ = Except.ok (Instr.trap _ (BitVec.extractLsb' 7 7 code ++ BitVec.extractLsb' 0 7 code)) by with_unfolding_all rfl).trans (by rw [Bits.join (n := 7) (m := 7) code] <;> with_unfolding_all rfl))
theorem RoundTrip.bkpt (g : Guard) (code : BitVec 14) : RoundTrip.Statement (.bkpt g code) := by
  cases g <;>
    exact of_read rfl (by with_unfolding_all rfl) ((show _ = Except.ok (Instr.bkpt _ (BitVec.extractLsb' 7 7 code ++ BitVec.extractLsb' 0 7 code)) by with_unfolding_all rfl).trans (by rw [Bits.join (n := 7) (m := 7) code] <;> with_unfolding_all rfl))
theorem RoundTrip.fadd (g : Guard) (d : Reg) (a : Reg) (b : BSrc) : RoundTrip.Statement (.fadd g d a b) := by
  cases g <;> cases b <;>
    exact of_read rfl (by with_unfolding_all rfl) (by with_unfolding_all rfl)
theorem RoundTrip.fsub (g : Guard) (d : Reg) (a : Reg) (b : BSrc) : RoundTrip.Statement (.fsub g d a b) := by
  cases g <;> cases b <;>
    exact of_read rfl (by with_unfolding_all rfl) (by with_unfolding_all rfl)
theorem RoundTrip.fmul (g : Guard) (d : Reg) (a : Reg) (b : BSrc) : RoundTrip.Statement (.fmul g d a b) := by
  cases g <;> cases b <;>
    exact of_read rfl (by with_unfolding_all rfl) (by with_unfolding_all rfl)
theorem RoundTrip.ffma (g : Guard) (d : Reg) (a : Reg) (b : BSrc) : RoundTrip.Statement (.ffma g d a b) := by
  cases g <;> cases b <;>
    exact of_read rfl (by with_unfolding_all rfl) (by with_unfolding_all rfl)
theorem RoundTrip.fmin (g : Guard) (d : Reg) (a : Reg) (b : BSrc) : RoundTrip.Statement (.fmin g d a b) := by
  cases g <;> cases b <;>
    exact of_read rfl (by with_unfolding_all rfl) (by with_unfolding_all rfl)
theorem RoundTrip.fmax (g : Guard) (d : Reg) (a : Reg) (b : BSrc) : RoundTrip.Statement (.fmax g d a b) := by
  cases g <;> cases b <;>
    exact of_read rfl (by with_unfolding_all rfl) (by with_unfolding_all rfl)
theorem RoundTrip.fcmp (g : Guard) (cc : FCond) (pd : PReg) (a : Reg) (b : BSrc) : RoundTrip.Statement (.fcmp g cc pd a b) := by
  cases g <;> cases b <;>
    exact of_read rfl (by with_unfolding_all rfl) ((show _ = (do Except.ok (Instr.fcmp _ (← codeItem fcondCodes (BitVec.extractLsb' 3 4 (condD (fcondCodes.idxOf cc) pd)).toNat) (BitVec.extractLsb' 0 3 (condD (fcondCodes.idxOf cc) pd)) a _)) by with_unfolding_all rfl).trans
      (by rw [cond_high, cond_low]; cases cc <;> with_unfolding_all rfl))
theorem RoundTrip.fsfu (g : Guard) (fn : SfuFn) (d : Reg) (a : Reg) : RoundTrip.Statement (.fsfu g fn d a) := by
  cases g <;> cases fn <;>
    exact of_read rfl (by with_unfolding_all rfl) (by with_unfolding_all rfl)
theorem RoundTrip.fcvt (g : Guard) (cv : Cvt) (d : Reg) (a : Reg) : RoundTrip.Statement (.fcvt g cv d a) := by
  cases g <;> cases cv <;>
    exact of_read rfl (by with_unfolding_all rfl) (by with_unfolding_all rfl)
theorem RoundTrip.fabs (g : Guard) (d : Reg) (a : Reg) : RoundTrip.Statement (.fabs g d a) := by
  cases g <;>
    exact of_read rfl (by with_unfolding_all rfl) (by with_unfolding_all rfl)
theorem RoundTrip.fneg (g : Guard) (d : Reg) (a : Reg) : RoundTrip.Statement (.fneg g d a) := by
  cases g <;>
    exact of_read rfl (by with_unfolding_all rfl) (by with_unfolding_all rfl)
theorem RoundTrip.hadd2 (g : Guard) (d : Reg) (a : Reg) (b : BSrc) : RoundTrip.Statement (.hadd2 g d a b) := by
  cases g <;> cases b <;>
    exact of_read rfl (by with_unfolding_all rfl) (by with_unfolding_all rfl)
theorem RoundTrip.hmul2 (g : Guard) (d : Reg) (a : Reg) (b : BSrc) : RoundTrip.Statement (.hmul2 g d a b) := by
  cases g <;> cases b <;>
    exact of_read rfl (by with_unfolding_all rfl) (by with_unfolding_all rfl)
theorem RoundTrip.hfma2 (g : Guard) (d : Reg) (a : Reg) (b : BSrc) : RoundTrip.Statement (.hfma2 g d a b) := by
  cases g <;> cases b <;>
    exact of_read rfl (by with_unfolding_all rfl) (by with_unfolding_all rfl)
theorem RoundTrip.hmax2 (g : Guard) (d : Reg) (a : Reg) (b : BSrc) : RoundTrip.Statement (.hmax2 g d a b) := by
  cases g <;> cases b <;>
    exact of_read rfl (by with_unfolding_all rfl) (by with_unfolding_all rfl)
theorem RoundTrip.fclass (g : Guard) (d : Reg) (a : Reg) : RoundTrip.Statement (.fclass g d a) := by
  cases g <;>
    exact of_read rfl (by with_unfolding_all rfl) (by with_unfolding_all rfl)
theorem RoundTrip.shflIdx (g : Guard) (d : Reg) (a : Reg) (b : BSrc) : RoundTrip.Statement (.shflIdx g d a b) := by
  cases g <;> cases b <;>
    exact of_read rfl (by with_unfolding_all rfl) (by with_unfolding_all rfl)
theorem RoundTrip.shflUp (g : Guard) (d : Reg) (a : Reg) (b : BSrc) : RoundTrip.Statement (.shflUp g d a b) := by
  cases g <;> cases b <;>
    exact of_read rfl (by with_unfolding_all rfl) (by with_unfolding_all rfl)
theorem RoundTrip.shflDown (g : Guard) (d : Reg) (a : Reg) (b : BSrc) : RoundTrip.Statement (.shflDown g d a b) := by
  cases g <;> cases b <;>
    exact of_read rfl (by with_unfolding_all rfl) (by with_unfolding_all rfl)
theorem RoundTrip.shflXor (g : Guard) (d : Reg) (a : Reg) (b : BSrc) : RoundTrip.Statement (.shflXor g d a b) := by
  cases g <;> cases b <;>
    exact of_read rfl (by with_unfolding_all rfl) (by with_unfolding_all rfl)
theorem RoundTrip.vote (g : Guard) (mode : VoteMode) (d : Reg) (ps : PReg) : RoundTrip.Statement (.vote g mode d ps) := by
  cases g <;> cases mode <;>
    exact of_read rfl (by with_unfolding_all rfl) ((show _ = Except.ok (Instr.vote _ _ d (BitVec.extractLsb' 0 3 (BitVec.setWidth 7 ps))) by with_unfolding_all rfl).trans (by rw [Bits.take_wide ps (show 3 ≤ 7 by omega)] <;> with_unfolding_all rfl))
theorem RoundTrip.redux (g : Guard) (op : RedOp) (d : Reg) (a : Reg) : RoundTrip.Statement (.redux g op d a) := by
  cases g <;> cases op <;>
    exact of_read rfl (by with_unfolding_all rfl) (by with_unfolding_all rfl)
theorem RoundTrip.hbar (g : Guard) : RoundTrip.Statement (.hbar g) := by
  cases g <;>
    exact of_read rfl (by with_unfolding_all rfl) (by with_unfolding_all rfl)
theorem RoundTrip.vlane (g : Guard) (d : Reg) (a : Reg) : RoundTrip.Statement (.vlane g d a) := by
  cases g <;>
    exact of_read rfl (by with_unfolding_all rfl) (by with_unfolding_all rfl)
theorem RoundTrip.put (g : Guard) (i : BitVec 5) (a : Reg) (b : BSrc) : RoundTrip.Statement (.put g i a b) := by
  cases g <;> cases b <;>
    exact of_read rfl (by with_unfolding_all rfl) ((show _ = Except.ok (Instr.put _ (BitVec.extractLsb' 0 5 (BitVec.setWidth 7 i)) a _) by with_unfolding_all rfl).trans (by rw [Bits.take_wide i (show 5 ≤ 7 by omega)] <;> with_unfolding_all rfl))
theorem RoundTrip.putv (g : Guard) (i : BitVec 5) (a : Reg) (b : Reg) : RoundTrip.Statement (.putv g i a b) := by
  cases g <;>
    exact of_read rfl (by with_unfolding_all rfl) ((show _ = Except.ok (Instr.putv _ (BitVec.extractLsb' 0 5 (BitVec.setWidth 7 i)) a b) by with_unfolding_all rfl).trans (by rw [Bits.take_wide i (show 5 ≤ 7 by omega)] <;> with_unfolding_all rfl))
theorem RoundTrip.empty (g : Guard) (d : Reg) (n : Reg) : RoundTrip.Statement (.empty g d n) := by
  cases g <;>
    exact of_read rfl (by with_unfolding_all rfl) (by with_unfolding_all rfl)
theorem RoundTrip.fillq (g : Guard) (pd : PReg) (a : Reg) : RoundTrip.Statement (.fillq g pd a) := by
  cases g <;>
    exact of_read rfl (by with_unfolding_all rfl) ((show _ = Except.ok (Instr.fillq _ (BitVec.extractLsb' 0 3 (BitVec.setWidth 7 pd)) a) by with_unfolding_all rfl).trans (by rw [Bits.take_wide pd (show 3 ≤ 7 by omega)] <;> with_unfolding_all rfl))
theorem RoundTrip.ldw (g : Guard) (d : Reg) (a : Reg) (i : BitVec 7) : RoundTrip.Statement (.ldw g d a i) := by
  cases g <;>
    exact of_read rfl (by with_unfolding_all rfl) (by with_unfolding_all rfl)
theorem RoundTrip.stw (g : Guard) (d : Reg) (a : Reg) (i : BitVec 7) : RoundTrip.Statement (.stw g d a i) := by
  cases g <;>
    exact of_read rfl (by with_unfolding_all rfl) (by with_unfolding_all rfl)
theorem RoundTrip.lds (g : Guard) (d : Reg) (a : Reg) (i : BitVec 7) : RoundTrip.Statement (.lds g d a i) := by
  cases g <;>
    exact of_read rfl (by with_unfolding_all rfl) (by with_unfolding_all rfl)
theorem RoundTrip.sts (g : Guard) (d : Reg) (a : Reg) (i : BitVec 7) : RoundTrip.Statement (.sts g d a i) := by
  cases g <;>
    exact of_read rfl (by with_unfolding_all rfl) (by with_unfolding_all rfl)
theorem RoundTrip.ldp (g : Guard) (d : Reg) (i : BitVec 14) : RoundTrip.Statement (.ldp g d i) := by
  cases g <;>
    exact of_read rfl (by with_unfolding_all rfl) ((show _ = Except.ok (Instr.ldp _ d (BitVec.extractLsb' 7 7 i ++ BitVec.extractLsb' 0 7 i)) by with_unfolding_all rfl).trans (by rw [Bits.join (n := 7) (m := 7) i] <;> with_unfolding_all rfl))
theorem RoundTrip.atomsAdd (g : Guard) (d : Reg) (a : Reg) (b : BSrc) : RoundTrip.Statement (.atomsAdd g d a b) := by
  cases g <;> cases b <;>
    exact of_read rfl (by with_unfolding_all rfl) (by with_unfolding_all rfl)
theorem RoundTrip.wait (g : Guard) (cls : BitVec 3) (n : BitVec 6) : RoundTrip.Statement (.wait g cls n) := by
  cases g <;>
    exact of_read rfl (by with_unfolding_all rfl) ((show _ = Except.ok (Instr.wait _ (BitVec.extractLsb' 0 3 (BitVec.extractLsb' 0 4 n ++ cls))
      (BitVec.extractLsb' 0 2 (BitVec.setWidth 7 (BitVec.extractLsb' 4 2 n)) ++ BitVec.extractLsb' 3 4 (BitVec.extractLsb' 0 4 n ++ cls))) by with_unfolding_all rfl).trans
      (by rw [Bits.take_low, Bits.take_high, Bits.take_wide _ (show 2 ≤ 7 by omega), Bits.join (n := 2) (m := 4)] <;> with_unfolding_all rfl))
theorem RoundTrip.wtok (g : Guard) (w : BitVec 4) : RoundTrip.Statement (.wtok g w) := by
  cases g <;>
    exact of_read rfl (by with_unfolding_all rfl) ((show _ = Except.ok (Instr.wtok _ (BitVec.extractLsb' 0 4 (BitVec.setWidth 7 w))) by with_unfolding_all rfl).trans (by rw [Bits.take_wide w (show 4 ≤ 7 by omega)] <;> with_unfolding_all rfl))
theorem RoundTrip.await (g : Guard) (d : Reg) (a : Reg) : RoundTrip.Statement (.await g d a) := by
  cases g <;>
    exact of_read rfl (by with_unfolding_all rfl) (by with_unfolding_all rfl)
theorem RoundTrip.release (g : Guard) (a : Reg) (b : Reg) : RoundTrip.Statement (.release g a b) := by
  cases g <;>
    exact of_read rfl (by with_unfolding_all rfl) (by with_unfolding_all rfl)
theorem RoundTrip.send (g : Guard) (d : Reg) (c : Reg) : RoundTrip.Statement (.send g d c) := by
  cases g <;>
    exact of_read rfl (by with_unfolding_all rfl) (by with_unfolding_all rfl)
theorem RoundTrip.recv (g : Guard) (d : Reg) (c : Reg) : RoundTrip.Statement (.recv g d c) := by
  cases g <;>
    exact of_read rfl (by with_unfolding_all rfl) (by with_unfolding_all rfl)
theorem RoundTrip.enq (g : Guard) (pd : PReg) (a : Reg) (b : Reg) : RoundTrip.Statement (.enq g pd a b) := by
  cases g <;>
    exact of_read rfl (by with_unfolding_all rfl) ((show _ = Except.ok (Instr.enq _ (BitVec.extractLsb' 0 3 (BitVec.setWidth 7 pd)) a b) by with_unfolding_all rfl).trans (by rw [Bits.take_wide pd (show 3 ≤ 7 by omega)] <;> with_unfolding_all rfl))
theorem RoundTrip.deq (g : Guard) (d : Reg) (a : Reg) (pd : PReg) : RoundTrip.Statement (.deq g d a pd) := by
  cases g <;>
    exact of_read rfl (by with_unfolding_all rfl) ((show _ = Except.ok (Instr.deq _ d a (BitVec.extractLsb' 0 3 (BitVec.setWidth 7 pd))) by with_unfolding_all rfl).trans (by rw [Bits.take_wide pd (show 3 ≤ 7 by omega)] <;> with_unfolding_all rfl))
theorem RoundTrip.selX (x : XG) (p : PReg) (d : Reg) (a : Reg) (b : XSrc) : RoundTrip.Statement (.selX x p d a b) := by
  cases b <;>
    exact of_read rfl (by with_unfolding_all rfl) ((show _ = Except.ok (Instr.selX x (BitVec.extractLsb' 0 3 (BitVec.setWidth 8 p)) d a _) by with_unfolding_all rfl).trans (by rw [Bits.take_wide p (show 3 ≤ 8 by omega)] <;> with_unfolding_all rfl))
theorem RoundTrip.divS (x : XG) (d : Reg) (a : Reg) (b : XSrc) : RoundTrip.Statement (.divS x d a b) := by
  cases b <;>
    exact of_read rfl (by with_unfolding_all rfl) (by with_unfolding_all rfl)
theorem RoundTrip.divU (x : XG) (d : Reg) (a : Reg) (b : XSrc) : RoundTrip.Statement (.divU x d a b) := by
  cases b <;>
    exact of_read rfl (by with_unfolding_all rfl) (by with_unfolding_all rfl)
theorem RoundTrip.remS (x : XG) (d : Reg) (a : Reg) (b : XSrc) : RoundTrip.Statement (.remS x d a b) := by
  cases b <;>
    exact of_read rfl (by with_unfolding_all rfl) (by with_unfolding_all rfl)
theorem RoundTrip.remU (x : XG) (d : Reg) (a : Reg) (b : XSrc) : RoundTrip.Statement (.remU x d a b) := by
  cases b <;>
    exact of_read rfl (by with_unfolding_all rfl) (by with_unfolding_all rfl)
theorem RoundTrip.addc (x : XG) (d : Reg) (a : Reg) (b : XSrc) (pin : PReg) (pout : PReg) : RoundTrip.Statement (.addc x d a b pin pout) := by
  cases b <;>
    exact of_read rfl (by with_unfolding_all rfl) ((show _ = Except.ok (Instr.addc x d a _ (BitVec.extractLsb' 0 3 ((0 : BitVec 2) ++ pout ++ pin)) (BitVec.extractLsb' 3 3 ((0 : BitVec 2) ++ pout ++ pin))) by with_unfolding_all rfl).trans (by rw [Bits.take_low, Bits.take_mid] <;> with_unfolding_all rfl))
theorem RoundTrip.subb (x : XG) (d : Reg) (a : Reg) (b : XSrc) (pin : PReg) (pout : PReg) : RoundTrip.Statement (.subb x d a b pin pout) := by
  cases b <;>
    exact of_read rfl (by with_unfolding_all rfl) ((show _ = Except.ok (Instr.subb x d a _ (BitVec.extractLsb' 0 3 ((0 : BitVec 2) ++ pout ++ pin)) (BitVec.extractLsb' 3 3 ((0 : BitVec 2) ++ pout ++ pin))) by with_unfolding_all rfl).trans (by rw [Bits.take_low, Bits.take_mid] <;> with_unfolding_all rfl))
theorem RoundTrip.mul64 (x : XG) (d : Reg) (a : Reg) (b : XSrc) : RoundTrip.Statement (.mul64 x d a b) := by
  cases b <;>
    exact of_read rfl (by with_unfolding_all rfl) (by with_unfolding_all rfl)
theorem RoundTrip.mulw (x : XG) (sgn : Bool) (d : Reg) (a : Reg) (b : XSrc) : RoundTrip.Statement (.mulw x sgn d a b) := by
  cases sgn <;> cases b <;>
    exact of_read rfl (by with_unfolding_all rfl) (by with_unfolding_all rfl)
theorem RoundTrip.lea (x : XG) (zx : Bool) (sh : BitVec 2) (d : Reg) (a : Reg) (b : XSrc) : RoundTrip.Statement (.lea x zx sh d a b) := by
  cases zx <;> cases b <;>
    exact of_read rfl (by with_unfolding_all rfl) ((show _ = Except.ok (Instr.lea x _ (BitVec.extractLsb' 0 2 (BitVec.setWidth 8 sh)) d a _) by with_unfolding_all rfl).trans (by rw [Bits.take_wide sh (show 2 ≤ 8 by omega)] <;> with_unfolding_all rfl))
theorem RoundTrip.li64 (x : XG) (d : Reg) (i : XImm) : RoundTrip.Statement (.li64 x d i) := by
  cases i <;>
    exact of_read rfl (by with_unfolding_all rfl) (by with_unfolding_all rfl)
theorem RoundTrip.sext (x : XG) (d : Reg) (a : Reg) (w : BitVec 5) : RoundTrip.Statement (.sext x d a w) := by
  exact of_read rfl (by with_unfolding_all rfl) ((show _ = Except.ok (Instr.sext x d a (BitVec.extractLsb' 0 5 (BitVec.setWidth 8 w))) by with_unfolding_all rfl).trans (by rw [Bits.take_wide w (show 5 ≤ 8 by omega)] <;> with_unfolding_all rfl))
theorem RoundTrip.zext (x : XG) (d : Reg) (a : Reg) (w : BitVec 5) : RoundTrip.Statement (.zext x d a w) := by
  exact of_read rfl (by with_unfolding_all rfl) ((show _ = Except.ok (Instr.zext x d a (BitVec.extractLsb' 0 5 (BitVec.setWidth 8 w))) by with_unfolding_all rfl).trans (by rw [Bits.take_wide w (show 5 ≤ 8 by omega)] <;> with_unfolding_all rfl))
theorem RoundTrip.cmp64 (x : XG) (cc : ICond) (pd : PReg) (a : Reg) (b : XSrc) : RoundTrip.Statement (.cmp64 x cc pd a b) := by
  cases cc <;> cases b <;>
    exact of_read rfl (by with_unfolding_all rfl) ((show _ = Except.ok (Instr.cmp64 x _ (BitVec.extractLsb' 0 3 (BitVec.setWidth 7 pd)) a _) by with_unfolding_all rfl).trans (by rw [Bits.take_wide pd (show 3 ≤ 7 by omega)] <;> with_unfolding_all rfl))
theorem RoundTrip.dsh (x : XG) (left : Bool) (clamp : Bool) (d : Reg) (a : Reg) (b : XSrc) (e : Reg) : RoundTrip.Statement (.dsh x left clamp d a b e) := by
  cases left <;> cases clamp <;> cases b <;>
    exact of_read rfl (by with_unfolding_all rfl) (by with_unfolding_all rfl)
theorem RoundTrip.bsel (x : XG) (d : Reg) (a : Reg) (b : XSrc) (e : Reg) : RoundTrip.Statement (.bsel x d a b e) := by
  cases b <;>
    exact of_read rfl (by with_unfolding_all rfl) (by with_unfolding_all rfl)
theorem RoundTrip.ffmaX (x : XG) (rm : Rm) (d : Reg) (a : Reg) (b : XSrc) (e : Reg) : RoundTrip.Statement (.ffmaX x rm d a b e) := by
  cases rm <;> cases b <;>
    exact of_read rfl (by with_unfolding_all rfl) (by with_unfolding_all rfl)
theorem RoundTrip.faddX (x : XG) (rm : Rm) (d : Reg) (a : Reg) (b : XSrc) : RoundTrip.Statement (.faddX x rm d a b) := by
  cases rm <;> cases b <;>
    exact of_read rfl (by with_unfolding_all rfl) (by with_unfolding_all rfl)
theorem RoundTrip.fmulX (x : XG) (rm : Rm) (d : Reg) (a : Reg) (b : XSrc) : RoundTrip.Statement (.fmulX x rm d a b) := by
  cases rm <;> cases b <;>
    exact of_read rfl (by with_unfolding_all rfl) (by with_unfolding_all rfl)
theorem RoundTrip.fdiv (x : XG) (rm : Rm) (d : Reg) (a : Reg) (b : XSrc) : RoundTrip.Statement (.fdiv x rm d a b) := by
  cases rm <;> cases b <;>
    exact of_read rfl (by with_unfolding_all rfl) (by with_unfolding_all rfl)
theorem RoundTrip.fsqrt (x : XG) (d : Reg) (a : Reg) : RoundTrip.Statement (.fsqrt x d a) := by
  exact of_read rfl (by with_unfolding_all rfl) (by with_unfolding_all rfl)
theorem RoundTrip.fcvtX (x : XG) (rm : Rm) (cv : Cvt) (d : Reg) (a : Reg) : RoundTrip.Statement (.fcvtX x rm cv d a) := by
  cases rm <;> cases cv <;>
    exact of_read rfl (by with_unfolding_all rfl) (by with_unfolding_all rfl)
theorem RoundTrip.frnd (x : XG) (rm : Rm) (d : Reg) (a : Reg) : RoundTrip.Statement (.frnd x rm d a) := by
  cases rm <;>
    exact of_read rfl (by with_unfolding_all rfl) (by with_unfolding_all rfl)
theorem RoundTrip.fldexp (x : XG) (rm : Rm) (d : Reg) (a : Reg) (b : XSrc) : RoundTrip.Statement (.fldexp x rm d a b) := by
  cases rm <;> cases b <;>
    exact of_read rfl (by with_unfolding_all rfl) (by with_unfolding_all rfl)
theorem RoundTrip.ffrexp (x : XG) (d : Reg) (a : Reg) (e : Reg) : RoundTrip.Statement (.ffrexp x d a e) := by
  exact of_read rfl (by with_unfolding_all rfl) (by with_unfolding_all rfl)
theorem RoundTrip.hfma2X (x : XG) (rm : Rm) (d : Reg) (a : Reg) (b : XSrc) (e : Reg) : RoundTrip.Statement (.hfma2X x rm d a b e) := by
  cases rm <;> cases b <;>
    exact of_read rfl (by with_unfolding_all rfl) (by with_unfolding_all rfl)
theorem RoundTrip.fdot2 (x : XG) (rm : Rm) (d : Reg) (a : Reg) (b : XSrc) (e : Reg) : RoundTrip.Statement (.fdot2 x rm d a b e) := by
  cases rm <;> cases b <;>
    exact of_read rfl (by with_unfolding_all rfl) (by with_unfolding_all rfl)
theorem RoundTrip.shflX (x : XG) (op : ShflOp) (w : BitVec 3) (d : Reg) (a : Reg) (b : XSrc) (pv : PReg) (h : BitVec 5) : RoundTrip.Statement (.shflX x op w d a b pv h) := by
  cases op <;> cases b <;>
    exact of_read rfl (by with_unfolding_all rfl) ((show _ = Except.ok (Instr.shflX x _ (BitVec.extractLsb' 0 3 (h ++ w)) d a _ (BitVec.extractLsb' 0 3 (BitVec.setWidth 7 pv)) (BitVec.extractLsb' 3 5 (h ++ w))) by with_unfolding_all rfl).trans (by rw [Bits.take_high, Bits.take_low, Bits.take_wide pv (show 3 ≤ 7 by omega)] <;> with_unfolding_all rfl))
theorem RoundTrip.voteX (x : XG) (mode : VoteMode) (w : BitVec 3) (d : Reg) (ps : PReg) (pd : PReg) (h : BitVec 5) : RoundTrip.Statement (.voteX x mode w d ps pd h) := by
  cases mode <;>
    exact of_read rfl (by with_unfolding_all rfl) ((show _ = Except.ok (Instr.voteX x _ (BitVec.extractLsb' 0 3 (h ++ w)) d (BitVec.extractLsb' 0 3 (BitVec.setWidth 7 ps)) (BitVec.extractLsb' 0 3 (BitVec.setWidth 7 pd)) (BitVec.extractLsb' 3 5 (h ++ w))) by with_unfolding_all rfl).trans (by rw [Bits.take_high, Bits.take_low, Bits.take_wide ps (show 3 ≤ 7 by omega), Bits.take_wide pd (show 3 ≤ 7 by omega)] <;> with_unfolding_all rfl))
theorem RoundTrip.reduxX (x : XG) (op : RedOp) (w : BitVec 3) (d : Reg) (a : Reg) (h : BitVec 5) : RoundTrip.Statement (.reduxX x op w d a h) := by
  cases op <;>
    exact of_read rfl (by with_unfolding_all rfl) ((show _ = Except.ok (Instr.reduxX x _ (BitVec.extractLsb' 0 3 (h ++ w)) d a (BitVec.extractLsb' 3 5 (h ++ w))) by with_unfolding_all rfl).trans (by rw [Bits.take_high, Bits.take_low] <;> with_unfolding_all rfl))
theorem RoundTrip.scan (x : XG) (op : RedOp) (ex : Bool) (w : BitVec 3) (d : Reg) (a : Reg) (h : BitVec 5) : RoundTrip.Statement (.scan x op ex w d a h) := by
  cases op <;> cases ex <;>
    exact of_read rfl (by with_unfolding_all rfl) ((show _ = Except.ok (Instr.scan x _ _ (BitVec.extractLsb' 0 3 (h ++ w)) d a (BitVec.extractLsb' 3 5 (h ++ w))) by with_unfolding_all rfl).trans (by rw [Bits.take_high, Bits.take_low] <;> with_unfolding_all rfl))
theorem RoundTrip.peers (x : XG) (b64 : Bool) (all : Bool) (w : BitVec 3) (d : Reg) (a : Reg) (pd : PReg) (h : BitVec 5) : RoundTrip.Statement (.peers x b64 all w d a pd h) := by
  cases b64 <;> cases all <;>
    exact of_read rfl (by with_unfolding_all rfl) ((show _ = Except.ok (Instr.peers x _ _ (BitVec.extractLsb' 0 3 (h ++ w)) d a (BitVec.extractLsb' 0 3 (BitVec.setWidth 7 pd)) (BitVec.extractLsb' 3 5 (h ++ w))) by with_unfolding_all rfl).trans (by rw [Bits.take_high, Bits.take_low, Bits.take_wide pd (show 3 ≤ 7 by omega)] <;> with_unfolding_all rfl))
theorem RoundTrip.hset (x : XG) (mask : Bool) (h : BitVec 5) (v : XSrc) : RoundTrip.Statement (.hset x mask h v) := by
  cases mask <;> cases v <;>
    exact of_read rfl (by with_unfolding_all rfl) ((show _ = Except.ok (Instr.hset x _ (BitVec.extractLsb' 3 5 (h ++ (0 : BitVec 3))) _) by with_unfolding_all rfl).trans (by rw [Bits.take_high] <;> with_unfolding_all rfl))
theorem RoundTrip.hbarX (x : XG) (h : BitVec 5) : RoundTrip.Statement (.hbarX x h) := by
  exact of_read rfl (by with_unfolding_all rfl) ((show _ = Except.ok (Instr.hbarX x (BitVec.extractLsb' 3 5 (h ++ (0 : BitVec 3)))) by with_unfolding_all rfl).trans (by rw [Bits.take_high] <;> with_unfolding_all rfl))
theorem RoundTrip.kset (x : XG) (k : Reg) (v : XSrc) (h : BitVec 5) : RoundTrip.Statement (.kset x k v h) := by
  cases v <;>
    exact of_read rfl (by with_unfolding_all rfl) ((show _ = Except.ok (Instr.kset x k _ (BitVec.extractLsb' 3 5 (h ++ (0 : BitVec 3)))) by with_unfolding_all rfl).trans (by rw [Bits.take_high] <;> with_unfolding_all rfl))
theorem RoundTrip.hq (x : XG) (d : Reg) (h : BitVec 5) : RoundTrip.Statement (.hq x d h) := by
  exact of_read rfl (by with_unfolding_all rfl) ((show _ = Except.ok (Instr.hq x d (BitVec.extractLsb' 3 5 (h ++ (0 : BitVec 3)))) by with_unfolding_all rfl).trans (by rw [Bits.take_high] <;> with_unfolding_all rfl))
theorem RoundTrip.sread (x : XG) (d : Reg) (r : SReg) : RoundTrip.Statement (.sread x d r) := by
  cases r <;>
    exact of_read rfl (by with_unfolding_all rfl) (by with_unfolding_all rfl)
theorem RoundTrip.swrite (x : XG) (r : SReg) (a : Reg) : RoundTrip.Statement (.swrite x r a) := by
  cases r <;>
    exact of_read rfl (by with_unfolding_all rfl) (by with_unfolding_all rfl)
theorem RoundTrip.grow (x : XG) (pd : PReg) (n : BitVec 2) (t : Bool) : RoundTrip.Statement (.grow x pd n t) := by
  cases t <;>
    exact of_read rfl (by with_unfolding_all rfl) ((show _ = Except.ok (Instr.grow x (BitVec.extractLsb' 0 3 (BitVec.setWidth 7 pd)) (BitVec.extractLsb' 0 2 (BitVec.setWidth 8 n)) _) by with_unfolding_all rfl).trans (by rw [Bits.take_wide pd (show 3 ≤ 7 by omega), Bits.take_wide n (show 2 ≤ 8 by omega)] <;> with_unfolding_all rfl))
theorem RoundTrip.shrink (x : XG) (n : BitVec 2) : RoundTrip.Statement (.shrink x n) := by
  exact of_read rfl (by with_unfolding_all rfl) ((show _ = Except.ok (Instr.shrink x (BitVec.extractLsb' 0 2 (BitVec.setWidth 8 n))) by with_unfolding_all rfl).trans (by rw [Bits.take_wide n (show 2 ≤ 8 by omega)] <;> with_unfolding_all rfl))
theorem RoundTrip.kmov (x : XG) (d : Reg) (k : Reg) : RoundTrip.Statement (.kmov x d k) := by
  exact of_read rfl (by with_unfolding_all rfl) (by with_unfolding_all rfl)
theorem RoundTrip.pmovGet (x : XG) (d : Reg) : RoundTrip.Statement (.pmovGet x d) := by
  exact of_read rfl (by with_unfolding_all rfl) (by with_unfolding_all rfl)
theorem RoundTrip.pmovSet (x : XG) (a : Reg) (mask : BitVec 7) : RoundTrip.Statement (.pmovSet x a mask) := by
  exact of_read rfl (by with_unfolding_all rfl) ((show _ = Except.ok (Instr.pmovSet x a (BitVec.extractLsb' 0 7 (BitVec.setWidth 8 mask))) by with_unfolding_all rfl).trans (by rw [Bits.take_wide mask (show 7 ≤ 8 by omega)] <;> with_unfolding_all rfl))
theorem RoundTrip.capmint (x : XG) (rt : CapRight) (d : Reg) (a : Reg) (b : Reg) (pr : PReg) (n : BitVec 6) : RoundTrip.Statement (.capmint x rt d a b pr n) := by
  cases rt <;>
    exact of_read rfl (by with_unfolding_all rfl) ((show _ = Except.ok (Instr.capmint x _ d a b (BitVec.extractLsb' 0 3 (BitVec.setWidth 7 pr)) (BitVec.extractLsb' 0 6 (BitVec.setWidth 32 n))) by with_unfolding_all rfl).trans (by rw [Bits.take_wide pr (show 3 ≤ 7 by omega), Bits.take_wide n (show 6 ≤ 32 by omega)] <;> with_unfolding_all rfl))
theorem RoundTrip.caprevoke (x : XG) (a : Reg) (pr : PReg) : RoundTrip.Statement (.caprevoke x a pr) := by
  exact of_read rfl (by with_unfolding_all rfl) ((show _ = Except.ok (Instr.caprevoke x a (BitVec.extractLsb' 0 3 (BitVec.setWidth 7 pr))) by with_unfolding_all rfl).trans (by rw [Bits.take_wide pr (show 3 ≤ 7 by omega)] <;> with_unfolding_all rfl))
theorem RoundTrip.capinfo (x : XG) (d : Reg) (a : Reg) : RoundTrip.Statement (.capinfo x d a) := by
  exact of_read rfl (by with_unfolding_all rfl) (by with_unfolding_all rfl)
theorem RoundTrip.putX (v : XA) (i : BitVec 5) (a : Reg) (b : Reg) (lane : Option (BitVec 5)) : RoundTrip.Statement (.putX v i a b lane) := by
  exact of_read rfl (by with_unfolding_all rfl) ((show _ = Except.ok (Instr.putX ⟨v.x, tokOf _⟩ (BitVec.extractLsb' 0 5 (BitVec.setWidth 7 i)) a b (if BitVec.getLsbD (laneImm lane) 5 then some (BitVec.extractLsb' 0 5 (laneImm lane)) else none)) by with_unfolding_all rfl).trans
      (by rw [tok_xa v.tok false _ rfl, Bits.take_wide i (show 5 ≤ 7 by omega), lane_bits] <;> with_unfolding_all rfl))
theorem RoundTrip.putvX (v : XA) (i : BitVec 5) (a : Reg) (b : Reg) : RoundTrip.Statement (.putvX v i a b) := by
  exact of_read rfl (by with_unfolding_all rfl) ((show _ = Except.ok (Instr.putvX ⟨v.x, tokOf _⟩ (BitVec.extractLsb' 0 5 (BitVec.setWidth 7 i)) a b) by with_unfolding_all rfl).trans
      (by rw [tok_xa v.tok false _ rfl, Bits.take_wide i (show 5 ≤ 7 by omega)] <;> with_unfolding_all rfl))
theorem RoundTrip.putadd (v : XA) (f : Bool) (i : BitVec 5) (a : Reg) (b : Reg) (lane : Option (BitVec 5)) : RoundTrip.Statement (.putadd v f i a b lane) := by
  cases f <;>
    exact of_read rfl (by with_unfolding_all rfl) ((show _ = Except.ok (Instr.putadd ⟨v.x, tokOf _⟩ _ (BitVec.extractLsb' 0 5 (BitVec.setWidth 7 i)) a b (if BitVec.getLsbD (laneImm lane) 5 then some (BitVec.extractLsb' 0 5 (laneImm lane)) else none)) by with_unfolding_all rfl).trans
      (by rw [tok_xa v.tok false _ rfl, Bits.take_wide i (show 5 ≤ 7 by omega), lane_bits] <;> with_unfolding_all rfl))
theorem RoundTrip.emptyX (x : XG) (d : Reg) (e : Reg) (n : BitVec 6) : RoundTrip.Statement (.emptyX x d e n) := by
  exact of_read rfl (by with_unfolding_all rfl) ((show _ = Except.ok (Instr.emptyX x d e (BitVec.extractLsb' 0 6 (BitVec.setWidth 32 n))) by with_unfolding_all rfl).trans (by rw [Bits.take_wide n (show 6 ≤ 32 by omega)] <;> with_unfolding_all rfl))
theorem RoundTrip.ld (x : XG) (sz : Size) (sx : Bool) (acq : Option Scope) (pol : Policy) (d : Reg) (m : Mem) : RoundTrip.Statement (.ld x sz sx acq pol d m) := by
  obtain ⟨sp, r, dp⟩ := m
  have hr := rd_ld (encXM 0x00 x (scopeN acq) (policyCodes.idxOf pol) (spaceCodes.idxOf sp) (sizeCodes.idxOf sz)
    (if acq.isSome then 1 else 0) dp { d, a := r, e := (BitVec.ofBool sx).setWidth 7 }) (by cases dp <;> with_unfolding_all rfl) (by cases dp <;> with_unfolding_all rfl)
  refine of_read rfl (by cases dp <;> with_unfolding_all rfl) (hr.trans ?_)
  rw [size_xm, policy_xm, mem_xm, scopeIf_acq]
  · cases dp <;> cases sx <;> with_unfolding_all rfl
  · rfl
theorem RoundTrip.st (x : XG) (sz : Size) (rel : Option Scope) (pol : Policy) (m : Mem) (b : Reg) : RoundTrip.Statement (.st x sz rel pol m b) := by
  obtain ⟨sp, r, dp⟩ := m
  have hr := rd_st (encXM 0x01 x (scopeN rel) (policyCodes.idxOf pol) (spaceCodes.idxOf sp) (sizeCodes.idxOf sz)
    (if rel.isSome then 2 else 0) dp { a := r, b }) (by cases dp <;> with_unfolding_all rfl) (by cases dp <;> with_unfolding_all rfl)
  refine of_read rfl (by cases dp <;> with_unfolding_all rfl) (hr.trans ?_)
  rw [size_xm, policy_xm, mem_xm, scopeIf_rel]
  · cases dp <;> with_unfolding_all rfl
  · rfl
theorem RoundTrip.atom (x : XG) (op : AtomOp) (sz : Size) (o : MemOrd) (sc : Scope) (d : Reg) (m : Mem) (b : Reg) : RoundTrip.Statement (.atom x op sz o sc d m b) := by
  obtain ⟨sp, r, dp⟩ := m
  have hr := rd_atom (encXM 0x02 x (scopeCodes.idxOf sc) 0 (spaceCodes.idxOf sp) (sizeCodes.idxOf sz) (orderCodes.idxOf o) dp
    { d, a := r, b, e := itemCode atomCodes op 7 }) (by cases dp <;> with_unfolding_all rfl) (by cases dp <;> with_unfolding_all rfl)
  refine of_read rfl (by cases dp <;> with_unfolding_all rfl) (hr.trans ?_)
  rw [size_xm, mem_xm, order_xm, scope_xm]
  · cases dp <;> cases op <;> with_unfolding_all rfl
  · rfl
theorem RoundTrip.cas (x : XG) (sz : Size) (o : MemOrd) (sc : Scope) (d : Reg) (m : Mem) (b : Reg) (e : Reg) : RoundTrip.Statement (.cas x sz o sc d m b e) := by
  obtain ⟨sp, r, dp⟩ := m
  have hr := rd_cas (encXM 0x03 x (scopeCodes.idxOf sc) 0 (spaceCodes.idxOf sp) (sizeCodes.idxOf sz) (orderCodes.idxOf o) dp
    { d, a := r, b, e }) (by cases dp <;> with_unfolding_all rfl) (by cases dp <;> with_unfolding_all rfl)
  refine of_read rfl (by cases dp <;> with_unfolding_all rfl) (hr.trans ?_)
  rw [size_xm, mem_xm, order_xm, scope_xm]
  · cases dp <;> with_unfolding_all rfl
  · rfl
theorem RoundTrip.prefetch (x : XG) (pol : Policy) (m : GMem) : RoundTrip.Statement (.prefetch x pol m) := by
  obtain ⟨r, dp⟩ := m
  cases dp <;> cases pol <;> exact of_read rfl (by with_unfolding_all rfl) (by with_unfolding_all rfl)
theorem RoundTrip.cflush (x : XG) (m : GMem) (b : Reg) : RoundTrip.Statement (.cflush x m b) := by
  obtain ⟨r, dp⟩ := m
  cases dp <;> exact of_read rfl (by with_unfolding_all rfl) (by with_unfolding_all rfl)
theorem RoundTrip.cinval (x : XG) (all : Bool) (m : GMem) (b : Reg) : RoundTrip.Statement (.cinval x all m b) := by
  obtain ⟨r, dp⟩ := m
  cases dp <;> cases all <;> exact of_read rfl (by with_unfolding_all rfl) (by with_unfolding_all rfl)
theorem RoundTrip.pin (x : XG) (pd : PReg) (m : GMem) (b : Reg) (e : Reg) : RoundTrip.Statement (.pin x pd m b e) := by
  obtain ⟨r, dp⟩ := m
  cases dp <;>
    exact of_read rfl (by with_unfolding_all rfl) ((show _ = Except.ok (Instr.pin x (BitVec.extractLsb' 0 3 (BitVec.setWidth 7 pd)) ⟨r, _⟩ b e) by with_unfolding_all rfl).trans
      (by rw [Bits.take_wide pd (show 3 ≤ 7 by omega)] <;> with_unfolding_all rfl))
theorem RoundTrip.unpin (x : XG) (pd : PReg) (m : GMem) : RoundTrip.Statement (.unpin x pd m) := by
  obtain ⟨r, dp⟩ := m
  cases dp <;>
    exact of_read rfl (by with_unfolding_all rfl) ((show _ = Except.ok (Instr.unpin x (BitVec.extractLsb' 0 3 (BitVec.setWidth 7 pd)) ⟨r, _⟩) by with_unfolding_all rfl).trans
      (by rw [Bits.take_wide pd (show 3 ≤ 7 by omega)] <;> with_unfolding_all rfl))
theorem RoundTrip.fence (x : XG) (k : FenceKind) (sc : Scope) : RoundTrip.Statement (.fence x k sc) := by
  refine of_read rfl (by with_unfolding_all rfl) ((rd_fence _ rfl rfl).trans ?_)
  rw [mods_xm, Bits.take_low, scope_xm]
  cases k <;> rfl
theorem RoundTrip.tdset (t : XT) (d : Reg) (a : Reg) : RoundTrip.Statement (.tdset t d a) := by
  exact of_read rfl (by with_unfolding_all rfl) ((show _ = Except.ok (Instr.tdset ⟨t.x, BitVec.extractLsb' 0 5 (BitVec.setWidth 7 t.h), tokOf _⟩ d a) by with_unfolding_all rfl).trans
      (by rw [tok_xt t.tok _ rfl, Bits.take_wide t.h (show 5 ≤ 7 by omega)] <;> with_unfolding_all rfl))
theorem RoundTrip.tdget (t : XT) (d : Reg) (a : Reg) : RoundTrip.Statement (.tdget t d a) := by
  exact of_read rfl (by with_unfolding_all rfl) ((show _ = Except.ok (Instr.tdget ⟨t.x, BitVec.extractLsb' 0 5 (BitVec.setWidth 7 t.h), tokOf _⟩ d a) by with_unfolding_all rfl).trans
      (by rw [tok_xt t.tok _ rfl, Bits.take_wide t.h (show 5 ≤ 7 by omega)] <;> with_unfolding_all rfl))
theorem RoundTrip.tload (t : XT) (cl : Bool) (d : Reg) (a : Reg) (disp : BitVec 21) : RoundTrip.Statement (.tload t cl d a disp) := by
  cases cl <;>
    exact of_read rfl (by with_unfolding_all rfl) ((show _ = Except.ok (Instr.tload ⟨t.x, BitVec.extractLsb' 0 5 (BitVec.setWidth 7 t.h), tokOf _⟩ _ d a (BitVec.extractLsb' 0 21 (BitVec.setWidth 32 disp))) by with_unfolding_all rfl).trans
      (by rw [tok_xt t.tok _ rfl, Bits.take_wide t.h (show 5 ≤ 7 by omega), Bits.take_wide disp (show 21 ≤ 32 by omega)] <;> with_unfolding_all rfl))
theorem RoundTrip.tstore (t : XT) (cl : Bool) (a : Reg) (b : Reg) (disp : BitVec 21) : RoundTrip.Statement (.tstore t cl a b disp) := by
  cases cl <;>
    exact of_read rfl (by with_unfolding_all rfl) ((show _ = Except.ok (Instr.tstore ⟨t.x, BitVec.extractLsb' 0 5 (BitVec.setWidth 7 t.h), tokOf _⟩ _ a b (BitVec.extractLsb' 0 21 (BitVec.setWidth 32 disp))) by with_unfolding_all rfl).trans
      (by rw [tok_xt t.tok _ rfl, Bits.take_wide t.h (show 5 ≤ 7 by omega), Bits.take_wide disp (show 21 ≤ 32 by omega)] <;> with_unfolding_all rfl))
theorem RoundTrip.tzero (t : XT) (d : Reg) : RoundTrip.Statement (.tzero t d) := by
  exact of_read rfl (by with_unfolding_all rfl) ((show _ = Except.ok (Instr.tzero ⟨t.x, BitVec.extractLsb' 0 5 (BitVec.setWidth 7 t.h), tokOf _⟩ d) by with_unfolding_all rfl).trans
      (by rw [tok_xt t.tok _ rfl, Bits.take_wide t.h (show 5 ≤ 7 by omega)] <;> with_unfolding_all rfl))
theorem RoundTrip.split (t : XT) (sat : Bool) (cl : Bool) (d : Reg) (a : Reg) (disp : BitVec 21) : RoundTrip.Statement (.split t sat cl d a disp) := by
  cases sat <;> cases cl <;>
    exact of_read rfl (by with_unfolding_all rfl) ((show _ = Except.ok (Instr.split ⟨t.x, BitVec.extractLsb' 0 5 (BitVec.setWidth 7 t.h), tokOf _⟩ _ _ d a (BitVec.extractLsb' 0 21 (BitVec.setWidth 32 disp))) by with_unfolding_all rfl).trans
      (by rw [tok_xt t.tok _ rfl, Bits.take_wide t.h (show 5 ≤ 7 by omega), Bits.take_wide disp (show 21 ≤ 32 by omega)] <;> with_unfolding_all rfl))
theorem RoundTrip.azero (t : XT) (d : Reg) (m : BitVec 2) (n : BitVec 2) : RoundTrip.Statement (.azero t d m n) := by
  exact of_read rfl (by with_unfolding_all rfl) ((show _ = Except.ok (Instr.azero ⟨t.x, BitVec.extractLsb' 0 5 (BitVec.setWidth 7 t.h), tokOf _⟩ d (BitVec.extractLsb' 0 2 (BitVec.setWidth 32 (n ++ m))) (BitVec.extractLsb' 2 2 (BitVec.setWidth 32 (n ++ m)))) by with_unfolding_all rfl).trans
      (by rw [tok_xt t.tok _ rfl, Bits.take_wide t.h (show 5 ≤ 7 by omega), Bits.take_wide_at _ 0 2 (by omega), Bits.take_wide_at _ 2 2 (by omega), Bits.take_low, Bits.take_high] <;> with_unfolding_all rfl))
theorem RoundTrip.adrain (t : XT) (fmt : DrainFmt) (z : Bool) (mon : Option (BitVec 4)) (cl : Bool) (d : Reg) (a : Reg) (b : Reg) (disp : BitVec 21) : RoundTrip.Statement (.adrain t fmt z mon cl d a b disp) := by
  refine of_read rfl (by with_unfolding_all rfl) ((rd_adrain _ rfl rfl).trans ?_)
  simp only [show (encXT 0x66 0x07 t { d, a, b, sel := cl, hi := hi4 (drainCodes.idxOf fmt + bit z 2 + bit mon.isSome 3), imm := mon.getD 0 ++ (0 : BitVec 7) ++ disp }).mods
    = hi4 (drainCodes.idxOf fmt + bit z 2 + bit mon.isSome 3) ++ BitVec.ofBool cl from rfl, show (encXT 0x66 0x07 t { d, a, b, sel := cl, hi := hi4 (drainCodes.idxOf fmt + bit z 2 + bit mon.isSome 3), imm := mon.getD 0 ++ (0 : BitVec 7) ++ disp }).imm
    = mon.getD 0 ++ (0 : BitVec 7) ++ disp from rfl, mods_fmt, mods_0, mods_3, mods_4, Bits.take_low, mon_bits, xt_of]
  cases mon <;> cases fmt <;> cases z <;> with_unfolding_all rfl
theorem RoundTrip.aread (t : XT) (d : Reg) (a : Reg) (b : Reg) : RoundTrip.Statement (.aread t d a b) := by
  exact of_read rfl (by with_unfolding_all rfl) ((show _ = Except.ok (Instr.aread ⟨t.x, BitVec.extractLsb' 0 5 (BitVec.setWidth 7 t.h), tokOf _⟩ d a b) by with_unfolding_all rfl).trans
      (by rw [tok_xt t.tok _ rfl, Bits.take_wide t.h (show 5 ≤ 7 by omega)] <;> with_unfolding_all rfl))
theorem RoundTrip.awrite (t : XT) (d : Reg) (a : Reg) (b : Reg) : RoundTrip.Statement (.awrite t d a b) := by
  exact of_read rfl (by with_unfolding_all rfl) ((show _ = Except.ok (Instr.awrite ⟨t.x, BitVec.extractLsb' 0 5 (BitVec.setWidth 7 t.h), tokOf _⟩ d a b) by with_unfolding_all rfl).trans
      (by rw [tok_xt t.tok _ rfl, Bits.take_wide t.h (show 5 ≤ 7 by omega)] <;> with_unfolding_all rfl))
theorem RoundTrip.ascale (t : XT) (d : Reg) (k : Word) : RoundTrip.Statement (.ascale t d k) := by
  exact of_read rfl (by with_unfolding_all rfl) ((show _ = Except.ok (Instr.ascale ⟨t.x, BitVec.extractLsb' 0 5 (BitVec.setWidth 7 t.h), tokOf _⟩ d k) by with_unfolding_all rfl).trans
      (by rw [tok_xt t.tok _ rfl, Bits.take_wide t.h (show 5 ≤ 7 by omega)] <;> with_unfolding_all rfl))
theorem RoundTrip.reefq (t : XT) (d : Reg) (a : Reg) (b : Reg) : RoundTrip.Statement (.reefq t d a b) := by
  exact of_read rfl (by with_unfolding_all rfl) ((show _ = Except.ok (Instr.reefq ⟨t.x, BitVec.extractLsb' 0 5 (BitVec.setWidth 7 t.h), tokOf _⟩ d a b) by with_unfolding_all rfl).trans
      (by rw [tok_xt t.tok _ rfl, Bits.take_wide t.h (show 5 ≤ 7 by omega)] <;> with_unfolding_all rfl))
theorem RoundTrip.mmaS (t : XT) (d : Reg) (a : Reg) (b : Reg) : RoundTrip.Statement (.mmaS t d a b) := by
  exact of_read rfl (by with_unfolding_all rfl) ((show _ = Except.ok (Instr.mmaS ⟨t.x, BitVec.extractLsb' 0 5 (BitVec.setWidth 7 t.h), tokOf _⟩ d a b) by with_unfolding_all rfl).trans
      (by rw [tok_xt t.tok _ rfl, Bits.take_wide t.h (show 5 ≤ 7 by omega)] <;> with_unfolding_all rfl))
theorem RoundTrip.mmaB (t : XT) (d : Reg) (a : Reg) (b : Reg) : RoundTrip.Statement (.mmaB t d a b) := by
  exact of_read rfl (by with_unfolding_all rfl) ((show _ = Except.ok (Instr.mmaB ⟨t.x, BitVec.extractLsb' 0 5 (BitVec.setWidth 7 t.h), tokOf _⟩ d a b) by with_unfolding_all rfl).trans
      (by rw [tok_xt t.tok _ rfl, Bits.take_wide t.h (show 5 ≤ 7 by omega)] <;> with_unfolding_all rfl))
theorem RoundTrip.mmaE (t : XT) (d : Reg) (a : Reg) (b : Reg) : RoundTrip.Statement (.mmaE t d a b) := by
  exact of_read rfl (by with_unfolding_all rfl) ((show _ = Except.ok (Instr.mmaE ⟨t.x, BitVec.extractLsb' 0 5 (BitVec.setWidth 7 t.h), tokOf _⟩ d a b) by with_unfolding_all rfl).trans
      (by rw [tok_xt t.tok _ rfl, Bits.take_wide t.h (show 5 ≤ 7 by omega)] <;> with_unfolding_all rfl))
theorem RoundTrip.mmaprog (t : XT) (d : Reg) (a : Reg) (b : Reg) (n1 : BitVec 3) : RoundTrip.Statement (.mmaprog t d a b n1) := by
  exact of_read rfl (by with_unfolding_all rfl) ((show _ = Except.ok (Instr.mmaprog ⟨t.x, BitVec.extractLsb' 0 5 (BitVec.setWidth 7 t.h), tokOf _⟩ d a b (BitVec.extractLsb' 0 3 (BitVec.setWidth 32 n1))) by with_unfolding_all rfl).trans
      (by rw [tok_xt t.tok _ rfl, Bits.take_wide t.h (show 5 ≤ 7 by omega), Bits.take_wide n1 (show 3 ≤ 32 by omega)] <;> with_unfolding_all rfl))
theorem RoundTrip.copyLd (v : XA) (ring : Bool) (d : Reg) (a : Reg) (e : Reg) (h : BitVec 4) : RoundTrip.Statement (.copyLd v ring d a e h) := by
  exact of_read rfl (by with_unfolding_all rfl) ((show _ = Except.ok (Instr.copyLd ⟨v.x, tokOf _⟩ (BitVec.getLsbD (tokBits v.tok ++ BitVec.ofBool ring ++ (0 : BitVec 2)) 2) d a e (BitVec.extractLsb' 0 4 (BitVec.setWidth 32 h))) by with_unfolding_all rfl).trans
      (by rw [tok_xa v.tok ring _ rfl, ring_bit, Bits.take_wide h (show 4 ≤ 32 by omega)] <;> with_unfolding_all rfl))
theorem RoundTrip.copySt (v : XA) (d : Reg) (a : Reg) (e : Reg) (h : BitVec 4) : RoundTrip.Statement (.copySt v d a e h) := by
  exact of_read rfl (by with_unfolding_all rfl) ((show _ = Except.ok (Instr.copySt ⟨v.x, tokOf _⟩ d a e (BitVec.extractLsb' 0 4 (BitVec.setWidth 32 h))) by with_unfolding_all rfl).trans
      (by rw [tok_xa v.tok false _ rfl, Bits.take_wide h (show 4 ≤ 32 by omega)] <;> with_unfolding_all rfl))
theorem RoundTrip.copymc (v : XA) (d : Reg) (a : Reg) (b : Reg) (e : Reg) (h : BitVec 4) (lw : BitVec 20) : RoundTrip.Statement (.copymc v d a b e h lw) := by
  exact of_read rfl (by with_unfolding_all rfl) ((show _ = Except.ok (Instr.copymc ⟨v.x, tokOf _⟩ d a b e (BitVec.extractLsb' 0 4 (BitVec.setWidth 32 (lw ++ (0 : BitVec 4) ++ h))) (BitVec.extractLsb' 8 20 (BitVec.setWidth 32 (lw ++ (0 : BitVec 4) ++ h)))) by with_unfolding_all rfl).trans
      (by rw [tok_xa v.tok false _ rfl, Bits.take_wide_at _ 0 4 (by omega), Bits.take_wide_at _ 8 20 (by omega), Bits.take_low, lw_bits] <;> with_unfolding_all rfl))
theorem RoundTrip.gather (v : XA) (ring : Bool) (d : Reg) (a : Reg) (b : Reg) (e : Reg) (h : BitVec 4) : RoundTrip.Statement (.gather v ring d a b e h) := by
  exact of_read rfl (by with_unfolding_all rfl) ((show _ = Except.ok (Instr.gather ⟨v.x, tokOf _⟩ (BitVec.getLsbD (tokBits v.tok ++ BitVec.ofBool ring ++ (0 : BitVec 2)) 2) d a b e (BitVec.extractLsb' 0 4 (BitVec.setWidth 32 h))) by with_unfolding_all rfl).trans
      (by rw [tok_xa v.tok ring _ rfl, ring_bit, Bits.take_wide h (show 4 ≤ 32 by omega)] <;> with_unfolding_all rfl))
theorem RoundTrip.scatter (v : XA) (d : Reg) (a : Reg) (b : Reg) (e : Reg) (h : BitVec 4) : RoundTrip.Statement (.scatter v d a b e h) := by
  exact of_read rfl (by with_unfolding_all rfl) ((show _ = Except.ok (Instr.scatter ⟨v.x, tokOf _⟩ d a b e (BitVec.extractLsb' 0 4 (BitVec.setWidth 32 h))) by with_unfolding_all rfl).trans
      (by rw [tok_xa v.tok false _ rfl, Bits.take_wide h (show 4 ≤ 32 by omega)] <;> with_unfolding_all rfl))
theorem RoundTrip.xform (v : XA) (ring : Bool) (op : XfOp) (d : Reg) (a : Reg) (b : Reg) (e : Reg) (h : BitVec 4) : RoundTrip.Statement (.xform v ring op d a b e h) := by
  exact of_read rfl (by with_unfolding_all rfl) ((show _ = (do Except.ok (Instr.xform ⟨v.x, tokOf _⟩ (BitVec.getLsbD (tokBits v.tok ++ BitVec.ofBool ring ++ (0 : BitVec 2)) 2)
      (← codeItem xfCodes (BitVec.extractLsb' 4 4 (BitVec.setWidth 32 ((itemCode xfCodes op 4 : BitVec 4) ++ h))).toNat) d a b e (BitVec.extractLsb' 0 4 (BitVec.setWidth 32 ((itemCode xfCodes op 4 : BitVec 4) ++ h))))) by with_unfolding_all rfl).trans
      (by rw [tok_xa v.tok ring _ rfl, ring_bit, Bits.take_wide_at _ 0 4 (by omega), Bits.take_wide_at _ 4 4 (by omega), Bits.take_low, Bits.take_high]; cases op <;> with_unfolding_all rfl))
theorem RoundTrip.lrec (x : XG) (a : Reg) (n : BitVec 4) : RoundTrip.Statement (.lrec x a n) := by
  exact of_read rfl (by with_unfolding_all rfl) ((show _ = Except.ok (Instr.lrec x a (BitVec.extractLsb' 0 4 (BitVec.setWidth 32 n))) by with_unfolding_all rfl).trans (by rw [Bits.take_wide n (show 4 ≤ 32 by omega)] <;> with_unfolding_all rfl))
theorem RoundTrip.kvappend (v : XA) (pub : Bool) (d : Reg) (a : Reg) (e : Reg) (n : BitVec 9) : RoundTrip.Statement (.kvappend v pub d a e n) := by
  cases pub <;>
    exact of_read rfl (by with_unfolding_all rfl) ((show _ = Except.ok (Instr.kvappend ⟨v.x, tokOf _⟩ _ d a e (BitVec.extractLsb' 0 9 (BitVec.setWidth 32 n))) by with_unfolding_all rfl).trans
      (by rw [tok_xa v.tok false _ rfl, Bits.take_wide n (show 9 ≤ 32 by omega)] <;> with_unfolding_all rfl))
theorem RoundTrip.kvgather (v : XA) (part : KvPart) (ring : Bool) (d : Reg) (a : Reg) (b : Reg) (e : Reg) (n : BitVec 9) : RoundTrip.Statement (.kvgather v part ring d a b e n) := by
  cases part <;>
    exact of_read rfl (by with_unfolding_all rfl) ((show _ = Except.ok (Instr.kvgather ⟨v.x, tokOf _⟩ _ (BitVec.getLsbD (tokBits v.tok ++ BitVec.ofBool ring ++ (0 : BitVec 2)) 2) d a b e (BitVec.extractLsb' 0 9 (BitVec.setWidth 32 n))) by with_unfolding_all rfl).trans
      (by rw [tok_xa v.tok ring _ rfl, ring_bit, Bits.take_wide n (show 9 ≤ 32 by omega)] <;> with_unfolding_all rfl))
theorem RoundTrip.kvlen (x : XG) (d : Reg) (a : Reg) : RoundTrip.Statement (.kvlen x d a) := by
  exact of_read rfl (by with_unfolding_all rfl) (by with_unfolding_all rfl)
theorem RoundTrip.kvwin (v : XA) (a : Reg) (b : Reg) : RoundTrip.Statement (.kvwin v a b) := by
  exact of_read rfl (by with_unfolding_all rfl) ((show _ = Except.ok (Instr.kvwin ⟨v.x, tokOf _⟩ a b) by with_unfolding_all rfl).trans
      (by rw [tok_xa v.tok false _ rfl] <;> with_unfolding_all rfl))
theorem RoundTrip.kvtrim (v : XA) (a : Reg) : RoundTrip.Statement (.kvtrim v a) := by
  exact of_read rfl (by with_unfolding_all rfl) ((show _ = Except.ok (Instr.kvtrim ⟨v.x, tokOf _⟩ a) by with_unfolding_all rfl).trans
      (by rw [tok_xa v.tok false _ rfl] <;> with_unfolding_all rfl))
theorem RoundTrip.kvopen (x : XG) (w : Bool) (d : Reg) (a : Reg) : RoundTrip.Statement (.kvopen x w d a) := by
  cases w <;>
    exact of_read rfl (by with_unfolding_all rfl) (by with_unfolding_all rfl)
theorem RoundTrip.kvclose (x : XG) (a : Reg) : RoundTrip.Statement (.kvclose x a) := by
  exact of_read rfl (by with_unfolding_all rfl) (by with_unfolding_all rfl)
theorem RoundTrip.rinit (x : XG) (a : Reg) (b : RSrc) (e : Reg) : RoundTrip.Statement (.rinit x a b e) := by
  cases b <;>
    exact of_read rfl (by with_unfolding_all rfl) (by with_unfolding_all rfl)
theorem RoundTrip.rproduceClaim (x : XG) (d : Reg) (a : Reg) : RoundTrip.Statement (.rproduceClaim x d a) := by
  exact of_read rfl (by with_unfolding_all rfl) (by with_unfolding_all rfl)
theorem RoundTrip.rproduceFill (x : XG) (a : Reg) (b : RSrc) : RoundTrip.Statement (.rproduceFill x a b) := by
  cases b <;>
    exact of_read rfl (by with_unfolding_all rfl) (by with_unfolding_all rfl)
theorem RoundTrip.rpeek (x : XG) (d : Reg) (a : Reg) (b : RSrc) : RoundTrip.Statement (.rpeek x d a b) := by
  cases b <;>
    exact of_read rfl (by with_unfolding_all rfl) (by with_unfolding_all rfl)
theorem RoundTrip.awaitX (x : XG) (d : Reg) (a : Reg) (b : RSrc) (try_ : Option PReg) : RoundTrip.Statement (.awaitX x d a b try_) := by
  cases b <;> cases try_ with
  | none => exact of_read rfl (by with_unfolding_all rfl) (by with_unfolding_all rfl)
  | some p => exact of_read rfl (by with_unfolding_all rfl) ((show _ = Except.ok (Instr.awaitX x d a _ (some (BitVec.extractLsb' 0 3 (BitVec.setWidth 7 p)))) by with_unfolding_all rfl).trans
      (by rw [Bits.take_wide p (show 3 ≤ 7 by omega)] <;> with_unfolding_all rfl))
theorem RoundTrip.releaseX (x : XG) (a : Reg) (b : RSrc) : RoundTrip.Statement (.releaseX x a b) := by
  cases b <;>
    exact of_read rfl (by with_unfolding_all rfl) (by with_unfolding_all rfl)
theorem RoundTrip.sendX (x : XG) (d : Reg) (c : Reg) (b : XSrc) : RoundTrip.Statement (.sendX x d c b) := by
  cases b <;>
    exact of_read rfl (by with_unfolding_all rfl) (by with_unfolding_all rfl)
theorem RoundTrip.recvX (x : XG) (d : Reg) (c : Reg) (try_ : Option PReg) : RoundTrip.Statement (.recvX x d c try_) := by
  cases try_ with
  | none => exact of_read rfl (by with_unfolding_all rfl) (by with_unfolding_all rfl)
  | some p => exact of_read rfl (by with_unfolding_all rfl) ((show _ = Except.ok (Instr.recvX x d c (some (BitVec.extractLsb' 0 3 (BitVec.setWidth 7 p)))) by with_unfolding_all rfl).trans
      (by rw [Bits.take_wide p (show 3 ≤ 7 by omega)] <;> with_unfolding_all rfl))
theorem RoundTrip.enqX (x : XG) (sp : Space) (sz : BitVec 2) (pd : PReg) (a : Reg) (b : Reg) : RoundTrip.Statement (.enqX x sp sz pd a b) := by
  exact of_read rfl (by with_unfolding_all rfl) ((show _ = (do Except.ok (Instr.enqX x (← codeItem queueSpaceCodes (BitVec.extractLsb' 0 2 (BitVec.setWidth 8 (sz ++ (itemCode queueSpaceCodes sp 2 : BitVec 2)))).toNat) (BitVec.extractLsb' 2 2 (BitVec.setWidth 8 (sz ++ (itemCode queueSpaceCodes sp 2 : BitVec 2)))) (BitVec.extractLsb' 0 3 (BitVec.setWidth 7 pd)) a b)) by with_unfolding_all rfl).trans
      (by rw [Bits.take_wide pd (show 3 ≤ 7 by omega), Bits.take_wide_at _ 0 2 (by omega), Bits.take_wide_at _ 2 2 (by omega), Bits.take_low, Bits.take_high]; cases sp <;> with_unfolding_all rfl))
theorem RoundTrip.deqX (x : XG) (sp : Space) (sz : BitVec 2) (d : Reg) (a : Reg) (pd : PReg) : RoundTrip.Statement (.deqX x sp sz d a pd) := by
  exact of_read rfl (by with_unfolding_all rfl) ((show _ = (do Except.ok (Instr.deqX x (← codeItem queueSpaceCodes (BitVec.extractLsb' 0 2 (BitVec.setWidth 8 (sz ++ (itemCode queueSpaceCodes sp 2 : BitVec 2)))).toNat) (BitVec.extractLsb' 2 2 (BitVec.setWidth 8 (sz ++ (itemCode queueSpaceCodes sp 2 : BitVec 2)))) d a (BitVec.extractLsb' 0 3 (BitVec.setWidth 7 pd)))) by with_unfolding_all rfl).trans
      (by rw [Bits.take_wide pd (show 3 ≤ 7 by omega), Bits.take_wide_at _ 0 2 (by omega), Bits.take_wide_at _ 2 2 (by omega), Bits.take_low, Bits.take_high]; cases sp <;> with_unfolding_all rfl))
theorem RoundTrip.spawnX (x : XG) (pd : PReg) (a : Reg) (k : BitVec 4) : RoundTrip.Statement (.spawnX x pd a k) := by
  exact of_read rfl (by with_unfolding_all rfl) ((show _ = Except.ok (Instr.spawnX x (BitVec.extractLsb' 0 3 (BitVec.setWidth 7 pd)) a (BitVec.extractLsb' 0 4 (BitVec.setWidth 8 k))) by with_unfolding_all rfl).trans (by rw [Bits.take_wide pd (show 3 ≤ 7 by omega), Bits.take_wide k (show 4 ≤ 8 by omega)] <;> with_unfolding_all rfl))
theorem RoundTrip.pdkey (x : XG) (d : Reg) (k : BitVec 4) : RoundTrip.Statement (.pdkey x d k) := by
  exact of_read rfl (by with_unfolding_all rfl) ((show _ = Except.ok (Instr.pdkey x d (BitVec.extractLsb' 0 4 (BitVec.setWidth 8 k))) by with_unfolding_all rfl).trans (by rw [Bits.take_wide k (show 4 ≤ 8 by omega)] <;> with_unfolding_all rfl))
theorem RoundTrip.pdkeyFlush (x : XG) (k : BitVec 4) : RoundTrip.Statement (.pdkeyFlush x k) := by
  exact of_read rfl (by with_unfolding_all rfl) ((show _ = Except.ok (Instr.pdkeyFlush x (BitVec.extractLsb' 0 4 (BitVec.setWidth 8 k))) by with_unfolding_all rfl).trans (by rw [Bits.take_wide k (show 4 ≤ 8 by omega)] <;> with_unfolding_all rfl))
theorem RoundTrip.waitX (x : XG) (ld : BitVec 6) (st : BitVec 6) (en : BitVec 6) (tl : BitVec 6) (pt : BitVec 6) : RoundTrip.Statement (.waitX x ld st en tl pt) := by
  exact of_read rfl (by with_unfolding_all rfl) ((show _ = Except.ok (Instr.waitX x (BitVec.extractLsb' 0 6 ((0 : BitVec 2) ++ pt ++ tl ++ en ++ st ++ ld)) (BitVec.extractLsb' 6 6 ((0 : BitVec 2) ++ pt ++ tl ++ en ++ st ++ ld)) (BitVec.extractLsb' 12 6 ((0 : BitVec 2) ++ pt ++ tl ++ en ++ st ++ ld)) (BitVec.extractLsb' 18 6 ((0 : BitVec 2) ++ pt ++ tl ++ en ++ st ++ ld)) (BitVec.extractLsb' 24 6 ((0 : BitVec 2) ++ pt ++ tl ++ en ++ st ++ ld))) by with_unfolding_all rfl).trans (by rw [Bits.take_low, Bits.take_mid, wait_en, wait_tl, wait_pt] <;> with_unfolding_all rfl))
theorem RoundTrip.wtokX (x : XG) (mask : BitVec 16) : RoundTrip.Statement (.wtokX x mask) := by
  exact of_read rfl (by with_unfolding_all rfl) ((show _ = Except.ok (Instr.wtokX x (BitVec.extractLsb' 0 16 (BitVec.setWidth 32 mask))) by with_unfolding_all rfl).trans (by rw [Bits.take_wide mask (show 16 ≤ 32 by omega)] <;> with_unfolding_all rfl))
theorem RoundTrip.binit (x : XG) (a : Reg) (b : RSrc) : RoundTrip.Statement (.binit x a b) := by
  cases b <;>
    exact of_read rfl (by with_unfolding_all rfl) (by with_unfolding_all rfl)
theorem RoundTrip.barrive (x : XG) (a : Reg) (b : RSrc) : RoundTrip.Statement (.barrive x a b) := by
  cases b <;>
    exact of_read rfl (by with_unfolding_all rfl) (by with_unfolding_all rfl)
theorem RoundTrip.bwait (x : XG) (d : Reg) (a : Reg) (b : RSrc) : RoundTrip.Statement (.bwait x d a b) := by
  cases b <;>
    exact of_read rfl (by with_unfolding_all rfl) (by with_unfolding_all rfl)
theorem RoundTrip.bdue (x : XG) (a : Reg) (b : RSrc) (n : Byte) : RoundTrip.Statement (.bdue x a b n) := by
  cases b <;>
    exact of_read rfl (by with_unfolding_all rfl) (by with_unfolding_all rfl)
theorem RoundTrip.clock (x : XG) (d : Reg) : RoundTrip.Statement (.clock x d) := by
  exact of_read rfl (by with_unfolding_all rfl) (by with_unfolding_all rfl)
theorem RoundTrip.retired (x : XG) (d : Reg) : RoundTrip.Statement (.retired x d) := by
  exact of_read rfl (by with_unfolding_all rfl) (by with_unfolding_all rfl)
theorem RoundTrip.perfcfg (x : XG) (k : BitVec 3) (b : RSrc) : RoundTrip.Statement (.perfcfg x k b) := by
  cases b <;>
    exact of_read rfl (by with_unfolding_all rfl) ((show _ = Except.ok (Instr.perfcfg x (BitVec.extractLsb' 0 3 (BitVec.setWidth 8 k)) _) by with_unfolding_all rfl).trans (by rw [Bits.take_wide k (show 3 ≤ 8 by omega)] <;> with_unfolding_all rfl))
theorem RoundTrip.perfrd (x : XG) (k : BitVec 3) (d : Reg) : RoundTrip.Statement (.perfrd x k d) := by
  exact of_read rfl (by with_unfolding_all rfl) ((show _ = Except.ok (Instr.perfrd x (BitVec.extractLsb' 0 3 (BitVec.setWidth 8 k)) d) by with_unfolding_all rfl).trans (by rw [Bits.take_wide k (show 3 ≤ 8 by omega)] <;> with_unfolding_all rfl))
theorem RoundTrip.fidrd (x : XG) (sel : FidSel) (clr : Bool) (s : BitVec 4) (d : Reg) : RoundTrip.Statement (.fidrd x sel clr s d) := by
  cases sel <;> cases clr <;>
    exact of_read rfl (by with_unfolding_all rfl) ((show _ = Except.ok (Instr.fidrd x _ _ (BitVec.extractLsb' 0 4 (BitVec.setWidth 8 s)) d) by with_unfolding_all rfl).trans (by rw [Bits.take_wide s (show 4 ≤ 8 by omega)] <;> with_unfolding_all rfl))
theorem RoundTrip.eret (x : XG) : RoundTrip.Statement (.eret x) := by
  exact of_read rfl (by with_unfolding_all rfl) (by with_unfolding_all rfl)
theorem RoundTrip.eretSkip (x : XG) : RoundTrip.Statement (.eretSkip x) := by
  exact of_read rfl (by with_unfolding_all rfl) (by with_unfolding_all rfl)
theorem RoundTrip.causeAddr (x : XG) (d : Reg) : RoundTrip.Statement (.causeAddr x d) := by
  exact of_read rfl (by with_unfolding_all rfl) (by with_unfolding_all rfl)
theorem RoundTrip.causeLog (x : XG) (d : Reg) : RoundTrip.Statement (.causeLog x d) := by
  exact of_read rfl (by with_unfolding_all rfl) (by with_unfolding_all rfl)
theorem RoundTrip.causeLogn (x : XG) (d : Reg) : RoundTrip.Statement (.causeLogn x d) := by
  exact of_read rfl (by with_unfolding_all rfl) (by with_unfolding_all rfl)
theorem RoundTrip.ppoint (x : XG) (park : Bool) (pd : PReg) : RoundTrip.Statement (.ppoint x park pd) := by
  cases park <;>
    exact of_read rfl (by with_unfolding_all rfl) ((show _ = Except.ok (Instr.ppoint x _ (BitVec.extractLsb' 0 3 (BitVec.setWidth 7 pd))) by with_unfolding_all rfl).trans (by rw [Bits.take_wide pd (show 3 ≤ 7 by omega)] <;> with_unfolding_all rfl))
theorem RoundTrip.sleep (x : XG) (b : XSrc) : RoundTrip.Statement (.sleep x b) := by
  cases b <;>
    exact of_read rfl (by with_unfolding_all rfl) (by with_unfolding_all rfl)
theorem RoundTrip.halt (x : XG) : RoundTrip.Statement (.halt x) := by
  exact of_read rfl (by with_unfolding_all rfl) (by with_unfolding_all rfl)
theorem RoundTrip.mstore (x : XG) (m : BitVec 6) (a : Reg) (q : RSrc) (pr : PReg) : RoundTrip.Statement (.mstore x m a q pr) := by
  cases q <;>
    exact of_read rfl (by with_unfolding_all rfl) ((show _ = Except.ok (Instr.mstore x (BitVec.extractLsb' 0 6 (BitVec.setWidth 8 m)) a _ (BitVec.extractLsb' 0 3 (BitVec.setWidth 7 pr))) by with_unfolding_all rfl).trans (by rw [Bits.take_wide m (show 6 ≤ 8 by omega), Bits.take_wide pr (show 3 ≤ 7 by omega)] <;> with_unfolding_all rfl))
theorem RoundTrip.mread (x : XG) (m : BitVec 6) (d : Reg) (q : RSrc) : RoundTrip.Statement (.mread x m d q) := by
  cases q <;>
    exact of_read rfl (by with_unfolding_all rfl) ((show _ = Except.ok (Instr.mread x (BitVec.extractLsb' 0 6 (BitVec.setWidth 8 m)) d _) by with_unfolding_all rfl).trans (by rw [Bits.take_wide m (show 6 ≤ 8 by omega)] <;> with_unfolding_all rfl))
theorem RoundTrip.mcallX (x : XG) (m : BitVec 6) (d : Reg) (a : Reg) (b : RSrc) (e : Reg) : RoundTrip.Statement (.mcallX x m d a b e) := by
  cases b <;>
    exact of_read rfl (by with_unfolding_all rfl) ((show _ = Except.ok (Instr.mcallX x (BitVec.extractLsb' 0 6 (BitVec.setWidth 8 m)) d a _ e) by with_unfolding_all rfl).trans (by rw [Bits.take_wide m (show 6 ≤ 8 by omega)] <;> with_unfolding_all rfl))
theorem RoundTrip.putArrival : RoundTrip.Statement .putArrival := by
  intro f _ h; cases h
theorem RoundTrip.putAnswer : RoundTrip.Statement .putAnswer := by
  intro f _ h; cases h
theorem RoundTrip.loadDataReturn : RoundTrip.Statement .loadDataReturn := by
  intro f _ h; cases h
theorem RoundTrip.storeAck : RoundTrip.Statement .storeAck := by
  intro f _ h; cases h
theorem RoundTrip.sliceRequest : RoundTrip.Statement .sliceRequest := by
  intro f _ h; cases h
theorem RoundTrip.filterWindowEnd : RoundTrip.Statement .filterWindowEnd := by
  intro f _ h; cases h
theorem RoundTrip.mergeWindowEnd : RoundTrip.Statement .mergeWindowEnd := by
  intro f _ h; cases h
theorem RoundTrip.pinRequestServe : RoundTrip.Statement .pinRequestServe := by
  intro f _ h; cases h
theorem RoundTrip.pinFadeExpiry : RoundTrip.Statement .pinFadeExpiry := by
  intro f _ h; cases h
theorem RoundTrip.pageIdleTimer : RoundTrip.Statement .pageIdleTimer := by
  intro f _ h; cases h
theorem RoundTrip.hbmRefresh : RoundTrip.Statement .hbmRefresh := by
  intro f _ h; cases h
theorem RoundTrip.thermalCritical : RoundTrip.Statement .thermalCritical := by
  intro f _ h; cases h
theorem RoundTrip.thermalResume : RoundTrip.Statement .thermalResume := by
  intro f _ h; cases h
theorem RoundTrip.temperatureLevelChange : RoundTrip.Statement .temperatureLevelChange := by
  intro f _ h; cases h
theorem RoundTrip.walkStart : RoundTrip.Statement .walkStart := by
  intro f _ h; cases h
theorem RoundTrip.walkComplete : RoundTrip.Statement .walkComplete := by
  intro f _ h; cases h
theorem RoundTrip.tileOpStart : RoundTrip.Statement .tileOpStart := by
  intro f _ h; cases h
theorem RoundTrip.tileOpRetire : RoundTrip.Statement .tileOpRetire := by
  intro f _ h; cases h
theorem RoundTrip.engineOpStart : RoundTrip.Statement .engineOpStart := by
  intro f _ h; cases h
theorem RoundTrip.engineSegmentComplete : RoundTrip.Statement .engineSegmentComplete := by
  intro f _ h; cases h
theorem RoundTrip.engineOpRetire : RoundTrip.Statement .engineOpRetire := by
  intro f _ h; cases h
theorem RoundTrip.copymcLanding : RoundTrip.Statement .copymcLanding := by
  intro f _ h; cases h
theorem RoundTrip.kvOpStart : RoundTrip.Statement .kvOpStart := by
  intro f _ h; cases h
theorem RoundTrip.kvSegmentComplete : RoundTrip.Statement .kvSegmentComplete := by
  intro f _ h; cases h
theorem RoundTrip.kvwinApply : RoundTrip.Statement .kvwinApply := by
  intro f _ h; cases h
theorem RoundTrip.kvtrimFree : RoundTrip.Statement .kvtrimFree := by
  intro f _ h; cases h
theorem RoundTrip.kvOpRetire : RoundTrip.Statement .kvOpRetire := by
  intro f _ h; cases h
theorem RoundTrip.channelEntryArrival : RoundTrip.Statement .channelEntryArrival := by
  intro f _ h; cases h
theorem RoundTrip.channelAck : RoundTrip.Statement .channelAck := by
  intro f _ h; cases h
theorem RoundTrip.channelResendTimer : RoundTrip.Statement .channelResendTimer := by
  intro f _ h; cases h
theorem RoundTrip.paddockTimerExpiry : RoundTrip.Statement .paddockTimerExpiry := by
  intro f _ h; cases h
theorem RoundTrip.paddockLaunch : RoundTrip.Statement .paddockLaunch := by
  intro f _ h; cases h
theorem RoundTrip.sleepExpiry : RoundTrip.Statement .sleepExpiry := by
  intro f _ h; cases h
theorem RoundTrip.crewRelease : RoundTrip.Statement .crewRelease := by
  intro f _ h; cases h
theorem RoundTrip.troopRetire : RoundTrip.Statement .troopRetire := by
  intro f _ h; cases h
theorem RoundTrip.lqtailDoorbell : RoundTrip.Statement .lqtailDoorbell := by
  intro f _ h; cases h
theorem RoundTrip.launchPacketCheck : RoundTrip.Statement .launchPacketCheck := by
  intro f _ h; cases h
theorem RoundTrip.dispatchDecision : RoundTrip.Statement .dispatchDecision := by
  intro f _ h; cases h
theorem RoundTrip.gracePeriodExpiry : RoundTrip.Statement .gracePeriodExpiry := by
  intro f _ h; cases h
theorem RoundTrip.contextSave : RoundTrip.Statement .contextSave := by
  intro f _ h; cases h
theorem RoundTrip.contextRestore : RoundTrip.Statement .contextRestore := by
  intro f _ h; cases h
theorem RoundTrip.linkLoss : RoundTrip.Statement .linkLoss := by
  intro f _ h; cases h
theorem RoundTrip.loopPacketArrival : RoundTrip.Statement .loopPacketArrival := by
  intro f _ h; cases h
theorem RoundTrip.loopResendTimer : RoundTrip.Statement .loopResendTimer := by
  intro f _ h; cases h
theorem RoundTrip.loopFailure : RoundTrip.Statement .loopFailure := by
  intro f _ h; cases h
theorem RoundTrip.ualinkPortFailure : RoundTrip.Statement .ualinkPortFailure := by
  intro f _ h; cases h
theorem RoundTrip.ualinkMemoryRequest : RoundTrip.Statement .ualinkMemoryRequest := by
  intro f _ h; cases h
theorem RoundTrip.ualinkPutRequest : RoundTrip.Statement .ualinkPutRequest := by
  intro f _ h; cases h
theorem RoundTrip.ualinkPutAnswer : RoundTrip.Statement .ualinkPutAnswer := by
  intro f _ h; cases h
theorem RoundTrip.ualinkChannelRequest : RoundTrip.Statement .ualinkChannelRequest := by
  intro f _ h; cases h
theorem RoundTrip.ualinkChannelAnswer : RoundTrip.Statement .ualinkChannelAnswer := by
  intro f _ h; cases h
theorem RoundTrip.ualinkAtomicRequest : RoundTrip.Statement .ualinkAtomicRequest := by
  intro f _ h; cases h
theorem RoundTrip.ualinkAtomicAnswer : RoundTrip.Statement .ualinkAtomicAnswer := by
  intro f _ h; cases h
theorem RoundTrip.hostApertureAccess : RoundTrip.Statement .hostApertureAccess := by
  intro f _ h; cases h
theorem RoundTrip.mbxdbDoorbell : RoundTrip.Statement .mbxdbDoorbell := by
  intro f _ h; cases h
theorem RoundTrip.pkgSet : RoundTrip.Statement .pkgSet := by
  intro f _ h; cases h
theorem RoundTrip.asWrite : RoundTrip.Statement .asWrite := by
  intro f _ h; cases h
theorem RoundTrip.tlbInval : RoundTrip.Statement .tlbInval := by
  intro f _ h; cases h
theorem RoundTrip.routeWrite : RoundTrip.Statement .routeWrite := by
  intro f _ h; cases h
theorem RoundTrip.sliceWrite : RoundTrip.Statement .sliceWrite := by
  intro f _ h; cases h
theorem RoundTrip.hbmWrite : RoundTrip.Statement .hbmWrite := by
  intro f _ h; cases h
theorem RoundTrip.kvpoolInit : RoundTrip.Statement .kvpoolInit := by
  intro f _ h; cases h
theorem RoundTrip.pinQuota : RoundTrip.Statement .pinQuota := by
  intro f _ h; cases h
theorem RoundTrip.pinRelease : RoundTrip.Statement .pinRelease := by
  intro f _ h; cases h
theorem RoundTrip.preempt : RoundTrip.Statement .preempt := by
  intro f _ h; cases h
theorem RoundTrip.fwStage : RoundTrip.Statement .fwStage := by
  intro f _ h; cases h
theorem RoundTrip.fwActivate : RoundTrip.Statement .fwActivate := by
  intro f _ h; cases h
theorem RoundTrip.evRing : RoundTrip.Statement .evRing := by
  intro f _ h; cases h
theorem RoundTrip.vfWindow : RoundTrip.Statement .vfWindow := by
  intro f _ h; cases h
theorem RoundTrip.fuseCommit : RoundTrip.Statement .fuseCommit := by
  intro f _ h; cases h
theorem RoundTrip.bootVerify : RoundTrip.Statement .bootVerify := by
  intro f _ h; cases h
theorem RoundTrip.powerUp : RoundTrip.Statement .powerUp := by
  intro f _ h; cases h
theorem RoundTrip.functionLevelReset : RoundTrip.Statement .functionLevelReset := by
  intro f _ h; cases h
theorem RoundTrip.doeAttestRequest : RoundTrip.Statement .doeAttestRequest := by
  intro f _ h; cases h
theorem RoundTrip.doeCertRequest : RoundTrip.Statement .doeCertRequest := by
  intro f _ h; cases h
theorem RoundTrip.quietPoint : RoundTrip.Statement .quietPoint := by
  intro f _ h; cases h
theorem RoundTrip.fwRevertTimeout : RoundTrip.Statement .fwRevertTimeout := by
  intro f _ h; cases h
theorem RoundTrip.watchdogExpiry : RoundTrip.Statement .watchdogExpiry := by
  intro f _ h; cases h
theorem RoundTrip.xwdogWrite : RoundTrip.Statement .xwdogWrite := by
  intro f _ h; cases h
theorem RoundTrip.xeventWrite : RoundTrip.Statement .xeventWrite := by
  intro f _ h; cases h
theorem RoundTrip.devqRead : RoundTrip.Statement .devqRead := by
  intro f _ h; cases h
theorem RoundTrip.devcntRead : RoundTrip.Statement .devcntRead := by
  intro f _ h; cases h
theorem RoundTrip.mevqRead : RoundTrip.Statement .mevqRead := by
  intro f _ h; cases h
theorem RoundTrip.placeWrite : RoundTrip.Statement .placeWrite := by
  intro f _ h; cases h
theorem RoundTrip.saveWrite : RoundTrip.Statement .saveWrite := by
  intro f _ h; cases h
theorem RoundTrip.restoreWrite : RoundTrip.Statement .restoreWrite := by
  intro f _ h; cases h
theorem RoundTrip.faultrespWrite : RoundTrip.Statement .faultrespWrite := by
  intro f _ h; cases h
theorem RoundTrip.haltWrite : RoundTrip.Statement .haltWrite := by
  intro f _ h; cases h
theorem RoundTrip.dmagoWrite : RoundTrip.Statement .dmagoWrite := by
  intro f _ h; cases h
theorem RoundTrip.dmaComplete : RoundTrip.Statement .dmaComplete := by
  intro f _ h; cases h
theorem RoundTrip.lqadvWrite : RoundTrip.Statement .lqadvWrite := by
  intro f _ h; cases h
theorem RoundTrip.lqerrWrite : RoundTrip.Statement .lqerrWrite := by
  intro f _ h; cases h
theorem RoundTrip.mbxdoneWrite : RoundTrip.Statement .mbxdoneWrite := by
  intro f _ h; cases h
theorem RoundTrip.pinansWrite : RoundTrip.Statement .pinansWrite := by
  intro f _ h; cases h
theorem RoundTrip.invgoWrite : RoundTrip.Statement .invgoWrite := by
  intro f _ h; cases h
theorem RoundTrip.invalidationComplete : RoundTrip.Statement .invalidationComplete := by
  intro f _ h; cases h
theorem RoundTrip.freezeWrite : RoundTrip.Statement .freezeWrite := by
  intro f _ h; cases h
theorem RoundTrip.pkgsetWrite : RoundTrip.Statement .pkgsetWrite := by
  intro f _ h; cases h
theorem RoundTrip.doesendWrite : RoundTrip.Statement .doesendWrite := by
  intro f _ h; cases h
theorem RoundTrip.signgoWrite : RoundTrip.Statement .signgoWrite := by
  intro f _ h; cases h
theorem RoundTrip.signComplete : RoundTrip.Statement .signComplete := by
  intro f _ h; cases h
theorem RoundTrip.fusecommitWrite : RoundTrip.Statement .fusecommitWrite := by
  intro f _ h; cases h
theorem RoundTrip.correctedError : RoundTrip.Statement .correctedError := by
  intro f _ h; cases h
theorem RoundTrip.rasWindowEnd : RoundTrip.Statement .rasWindowEnd := by
  intro f _ h; cases h
theorem RoundTrip.registerWrite : RoundTrip.Statement .registerWrite := by
  intro f _ h; cases h
theorem RoundTrip.notAnInstruction : RoundTrip.Statement .notAnInstruction := by
  intro f _ h; cases h
theorem RoundTrip.operandAvailable : RoundTrip.Statement .operandAvailable := by
  intro f _ h; cases h
theorem RoundTrip.linkTraining : RoundTrip.Statement .linkTraining := by
  intro f _ h; cases h
theorem RoundTrip.loopAcknowledgement : RoundTrip.Statement .loopAcknowledgement := by
  intro f _ h; cases h
theorem RoundTrip.uncorrectableError : RoundTrip.Statement .uncorrectableError := by
  intro f _ h; cases h

end Sys2Proof.Laws
end

