-- ==== Sys2Proof/Certificates/Slice0/Obligations.lean ====
section
/-! DEFINITION. Obligations.lean: the statements for the provers. In a statement about an instruction at issue, `s` is
the state in which the strand of `s.cur` issues it and `u` is `s` with the reads of the source registers acquired
(R161): `u` differs from `s` in lines of the core's L1 and in the marks of those registers. -/

open Sys2Proof Sys2Proof.Machine


/-! ## Integer, address, compare, predicate and select instructions (spec/05_registers_strand.md) -/

/-- R99 Table 6, and R27, R82, R146 for when an instruction executes: the destination of each three-operand integer
instruction holds the stated value of `x` (a) and `y` (b), the strand goes on at the next instruction, and no other
register, predicate, special register, crew register or byte of memory changes. R98, R99, R101: the two base integer
instructions that also read the old destination `z`: `mad` adds it, and `bfi` keeps its bits outside the field of
`len` bits at `n`, whose bits are the low bits of a. R99, R100: the 64-bit sum of two pairs goes to a pair, its low
word to the even register; the immediate forms take `sext7` of imm7 or the literal, an immediate shift its count,
which raises ILLEGAL_OPERAND where it is not 0-31, and the one-source instructions the value of a. `clz` counts the
zero bits above the highest set bit, `popc` the set bits, and `brev` exchanges bit i and bit 31 - i. -/
def Obligations.IntegerRegisterResults : Prop :=
  (∀ (g : Guard) (d a : Reg) (b : BSrc) (s : State),
      s.ready (baseFr g (bsrcLit b)) (chkBR d a b) = true →
      let f := baseFr g (bsrcLit b)
      let x := s.rd a.toNat
      let y := s.bsrc b
      let n := y.toNat % 32
      let len := y.toNat / 256 % 32
      Computes (.add g d a b) s f [(d.toNat, x + y)] []
      ∧ Computes (.sub g d a b) s f [(d.toNat, x - y)] []
      ∧ Computes (.mul g d a b) s f [(d.toNat, x * y)] []
      ∧ Computes (.mulhiS g d a b) s f [(d.toNat, BitVec.ofInt 32 (x.toInt * y.toInt / 2 ^ 32))] []
      ∧ Computes (.mulhiU g d a b) s f [(d.toNat, BitVec.ofNat 32 (x.toNat * y.toNat / 2 ^ 32))] []
      ∧ Computes (.and g d a b) s f [(d.toNat, x &&& y)] []
      ∧ Computes (.or g d a b) s f [(d.toNat, x ||| y)] []
      ∧ Computes (.xor g d a b) s f [(d.toNat, x ^^^ y)] []
      ∧ Computes (.shl g d a b) s f [(d.toNat, BitVec.ofNat 32 (x.toNat * 2 ^ n))] []
      ∧ Computes (.shr g d a b) s f [(d.toNat, BitVec.ofNat 32 (x.toNat / 2 ^ n))] []
      ∧ Computes (.sar g d a b) s f [(d.toNat, BitVec.ofInt 32 (x.toInt / 2 ^ n))] []
      ∧ Computes (.minS g d a b) s f [(d.toNat, if x.toInt ≤ y.toInt then x else y)] []
      ∧ Computes (.minU g d a b) s f [(d.toNat, if x.toNat ≤ y.toNat then x else y)] []
      ∧ Computes (.maxS g d a b) s f [(d.toNat, if y.toInt ≤ x.toInt then x else y)] []
      ∧ Computes (.maxU g d a b) s f [(d.toNat, if y.toNat ≤ x.toNat then x else y)] []
      ∧ Computes (.bfe g d a b) s f [(d.toNat, BitVec.ofNat 32 (x.toNat / 2 ^ n % 2 ^ len))] [])
  ∧ (∀ (g : Guard) (d a : Reg) (b : BSrc) (s : State),
      s.ready (baseFr g (bsrcLit b)) (chkBRd d a b) = true →
      let f := baseFr g (bsrcLit b)
      let x := s.rd a.toNat
      let y := s.bsrc b
      let z := s.rd d.toNat
      let n := y.toNat % 32
      let len := y.toNat / 256 % 32
      Computes (.mad g d a b) s f [(d.toNat, x * y + z)] []
      ∧ ∃ v : Word, Computes (.bfi g d a b) s f [(d.toNat, v)] []
          ∧ ∀ i, i < 32 → v.getLsbD i = if n ≤ i ∧ i < n + len then x.getLsbD (i - n) else z.getLsbD i)
  ∧ (∀ (g : Guard) (d a : Reg) (s : State),
      (∀ i : BImm, s.ready (baseFr g (bimmLit i)) (chkBI d a i) = true →
        let f := baseFr g (bimmLit i)
        let x := s.rd a.toNat
        let y : Word := match i with | .imm v => v.signExtend 32 | .lit v => v.extractLsb' 0 32
        Computes (.addi g d a i) s f [(d.toNat, x + y)] [] ∧ Computes (.andi g d a i) s f [(d.toNat, x &&& y)] []
        ∧ Computes (.ori g d a i) s f [(d.toNat, x ||| y)] [] ∧ Computes (.xori g d a i) s f [(d.toNat, x ^^^ y)] [])
      ∧ (∀ i : BImm, s.ready (baseFr g (bimmLit i)) (chkSh d a i) = true →
        let f := baseFr g (bimmLit i)
        let x := s.rd a.toNat
        let n := match i with | .imm v => v.toNat | .lit v => v.toNat % 2 ^ 32
        Computes (.shli g d a i) s f [(d.toNat, BitVec.ofNat 32 (x.toNat * 2 ^ n))] []
        ∧ Computes (.shri g d a i) s f [(d.toNat, BitVec.ofNat 32 (x.toNat / 2 ^ n))] []
        ∧ Computes (.sari g d a i) s f [(d.toNat, BitVec.ofInt 32 (x.toInt / 2 ^ n))] [])
      ∧ (∀ i : BImm, s.guardOk (baseFr g (bimmLit i)) = true → s.myStrand.cause.getLsbD 31 = false →
        (match i with | .imm v => 32 ≤ v.toNat | .lit v => 32 ≤ (v.extractLsb' 0 32).toNat) →
        ∀ j ∈ [Instr.shli g d a i, .shri g d a i, .sari g d a i], ∃ t, exec j s = .next t
          ∧ TookTrap s t (baseFr g (bimmLit i)) { code := 0x02, tval := match i with | .imm _ => 3 | .lit _ => 5 })
      ∧ (s.ready (baseFr g false) (chkUn d a) = true →
        let f := baseFr g false
        let x := s.rd a.toNat
        Computes (.mov g d a) s f [(d.toNat, x)] []
        ∧ (∃ v : Word, Computes (.clz g d a) s f [(d.toNat, v)] []
            ∧ v.toNat ≤ 32 ∧ (∀ i, 32 - v.toNat ≤ i → x.getLsbD i = false) ∧ (v.toNat < 32 → x.getLsbD (31 - v.toNat) = true))
        ∧ Computes (.popc g d a) s f [(d.toNat, BitVec.ofNat 32 ((List.range 32).filter x.getLsbD).length)] []
        ∧ ∃ v : Word, Computes (.brev g d a) s f [(d.toNat, v)] [] ∧ ∀ i, i < 32 → v.getLsbD i = x.getLsbD (31 - i))
      ∧ (∀ i : WImm, s.ready (baseFr g (wimmLit i)) { ops := [(wimmOk i, 5)], dsts := [d.toNat] } = true →
        Computes (.li g d i) s (baseFr g (wimmLit i))
          [(d.toNat, match i with | .imm v => v.signExtend 32 | .lit v => v.extractLsb' 0 32)] [])
      ∧ (∀ b : BSrc, s.ready (baseFr g (bsrcLit b))
          { ops := [(pairOk d, 1), (pairOk a, 2), (bsrcPairOk b, 3)], srcs := pairRegs a ++ bsrcPair b, dsts := pairRegs d } = true →
        let v := s.rd64 a.toNat + s.bsrc64 b
        Computes (.add64 g d a b) s (baseFr g (bsrcLit b)) [(d.toNat, v.extractLsb' 0 32), (d.toNat + 1, v.extractLsb' 32 32)] []))

/-- R71, R102, R103: `cmp`, `cmpi` and `cmp64` write the relation to their predicate and no register; `pop` writes the
stated function of two predicates; `sel` takes a where `p0`, or the named predicate, is true, else b; a write to `p7`
changes nothing. -/
def Obligations.ComparePredicateSelect : Prop :=
  ∀ (g : Guard) (x : XG) (d a : Reg) (pd : PReg) (s : State),
    (∀ (cc : ICond) (b : BSrc), s.ready (baseFr g (bsrcLit b)) { ops := [(bsrcOk b, 5)], srcs := a.toNat :: bsrcRegs b } = true →
      Computes (.cmp g cc pd a b) s (baseFr g (bsrcLit b)) [] [(pd, condHolds cc (s.rd a.toNat) (s.bsrc b))])
    ∧ (∀ (cc : ICond) (i : BImm), s.ready (baseFr g (bimmLit i)) { ops := [(bimmOk i, 5)], srcs := [a.toNat] } = true →
      Computes (.cmpi g cc pd a i) s (baseFr g (bimmLit i)) [] [(pd, condHolds cc (s.rd a.toNat) (bimmVal i))])
    ∧ (∀ (cc : ICond) (b : XSrc), s.ready (extFr x (xsrcLit b))
          { ops := [(pairOk a, 2), (xsrcPairOk b, 3)], srcs := pairRegs a ++ xsrcPair b } = true →
      Computes (.cmp64 x cc pd a b) s (extFr x (xsrcLit b)) [] [(pd, condHolds cc (s.rd64 a.toNat) (s.xsrc64 b))])
    ∧ (∀ pa pb : PReg, s.ready (baseFr g false) {} = true →
      let f := baseFr g false
      let p := s.pr pa
      let q := s.pr pb
      Computes (.pop g .and pd pa pb) s f [] [(pd, p && q)] ∧ Computes (.pop g .or pd pa pb) s f [] [(pd, p || q)]
      ∧ Computes (.pop g .xor pd pa pb) s f [] [(pd, p ^^ q)] ∧ Computes (.pop g .andn pd pa pb) s f [] [(pd, p && !q)]
      ∧ Computes (.pop g .orn pd pa pb) s f [] [(pd, p || !q)] ∧ Computes (.pop g .nand pd pa pb) s f [] [(pd, !(p && q))]
      ∧ Computes (.pop g .nor pd pa pb) s f [] [(pd, !(p || q))] ∧ Computes (.pop g .xnor pd pa pb) s f [] [(pd, !(p ^^ q))]
      ∧ Computes (.pop g .mov pd pa pb) s f [] [(pd, p)] ∧ Computes (.pop g .not pd pa pb) s f [] [(pd, !p)]
      ∧ Computes (.pop g .clr pd pa pb) s f [] [(pd, false)] ∧ Computes (.pop g .set pd pa pb) s f [] [(pd, true)])
    ∧ (∀ b : BSrc, s.ready (baseFr g (bsrcLit b)) (chkBR d a b) = true →
      Computes (.sel g d a b) s (baseFr g (bsrcLit b)) [(d.toNat, if s.pr 0 then s.rd a.toNat else s.bsrc b)] [])
    ∧ (∀ (p : PReg) (b : XSrc), s.ready (extFr x (xsrcLit b)) (chkXR d a b) = true →
      Computes (.selX x p d a b) s (extFr x (xsrcLit b)) [(d.toNat, if s.pr p then s.rd a.toNat else s.xsrc b)] [])

/-- R105: division truncates towards zero and the remainder has the sign of the dividend; by zero the quotient is all
ones and the remainder the dividend. R106: sum and carry, difference and borrow, with the carry predicate read before
it is written. R107: wide products. R108: `lea`, of any address without a check, and `li64`. R109: the extensions of a
field of `w + 1` bits (the field of the instruction holds the width less one). Where a pair is written, its low word
stands in the even register. R110: the double shift of `e:a`, and the byte selection from `e:a`, whose bits [31:20] of
the selector are ignored. Which byte a selector of `bsel` names is the reading of log 28. -/
def Obligations.ExtendedIntegerResults : Prop :=
  (∀ (x : XG) (d a : Reg) (b : XSrc) (s : State), s.ready (extFr x (xsrcLit b)) (chkXR d a b) = true →
      let f := extFr x (xsrcLit b)
      let v := s.rd a.toNat
      let y := s.xsrc b
      Computes (.divS x d a b) s f [(d.toNat, if y = 0 then BitVec.allOnes 32 else BitVec.ofInt 32 (v.toInt.tdiv y.toInt))] []
      ∧ Computes (.divU x d a b) s f [(d.toNat, if y = 0 then BitVec.allOnes 32 else BitVec.ofNat 32 (v.toNat / y.toNat))] []
      ∧ Computes (.remS x d a b) s f [(d.toNat, if y = 0 then v else BitVec.ofInt 32 (v.toInt.tmod y.toInt))] []
      ∧ Computes (.remU x d a b) s f [(d.toNat, if y = 0 then v else BitVec.ofNat 32 (v.toNat % y.toNat))] []
      ∧ (∀ pin pout : PReg,
        let c := if s.pr pin then 1 else 0
        let sum := v.toNat + y.toNat + c
        Computes (.addc x d a b pin pout) s f [(d.toNat, BitVec.ofNat 32 sum)] [(pout, decide (2 ^ 32 ≤ sum))]
        ∧ Computes (.subb x d a b pin pout) s f [(d.toNat, BitVec.ofInt 32 (v.toNat - y.toNat - c))] [(pout, decide (v.toNat < y.toNat + c))]))
  ∧ (∀ (x : XG) (d a : Reg) (s : State),
      (∀ b : XSrc, s.ready (extFr x (xsrcLit b))
          { ops := [(pairOk d, 1), (pairOk a, 2), (xsrcPairOk b, 3)], srcs := pairRegs a ++ xsrcPair b, dsts := pairRegs d } = true →
        let v := s.rd64 a.toNat * s.xsrc64 b
        Computes (.mul64 x d a b) s (extFr x (xsrcLit b)) [(d.toNat, v.extractLsb' 0 32), (d.toNat + 1, v.extractLsb' 32 32)] [])
      ∧ (∀ b : XSrc, s.ready (extFr x (xsrcLit b))
          { ops := [(pairOk d, 1), (xsrcOk b, 5)], srcs := a.toNat :: xsrcRegs b, dsts := pairRegs d } = true →
        let p := s.rd a.toNat
        let q := s.xsrc b
        let vs : Dword := BitVec.ofInt 64 (p.toInt * q.toInt)
        let vu : Dword := BitVec.ofNat 64 (p.toNat * q.toNat)
        Computes (.mulw x true d a b) s (extFr x (xsrcLit b)) [(d.toNat, vs.extractLsb' 0 32), (d.toNat + 1, vs.extractLsb' 32 32)] []
        ∧ Computes (.mulw x false d a b) s (extFr x (xsrcLit b)) [(d.toNat, vu.extractLsb' 0 32), (d.toNat + 1, vu.extractLsb' 32 32)] [])
      ∧ (∀ (zx : Bool) (sh : BitVec 2) (b : XSrc), s.ready (extFr x (xsrcLit b))
          { ops := [(pairOk d, 1), (pairOk a, 2)], srcs := pairRegs a ++ xsrcRegs b, dsts := pairRegs d } = true →
        let y : Dword := match b with
          | .reg r => if zx then (s.rd r.toNat).zeroExtend 64 else (s.rd r.toNat).signExtend 64
          | .imm v => if zx then v.zeroExtend 64 else v.signExtend 64
          | .lit v => v
        let v := s.rd64 a.toNat + y * BitVec.ofNat 64 (2 ^ sh.toNat)
        Computes (.lea x zx sh d a b) s (extFr x (xsrcLit b)) [(d.toNat, v.extractLsb' 0 32), (d.toNat + 1, v.extractLsb' 32 32)] [])
      ∧ (∀ i : XImm, s.ready (extFr x (ximmLit i)) { ops := [(pairOk d, 1)], dsts := pairRegs d } = true →
        let v : Dword := match i with | .imm w => w.signExtend 64 | .lit w => w
        Computes (.li64 x d i) s (extFr x (ximmLit i)) [(d.toNat, v.extractLsb' 0 32), (d.toNat + 1, v.extractLsb' 32 32)] [])
      ∧ (∀ w : BitVec 5, s.ready (extFr x false) (chkUn d a) = true →
        let n := (s.rd a.toNat).toNat % 2 ^ (w.toNat + 1)
        Computes (.zext x d a w) s (extFr x false) [(d.toNat, BitVec.ofNat 32 n)] []
        ∧ Computes (.sext x d a w) s (extFr x false)
            [(d.toNat, if n < 2 ^ w.toNat then BitVec.ofNat 32 n else BitVec.ofInt 32 (n - 2 ^ (w.toNat + 1)))] []))
  ∧ (∀ (x : XG) (d a e : Reg) (b : XSrc) (s : State), s.ready (extFr x (xsrcLit b)) (chkXRe d a b e) = true →
      let f := extFr x (xsrcLit b)
      let v := (s.rd e.toNat).toNat * 2 ^ 32 + (s.rd a.toNat).toNat
      let y := s.xsrc b
      let k (clamp : Bool) : Nat := if clamp then min y.toNat 64 else y.toNat % 64
      (∀ clamp, Computes (.dsh x false clamp d a b e) s f [(d.toNat, BitVec.ofNat 32 (v / 2 ^ k clamp))] []
        ∧ Computes (.dsh x true clamp d a b e) s f [(d.toNat, BitVec.ofNat 32 (v * 2 ^ k clamp % 2 ^ 64 / 2 ^ 32))] [])
      ∧ ∃ w : Word, Computes (.bsel x d a b e) s f [(d.toNat, w)] [] ∧ ∀ i, i < 4 →
          let src := v / 2 ^ (8 * (y.toNat / 2 ^ (3 * i) % 8)) % 256
          (w.toNat / 2 ^ (8 * i) % 256 =
            if y.getLsbD (12 + i) then 0 else if y.getLsbD (16 + i) then (if 128 ≤ src then 255 else 0) else src))

/-! ## Floating point (spec/03_numbers.md, spec/06_registers_vector.md) -/

/-- R117-R123: the base floating-point instructions write the stated function of a, b and, for `ffma` and `hfma2`, the
old d, rounded once to nearest-even; `fabs` and `fneg` change only bit 31; `fcmp` writes the relation to its
predicate; `fclass` writes one class bit and `p0`; a packed instruction works on each BF16 half from that half's
operands alone. R124-R126: the extended forms take their rounding mode, and `ffrexp` writes significand and exponent,
the exponent standing where both name one register. What those functions are. R71, R119: a relation of `fcmp` between
numbers compares their signed magnitudes, and with a NaN only an unordered one holds. R118, R123, R126: under
nearest-even rounding a sum, product, fused product, quotient, root, scaling or two-way dot product of finite operands
is a code to which no finite code is nearer, unless it overflows; a value of `frnd` is the integer its mode gives, of
the operand's sign; `ffrexp` splits a value exactly. R49, R50, R122: conversions to integers round by their mode and
saturate, NaN giving 0; those of integers round to nearest; a narrow format holds a nearest code, E4M3 and the
saturating E5M2 never an infinity or, of a number, a NaN; widening is exact; and NaN goes over as stated. The values
of `fsfu` are those of the functions of log 9. -/
def Obligations.FloatResults : Prop :=
  (∀ (g : Guard) (d a : Reg) (s : State),
      (∀ b : BSrc, s.ready (baseFr g (bsrcLit b)) (chkBR d a b) = true →
        let f := baseFr g (bsrcLit b)
        let x := s.rd a.toNat
        let y := s.bsrc b
        Computes (.fadd g d a b) s f [(d.toNat, f32add .rne x y)] []
        ∧ Computes (.fsub g d a b) s f [(d.toNat, f32sub x y)] []
        ∧ Computes (.fmul g d a b) s f [(d.toNat, f32mul .rne x y)] []
        ∧ Computes (.fmin g d a b) s f [(d.toNat, f32min x y)] []
        ∧ Computes (.fmax g d a b) s f [(d.toNat, f32max x y)] []
        ∧ (∃ v : Word, Computes (.hadd2 g d a b) s f [(d.toNat, v)] []
            ∧ loH v = bfAdd .rne (loH x) (loH y) % 65536 ∧ hiH v = bfAdd .rne (hiH x) (hiH y) % 65536)
        ∧ (∃ v : Word, Computes (.hmul2 g d a b) s f [(d.toNat, v)] []
            ∧ loH v = bfMul .rne (loH x) (loH y) % 65536 ∧ hiH v = bfMul .rne (hiH x) (hiH y) % 65536)
        ∧ ∃ v : Word, Computes (.hmax2 g d a b) s f [(d.toNat, v)] [] ∧ loH v = bfMax (loH x) (loH y) ∧ hiH v = bfMax (hiH x) (hiH y))
      ∧ (∀ b : BSrc, s.ready (baseFr g (bsrcLit b)) (chkBRd d a b) = true →
        let f := baseFr g (bsrcLit b)
        let x := s.rd a.toNat
        let y := s.bsrc b
        let z := s.rd d.toNat
        Computes (.ffma g d a b) s f [(d.toNat, f32fma .rne x y z)] []
        ∧ ∃ v : Word, Computes (.hfma2 g d a b) s f [(d.toNat, v)] []
            ∧ loH v = bfFma .rne (loH x) (loH y) (loH z) % 65536 ∧ hiH v = bfFma .rne (hiH x) (hiH y) (hiH z) % 65536)
      ∧ (∀ (cc : FCond) (pd : PReg) (b : BSrc),
          s.ready (baseFr g (bsrcLit b)) { ops := [(bsrcOk b, 5)], srcs := a.toNat :: bsrcRegs b } = true →
        Computes (.fcmp g cc pd a b) s (baseFr g (bsrcLit b)) [] [(pd, fcmpRel cc (s.rd a.toNat) (s.bsrc b))])
      ∧ (s.ready (baseFr g false) (chkUn d a) = true →
        let f := baseFr g false
        let x := s.rd a.toNat
        (∀ fn : SfuFn, Computes (.fsfu g fn d a) s f [(d.toNat, sfu fn x)] [])
        ∧ (∀ cv : Cvt, Computes (.fcvt g cv d a) s f [(d.toNat, fconvert cv .rne x)] [])
        ∧ (∃ v : Word, Computes (.fabs g d a) s f [(d.toNat, v)] [] ∧ ∀ i, v.getLsbD i = (x.getLsbD i && i != 31))
        ∧ (∃ v : Word, Computes (.fneg g d a) s f [(d.toNat, v)] [] ∧ ∀ i, v.getLsbD i = (x.getLsbD i != (i == 31)))
        ∧ ∃ k, k < 10 ∧ Computes (.fclass g d a) s f [(d.toNat, BitVec.ofNat 32 (2 ^ k))] [(0, decide (8 ≤ k))]
            ∧ (8 ≤ k ↔ isNan x = true)))
  ∧ (∀ (x : XG) (rm : Rm) (d a e : Reg) (s : State),
      (∀ b : XSrc, s.ready (extFr x (xsrcLit b)) (chkXR d a b) = true →
        let f := extFr x (xsrcLit b)
        let v := s.rd a.toNat
        let y := s.xsrc b
        Computes (.faddX x rm d a b) s f [(d.toNat, f32add rm v y)] []
        ∧ Computes (.fmulX x rm d a b) s f [(d.toNat, f32mul rm v y)] []
        ∧ Computes (.fdiv x rm d a b) s f [(d.toNat, f32div rm v y)] []
        ∧ Computes (.fldexp x rm d a b) s f [(d.toNat, f32ldexp rm v y.toInt)] [])
      ∧ (∀ b : XSrc, s.ready (extFr x (xsrcLit b)) (chkXRe d a b e) = true →
        let f := extFr x (xsrcLit b)
        let v := s.rd a.toNat
        let y := s.xsrc b
        let z := s.rd e.toNat
        Computes (.ffmaX x rm d a b e) s f [(d.toNat, f32fma rm v y z)] []
        ∧ Computes (.fdot2 x rm d a b e) s f [(d.toNat, f32dot2 rm v y z)] []
        ∧ ∃ w : Word, Computes (.hfma2X x rm d a b e) s f [(d.toNat, w)] []
            ∧ loH w = bfFma rm (loH v) (loH y) (loH z) % 65536 ∧ hiH w = bfFma rm (hiH v) (hiH y) (hiH z) % 65536)
      ∧ (s.ready (extFr x false) (chkUn d a) = true →
        let f := extFr x false
        let v := s.rd a.toNat
        Computes (.fsqrt x d a) s f [(d.toNat, f32sqrt v)] [] ∧ Computes (.frnd x rm d a) s f [(d.toNat, f32rnd rm v)] []
        ∧ ∀ cv : Cvt, Computes (.fcvtX x rm cv d a) s f [(d.toNat, fconvert cv rm v)] [])
      ∧ (s.ready (extFr x false) { srcs := [a.toNat], dsts := [d.toNat, e.toNat] } = true →
        Computes (.ffrexp x d a e) s (extFr x false)
          [(d.toNat, (f32frexp (s.rd a.toNat)).1), (e.toNat, (f32frexp (s.rd a.toNat)).2)] []))
  ∧ (let val (n : Bool) (m : Nat) (e : Int) : ℝ := (if n then -1 else 1) * m * (2 : ℝ) ^ e
    let nearest (dec : Nat → FVal) (w r : Nat) (x : ℝ) : Prop := ∀ n m k, dec r = .fin n m k →
      ∀ c nc mc kc, c < w → dec c = .fin nc mc kc → |val n m k - x| ≤ |val nc mc kc - x|
    let near (x : ℝ) (r : Word) : Prop :=
      nearest (fdecode fp32) (2 ^ 32) r.toNat x ∧ (|x| < 2 ^ 128 - 2 ^ 103 → ∃ n m k, fval r = .fin n m k)
    let nearH (x : ℝ) (r : Nat) : Prop :=
      nearest (fdecode fpBf16) (2 ^ 16) r x ∧ (|x| < 2 ^ 128 - 2 ^ 119 → ∃ n m k, fdecode fpBf16 r = .fin n m k)
    (∀ a b : Word, let key (w : Word) : Int := if w.getLsbD 31 then -((w.toNat : Int) - 2 ^ 31) else w.toNat
      (isNan a = decide (0x7F800000 < a.toNat % 2 ^ 31))
      ∧ (isNan a = true ∨ isNan b = true → ∀ cc : FCond, fcmpRel cc a b = [FCond.uno, .ueq, .une, .ult, .ule, .ugt, .uge].contains cc)
      ∧ (isNan a = false → isNan b = false → ∀ cc : FCond, fcmpRel cc a b = (match cc with
          | .eq | .ueq => decide (key a = key b) | .ne | .une => decide (key a ≠ key b) | .lt | .ult => decide (key a < key b)
          | .le | .ule => decide (key a ≤ key b) | .gt | .ugt => decide (key b < key a) | .ge | .uge => decide (key b ≤ key a)
          | .ord => true | .uno => false)))
    ∧ (∀ (a b c : Word) (na nb nc : Bool) (ma mb mc : Nat) (ea eb ec : Int),
        fval a = .fin na ma ea → fval b = .fin nb mb eb → fval c = .fin nc mc ec →
        let x := val na ma ea
        let y := val nb mb eb
        near (x + y) (f32add .rne a b) ∧ near (x - y) (f32sub a b) ∧ near (x * y) (f32mul .rne a b)
        ∧ near (x * y + val nc mc ec) (f32fma .rne a b c) ∧ (mb ≠ 0 → near (x / y) (f32div .rne a b))
        ∧ (na = false → near (Real.sqrt x) (f32sqrt a)) ∧ (na = true → ma ≠ 0 → f32sqrt a = 0x7FC00000) ∧ f32sqrt 0x80000000 = 0x80000000
        ∧ ∀ k : Int, near (x * (2 : ℝ) ^ k) (f32ldexp .rne a k))
    ∧ (∀ (a b c : Word) (v : Fin 4 → Bool × Nat × Int) (nc : Bool) (mc : Nat) (ec : Int),
        fdecode fpBf16 (loH a) = .fin (v 0).1 (v 0).2.1 (v 0).2.2 → fdecode fpBf16 (hiH a) = .fin (v 1).1 (v 1).2.1 (v 1).2.2 →
        fdecode fpBf16 (loH b) = .fin (v 2).1 (v 2).2.1 (v 2).2.2 → fdecode fpBf16 (hiH b) = .fin (v 3).1 (v 3).2.1 (v 3).2.2 →
        let x (i : Fin 4) : ℝ := val (v i).1 (v i).2.1 (v i).2.2
        (fval c = .fin nc mc ec → near (val nc mc ec + x 0 * x 2 + x 1 * x 3) (f32dot2 .rne a b c))
        ∧ nearH (x 0 + x 2) (bfAdd .rne (loH a) (loH b)) ∧ nearH (x 0 * x 2) (bfMul .rne (loH a) (loH b))
        ∧ nearH (x 0 * x 2 + x 1) (bfFma .rne (loH a) (loH b) (hiH a))
        ∧ (bfMax (loH a) (loH b) = if x 0 < x 2 ∨ (x 0 = x 2 ∧ (v 0).1 = true ∧ (v 2).1 = false) then loH b else loH a))
    ∧ (∀ (rm : Rm) (a : Word) (n : Bool) (m : Nat) (e : Int), fval a = .fin n m e →
        let v := val n m e
        let rounds (rm : Rm) (z : ℤ) : Prop := match rm with
          | .rne => |(z : ℝ) - v| ≤ 1 / 2 ∧ (|(z : ℝ) - v| = 1 / 2 → z % 2 = 0)
          | .rz => |(z : ℝ)| ≤ |v| ∧ |v| < |(z : ℝ)| + 1
          | .rd => z = ⌊v⌋
          | .ru => z = ⌈v⌉
        (∃ m' e', fval (f32rnd rm a) = .fin n m' e' ∧ ∃ z : ℤ, val n m' e' = z ∧ rounds rm z)
        ∧ (m ≠ 0 → let r := f32frexp a
            ∃ m' e', fval r.1 = .fin n m' e' ∧ 1 / 2 ≤ (m' : ℝ) * 2 ^ e' ∧ (m' : ℝ) * 2 ^ e' < 1 ∧ v = val n m' e' * (2 : ℝ) ^ r.2.toInt)
        ∧ (m = 0 → f32frexp a = (a, 0))
        ∧ (∀ q ∈ [(Cvt.f32i32, (-2 ^ 31 : ℤ), (2 ^ 31 - 1 : ℤ), rm), (.f32u32, 0, 2 ^ 32 - 1, rm), (.f32i32z, -2 ^ 31, 2 ^ 31 - 1, .rz), (.f32u32z, 0, 2 ^ 32 - 1, .rz)],
            let w := fconvert q.1 rm a
            let r : ℤ := if q.2.1 = 0 then w.toNat else w.toInt
            (v ≤ q.2.1 → r = q.2.1) ∧ ((q.2.2.1 : ℝ) ≤ v → r = q.2.2.1) ∧ ((q.2.1 : ℝ) ≤ v → v ≤ q.2.2.1 → rounds q.2.2.2 r))
        ∧ (fconvert .f32e4m3 rm a).toNat % 128 ≤ 0x7E ∧ (fconvert .f32e5m2s rm a).toNat % 128 ≤ 0x7B
        ∧ nearest e4m3decode 256 (fconvert .f32e4m3 .rne a).toNat v ∧ nearest (fdecode fpE5m2) 256 (fconvert .f32e5m2s .rne a).toNat v
        ∧ (|v| < 61440 → fconvert .f32e5m2 .rne a = fconvert .f32e5m2s .rne a)
        ∧ (61440 ≤ |v| → fconvert .f32e5m2 .rne a = if n then 0xFC else 0x7C)
        ∧ nearH v (fconvert .f32bf16 .rne a).toNat)
    ∧ (∀ (rm : Rm) (a : Word),
        near a.toInt (fconvert .i32f32 .rne a) ∧ near a.toNat (fconvert .u32f32 .rne a)
        ∧ (isNan a = true → f32frexp a = (a ||| 0x00400000, 0) ∧ (∀ cv ∈ [Cvt.f32i32, .f32u32, .f32i32z, .f32u32z], fconvert cv rm a = 0)
            ∧ fconvert .f32e4m3 rm a = (if a.getLsbD 31 then 0xFF else 0x7F)
            ∧ (∀ cv ∈ [Cvt.f32e5m2, .f32e5m2s], fconvert cv rm a = if a.getLsbD 31 then 0xFE else 0x7E)
            ∧ fconvert .f32bf16 rm a = (if a.getLsbD 31 then 0xFFC0 else 0x7FC0) + (a &&& 31))
        ∧ (∀ q ∈ [(Cvt.f32i32, (0x7FFFFFFF : Word), (0x80000000 : Word)), (.f32u32, 0xFFFFFFFF, 0), (.f32e4m3, 0x7F, 0xFF), (.f32e5m2, 0x7C, 0xFC),
              (.f32e5m2s, 0x7C, 0xFC), (.f32bf16, 0x7F80, 0xFF80)],
            fconvert q.1 rm 0x7F800000 = q.2.1 ∧ fconvert q.1 rm 0xFF800000 = q.2.2)
        ∧ (let h := a.toNat % 65536
           fconvert .bf16f32 rm a = if 0x7F80 < h % 32768 then (if 32768 ≤ h then 0xFFC00000 else 0x7FC00000) + BitVec.ofNat 32 (h % 32) else BitVec.ofNat 32 (h * 65536))
        ∧ (∀ q ∈ [(Cvt.e4m3f32, e4m3decode), (.e5m2f32, fdecode fpE5m2)], match q.2 (a.toNat % 256) with
            | .nan _ => fconvert q.1 rm a = 0x7FC00001
            | .inf n => fconvert q.1 rm a = if n then 0xFF800000 else 0x7F800000
            | .fin n m e => ∃ m' e', fval (fconvert q.1 rm a) = .fin n m' e' ∧ val n m' e' = val n m e)
        ∧ (if a.toNat % 256 = 255 then fconvert .e8m0f32 rm a = 0x7FC00002
           else ∃ m e, fval (fconvert .e8m0f32 rm a) = .fin false m e ∧ val false m e = (2 : ℝ) ^ ((a.toNat % 256 : ℤ) - 127))))

/-- R51, R52, R118, R126 on the functions the instructions above write: the first NaN operand is returned with bit 22
set and every other bit kept; with none, infinity minus infinity gives cause 3, zero times infinity cause 4, and an
invalid division, root or remainder cause 0; a finite nonzero value over zero is an infinity of the product's sign. -/
def Obligations.FloatNanAndInfinity : Prop :=
  (∀ (rm : Rm) (a b c : Word), isNan a = true →
    f32add rm a b = a ||| 0x00400000 ∧ f32sub a b = a ||| 0x00400000 ∧ f32mul rm a b = a ||| 0x00400000
    ∧ f32div rm a b = a ||| 0x00400000 ∧ f32fma rm a b c = a ||| 0x00400000 ∧ f32sqrt a = a ||| 0x00400000
    ∧ f32rnd rm a = a ||| 0x00400000 ∧ f32min a b = a ||| 0x00400000 ∧ f32max a b = a ||| 0x00400000)
  ∧ (∀ (rm : Rm) (a b c : Word), isNan a = false → isNan b = true →
    f32add rm a b = b ||| 0x00400000 ∧ f32sub a b = b ||| 0x00400000 ∧ f32mul rm a b = b ||| 0x00400000
    ∧ f32div rm a b = b ||| 0x00400000 ∧ f32fma rm a b c = b ||| 0x00400000 ∧ f32min a b = b ||| 0x00400000
    ∧ f32max a b = b ||| 0x00400000)
  ∧ (∀ (rm : Rm) (a b c : Word), isNan a = false → isNan b = false → isNan c = true → f32fma rm a b c = c ||| 0x00400000)
  ∧ (∀ (rm : Rm) (c : Word), isNan c = false →
    f32add rm 0x7F800000 0xFF800000 = 0x7FC00003 ∧ f32sub 0x7F800000 0x7F800000 = 0x7FC00003
    ∧ f32mul rm 0 0x7F800000 = 0x7FC00004 ∧ f32fma rm 0x7F800000 0 c = 0x7FC00004
    ∧ f32div rm 0 0 = 0x7FC00000 ∧ f32div rm 0x7F800000 0xFF800000 = 0x7FC00000 ∧ f32sqrt 0xBF800000 = 0x7FC00000)
  ∧ ∀ (rm : Rm) (a : Word), isNan a = false → a.extractLsb' 0 31 ≠ 0 → a.extractLsb' 0 31 ≠ 0x7F800000 →
      f32div rm a 0 = (if a.getLsbD 31 then 0xFF800000 else 0x7F800000)
      ∧ f32div rm a 0x80000000 = (if a.getLsbD 31 then 0x7F800000 else 0xFF800000)

/-- R46, R47, R125: rounding a value the format holds gives its code back, in every mode and for every format with
infinities; so a product with one, a quotient by one and a scaling by 2^0 return a finite operand unchanged. -/
def Obligations.RoundingKeepsRepresentable : Prop :=
  (∀ (f : Fmt) (rm : Rm) (w : Nat) (neg : Bool) (m : Nat) (e : Int), 0 < f.mw → 1 < f.ew → w < 2 ^ (1 + f.ew + f.mw) →
    fdecode f w = .fin neg m e → roundQ f rm neg m 1 e = w)
  ∧ ∀ (rm : Rm) (a : Word) (neg : Bool) (m : Nat) (e : Int), fval a = .fin neg m e →
      f32mul rm a 0x3F800000 = a ∧ f32div rm a 0x3F800000 = a ∧ f32ldexp rm a 0 = a ∧ f32add rm a a = f32ldexp rm a 1

/-- R47, R125: the code nearest-even rounding gives is nearest: no finite FP32 code of the value's sign lies closer to
`n / d * 2 ^ e`; rounding towards zero never exceeds it, and no code between the result and the value is passed over. -/
def Obligations.RoundingIsNearest : Prop :=
  ∀ (neg : Bool) (n d : Nat) (e : Int) (m : Nat) (k : Int) (c mc : Nat) (kc : Int), 0 < n → 0 < d →
    let v : ℚ := (n : ℚ) / d * (2 : ℚ) ^ e
    let vc : ℚ := mc * (2 : ℚ) ^ kc
    c < 2 ^ 32 → fdecode fp32 c = .fin neg mc kc →
    (fdecode fp32 (roundQ fp32 .rne neg n d e) = .fin neg m k → |(m : ℚ) * 2 ^ k - v| ≤ |vc - v|)
    ∧ (fdecode fp32 (roundQ fp32 .rz neg n d e) = .fin neg m k → (m : ℚ) * 2 ^ k ≤ v ∧ (vc ≤ v → vc ≤ (m : ℚ) * 2 ^ k))

/-! ## Control flow, traps and system instructions (spec/05_registers_strand.md R111-R116, spec/17_traps_context.md) -/

/-- R111, R112: `bra` and `call` go to the first word's address plus 4 times imm21, and `call` writes the address
after the instruction, canonical in 57 bits, to the link pair; `brx` and `ret` go to the address in their pair, or
raise ILLEGAL_OPERAND with operand 2 where its bits [1:0] are not zero. Nothing else changes, and under a false guard
`bra` and `call` only advance. -/
def Obligations.BranchCallReturn : Prop :=
  ∀ (g : Guard) (off : BitVec 21) (a : Reg) (s : State),
    let f := baseFr g false
    let target := s.myStrand.pc + off.signExtend 64 * 4
    let words : Dword := match g with | .ext _ _ => 3 | .always | .p0 | .notP0 | .p1 => 1
    let link : Dword := ((s.myStrand.pc + 4 * words).extractLsb' 0 57).signExtend 64
    (s.guardOk f = false → Computes (.bra g off) s f [] [] ∧ Computes (.call g off) s f [] [])
    ∧ (s.ready f {} = true → ∃ t, exec (.bra g off) s = .next t ∧ WroteAt s t (target, 63) [] [])
    ∧ (s.ready f { dsts := [126, 127] } = true → ∃ t, exec (.call g off) s = .next t
        ∧ WroteAt s t (target, 63) [(126, link.extractLsb' 0 32), (127, link.extractLsb' 32 32)] [])
    ∧ (s.ready f { ops := [(pairOk a, 2)], srcs := pairRegs a } = true →
        if (s.rd64 a.toNat).extractLsb' 0 2 = 0 then ∃ t, exec (.brx g a) s = .next t ∧ WroteAt s t (s.rd64 a.toNat, 63) [] []
        else exec (.brx g a) s = .next ((s.readAcquire (pairRegs a)).illegalOp f 2))
    ∧ (s.ready f { srcs := [126, 127] } = true →
        if (s.rd64 126).extractLsb' 0 2 = 0 then ∃ t, exec (.ret g) s = .next t ∧ WroteAt s t (s.rd64 126, 63) [] []
        else exec (.ret g) s = .next ((s.readAcquire [126, 127]).illegalOp f 2))

/-- R360, R361: outside its handler a strand that traps has the address of its instruction (the `mcall`'s within a
macro) in `TRAPPC`, the fields of Table 2 in `CAUSE`, the trap's `TVAL` and `TADDR`, and continues at the launch's
handler; its registers, predicates and fill bits, other strands and all memory stay. R362: a trap within the handler
is a double trap: the strand has exited, its trap registers keep the first trap's values, and while its crew's log has
room a record of kind 3 with the second trap's code and the address joins it. -/
def Obligations.TrapEntry : Prop :=
  ((∀ (s : State) (f : Fr) (tr : Trap), s.myStrand.cause.getLsbD 31 = false →
      TookTrap s (s.trap f tr) f tr ∧ SameBytes s (s.trap f tr))
    ∧ ∀ (tr : Trap) (len : BitVec 2) (step idx : Nat), tr.code < 256 → tr.pfr < 8 → step < 64 → idx < 64 →
        let w := causeWord tr len step idx
        w.extractLsb' 0 8 = BitVec.ofNat 8 tr.code ∧ w.extractLsb' 8 3 = BitVec.ofNat 3 tr.pfr ∧ w.extractLsb' 11 4 = 0
        ∧ w.extractLsb' 15 2 = len ∧ w.getLsbD 17 = tr.nofetch ∧ w.extractLsb' 24 6 = BitVec.ofNat 6 step
        ∧ w.extractLsb' 18 6 = BitVec.ofNat 6 (if step < 32 then idx else 0) ∧ w.getLsbD 30 = tr.defer ∧ w.getLsbD 31 = true)
  ∧ (∀ (s : State) (f : Fr) (tr : Trap), s.myStrand.cause.getLsbD 31 = true →
      let t := s.trap f tr
      let v := t.strand s.x
      v.life = .exited ∧ v.trappc = s.myStrand.trappc ∧ v.cause = s.myStrand.cause ∧ v.tval = s.myStrand.tval
      ∧ v.taddr = s.myStrand.taddr
      ∧ (s.myStrand.faults = [] → s.myCrew.log.length < 8 →
          (t.crew (crewOf s.x)).log = s.myCrew.log ++ [logRecord 3 tr.code 0 0 (laneOf s.x) 0 s.myStrand.pc.toNat]))

/-- R115: `trap` raises SOFTWARE and `bkpt` BREAKPOINT, with the code in `TVAL` and the address of the instruction in
`TRAPPC`. -/
def Obligations.SoftwareTraps : Prop :=
  ∀ (g : Guard) (code : BitVec 14) (s : State), s.ready (baseFr g false) {} = true → s.myStrand.cause.getLsbD 31 = false →
    (∃ t, exec (.trap g code) s = .next t ∧ TookTrap s t (baseFr g false) { code := 0x14, tval := code.zeroExtend 32 })
    ∧ ∃ t, exec (.bkpt g code) s = .next t ∧ TookTrap s t (baseFr g false) { code := 0x15, tval := code.zeroExtend 32 }

/-- R113, R114, R39, R368, R370, R372: what ends, suspends or resumes a strand. `yield` only advances it; `exit` and
`halt` leave it Exited, `halt` every strand of its troop; `trigger` marks it once no store of the core is on its way;
`eret` returns to `TRAPPC`, or past the instruction there, and clears `inh`; `ppoint` reports a pending save request.
R35: the holder's crew passes the rein of each pair it holds to the pair's other crew. A wait is the model's retry
(log 6); that a trigger waits for every store and load of its core is log 13, that `eret` drops the two low bits of
TRAPPC log 24. -/
def Obligations.StrandSuspension : Prop :=
  (∀ (g : Guard) (x : XG) (s : State),
      (s.ready (baseFr g false) {} = true →
        Computes (.yield g) s (baseFr g false) [] []
        ∧ (∃ t, exec (.exit g) s = .next t ∧ (t.strand s.x).life = .exited)
        ∧ (s.relReady .pkg = true → ∃ t, exec (.trigger g) s = .next t ∧ (t.strand s.x).trig = true
            ∧ (t.strand s.x).life = .eligible ∧ ((t.strand s.x).pc, (t.strand s.x).step) = s.nextPc (baseFr g false))
        ∧ (s.relReady .pkg = false → exec (.trigger g) s = .next (s.park .retry)))
      ∧ (s.ready (extFr x false) {} = true →
        (∃ t, exec (.halt x) s = .next t ∧ ∀ c ∈ s.crewsOf (troopOf s.x), ∀ y ∈ s.liveLanes c, (t.strand y).life = .exited)
        ∧ (∀ skip, ∃ t, exec (if skip then .eretSkip x else .eret x) s = .next t ∧ (t.strand s.x).life = .eligible
            ∧ (t.strand s.x).cause = s.myStrand.cause &&& 0x7FFFFFFF
            ∧ (skip = false → (t.strand s.x).pc = s.myStrand.trappc &&& ~~~3)
            ∧ (skip = true → 32 ≤ bits s.myStrand.cause.toNat 29 24 → (t.strand s.x).step = 63 ∧ (t.strand s.x).pc = (s.myStrand.trappc &&& ~~~3)
                + (if s.myStrand.cause.getLsbD 17 then 4 else match s.myStrand.cause.extractLsb' 15 2 with | 0 => 4 | 1 | 2 => 12 | _ => 20)))
        ∧ (∀ (park : Bool) (pd : PReg),
            let save := s.myCrew.saveReq.isSome || s.myTroop.saveReq.isSome
            (park = false ∨ save = false → s.myStrand.latch = none →
              Computes (.ppoint x park pd) s (extFr x false) [] [(pd, save)])
            ∧ (park = true → save = true → ∃ t, exec (.ppoint x park pd) s = .next t ∧ (t.strand s.x).life = .parked
                ∧ (t.strand s.x).pc = s.myStrand.pc))))
  ∧ (∀ (g : Guard) (s : State), s.myCrew.role = .matrix →
      (∃ p ∈ s.myTroop.reins, p.1 = crewIdx (crewOf s.x) ∨ p.2.1 = crewIdx (crewOf s.x)) → s.guardOk (baseFr g false) = true →
      ∃ t, exec (.rein g) s = .next t ∧ ((t.strand s.x).pc, (t.strand s.x).step) = s.nextPc (baseFr g false)
        ∧ (t.troop (troopOf s.x)).reins = s.myTroop.reins.map (fun p =>
            if p.2.2 = crewIdx (crewOf s.x) then (p.1, p.2.1, if p.1 = crewIdx (crewOf s.x) then p.2.1 else p.1) else p)
        ∧ RegFile s t [] [] ∧ SameBytes s t)

/-- R371: `sleep` of count 0, or in a deterministic troop, only advances the PC; any other parks its strand until the
core's cycle counter, which counts through a freeze, has advanced by the count: before that the strand stays parked,
from then on it is Eligible again and its `sleep` is done. That the strand executes `sleep` again at the end, by its
latch, is log 6. -/
def Obligations.SleepParksUntilTheCount : Prop :=
  (∀ (x : XG) (b : XSrc) (s : State), s.ready (extFr x (xsrcLit b)) { ops := [(xsrcOk b, 5)], srcs := xsrcRegs b } = true →
    (s.myStrand.latch = none → s.myLaunch.det = true ∨ s.xsrc b = 0 → Computes (.sleep x b) s (extFr x (xsrcLit b)) [] [])
    ∧ (s.myStrand.latch = none → s.myLaunch.det = false → s.xsrc b ≠ 0 → ∃ t, exec (.sleep x b) s = .next t ∧ (t.strand s.x).life = .parked
        ∧ (t.strand s.x).wait = .clock (s.myCore.cycle + (s.xsrc b).toNat) ∧ (t.strand s.x).pc = s.myStrand.pc
        ∧ (t.strand s.x).latch = some (s.myCore.cycle + (s.xsrc b).toNat))
    ∧ (∀ a, s.myStrand.latch = some a → a ≤ s.myCore.cycle → Computes (.sleep x b) s (extFr x (xsrcLit b)) [] []))
  ∧ (∀ (s : State) (a : Nat), let x := s.ev.unit
      (s.strand x).life = .parked → (s.strand x).wait = .clock a →
      ((s.core (coreOf x)).cycle < a → exec .sleepExpiry s = .next s)
      ∧ (a ≤ (s.core (coreOf x)).cycle → s.still (coreOf x) = false → s.mayIssue (crewOf x) = true → ∃ t, exec .sleepExpiry s = .next t
          ∧ t.strand x = { s.strand x with life := .eligible, stamp := (s.unit (s.unitOfCrew (crewOf x))).stampCtr, wait := .none }
          ∧ (∀ y, y ≠ x → t.strand y = s.strand y) ∧ SameBytes s t))
  ∧ ∀ (s : State) (k n : Nat), k < 512 → ((s.tick k n).core k).cycle = (s.core k).cycle + n ∧ (s.tick k n).strands = s.strands

/-! ## Special registers, predicates, register blocks, macros -/

/-- R95-R97, R142, R147, R152, R307, R354, R355, R369: instructions that read a piece of state into registers write it
and change nothing else. A strand whose team-mates have already retired with this instruction reads its crew's count
from before it (R26, R353). R95, R97, R360, R369: writes of special registers and predicates. A register software may
only read ignores the write; `cause.log` takes the oldest record of the crew's log, zero when it is empty, and
`cause.logn` reads the counts and clears `lost`. Nothing else changes. -/
def Obligations.SpecialRegisters : Prop :=
  (∀ (g : Guard) (x : XG) (d a : Reg) (s : State),
      let f := extFr x false
      (s.ready f { dsts := [d.toNat] } = true →
        (∀ r : SReg, Computes (.sread x d r) s f [(d.toNat, match r with
          | .lane => BitVec.ofNat 32 (s.x % 32)
          | .plane => BitVec.ofNat 32 ((s.x % 32 + 8 * (s.myCrew.slot % 4)) % 32)
          | .quarter => BitVec.ofNat 32 s.myCrew.unit
          | .crew => BitVec.ofNat 32 (s.x / 32 % 64)
          | .troop => BitVec.ofNat 32 s.myTroop.index
          | .herd => BitVec.ofNat 32 s.myTroop.herd
          | .core => BitVec.ofNat 32 (coreOf s.x % 64)
          | .die => BitVec.ofNat 32 (coreOf s.x / 64)
          | .pkg => s.pkg.zeroExtend 32
          | .role => match s.myCrew.role with | .access => 0 | .matrix => 1 | .vector => 2
          | .ncrews => BitVec.ofNat 32 s.myTroop.ncrews
          | .extblk => BitVec.ofNat 32 s.myCrew.ext
          | .sgw => s.myTroop.sgw
          | .trappcLo => s.myStrand.trappc.extractLsb' 0 32
          | .trappcHi => s.myStrand.trappc.extractLsb' 32 32
          | .cause => s.myStrand.cause
          | .tval => s.myStrand.tval
          | .fidrate => s.myTroop.fidrate
          | .fidthr => s.myTroop.fidthr)] [])
        ∧ (∃ w : Word, Computes (.pmovGet x d) s f [(d.toNat, w)] []
            ∧ ∀ i, i < 32 → w.getLsbD i = (decide (i = 7) || (decide (i < 7) && s.myStrand.preds.getLsbD i)))
        ∧ ∀ k : BitVec 4, (∀ b, s.binOf (troopOf s.x) k.toNat = some b → b.2.reqs.length < 64) → ∃ w : Word,
            Computes (.pdkey x d k) s f [(d.toNat, w)] []
            ∧ w.extractLsb' 0 6 = (match s.binOf (troopOf s.x) k.toNat with | some b => BitVec.ofNat 6 b.2.reqs.length | none => 0)
            ∧ w.getLsbD 6 = (s.binOf (troopOf s.x) k.toNat).isSome ∧ w.getLsbD 7 = (keyEntry (s.paddockKey k.toNat) != 0))
      ∧ (∀ k : Reg, s.ready f { ops := [(decide (k.toNat < 32), 2)], dsts := [d.toNat] } = true →
          Computes (.kmov x d k) s f [(d.toNat, sget s.myCrew.k 0 k.toNat)] [])
      ∧ (s.ready f { ops := [(pairOk d, 1)], dsts := pairRegs d } = true →
        let pair (v : Dword) : List (Nat × Word) := [(d.toNat, v.extractLsb' 0 32), (d.toNat + 1, v.extractLsb' 32 32)]
        let old := match s.myStrand.team with
          | some n => if n ∈ s.myCrew.counted then s.myCrew.retired - 1 else s.myCrew.retired
          | none => s.myCrew.retired
        Computes (.causeAddr x d) s f (pair s.myStrand.taddr) []
        ∧ Computes (.clock x d) s f (pair (BitVec.ofNat 64 (if s.myLaunch.det then old else s.myCore.cycle))) []
        ∧ Computes (.retired x d) s f (pair (BitVec.ofNat 64 old)) []
        ∧ ∀ k : BitVec 3, let p := sget s.myCore.perf (0, 0, 0) k.toNat
            (p.2.1.extractLsb' 0 8 ≠ 0x11 → Computes (.perfrd x k d) s f (pair p.1) [])
            ∧ (p.2.1.extractLsb' 0 8 = 0x11 → ∃ t v, exec (.perfrd x k d) s = .next t ∧ Goes s t f (pair v) [] ∧ SameBytes s t
                ∧ sget (t.core (coreOf s.x)).perf (0, 0, 0) k.toNat = (v, p.2)))
      ∧ (s.ready (baseFr g false) { names := [a.toNat] } = true → ∀ pd : PReg,
          Computes (.fillq g pd a) s (baseFr g false) [] [(pd, s.myStrand.fill.getLsbD a.toNat)])
      ∧ (s.ready (baseFr g false) (chkUn d a) = true →
          Computes (.vlane g d a) s (baseFr g false) [(d.toNat, if 32 ≤ (s.rd a.toNat).toNat then 0xFFFFFFFF
            else BitVec.ofNat 32 (((s.rd a.toNat).toNat + 8 * s.laneOff (crewOf s.x)) % 32))] [])
      ∧ (s.ready f { ops := [(pairOk d, 1), (pairOk a, 2)], srcs := pairRegs a, dsts := pairRegs d } = true →
          let w := s.rd64 a.toNat
          let c := s.cap (coreOf s.x) (cwEntry w)
          ∃ lo hi : Word, Computes (.capinfo x d a) s f [(d.toNat, lo), (d.toNat + 1, hi)] []
            ∧ hi.getLsbD 31 = s.capValid w ∧ hi.getLsbD 30 = s.capHome w ∧ lo = (if s.capValid w then c.lanes else 0)
            ∧ (s.capValid w = true → c.rights < 8 → c.base < 128 → hi.extractLsb' 27 3 = BitVec.ofNat 3 c.rights
                ∧ hi.extractLsb' 20 7 = BitVec.ofNat 7 c.base ∧ hi.extractLsb' 14 6 = BitVec.ofNat 6 c.count
                ∧ hi.extractLsb' 8 6 = BitVec.ofNat 6 (c.crew % 64))))
  ∧ (∀ (x : XG) (d a : Reg) (mask : BitVec 7) (s : State),
      let f := extFr x false
      let v := s.rd a.toNat
      let strandIs (t : State) (w : Strand) : Prop :=
        { t.strand s.x with pc := w.pc, step := w.step, stamp := w.stamp, team := w.team, putAcq := w.putAcq, xl := w.xl, fetched := w.fetched } = { w with life := .eligible, wait := .none, refused := none, latch := none }
      (s.ready f { srcs := [a.toNat] } = true →
        (∀ r : SReg, ∃ t, exec (.swrite x r a) s = .next t ∧ ((t.strand s.x).pc, (t.strand s.x).step) = s.nextPc f ∧ SameBytes s t
          ∧ (match r with
            | .trappcLo => strandIs t { s.myStrand with trappc := s.myStrand.trappc.extractLsb' 32 32 ++ v }
            | .trappcHi => strandIs t { s.myStrand with trappc := v ++ s.myStrand.trappc.extractLsb' 0 32 }
            | .cause => strandIs t { s.myStrand with cause := v &&& 0xFFFF87FF }
            | .tval => strandIs t { s.myStrand with tval := v }
            | .fidrate => strandIs t s.myStrand ∧ t.troop (troopOf s.x) = { s.myTroop with fidrate := v &&& 31 }
            | .fidthr => strandIs t s.myStrand ∧ t.troop (troopOf s.x) = { s.myTroop with fidthr := v }
            | .lane | .plane | .quarter | .crew | .troop | .herd | .core | .die | .pkg | .role | .ncrews | .extblk | .sgw => Wrote s t f [] []))
        ∧ ∃ t, exec (.pmovSet x a mask) s = .next t ∧ ((t.strand s.x).pc, (t.strand s.x).step) = s.nextPc f ∧ SameBytes s t
            ∧ strandIs t { s.myStrand with preds := (s.myStrand.preds &&& ~~~mask) ||| (v.extractLsb' 0 7 &&& mask) })
      ∧ (s.ready f { ops := [(pairOk d, 1)], dsts := pairRegs d } = true →
          let r : Dword := s.myCrew.log.headD 0
          ∃ t, exec (.causeLog x d) s = .next t ∧ ((t.strand s.x).pc, (t.strand s.x).step) = s.nextPc f ∧ SameBytes s t
            ∧ RegFile s t [(d.toNat, r.extractLsb' 0 32), (d.toNat + 1, r.extractLsb' 32 32)] []
            ∧ (t.crew (crewOf s.x)).log = s.myCrew.log.drop 1 ∧ (t.crew (crewOf s.x)).lost = s.myCrew.lost)
      ∧ (s.ready f { dsts := [d.toNat] } = true →
          ∃ t, exec (.causeLogn x d) s = .next t ∧ ((t.strand s.x).pc, (t.strand s.x).step) = s.nextPc f ∧ SameBytes s t
            ∧ RegFile s t [(d.toNat, BitVec.ofNat 32 (s.myCrew.log.length + 256 * s.myCrew.lost))] []
            ∧ (t.crew (crewOf s.x)).log = s.myCrew.log ∧ (t.crew (crewOf s.x)).lost = 0))

/-- R91, R93: `grow` to a target the crew has reached answers true; a target the free blocks of the troop cover, when
no other crew waits, is granted at once, and the registers gained are full and zero; otherwise the strand parks with
the crew's request, and where that has failed (R92) the predicate is false with GROW_DEADLOCK in `CAUSE`, or the trap
is taken. `shrink` to the present count or above only advances; below it, with no load of the crew out, the count
falls and the registers given up read zero. R327-R331: `mstore` writes a valid record to a macro no troop or the
strand's troop owns, which then owns it, and answers whether it could; `mread` reads a record of an own macro, else
zero; a call of an own macro sets the strand's step to 0, of another macro raises ILLEGAL_OPERAND. A wait is the
model's retry (log 6). -/
def Obligations.BlocksAndMacros : Prop :=
  (∀ (x : XG) (pd : PReg) (n : BitVec 2) (tr : Bool) (s : State), s.ready (extFr x false) {} = true →
      let f := extFr x false
      let c := crewOf s.x
      (n.toNat ≤ s.myCrew.ext → Computes (.grow x pd n tr) s f [] [(pd, true)])
      ∧ (s.myCrew.ext < n.toNat → s.myStrand.latch = none → (∀ q ∈ s.crewsOf (troopOf s.x), (s.crew q).grow = none) →
          c ∈ s.crewsOf (troopOf s.x) →
          (n.toNat - s.myCrew.ext ≤ s.freeBlocks (troopOf s.x) → s.alive s.x = true → ∃ t, exec (.grow x pd n tr) s = .next t
            ∧ (t.crew c).ext = n.toNat ∧ (t.strand s.x).life = .eligible ∧ (t.strand s.x).prd pd.toNat = true
            ∧ ((t.strand s.x).pc, (t.strand s.x).step) = s.nextPc f
            ∧ ∀ r, 32 * (s.myCrew.ext + 1) ≤ r → r < min (32 * (n.toNat + 1)) 126 →
                t.rdX s.x r = 0 ∧ (t.strand s.x).fill.getLsbD r = true)
          ∧ (s.freeBlocks (troopOf s.x) < n.toNat - s.myCrew.ext → ∃ t, exec (.grow x pd n tr) s = .next t
            ∧ (t.strand s.x).life = .parked ∧ (t.strand s.x).pc = s.myStrand.pc ∧ (t.crew c).ext = s.myCrew.ext))
      ∧ (s.myCrew.ext < n.toNat → s.myStrand.latch ≠ none →
          (tr = false → ∃ t, exec (.grow x pd n tr) s = .next t ∧ Goes s t f [] [(pd, false)] ∧ SameBytes s t
            ∧ (t.strand s.x).cause.extractLsb' 0 8 = 0x11#8 ∧ (t.strand s.x).cause.extractLsb' 8 24 = s.myStrand.cause.extractLsb' 8 24)
          ∧ (tr = true → s.myStrand.cause.getLsbD 31 = false → ∃ t, exec (.grow x pd n tr) s = .next t
            ∧ TookTrap s t f { code := 0x11, tval := n.zeroExtend 32 }))
      ∧ (s.myCrew.ext ≤ n.toNat → Computes (.shrink x n) s f [] [])
      ∧ (n.toNat < s.myCrew.ext → s.myCrew.ld = 0 → s.bankWaits c = false → s.myCrew.grow = none → s.alive s.x = true →
          (∀ q ∈ s.crewsOf (troopOf s.x), (s.crew q).grow = none) →
          ∃ t, exec (.shrink x n) s = .next t ∧ (t.crew c).ext = n.toNat
            ∧ (t.strand s.x).life = .eligible ∧ ((t.strand s.x).pc, (t.strand s.x).step) = s.nextPc f
            ∧ ∀ r, 32 * (n.toNat + 1) ≤ r → r < min (32 * (s.myCrew.ext + 1)) 126 → t.rdX s.x r = 0)
      ∧ (n.toNat < s.myCrew.ext → s.myCrew.ld ≠ 0 ∨ s.bankWaits c = true → exec (.shrink x n) s = .next (s.park .retry)))
  ∧ (∀ (g : Guard) (x : XG) (m : BitVec 6) (m7 d a e : Reg) (q : RSrc) (pr : PReg) (s : State),
      let f := extFr x false
      let me := troopOf s.x
      (s.ready f { ops := [(pairOk a, 2)], srcs := pairRegs a ++ rsrcRegs q } = true →
        let w := s.rd64 a.toNat
        let n := (s.rsrc q).toNat
        let u := s.readAcquire (pairRegs a ++ rsrcRegs q)
        if 32 ≤ n then exec (.mstore x m a q pr) s = .next (s.illegalOp f 3)
        else if recordOk w = false then exec (.mstore x m a q pr) s = .next (u.illegalOp f 2)
        else if s.macroOwner m.toNat = none ∨ s.macroOwner m.toNat = some me then
          ∃ t, exec (.mstore x m a q pr) s = .next t ∧ t.macroRecord m.toNat n = w ∧ sfind (t.core (coreOf s.x)).mowner m.toNat = some me
            ∧ RegFile s t [] [(pr, true)] ∧ SameBytes s t ∧ ((t.strand s.x).pc, (t.strand s.x).step) = s.nextPc f
        else Computes (.mstore x m a q pr) s f [] [(pr, false)])
      ∧ (s.ready f { ops := [(pairOk d, 1)], srcs := rsrcRegs q, dsts := pairRegs d } = true →
        let n := (s.rsrc q).toNat
        let v := if s.macroOwner m.toNat = some me then s.macroRecord m.toNat n else 0
        if 32 ≤ n then exec (.mread x m d q) s = .next (s.illegalOp f 3)
        else Computes (.mread x m d q) s f [(d.toNat, v.extractLsb' 0 32), (d.toNat + 1, v.extractLsb' 32 32)] [])
      ∧ (∀ b : Reg, s.ready (baseFr g false) { ops := [(decide (m7.toNat < 64), 1)] } = true →
        exec (.mcall g m7 a b) s = .next (if s.macroOwner m7.toNat = some me then s.modMe (fun t => { t with step := 0, mindex := m7.toNat })
          else s.illegalOp (baseFr g false) 1))
      ∧ ∀ b : RSrc, s.ready f { ops := [(match b with | .imm v => decide (v.toNat < 128) | .reg _ => true, 5)] } = true →
        exec (.mcallX x m d a b e) s = .next (if s.macroOwner m.toNat = some me then s.modMe (fun t => { t with step := 0, mindex := m.toNat })
          else s.illegalOp f 5))

/-! ## Hitches and collectives (spec/02_execution.md R30-R32, spec/06_registers_vector.md R127-R143) -/

/-- R131-R141 (Table 8): at a declared hitch that the strand has not signed in this phase, of no other kind of
operation, each collective that returns data signs with the stated kind, sources and destinations, `kset` on a hitch
that is uniform for the crew; `hbar` is a release: it waits while stores of its crew are queued or loads of the strand
are on their way, and signs when none is. R30, R31, R131: a signature joins its phase, the first with a true guard
fixing the kind of operation, and while the phase lacks participants its strand waits Signed past the instruction,
with nothing else written; a second signature of a strand raises HITCH_DOUBLE and one of another kind HITCH_MISMATCH,
and neither changes the phase. A wait, such as that of `hbar` for the stores and loads of its crew, is the model's
retry (log 6, log 13); that a strand stops before a signature another of its core signs earlier is log 26. -/
def Obligations.CollectivesSign : Prop :=
  (∀ (g : Guard) (x : XG) (w : BitVec 3) (d a : Reg) (h : BitVec 5) (s : State),
      let signs (i : Instr) (f : Fr) (c : Chk) (h : Nat) (k : OpKind) (m : Sig) : Prop :=
        s.ready f { c with ops := c.ops ++ [(s.declared h, 5)] } = true → (s.readAcquire c.srcs).signHeld h = false → s.signBad h k = none →
          exec i s = .next ((s.readAcquire c.srcs).signResult f h k m)
      let n := h.toNat
      let f := extFr x false
      let fb := baseFr g false
      let sig : Sig := { x := s.x, contrib := true }
      (∀ b : BSrc,
        let sh (op : Nat) (i : Instr) : Prop := signs i (baseFr g (bsrcLit b)) (chkBR d a b) 0 { coll := 0, width := 32, fn := op }
          { sig with vals := [s.rd a.toNat, s.bsrc b], dsts := [d.toNat] }
        sh 0 (.shflIdx g d a b) ∧ sh 1 (.shflUp g d a b) ∧ sh 2 (.shflDown g d a b) ∧ sh 3 (.shflXor g d a b))
      ∧ (∀ (op : ShflOp) (b : XSrc) (pv : PReg),
          signs (.shflX x op w d a b pv h) (extFr x (xsrcLit b)) (chkW (chkXR d a b) w) n
            { coll := 0, width := 2 ^ w.toNat, fn := match op with | .idx => 0 | .up => 1 | .down => 2 | .xor => 3 }
            { sig with vals := [s.rd a.toNat, s.xsrc b], dsts := [d.toNat], pdst := pv.toNat })
      ∧ (∀ (m : VoteMode) (ps pd : PReg),
          let code := voteCodes.idxOf m
          signs (.vote g m d ps) fb { dsts := [d.toNat] } 0 { coll := 1, fn := code } { sig with dsts := [d.toNat], preds := [s.pr ps] }
          ∧ signs (.voteX x m w d ps pd h) f (chkW { dsts := [d.toNat] } w) n { coll := 1, width := 2 ^ w.toNat, fn := code }
              { sig with dsts := [d.toNat], preds := [s.pr ps], pdst := pd.toNat })
      ∧ (∀ op : RedOp,
          let code := redCodes.idxOf op
          let m : Sig := { sig with vals := [s.rd a.toNat], dsts := [d.toNat] }
          signs (.redux g op d a) fb (chkUn d a) 0 { coll := 2, fn := code } m
          ∧ signs (.reduxX x op w d a h) f (chkW (chkUn d a) w) n { coll := 2, width := 2 ^ w.toNat, fn := code } m
          ∧ ∀ ex : Bool, signs (.scan x op ex w d a h) f (chkW (chkUn d a) w) n
              { coll := 3, width := 2 ^ w.toNat, fn := 2 * code + if ex then 1 else 0 } m)
      ∧ (∀ (b64 all : Bool) (pd : PReg),
          signs (.peers x b64 all w d a pd h) f
            (chkW { ops := [(!b64 || pairOk a, 2)], srcs := if b64 then pairRegs a else [a.toNat], dsts := [d.toNat] } w) n
            { coll := 4, width := 2 ^ w.toNat, fn := (if b64 then 1 else 0) + (if all then 2 else 0) }
            { sig with vals := if b64 then [s.rd a.toNat, s.rd (a.toNat + 1)] else [s.rd a.toNat], dsts := [d.toNat], pdst := pd.toNat })
      ∧ (s.myCrew.sq = [] → s.loadsIn = true → signs (.hbar g) fb {} 0 { coll := 6 } sig ∧ signs (.hbarX x h) f {} n { coll := 6 } sig)
      ∧ (s.myCrew.sq ≠ [] ∨ s.loadsIn = false →
          (s.ready fb {} = true → s.signBad 0 { coll := 6 } = none → exec (.hbar g) s = .next (s.park .retry))
          ∧ (s.ready f { ops := [(s.declared n, 5)] } = true → s.signHeld n = false → s.signBad n { coll := 6 } = none →
              exec (.hbarX x h) s = .next (s.park .retry)))
      ∧ (∀ (k : Reg) (v : XSrc), s.uniform n = true →
          signs (.kset x k v h) (extFr x (xsrcLit v)) { ops := [(decide (k.toNat < 32), 1), (xsrcOk v, 5)], srcs := xsrcRegs v } n { coll := 7 }
            { sig with vals := [s.xsrc v], dsts := [k.toNat] })
      ∧ signs (.hq x d h) f { dsts := [d.toNat] } n { coll := 8 } { sig with dsts := [d.toNat] })
  ∧ (∀ (s : State) (f : Fr) (h : Nat) (k : OpKind) (g : Sig), g.contrib = true → g.x = s.x → h < 32 →
      let p := s.phase (crewOf s.x) h
      let t := s.signResult f h k g
      let s1 := (((s.advance f.len).retire).modMe (fun v => { v with life := .signed, wait := .none })).sign h g k
      (s1.phaseReady (crewOf s.x) h = false →
        (∃ n, (t.phase (crewOf s.x) h).sigs = p.sigs ++ [{ g with key := n }] ∧ (s.myLaunch.det = false → n = 0))
        ∧ (t.phase (crewOf s.x) h).kind = some (p.kind.getD k)
        ∧ (t.phase (crewOf s.x) h).parity = p.parity ∧ (t.strand s.x).life = .signed
        ∧ ((t.strand s.x).pc, (t.strand s.x).step) = s.nextPc f ∧ RegFile s t [] [] ∧ SameBytes s t
        ∧ ∀ y, y ≠ s.x → t.strand y = s.strand y)
      ∧ (signedIn p s.x = true → s.signBad h k = some { code := 0x06, tval := BitVec.ofNat 32 h })
      ∧ (signedIn p s.x = false → ∀ o, p.kind = some o → o ≠ k → s.signBad h k = some { code := 0x07, tval := BitVec.ofNat 32 h })
      ∧ (signedIn p s.x = false → p.kind = none ∨ p.kind = some k → s.signBad h k = none))

/-- R30, R129, R132-R141: a phase of results whose participants have all signed executes once: its parity flips, its
signatures go, and each contributing signer that waits Signed becomes Eligible. Each then holds what `collResult`
gives it in its destinations and its predicate; `kset` sets its crew register to the value of the lowest lane and no
strand's register; `hbar` writes nothing. A strand that did not contribute is as before. -/
def Obligations.PhaseExecutes : Prop :=
  ∀ (s : State) (c h : Nat) (k : OpKind), (s.phase c h).kind = some k → k.coll < 9 →
      (∀ g ∈ (s.phase c h).sigs, g.ins = none) → s.phaseReady c h = true →
    let t := s.tryPhase c h
    (t.phase c h).parity = (!(s.phase c h).parity) ∧ (t.phase c h).sigs = [] ∧ (t.phase c h).kind = none
    ∧ (∀ g ∈ (s.phase c h).sigs, g.contrib = true → g.gone = false → (s.strand g.x).life = .signed → (t.strand g.x).life = .eligible)
    ∧ SameBytes s t
    ∧ (let sigs := (s.phase c h).sigs
       sigs.Pairwise (fun a b => a.x ≠ b.x) →
        (k.coll ≠ 7 → ∀ g ∈ sigs, g.contrib = true →
          let r := collResult k sigs g
          (∀ q, t.rdX g.x q = regAfter (g.dsts.zip r.1) (s.rdX g.x) q)
          ∧ ∀ p : PReg, (t.strand g.x).prd p.toNat = match r.2 with
              | some b => if p.toNat = g.pdst ∧ p ≠ 7 then b else (s.strand g.x).prd p.toNat
              | none => (s.strand g.x).prd p.toNat)
        ∧ (k.coll = 7 → ∀ g ∈ sigs, g.contrib = true → (∀ q ∈ sigs, q.contrib = true → q.x ≠ g.x → laneOf g.x < laneOf q.x) →
            ∀ n, sget (t.crew (crewOf g.x)).k 0 n = if n = g.dsts.getD 0 0 then g.vals.getD 0 0 else sget (s.crew (crewOf g.x)).k 0 n)
        ∧ (k.coll = 6 ∨ k.coll = 7 → ∀ y, (∀ q, t.rdX y q = s.rdX y q) ∧ (t.strand y).preds = (s.strand y).preds)
        ∧ ∀ y, (∀ g ∈ sigs, g.contrib = true → g.x ≠ y) → t.strand y = s.strand y)

/-- R135-R138, R141 on what each contributing signer of a phase receives: a shuffle reads the lane of its subgroup
that its mode names, or, where no contributor stands there, keeps its own value with a false predicate; the votes and
their predicate; `redux` folds the subgroup in ascending lane from the identity of its operation, a scan the lanes up
to its own, or below it; the mask of `peers` and its predicate; and the ranks of `hq` run from 0 to the number of
contributors less one, each given once. -/
def Obligations.CollectiveResults : Prop :=
  ∀ (sigs : List Sig) (me : Sig) (w : Nat), me ∈ sigs → me.contrib = true → w ∈ [1, 2, 4, 8, 16, 32] →
    sigs.Pairwise (fun a b => a.x ≠ b.x) →
    let l := laneOf me.x
    let mine (g : Sig) : Bool := g.contrib && crewOf g.x == crewOf me.x && laneOf g.x / w == l / w
    let b := (me.vals.getD 1 0).toNat
    let reads (op : Nat) (src : Sig) : Prop := match op with
      | 0 => laneOf src.x % w = b % w | 1 => b ≤ l % w ∧ laneOf src.x = l - b | 2 => l % w + b < w ∧ laneOf src.x = l + b
      | _ => laneOf src.x % w = (l % w) ^^^ (b % w)
    let pred (g : Sig) : Bool := g.preds.getD 0 false
    let vote (fn : Nat) := collResult { coll := 1, width := w, fn := fn } sigs me
    let step (op : Nat) (p q : Word) : Word := match op with
      | 0 => f32add .rne p q | 1 => f32min p q | 2 => f32max p q | 3 => p + q | 4 => p * q
      | 5 => if q.toInt < p.toInt then q else p | 6 => if p.toInt < q.toInt then q else p
      | 7 => if q.toNat < p.toNat then q else p | 8 => if p.toNat < q.toNat then q else p
      | 9 => p &&& q | 10 => p ||| q | _ => p ^^^ q
    let ident : List Word := [0x80000000, 0x7F800000, 0xFF800000, 0, 1, 0x7FFFFFFF, 0x80000000, 0xFFFFFFFF, 0, 0xFFFFFFFF, 0, 0]
    (∀ (op : Nat) (src : Sig), src ∈ sigs → mine src = true → op < 4 → reads op src →
      collResult { coll := 0, width := w, fn := op } sigs me = ([src.vals.getD 0 0], some true))
    ∧ (∀ op : Nat, op < 4 → (∀ src ∈ sigs, mine src = true → ¬ reads op src) →
        collResult { coll := 0, width := w, fn := op } sigs me = ([me.vals.getD 0 0], some false))
    ∧ (∀ fn, fn < 5 → ∃ v : Word, vote fn = ([v], some (v != 0)))
    ∧ (vote 0).1 = [if sigs.all (fun g => !mine g || pred g) then 1 else 0]
    ∧ (vote 1).1 = [if sigs.any (fun g => mine g && pred g) then 1 else 0]
    ∧ (vote 2).1 = [if sigs.all (fun g => !mine g || pred g == pred me) then 1 else 0]
    ∧ (∃ v c : Word, (collResult { coll := 1, width := w, fn := 3 } sigs me).1 = [v]
        ∧ (collResult { coll := 1, width := w, fn := 4 } sigs me).1 = [c]
        ∧ c.toNat = ((List.range 32).filter v.getLsbD).length
        ∧ ∀ i, i < 32 → v.getLsbD i = sigs.any (fun g => mine g && laneOf g.x == i && g.preds.getD 0 false))
    ∧ (∀ (op : Nat) (ord : List Sig), op < 12 → ord.Pairwise (fun p q => laneOf p.x < laneOf q.x) → (∀ g, g ∈ ord ↔ g ∈ sigs ∧ mine g = true) →
        let fold (l : List Sig) : Word := (l.map (fun g => g.vals.getD 0 0)).foldl (step op) (ident.getD op 0)
        collResult { coll := 2, width := w, fn := op } sigs me = ([fold ord], none)
        ∧ collResult { coll := 3, width := w, fn := 2 * op } sigs me = ([fold (ord.filter (fun g => laneOf g.x ≤ l))], none)
        ∧ collResult { coll := 3, width := w, fn := 2 * op + 1 } sigs me = ([fold (ord.filter (fun g => laneOf g.x < l))], none))
    ∧ (∀ fn, fn < 4 → ∃ v : Word,
        collResult { coll := 4, width := w, fn := fn } sigs me = ([v], some (if fn < 2
          then sigs.all (fun g => !(mine g && g.vals == me.vals) || decide (l ≤ laneOf g.x)) else sigs.all (fun g => !mine g || g.vals == me.vals)))
        ∧ v.getLsbD l = true ∧ ∀ i, i < 32 → v.getLsbD i = sigs.any (fun g => mine g && laneOf g.x == i && g.vals == me.vals))
    ∧ ∃ r : Word, (collResult { coll := 8 } sigs me).1 = [r] ∧ (sigs.length < 65536 →
        r.extractLsb' 16 16 = BitVec.ofNat 16 (sigs.filter (·.contrib)).length
        ∧ ((sortBy (·.key) (sigs.filter (·.contrib)))[(r.extractLsb' 0 16).toNat]?) = some me)

/-- R130: `hset` of a count in 1-2,048 or a nonzero mask declares its hitch at once while the phase has no signature,
and else makes the declaration pending; `h0` and other values raise ILLEGAL_OPERAND. -/
def Obligations.HitchDeclaration : Prop :=
  ∀ (x : XG) (mask : Bool) (h : BitVec 5) (v : XSrc) (s : State),
    let f := extFr x (xsrcLit v)
    s.ready f { ops := [(xsrcOk v, 5)], srcs := xsrcRegs v } = true →
    let n := (s.xsrc v).toNat
    let good : Bool := if mask then n ≠ 0 else 1 ≤ n ∧ n ≤ 2048
    let old := s.hitch (troopOf s.x) h.toNat
    let d : Decl := if mask then .mask (s.xsrc v) (crewOf s.x) else .count n
    (good = true → h ≠ 0 → ∃ t, exec (.hset x mask h v) s = .next t ∧ ((t.strand s.x).pc, (t.strand s.x).step) = s.nextPc f
      ∧ t.hitch (troopOf s.x) h.toNat = (if old.phase.sigs = [] then { old with decl := d } else { old with pend := some d })
      ∧ (∀ i, i ≠ h.toNat → t.hitch (troopOf s.x) i = s.hitch (troopOf s.x) i) ∧ RegFile s t [] [] ∧ SameBytes s t)
    ∧ (good = true → h = 0 → exec (.hset x mask h v) s = .next ((s.readAcquire (xsrcRegs v)).illegalOp f 5))
    ∧ (good = false → h ≠ 0 → exec (.hset x mask h v) s = .next ((s.readAcquire (xsrcRegs v)).illegalOp f
        (match v with | .reg _ => 2 | .imm _ | .lit _ => 5)))

/-! ## Fill bits, capabilities and PUTs (spec/07_registers_fabric.md) -/

/-- R147: `empty` clears the fill bits of its run and no value; `empty.x` also writes what they were, and sets the
fill bit of the register it writes. R149-R151, R326: `capmint` takes the first entry free from `CAPNEXT` upward,
modulo 256, one freed in the same cycle not being free yet, writes a word naming this package, core, entry, generation
and rights, and answers true; with no free entry it writes zero and answers false. `caprevoke` frees the live entry
its word names, when the issuing crew owns it, and moves its generation on. -/
def Obligations.FillBitsAndCapabilities : Prop :=
  (∀ (g : Guard) (x : XG) (d e n7 : Reg) (n : BitVec 6) (s : State),
      (1 ≤ n7.toNat → n7.toNat ≤ 32 → d.toNat + n7.toNat ≤ 128 →
        s.ready (baseFr g false) { names := regRange d.toNat n7.toNat } = true →
        ∃ t, exec (.empty g d n7) s = .next t ∧ ((t.strand s.x).pc, (t.strand s.x).step) = s.nextPc (baseFr g false)
          ∧ (∀ r, t.rdX s.x r = s.rdX s.x r) ∧ (t.strand s.x).preds = s.myStrand.preds ∧ SameBytes s t
          ∧ ∀ r, (t.strand s.x).fill.getLsbD r
              = (s.myStrand.fill.getLsbD r && !(decide (d.toNat ≤ r) && decide (r < d.toNat + n7.toNat))))
      ∧ (1 ≤ n.toNat → n.toNat ≤ 32 → d.toNat + n.toNat ≤ 128 →
        s.ready (extFr x false) { dsts := [e.toNat], names := regRange d.toNat n.toNat } = true →
        ∃ t v, exec (.emptyX x d e n) s = .next t ∧ ((t.strand s.x).pc, (t.strand s.x).step) = s.nextPc (extFr x false)
          ∧ (∀ r, t.rdX s.x r = if r = e.toNat then v else s.rdX s.x r) ∧ (t.strand s.x).preds = s.myStrand.preds ∧ SameBytes s t
          ∧ (∀ i, i < 32 → v.getLsbD i = (decide (i < n.toNat) && s.myStrand.fill.getLsbD (d.toNat + i)))
          ∧ ∀ r, (t.strand s.x).fill.getLsbD r = (decide (r = e.toNat)
              || (s.myStrand.fill.getLsbD r && !(decide (d.toNat ≤ r) && decide (r < d.toNat + n.toNat))))))
  ∧ (∀ (x : XG) (rt : CapRight) (d a b : Reg) (pr : PReg) (n : BitVec 6) (s : State),
      let f := extFr x false
      let k := coreOf s.x
      (emptyOk a n.toNat = true → s.rd b.toNat ≠ 0 → (∀ r ∈ regRange a.toNat n.toNat, s.regBad r = false) →
        s.ready f { ops := [(pairOk d, 1), (emptyOk a n.toNat, 5)], srcs := [b.toNat], dsts := pairRegs d } = true →
        let pair (v : Dword) : List (Nat × Word) := [(d.toNat, v.extractLsb' 0 32), (d.toNat + 1, v.extractLsb' 32 32)]
        let held (e : Nat) : Prop := (s.cap k e).live = true ∨ s.myCore.cycle < (s.cap k e).from_
        ((∀ e, e < 256 → held e) → Computes (.capmint x rt d a b pr n) s f (pair 0) [(pr, false)])
        ∧ ∀ i, i < 256 → (∀ j, j < i → held ((s.myCore.capnext + j) % 256)) →
            let e := (s.myCore.capnext + i) % 256
            ¬ held e →
            let right : Nat := match rt with | .w1 => 1 | .wm => 2 | .add => 4
            ∃ t, exec (.capmint x rt d a b pr n) s = .next t ∧ ((t.strand s.x).pc, (t.strand s.x).step) = s.nextPc f
              ∧ RegFile s t (pair (capWord s.pkg.toNat k e (s.cap k e).gen right)) [(pr, true)] ∧ SameBytes s t
              ∧ t.cap k e = { live := true, gen := (s.cap k e).gen, rights := right, crew := crewOf s.x, base := a.toNat, count := n.toNat,
                              lanes := s.rd b.toNat }
              ∧ (t.core k).capnext = (e + 1) % 256 ∧ ∀ j, j ≠ e → t.cap k j = s.cap k j)
      ∧ (s.ready f { ops := [(pairOk a, 2)], srcs := pairRegs a } = true →
        let w := s.rd64 a.toNat
        let c := s.cap k (cwEntry w)
        cwLow w = 0 →
        (s.capValid w = true → c.crew = crewOf s.x → ∃ t, exec (.caprevoke x a pr) s = .next t
          ∧ ((t.strand s.x).pc, (t.strand s.x).step) = s.nextPc f ∧ RegFile s t [] [(pr, true)] ∧ SameBytes s t
          ∧ t.cap k (cwEntry w) = { c with live := false, gen := (c.gen + 1) % 2048, from_ := s.myCore.cycle + 1 })
        ∧ ((s.capValid w = false ∨ c.crew ≠ crewOf s.x) → Computes (.caprevoke x a pr) s f [] [(pr, false)])))

/-- R154, R155, R159: a PUT with a well-formed word counts in PT, joins its token, and becomes a message with its
value, index and lanes, which waits for the stores of its core issued before it, the strand's loads having returned;
towards another package, where the core's stores have been performed, it leaves by the pair's port, behind those that
wait for it, and with no path there it ends in a NAK of reason 5. The strand goes on, and no register and no byte
changes. What the message waits for is log 13, that it goes at once to another package log 29. -/
def Obligations.PutSends : Prop :=
  ∀ (g : Guard) (v : XA) (i : BitVec 5) (a b : Reg) (src : BSrc) (fl : Bool) (lane : Option (BitVec 5)) (s : State),
    let sends (ins : Instr) (f : Fr) (src : BSrc) (kind : Nat) (lanes : BitVec 32) (tok : Option (BitVec 4)) : Prop :=
      s.ready f (chkPut a src) = true →
      let w := s.rd64 a.toNat
      let c := crewOf s.x
      let far := cwPkg w ≠ s.pkg.toNat
      cwLow w = 0 → bitOf w.toNat 27 = decide (2 ≤ kind) → s.myCrew.pt < 63 → s.tokRoom c tok = true → s.loadsIn = true →
      (far → s.routeOk (cwPkg w) = true → s.relReady .pkg = true) →
      ∃ t, exec ins s = .next t ∧ ((t.strand s.x).pc, (t.strand s.x).step) = s.nextPc f ∧ RegFile s t [] [] ∧ SameBytes s t
        ∧ (if far ∧ s.routeOk (cwPkg w) = false then t.puts = s.puts ∧ (t.crew c).pt = s.myCrew.pt
           else (t.crew c).pt = s.myCrew.pt + 1 ∧ t.puts.length = s.puts.length + 1
             ∧ (∀ q, q.id ≠ s.nextId → (q ∈ t.puts ↔ q ∈ s.puts)) ∧ ∃ m ∈ t.puts, { m with out := false, port := 0 } = ({
               id := s.nextId, word := w, idx := i.toNat, lanes := lanes, val := s.bsrc src, kind := kind, src := s.x,
               tok := tok.map (·.toNat), after := s.storesOf (coreOf s.x) } : PutMsg)
             ∧ (¬far → m.out = false)
             ∧ (far → s.pairHeld (coreOf s.x) (cwCore w) (cwPkg w) = false → (∀ q ∈ s.puts, s.putAway q = true → q.out = true) →
                 m.out = true ∧ ∃ u, t.uaOut = s.uaOut ++ [u] ∧ u.kind = 1 ∧ u.pkg = cwPkg w ∧ u.port = m.port))
    let one : BitVec 32 := match lane with | some l => BitVec.twoPow 32 l.toNat | none => 0
    let own : BitVec 32 := BitVec.twoPow 32 (s.x % 32)
    sends (.put g i a src) (baseFr g (bsrcLit src)) src 0 0 none ∧ sends (.putv g i a b) (baseFr g false) (.reg b) 1 own none
    ∧ sends (.putX v i a b lane) (extFr v.x false) (.reg b) 0 one v.tok ∧ sends (.putvX v i a b) (extFr v.x false) (.reg b) 1 own v.tok
    ∧ sends (.putadd v fl i a b lane) (extFr v.x false) (.reg b) (if fl then 3 else 2) one v.tok

/-- R156, R157, R160 (Table 7): the home core refuses a PUT whose entry is not live at its generation (reason 1), or
whose rights or index or lanes do not fit (reason 2), and nothing changes. Otherwise each selected live lane takes the
value into an empty register, adds it to a full one where the capability adds, replaces a full one under WM, and under
W1 keeps it and refuses (reason 3); the register is full afterwards; an exited lane refuses (reason 4). The lowest
reason is the answer, and lanes not selected keep their registers. -/
def Obligations.PutApplies : Prop :=
  ∀ (s : State) (m : PutMsg),
    let k := cwCore m.word
    let c := s.cap k (cwEntry m.word)
    let r := s.applyPut m
    let lanes := if m.lanes = 0 then c.lanes else m.lanes
    let reg := c.base + m.idx
    (c.live = false ∨ c.gen ≠ cwGen m.word → r = (s, 1))
    ∧ (c.live = true → c.gen = cwGen m.word → (c.rights ≠ cwRights m.word ∨ c.count ≤ m.idx ∨ lanes &&& ~~~c.lanes ≠ 0) → r = (s, 2))
    ∧ (c.live = true → c.gen = cwGen m.word → c.rights = cwRights m.word → m.idx < c.count → lanes &&& ~~~c.lanes = 0 →
        c.rights ∈ [1, 2, 4] → (c.rights = 4 ↔ m.kind = 2 ∨ m.kind = 3) → reg < 128 →
        (∀ l, l < 32 → let y := 32 * c.crew + l
          let t := s.strand y
          let old := sget t.regs 0 reg
          (lanes.getLsbD l = false ∨ s.alive y = false → r.1.strand y = t)
          ∧ (lanes.getLsbD l = true → s.alive y = true →
            if t.fill.getLsbD reg = true ∧ c.rights = 1 then r.1.strand y = t
            else r.1.rdX y reg = (if t.fill.getLsbD reg = false then m.val else if m.kind = 2 then old + m.val
                  else if m.kind = 3 then f32add .rne old m.val else m.val)
              ∧ (r.1.strand y).fill.getLsbD reg = true ∧ ∀ q, q ≠ reg → r.1.rdX y q = s.rdX y q))
        ∧ (let full (l : Nat) : Prop := l < 32 ∧ lanes.getLsbD l = true ∧ s.alive (32 * c.crew + l) = true
             ∧ (s.strand (32 * c.crew + l)).fill.getLsbD reg = true ∧ c.rights = 1
           let gone (l : Nat) : Prop := l < 32 ∧ lanes.getLsbD l = true ∧ s.alive (32 * c.crew + l) = false
           ((∃ l, full l) → r.2 = 3) ∧ ((∀ l, ¬full l) → (∃ l, gone l) → r.2 = 4) ∧ ((∀ l, ¬full l) → (∀ l, ¬gone l) → r.2 = 0)))
    ∧ SameBytes s r.1

/-- R156, R158, R161, R392: a PUT that nothing holds back (the stores before it performed, no earlier PUT of its
sender to the core, its packet arrived, the target not being saved) is applied once and answered to its sender, by
UALink where it came from there; one for another package goes to the pair's port, or is refused with reason 5 where no
path is left; the answer ends the PUT in PT and its token, and a refusal without a token is recorded against the
strand. -/
def Obligations.PutArrivesAndIsAnswered : Prop :=
  (∀ (s : State) (m : PutMsg), s.puts.find? (fun q => q.id == s.ev.item) = some m →
      let r := (s.applyPut m).2
      let served (t : State) : Prop := exec .putArrival s = .next t ∧ t.strands = (s.applyPut m).1.strands
        ∧ t.puts = s.puts.filter (fun q => q.id != m.id) ∧ SameBytes s t
      let k := coreOf m.src
      let pkg := cwPkg m.word
      (s.onLoop m.id = false → s.putBehind m = false → s.putHeld m = false → s.still (cwCore m.word) = false →
        (m.tag = none → pkg = s.pkg.toNat → s.storesLeft m.after k = false →
          ∃ t, served t ∧ t.putAns = s.putAns ++ [{ id := m.id, src := m.src, tok := m.tok, idx := m.idx, reason := r }])
        ∧ ∀ g, m.tag = some g → ∃ t u, served t ∧ t.uaOut = s.uaOut ++ [u] ∧ u.kind = 4 ∧ u.pkg = m.src % 256 ∧ u.addr = 0x100000008000
            ∧ u.data = leBytes 8 g.toNat ++ leBytes 1 r ++ leBytes 7 0)
      ∧ (m.tag = none → pkg ≠ s.pkg.toNat → m.out = false → s.still k = false →
        (s.routeOk pkg = true → s.pairHeld k (cwCore m.word) pkg = false → (∀ q ∈ s.puts, q.id ≠ m.id → s.putAway q = false) →
          ∃ t u, exec .putArrival s = .next t ∧ SameBytes s t ∧ t.strands = s.strands ∧ t.uaOut = s.uaOut ++ [u] ∧ u.kind = 1 ∧ u.pkg = pkg
            ∧ u.port = s.portFor k (cwCore m.word) pkg ∧ ∀ q ∈ t.puts, q.id = m.id → q.out = true)
        ∧ (s.routeOk pkg = false → s.hasCrew (crewOf m.src) = true → ∃ t, exec .putArrival s = .next t ∧ SameBytes s t
            ∧ t.puts = s.puts.filter (fun q => q.id != m.id) ∧ (t.crew (crewOf m.src)).pt = (s.crew (crewOf m.src)).pt - 1
            ∧ (m.tok = none → s.alive m.src = true → (t.strand m.src).naks = (s.strand m.src).naks ++ [(5, m.idx, (s.core k).cycle)]))))
  ∧ ∀ (s : State) (a : PutAns), s.putAns.find? (fun q => q.id == s.ev.item) = some a → s.still (coreOf a.src) = false →
      s.hasCrew (crewOf a.src) = true →
      ∃ t, exec .putAnswer s = .next t ∧ (t.crew (crewOf a.src)).pt = (s.crew (crewOf a.src)).pt - 1
        ∧ t.putAns = s.putAns.filter (fun q => q.id != a.id)
        ∧ (∀ w, a.tok = some w → (t.token (crewOf a.src) w).cnt = (s.token (crewOf a.src) w).cnt - 1)
        ∧ (a.tok = none → s.alive a.src = true → (t.strand a.src).naks = (s.strand a.src).naks
            ++ if a.reason = 0 then [] else [(a.reason, a.idx, (s.core (coreOf a.src)).cycle)])
        ∧ (∀ r, t.rdX a.src r = s.rdX a.src r) ∧ SameBytes s t

/-! ## Loads, stores, atomics and cache instructions (spec/10_memories.md, spec/13_memory_model.md) -/

/-- R219, R220, R222, R270, R273: an aligned, translated load of global memory takes the bytes its crew's queue holds,
else those of the L1 line unless the policy or an acquire passes it by, else asks its slice and waits; a load of the
scratchpad reads its partition. The words loaded, sign- or zero-extended below 32 bits, go to the destination and its
successors, and no byte changes. A load of 128 bits takes one of its halves and holds it, and then the other. A load
through the window, where its crew's queue holds nothing of it, asks its bank: its strand goes on with its
destinations pending, or waits when the load is an acquire (R276). That a load passes the L1 by under an acquire, and
its policy 2, are the model's readings of log 8 and log 22; that a strand parks holding the first half of a 128-bit
load is log 6, that a cluster load reads its bank later is log 13. -/
def Obligations.LoadsComplete : Prop :=
  ∀ (g : Guard) (x : XG) (sz : Size) (sx : Bool) (acq : Option Scope) (pol : Policy) (d a : Reg) (i : BitVec 7) (j : BitVec 14)
    (m : Mem) (s : State),
    let gives (ins : Instr) (n : Nat) (sx : Bool) (bs : List Byte) (done : List Word → Prop) : Prop :=
      (n ≠ 16 → done (loadWords n sx bs))
      ∧ (n = 16 → ∀ v, s.myStrand.latch = some v → done (wordsOf (patch16 (some (heldHalf v)) bs)))
      ∧ (n = 16 → s.myStrand.latch = none → ∃ t hi, exec ins s = .next t ∧ (t.strand s.x).life = .parked ∧ (t.strand s.x).pc = s.myStrand.pc
          ∧ (t.strand s.x).latch = some (2 * leNat (half16 hi bs) + if hi then 1 else 0) ∧ RegFile s t [] [] ∧ SameBytes s t)
    let global (ins : Instr) (f : Fr) (c : Chk) (at_ : Dword) (n : Nat) (sx wide : Bool) (pol : Policy) : Prop :=
      s.ready f c = true → at_.toNat % n = 0 → canonical at_ = true → s.myCrew.ld < 63 →
      ∀ e : Tlb, s.tlbHit (coreOf s.x) (s.asidOf (troopOf s.x)) at_ needR = some e →
      let line := if pol = .nl1 ∨ wide = true then none else (s.readAcquire c.srcs).readL1 (coreOf s.x) e.target (e.addr at_) n
      (∀ bs, s.forward e.target (e.addr at_) n = .bytes bs → gives ins n sx bs (fun ws => Computes ins s f (runWrites d.toNat ws) []))
      ∧ (s.forward e.target (e.addr at_) n = .none → s.lost e.target = false →
          (∀ bs, line = some bs → gives ins n sx bs (fun ws => Computes ins s f (runWrites d.toNat ws) []))
          ∧ (line = none → s.lineUnacked (coreOf s.x) e.target (e.addr at_) = false →
              ∃ t, exec ins s = .next t ∧ AwaitsRequest s t s.myCore.nextReq ∧ (t.crew (crewOf s.x)).ld = s.myCrew.ld + 1
                ∧ SameBytes s t ∧ ∃ r ∈ (t.core (coreOf s.x)).reqs, r.id = s.myCore.nextReq ∧ r.kind = .load n sx pol wide
                    ∧ r.strand = s.x ∧ r.tgt = e.target ∧ r.addr = e.addr at_ ∧ r.dsts = [d.toNat]))
    let wide : Bool := match acq with | some .die | some .pkg | some .span => true | some .crew | some .core | none => false
    let spm (ins : Instr) (f : Fr) (c : Chk) (sp : Space) (at_ : Word) (n : Nat) (sx acqs : Bool) : Prop :=
      s.ready f c = true → at_.toNat % n = 0 →
      ∀ q o, s.spmPlace sp at_.toNat n = some (q, o) →
      (sp ≠ .cluster → s.spmBlocked q o n false = false →
        (∀ bs, s.forward (.spm q) o n = .bytes bs → gives ins n sx bs (fun ws => Computes ins s f (runWrites d.toNat ws) []))
        ∧ (s.forward (.spm q) o n = .none → s.errRead (some q) o n = none →
            gives ins n sx (mread (s.troop q).spm o n)
              (fun ws => ∃ t, exec ins s = .next t ∧ Goes s t f (runWrites d.toNat ws) [] ∧ SameBytes s t)))
      ∧ (sp = .cluster →
        (∀ bs, s.queued (.spm q) o n = .bytes bs → gives ins n sx bs (fun ws => Computes ins s f (runWrites d.toNat ws) []))
        ∧ (s.queued (.spm q) o n = .none → s.errRead (some q) o n = none → ∃ t, exec ins s = .next t ∧ SameBytes s t
            ∧ (t.crew (crewOf s.x)).ld = s.myCrew.ld
            ∧ (∃ r ∈ (t.core (coreOf s.x)).reqs, r.id = s.myCore.nextReq ∧ r.kind = .load n sx .normal (acqs && wide) ∧ r.strand = s.x
                ∧ r.tgt = .spm q ∧ r.addr = o ∧ r.dsts = span d.toNat (d.toNat + (n + 3) / 4) ∧ r.half = s.myStrand.latch.map heldHalf)
            ∧ if (acqs && acq.isSome) = true then AwaitsRequest s t s.myCore.nextReq
              else (∀ i, t.rdX s.x i = s.rdX s.x i) ∧ ((t.strand s.x).pc, (t.strand s.x).step) = s.nextPc f ∧ (t.strand s.x).life = .eligible
                ∧ (∀ i, i < 128 → (t.strand s.x).pend.getLsbD i = (s.myStrand.pend.getLsbD i || (span d.toNat (d.toNat + (n + 3) / 4)).contains i))
                ∧ ∀ y, y ≠ s.x → t.strand y = s.strand y))
    let fb := baseFr g false
    let fx := extFr x (dispLit m.disp)
    let cx : Chk := { ops := [(sizeRegOk sz d, 1), (spaceRegOk m.space m.a, 2)], srcs := spaceRegs m.space m.a, dsts := sizeRegs sz d }
    global (.ldw g d a i) fb { ops := [(pairOk a, 2)], srcs := pairRegs a, dsts := [d.toNat] } (s.rd64 a.toNat + i.signExtend 64 * 4) 4 false false .normal
    ∧ global (.ldp g d j) fb { ops := [(decide (j.toNat < s.myLaunch.argw), 5)], dsts := [d.toNat] }
        (BitVec.ofNat 64 (s.myLaunch.args + 4 * j.toNat)) 4 false false .normal
    ∧ spm (.lds g d a i) fb (chkUn d a) .spm (s.rd a.toNat + (i.signExtend 64 * 4 : Dword).extractLsb' 0 32) 4 false false
    ∧ (m.space = .global → global (.ld x sz sx acq pol d m) fx cx (s.rd64 m.a.toNat + dispVal m.disp) (sizeBytes sz) sx wide pol)
    ∧ (m.space ≠ .global → spm (.ld x sz sx acq pol d m) fx cx m.space (s.rd m.a.toNat + (dispVal m.disp).extractLsb' 0 32) (sizeBytes sz) sx true)

/-- R219, R220, R273, R366: an aligned, translated store enters its crew's queue with its bytes and place and counts
in ST, a scratchpad store enters it without counting, and the strand goes on; no byte of memory changes before the
queue drains. A store whose path to another package is lost is dropped with a record of kind 4. R273, R219, R270: the
store at the head of a queue writes exactly its bytes of its scratchpad, every other byte of every memory reading as
before; a global one, or one to another scratchpad of the cluster, becomes a request, which writes exactly its bytes
of physical memory once its slice, holding the line, performs it. A store of 128 bits writes one of its halves, and
keeps the other for a second time. A store to the core's own scratchpad may also be on its way to its bank first, as a
request. When a queue drains is the model's choice (log 1, log 13). -/
def Obligations.StoresGoThroughTheQueue : Prop :=
  (∀ (g : Guard) (x : XG) (sz : Size) (rel : Option Scope) (pol : Policy) (d a : Reg) (i : BitVec 7) (m : Mem) (b : Reg) (s : State),
      let rdy (rel : Option Scope) : Prop := ∀ sc, rel = some sc → s.relReady sc = true
      let c := crewOf s.x
      let global (ins : Instr) (f : Fr) (chk : Chk) (at_ : Dword) (n : Nat) (v : Reg) (pol : Policy) (rel : Option Scope) : Prop :=
        s.ready f chk = true → at_.toNat % n = 0 → canonical at_ = true → s.myCrew.st < 63 → s.myCrew.sq.length < 32 → rdy rel →
        ∀ e : Tlb, s.tlbHit (coreOf s.x) (s.asidOf (troopOf s.x)) at_ needW = some e →
        ∃ t, exec ins s = .next t ∧ Goes s t f [] [] ∧ SameBytes s t ∧ (if s.lost e.target
          then (t.crew c).sq = s.myCrew.sq ∧ (t.crew c).st = s.myCrew.st ∧ (s.hasCrew c = true → s.myCrew.log.length < 8 →
            (t.crew c).log = s.myCrew.log ++ [logRecord 4 0 0 0 (laneOf s.x) 0 at_.toNat])
          else (t.crew c).st = s.myCrew.st + 1 ∧ (t.crew c).sq = s.myCrew.sq ++ [{ id := s.myCore.nextReq, tgt := e.target, va := at_.toNat, addr := e.addr at_, data := s.storeBytes n v, strand := s.x, pol := pol, nocache := e.nocache }])
      let spm (ins : Instr) (f : Fr) (chk : Chk) (sp : Space) (at_ : Word) (n : Nat) (v : Reg) (rel : Option Scope) : Prop :=
        s.ready f chk = true → at_.toNat % n = 0 → s.myCrew.sq.length < 32 → rdy rel →
        ∀ q o, s.spmPlace sp at_.toNat n = some (q, o) → (sp ≠ .cluster → s.spmBlocked q o n true = false) →
        ∃ t, exec ins s = .next t ∧ Goes s t f [] [] ∧ SameBytes s t ∧ (t.crew c).st = s.myCrew.st
          ∧ (t.crew c).sq = s.myCrew.sq ++ [{ id := s.myCore.nextReq, tgt := .spm q, va := at_.toNat, addr := o, data := s.storeBytes n v, strand := s.x, cluster := sp == .cluster }]
      let cx : Chk := { ops := [(spaceRegOk m.space m.a, 2), (sizeRegOk sz b, 3)], srcs := spaceRegs m.space m.a ++ sizeRegs sz b }
      global (.stw g d a i) (baseFr g false) { ops := [(pairOk a, 2)], srcs := d.toNat :: pairRegs a } (s.rd64 a.toNat + i.signExtend 64 * 4)
        4 d .normal none
      ∧ spm (.sts g d a i) (baseFr g false) { srcs := [d.toNat, a.toNat] } .spm (s.rd a.toNat + (i.signExtend 64 * 4 : Dword).extractLsb' 0 32) 4 d none
      ∧ (m.space = .global → global (.st x sz rel pol m b) (extFr x (dispLit m.disp)) cx (s.rd64 m.a.toNat + dispVal m.disp) (sizeBytes sz) b pol rel)
      ∧ (m.space ≠ .global → spm (.st x sz rel pol m b) (extFr x (dispLit m.disp)) cx m.space
          (s.rd m.a.toNat + (dispVal m.disp).extractLsb' 0 32) (sizeBytes sz) b rel))
  ∧ ((∀ (s : State) (c : Nat) (e : StoreEnt) (rest : List StoreEnt) (q : Nat), s.memOk = true → (s.crew c).sq = e :: rest →
        s.still (c / 4096 % 512) = false → e.tgt = .spm q → e.cluster = false → s.bankOut (c / 4096 % 512) e.tgt e.addr e.data.length = false →
        let t := s.drain c
        let writes (at_ : Nat) (bs : List Byte) : Prop := ∀ p a, mbyte (t.troop p).spm a =
          if p = q ∧ at_ ≤ a ∧ a < at_ + bs.length then bs.getD (a - at_) 0 else mbyte (s.troop p).spm a
        (∀ a, t.pbyte a = s.pbyte a) ∧ (∀ a, mbyte t.hostMem a = mbyte s.hostMem a)
        ∧ (∀ p a, mbyte (t.troop p).tiles a = mbyte (s.troop p).tiles a)
        ∧ (e.data.length ≠ 16 → (t.crew c).sq = rest ∧ writes e.addr e.data)
        ∧ (e.data.length = 16 → ∃ hi : Bool, writes (e.addr + if hi then 8 else 0) (half16 hi e.data)
            ∧ (t.crew c).sq = { e with addr := e.addr + (if hi then 0 else 8), data := half16 (!hi) e.data } :: rest))
    ∧ (∀ (s : State) (c : Nat) (e : StoreEnt) (rest : List StoreEnt), (s.crew c).sq = e :: rest → s.still (c / 4096 % 512) = false →
        ((∀ q, e.tgt ≠ .spm q) ∧ s.lost e.tgt = false) ∨ ((∃ q, e.tgt = .spm q) ∧ e.cluster = true) →
        let t := s.drain c
        SameBytes s t
        ∧ (e.data.length ≠ 16 ∨ e.half ≠ none ∨ (∃ q, e.tgt = .spm q) → (t.crew c).sq = rest ∧ ∃ r ∈ (t.core (c / 4096 % 512)).reqs,
            r.id = e.id ∧ r.kind = .store ∧ r.tgt = e.tgt ∧ r.addr = e.addr ∧ r.data = e.data ∧ r.done = false)
        ∧ (e.data.length = 16 → e.half = none → (∀ q, e.tgt ≠ .spm q) → ∃ hi, (t.crew c).sq = { e with half := some hi } :: rest))
    ∧ (∀ (s : State) (c : Nat) (e : StoreEnt) (rest : List StoreEnt) (q : Nat), (s.crew c).sq = e :: rest → s.still (c / 4096 % 512) = false →
        e.tgt = .spm q → let t := s.drainLate c
        SameBytes s t ∧ (t.crew c).sq = rest ∧ ∃ r ∈ (t.core (c / 4096 % 512)).reqs,
          r.id = e.id ∧ r.kind = .store ∧ r.tgt = e.tgt ∧ r.addr = e.addr ∧ r.data = e.data ∧ r.done = false)
    ∧ ∀ (s : State) (r : Req), s.memOk = true → s.findReq s.ev.unit s.ev.item = some r → r.kind = .store → r.tgt = .dev → r.done = false →
        r.sent = false → s.reqOnLoop s.ev.unit r.id false = false → s.reqBehind s.ev.unit r = false → s.lineHeld s.ev.unit r = false →
        s.turnHeld r = false →
        s.still s.ev.unit = false → r.addr + r.data.length ≤ hbmTop → 0 < r.data.length →
        r.addr / 128 = (r.addr + r.data.length - 1) / 128 → (sfind (s.slice (sliceOf (r.addr / 128))).lines (r.addr / 128)).isSome = true →
        ∃ t, exec .sliceRequest s = .next t ∧ (∀ a, mbyte t.hostMem a = mbyte s.hostMem a) ∧ t.troops = s.troops ∧ t.strands = s.strands
          ∧ (let writes (at_ : Nat) (bs : List Byte) : Prop :=
               ∀ pa, t.pbyte pa = if at_ ≤ pa ∧ pa < at_ + bs.length then bs.getD (pa - at_) 0 else s.pbyte pa
             (r.data.length ≠ 16 → writes r.addr r.data ∧ t.findReq s.ev.unit s.ev.item = some { r with done := true })
             ∧ (r.data.length = 16 → ∃ hi : Bool, writes (r.addr + if hi then 8 else 0) (half16 hi r.data)
                 ∧ t.findReq s.ev.unit s.ev.item = some { r with addr := r.addr + (if hi then 0 else 8), data := half16 (!hi) r.data })))

/-- R220, R223, R281: an aligned atomic on the scratchpad that nothing holds back writes the old value to its
destination and the new value of Table 9 to memory, `cas` only where the old value equals its comparand, in one step,
and no other byte changes. One through the window asks its bank, and its strand waits. -/
def Obligations.ScratchpadAtomics : Prop :=
  ∀ (g : Guard) (x : XG) (op : AtomOp) (sz : Size) (o : MemOrd) (sc : Scope) (d a : Reg) (y : BSrc) (m : Mem) (b e : Reg) (s : State),
    let atomic (ins : Instr) (f : Fr) (c : Chk) (sp : Space) (at_ : Word) (n : Nat) (o : MemOrd) (sc : Scope) (k : ReqKind) (data cmp : List Byte) (new : Nat → Nat) : Prop :=
      s.ready f c = true → s.memOk = true → at_.toNat % n = 0 →
      ∀ q p, s.spmPlace sp at_.toNat n = some (q, p) → s.myCrew.sq = [] → (o = .rel ∨ o = .ar → s.relReady sc = true) →
      (sp = .cluster → ∃ t, exec ins s = .next t ∧ AwaitsRequest s t s.myCore.nextReq ∧ SameBytes s t ∧ (t.crew (crewOf s.x)).ld = s.myCrew.ld
        ∧ ∃ r ∈ (t.core (coreOf s.x)).reqs, r.id = s.myCore.nextReq ∧ r.kind = k ∧ r.strand = s.x ∧ r.tgt = .spm q ∧ r.addr = p
            ∧ r.data = data ∧ r.cmp = cmp ∧ r.dsts = [d.toNat]) ∧
      (sp ≠ .cluster → s.spmBlocked q p n true = false → s.forward (.spm q) p n = .none → (s.myLaunch.det = true → s.detReady = true) →
      s.errRead (some q) p n = none →
      let old := leNat (mread (s.troop q).spm p n)
      ∃ t, exec ins s = .next t ∧ Goes s t f (runWrites d.toNat (wordsOf (mread (s.troop q).spm p n))) []
        ∧ (∀ pa, t.pbyte pa = s.pbyte pa)
        ∧ (∀ r k, mbyte (t.troop r).spm k = if r = q ∧ p ≤ k ∧ k < p + n then (leBytes n (new old)).getD (k - p) 0 else mbyte (s.troop r).spm k))
    let n := sizeBytes sz
    let fx := extFr x (dispLit m.disp)
    let at_ := s.rd m.a.toNat + (dispVal m.disp).extractLsb' 0 32
    atomic (.atomsAdd g d a y) (baseFr g (bsrcLit y)) (chkBR d a y) .spm (s.rd a.toNat) 4 .relaxed .crew (.atom .add 4) (leBytes 4 (s.bsrc y).toNat) [] (fun old => (old + (s.bsrc y).toNat) % 2 ^ 32)
    ∧ (m.space ≠ .global → sz = .b32 ∨ sz = .b64 →
      atomic (.atom x op sz o sc d m b) fx { ops := [(sizeRegOk sz d, 1), (spaceRegOk m.space m.a, 2), (sizeRegOk sz b, 3)], srcs := spaceRegs m.space m.a ++ sizeRegs sz b, dsts := sizeRegs sz d } m.space at_ n o sc (.atom op n) (s.storeBytes n b) []
        (fun old => atomNew op n old (leNat (s.storeBytes n b)))
      ∧ atomic (.cas x sz o sc d m b e) fx { ops := [(sizeRegOk sz d, 1), (spaceRegOk m.space m.a, 2), (sizeRegOk sz b, 3), (sizeRegOk sz e, 4)], srcs := spaceRegs m.space m.a ++ sizeRegs sz b ++ sizeRegs sz e, dsts := sizeRegs sz d } m.space at_ n o sc (.cas n) (s.storeBytes n b) (s.storeBytes n e)
        (fun old => if old = leNat (s.storeBytes n e) then leNat (s.storeBytes n b) else old))

/-- R223: a global atomic that nothing holds back goes to its home, past the L1, whose line goes; the strand waits.
R207, R224-R226, R282: a prefetch asks for its line and its strand goes on, and one that would fault is dropped;
`cinval.all` and an acquiring fence of die scope or wider empty the L1, a fence waits for the strand's loads, and a
releasing one for the stores; `cinval` and `cflush` of translated pages go on, `cflush` counting in ST with the lines
of device memory it covers; `pin` and `unpin` put their request to the controller and wait for its answer. No byte
changes. The invisible caches are log 7, the L1 invalidations log 8; what a fence waits for is log 13, a wait is the
model's retry (log 6). -/
def Obligations.AtomicsAndCacheInstructions : Prop :=
  (∀ (x : XG) (op : AtomOp) (sz : Size) (o : MemOrd) (sc : Scope) (d : Reg) (m : Mem) (b e : Reg) (s : State),
      let n := sizeBytes sz
      let at_ := s.rd64 m.a.toNat + dispVal m.disp
      let sent (ins : Instr) (c : Chk) (k : ReqKind) (data cmp : List Byte) : Prop :=
        s.ready (extFr x (dispLit m.disp)) c = true → m.space = .global → at_.toNat % n = 0 → canonical at_ = true → s.myCrew.ld < 63 → s.myCrew.sq = [] →
        ∀ e : Tlb, s.tlbHit (coreOf s.x) (s.asidOf (troopOf s.x)) at_ (needR + needW) = some e →
        s.lineUnacked (coreOf s.x) e.target (e.addr at_) = false → (o = .rel ∨ o = .ar → s.relReady sc = true) → s.lost e.target = false →
        ∃ t, exec ins s = .next t ∧ AwaitsRequest s t s.myCore.nextReq ∧ (t.crew (crewOf s.x)).ld = s.myCrew.ld + 1 ∧ SameBytes s t
          ∧ sfind (t.core (coreOf s.x)).l1 (lineKey e.target (e.addr at_)) = none
          ∧ ∃ r ∈ (t.core (coreOf s.x)).reqs, r.id = s.myCore.nextReq ∧ r.kind = k ∧ r.strand = s.x ∧ r.tgt = e.target
              ∧ r.addr = e.addr at_ ∧ r.data = data ∧ r.cmp = cmp ∧ r.dsts = [d.toNat]
      sent (.atom x op sz o sc d m b) { ops := [(sizeRegOk sz d, 1), (spaceRegOk m.space m.a, 2), (sizeRegOk sz b, 3)], srcs := spaceRegs m.space m.a ++ sizeRegs sz b, dsts := sizeRegs sz d } (.atom op n) (s.storeBytes n b) []
      ∧ sent (.cas x sz o sc d m b e) { ops := [(sizeRegOk sz d, 1), (spaceRegOk m.space m.a, 2), (sizeRegOk sz b, 3), (sizeRegOk sz e, 4)], srcs := spaceRegs m.space m.a ++ sizeRegs sz b ++ sizeRegs sz e, dsts := sizeRegs sz d } (.cas n) (s.storeBytes n b) (s.storeBytes n e))
  ∧ (∀ (x : XG) (pol : Policy) (m : GMem) (b e : Reg) (pd : PReg) (k : FenceKind) (sc : Scope) (s : State),
      let f := extFr x (dispLit m.disp)
      let f0 := extFr x false
      let at_ := s.rd64 m.a.toNat + dispVal m.disp
      let asid := s.asidOf (troopOf s.x)
      (s.ready f { ops := [(pairOk m.a, 2)], srcs := pairRegs m.a } = true →
        (canonical at_ = false → Computes (.prefetch x pol m) s f [] [])
        ∧ (∀ t, canonical at_ = true → s.tlbHit (coreOf s.x) asid at_ needR = some t → s.lost t.target = false →
            ∃ u, exec (.prefetch x pol m) s = .next u ∧ Goes s u f [] [] ∧ SameBytes s u ∧ (u.crew (crewOf s.x)).ld = s.myCrew.ld
              ∧ ∃ r ∈ (u.core (coreOf s.x)).reqs, r.id = s.myCore.nextReq ∧ r.kind = .prefetch pol ∧ r.addr = t.addr at_ / 128 * 128)
        ∧ ∃ u, exec (.unpin x pd m) s = .next u ∧ AwaitsRequest s u 0 ∧ SameBytes s u ∧ ∃ r, u.pinReqs = s.pinReqs ++ [r] ∧ r.release = true
            ∧ r.asid = asid ∧ r.va = va57 at_ ∧ r.strand = s.x ∧ r.pdst = pd.toNat)
      ∧ (s.ready f0 {} = true →
        (∀ m : GMem, ∃ u, exec (.cinval x true { m with disp := .imm 0 } b) s = .next u ∧ Wrote s u f0 [] [] ∧ (u.core (coreOf s.x)).l1 = [])
        ∧ ((if k = .acq then s.loadsIn else s.relReady sc) = true → ∃ u, exec (.fence x k sc) s = .next u ∧ Wrote s u f0 [] []
            ∧ (k ≠ .rel → sc = .die ∨ sc = .pkg ∨ sc = .span → (u.core (coreOf s.x)).l1 = []))
        ∧ ((if k = .acq then s.loadsIn else s.relReady sc) = false → exec (.fence x k sc) s = .next (s.park .retry)))
      ∧ (s.ready f { ops := [(pairOk m.a, 2)], srcs := b.toNat :: pairRegs m.a } = true → ∀ ps,
          (s.readAcquire (b.toNat :: pairRegs m.a)).xlatePages (linePages at_ (s.rd b.toNat).toNat) = .ok ps →
        Computes (.cinval x false m b) s f [] []
        ∧ (s.myCrew.st < 63 → ∃ u, exec (.cflush x m b) s = .next u ∧ Goes s u f [] [] ∧ SameBytes s u
            ∧ (u.crew (crewOf s.x)).st = s.myCrew.st + 1 ∧ ∃ r ∈ (u.core (coreOf s.x)).reqs, r.id = s.myCore.nextReq
              ∧ r.lines = (ps.filter (fun p => p.1.tgt == 0)).map (fun p => (p.2.1 / 128, p.2.2))))
      ∧ (s.ready f { ops := [(pairOk m.a, 2)], srcs := b.toNat :: e.toNat :: pairRegs m.a } = true →
        let u := s.readAcquire (b.toNat :: e.toNat :: pairRegs m.a)
        let n := (s.rd b.toNat).toNat
        (n = 0 ∨ 16384 < pinUnits at_ n → exec (.pin x pd m b e) s = .next (s.illegalOp f 3))
        ∧ (n ≠ 0 → pinUnits at_ n ≤ 16384 → (s.rd e.toNat).extractLsb' 20 12 ≠ 0 → exec (.pin x pd m b e) s = .next (s.illegalOp f 4))
        ∧ (n ≠ 0 → pinUnits at_ n ≤ 16384 → (s.rd e.toNat).extractLsb' 20 12 = 0 → ∀ ps, u.xlatePages (pinPages at_ n) = .ok ps →
            ∃ t, exec (.pin x pd m b e) s = .next t ∧ AwaitsRequest s t 0 ∧ SameBytes s t ∧ ∃ r, t.pinReqs = s.pinReqs ++ [r]
              ∧ r.release = false ∧ r.asid = asid ∧ r.units = pinUnits at_ n ∧ r.unit = (s.rd e.toNat).toNat / 2 ^ 16 % 16
              ∧ r.fade = (s.rd e.toNat).toNat % 2 ^ 16 ∧ r.strand = s.x ∧ r.pdst = pd.toNat)))

/-- R207, R209, R219, R223 Table 9, R161, R270, R304: at its slice a load's request takes the line's bytes (one of 128
bits a half of them first), an atomic's takes the old value and writes the new one of Table 9, `cas` only where the
old value equals its comparand, a task-queue action takes or writes its entry and moves the header's counter, or finds
the queue full or empty, and `cflush` leaves its lines clean; no other byte changes. Once the answer is back the
strand's destination has the words or the old value, its predicate whether the action was taken, LD falls by one and
the strand goes on; an acknowledged store or `cflush` leaves ST. An access of a scratchpad is performed so at its
bank, where the range scoreboard does not hold it, and a load whose strand has gone on gives its words to their
registers. A request that reserved addresses meet stops the machine, which the spec gives no behaviour there (R390).
Invalidations of the L1 are those of log 8, what travels as a packet log 16. -/
def Obligations.RequestsComplete : Prop :=
  ∀ (s : State) (r : Req), let k := s.ev.unit
    s.findReq k s.ev.item = some r → s.still k = false →
    let mine := { s with cur := { strand := r.strand, mop := r.mop } }
    let held (a n : Nat) : Prop := a + n ≤ hbmTop ∧ a / 128 = (a + n - 1) / 128
      ∧ (sfind (s.slice (sliceOf (a / 128))).lines (a / 128)).isSome = true ∧ s.errRead none a n = none
    (r.done = false → r.sent = false → r.err = none → s.reqOnLoop k r.id false = false → s.reqBehind k r = false → s.tqBehind r = false → s.lineHeld k r = false → s.turnHeld r = false →
      (r.tgt = .dev →
      let performs (q : Req) (bytes : Nat → Byte) : Prop := ∃ t, exec .sliceRequest s = .next t ∧ t.findReq k s.ev.item = some q
        ∧ (∀ pa, t.pbyte pa = bytes pa) ∧ (∀ a, mbyte t.hostMem a = mbyte s.hostMem a) ∧ t.troops = s.troops ∧ t.strands = s.strands
      let writes (at_ : Nat) (bs : List Byte) (old : Nat → Byte) : Nat → Byte :=
        fun pa => if at_ ≤ pa ∧ pa < at_ + bs.length then bs.getD (pa - at_) 0 else old pa
      (∀ sz sx pol acq, r.kind = .load sz sx pol acq → 0 < sz → r.addr % 128 + sz ≤ 128 → held r.addr sz → r.addr / 128 * 128 + 128 ≤ hbmTop →
          (sz ≠ 16 ∨ r.half ≠ none → s.errRead none (r.addr / 128 * 128) 128 = none →
            performs { r with done := true, val := s.pread (r.addr / 128 * 128) 128 } s.pbyte)
          ∧ (sz = 16 → r.half = none → ∃ hi, performs { r with half := some (hi, half16 hi (s.pread r.addr 16)) } s.pbyte))
      ∧ (∀ op sz, r.kind = .atom op sz → sz = 4 ∨ sz = 8 → held r.addr sz →
          performs { r with done := true, val := s.pread r.addr sz }
            (writes r.addr (leBytes sz (atomNew op sz (leNat (s.pread r.addr sz)) (leNat r.data))) s.pbyte))
      ∧ (∀ sz, r.kind = .cas sz → sz = 4 ∨ sz = 8 → held r.addr sz →
          performs { r with done := true, val := s.pread r.addr sz }
            (if leNat (s.pread r.addr sz) = leNat r.cmp then writes r.addr (leBytes sz (leNat r.data)) s.pbyte else s.pbyte))
      ∧ (∀ enq esz, r.kind = (if enq then .enq esz else .deq esz) → r.addr % 16 = 0 → held r.addr 16 →
          let v := leNat (s.pread r.addr 16)
          let h := tqOf v
          let count := (h.tail + 2 ^ 32 - h.head) % 2 ^ 32
          let n := 2 ^ (esz + 2)
          (tqValid v = false ∨ h.esize ≠ esz → performs { r with done := true, err := some (0x02, 2) } s.pbyte)
          ∧ (tqValid v = true → h.esize = esz →
            ((if enq then h.cap ≤ count else h.tail = h.head) → performs { r with done := true, ok := false } s.pbyte)
            ∧ (¬(if enq then h.cap ≤ count else h.tail = h.head) →
              let at_ := BitVec.ofNat 64 (r.va + (16 + (if enq then h.tail else h.head) % h.cap * n))
              ∀ e, s.tlbHit k (s.asidOf (troopOf r.strand)) at_ (needR + needW) = some e → e.target = .dev → held (e.addr at_) n →
                (enq = true → r.data.length = n) →
                let header := leBytes 16 (h.cap + h.esize * 2 ^ 24 + (if enq then h.head else (h.head + 1) % 2 ^ 32) * 2 ^ 64
                  + (if enq then (h.tail + 1) % 2 ^ 32 else h.tail) * 2 ^ 96)
                performs { r with done := true, val := s.pread (e.addr at_) n, lines := [(lineKey .dev (e.addr at_), 1)] }
                  (if enq then writes (e.addr at_) r.data (writes r.addr header s.pbyte) else writes r.addr header s.pbyte))))
      ∧ (∀ n, r.kind = .flush n → (∀ p ∈ r.lines, (p.1 + p.2) * 128 ≤ hbmTop) → ∃ t, exec .sliceRequest s = .next t ∧ SameBytes s t
          ∧ t.strands = s.strands ∧ t.findReq k s.ev.item = some { r with done := true }
          ∧ ∀ p ∈ r.lines, ∀ i < p.2, ∀ v, sfind (t.slice (sliceOf (p.1 + i))).lines (p.1 + i) = some v → v.dirty = false)
      ∧ (0x10400000000 < r.addr + r.size → (∀ n, r.kind ≠ .flush n) → exec .sliceRequest s = .fault .reservedPhysical))
      ∧ ∀ q, r.tgt = .spm q → s.memOk = true → (sfind s.troops q).isSome = true → (s.troop q).lid = (s.troop (troopOf (realX r.strand))).lid →
        (s.troop q).res = .resident →
        let writes (p : Req) (bs : List Byte) : Prop := ∃ t, exec .sliceRequest s = .next t ∧ t.findReq k s.ev.item = some p
          ∧ (∀ pa, t.pbyte pa = s.pbyte pa) ∧ t.strands = s.strands ∧ ∀ o a, mbyte (t.troop o).spm a =
              if o = q ∧ r.addr ≤ a ∧ a < r.addr + bs.length then bs.getD (a - r.addr) 0 else mbyte (s.troop o).spm a
        let free := s.bankBlocked q r.addr r.size r.writes (troopOf (realX r.strand) == q) r.id = false
        (free → r.kind = .store → r.data.length ≠ 16 → writes { r with done := true } r.data)
        ∧ (free → s.errRead (some q) r.addr r.size = none →
          let old := mread (s.troop q).spm r.addr r.size
          (∀ sz sx pol acq, r.kind = .load sz sx pol acq → (sz ≠ 16 ∨ r.half ≠ none) → r.fill = false →
            writes { r with done := true, val := mread (s.troop q).spm (r.addr / 128 * 128) 128 } [])
          ∧ (∀ op sz, r.kind = .atom op sz → writes { r with done := true, val := old } (leBytes sz (atomNew op sz (leNat old) (leNat r.data))))
          ∧ (∀ sz, r.kind = .cas sz → writes { r with done := true, val := old } (if leNat old = leNat r.cmp then leBytes sz (leNat r.data) else [])))
        ∧ (¬ free → (∀ n, r.kind ≠ .enq n ∧ r.kind ≠ .deq n) → writes { r with held := true } []))
    ∧ (r.done = true ∨ (r.sent = true ∧ r.local = false) → s.reqOnLoop k r.id true = false →
      let bs := if r.done then r.val else padTo 128 s.ev.data
      let ok := if r.done then r.ok else s.ev.flag
      (s.answerErr r = none → s.alive r.strand = true → s.hasCrew (crewOf r.strand) = true →
        let ends (ws : List (Nat × Word)) (ps : List (PReg × Bool)) : Prop := ∃ t, exec .loadDataReturn s = .next t ∧ SameBytes s t
          ∧ Goes mine t ⟨7, false, r.len⟩ ws ps ∧ t.findReq k r.id = none
          ∧ (t.crew (crewOf r.strand)).ld = (s.crew (crewOf r.strand)).ld - (if r.cluster then 0 else 1)
        let d := r.dsts.headD 0
        (∀ sz sx pol acq, r.kind = .load sz sx pol acq → r.late = false → ends (runWrites d (loadWords sz sx (patch16 r.half ((bs.drop (r.addr % 128)).take sz)))) [])
        ∧ (∀ op sz, r.kind = .atom op sz ∨ r.kind = .cas sz → ends (runWrites d (wordsOf (bs.take sz))) [])
        ∧ (∀ esz, r.done = true → r.kind = .enq esz → ends [] [(BitVec.ofNat 3 r.pdst, ok)])
        ∧ (∀ esz, r.done = true → r.kind = .deq esz → ends (if ok then runWrites d (wordsOf (bs.take (2 ^ (esz + 2)))) else []) [(BitVec.ofNat 3 r.pdst, ok)])
        ∧ (∀ (enq : Bool) (esz : Nat), r.done = false → r.kind = (if enq then .enq esz else .deq esz) →
          let v := leNat (padTo 16 (s.ev.data.take 16))
          let h := tqOf v
          let n := 2 ^ (esz + 2)
          let p := BitVec.ofNat 3 r.pdst
          tqValid v = true → h.esize = esz →
          ((if enq then h.full else h.empty) = true → ends [] [(p, false)])
          ∧ ((if enq then h.full else h.empty) = false → ∀ e,
              s.tlbHit k (s.asidOf (troopOf r.strand)) (BitVec.ofNat 64 (r.va + (16 + (if enq then h.tail else h.head) % h.cap * n))) (needR + needW) = some e →
              ends (if enq then [] else runWrites d (wordsOf (padTo n (s.ev.data.drop 16)))) [(p, true)])))
      ∧ (∀ sz sx pol acq, r.kind = .load sz sx pol acq → r.late = true → r.done = true → r.err = none → s.alive r.strand = true →
        ∃ t, exec .loadDataReturn s = .next t ∧ SameBytes s t ∧ t.findReq k r.id = none ∧ (∀ y, y ≠ r.strand → t.strand y = s.strand y)
          ∧ (t.strand r.strand).life = (s.strand r.strand).life ∧ ∀ q, t.rdX r.strand q =
              regAfter (runWrites (r.dsts.headD 0) (loadWords sz sx (patch16 r.half ((r.val.drop (r.addr % 128)).take sz)))) (s.rdX r.strand) q)
      ∧ ((r.kind = .store ∨ ∃ n, r.kind = .flush n) → s.hasCrew (crewOf r.strand) = true →
        ∃ t, exec .storeAck s = .next t ∧ SameBytes s t ∧ t.strands = s.strands ∧ t.findReq k r.id = none
          ∧ (t.crew (crewOf r.strand)).st = (s.crew (crewOf r.strand)).st - (if r.cluster then 0 else 1)
          ∧ (t.crew (crewOf r.strand)).log = (s.crew (crewOf r.strand)).log
              ++ (if s.answerErr r ≠ none ∧ (s.crew (crewOf r.strand)).log.length < 8 then [logRecord 4 0 0 0 (laneOf r.strand) 0 r.va] else [])))

/-- R81, R82, R174, R219, R298, R303, R350: an address that is not a multiple of the access's size, of 16 for a buoy
or a task queue's header, of 32 for a ring or a tile's image, raises ILLEGAL_OPERAND with TVAL 2 at the checks, before
any other effect, wherever the other checks hold. -/
def Obligations.MisalignedAccessTraps : Prop :=
  ∀ (g : Guard) (x : XG) (xt : XT) (sz : Size) (sx zx cl : Bool) (acq rel : Option Scope) (pol : Policy) (op : AtomOp) (o : MemOrd)
    (sc : Scope) (fmt : DrainFmt) (mon : Option (BitVec 4)) (d a b e : Reg) (i : BitVec 7) (y : BSrc) (q : RSrc) (w : Byte)
    (p : PReg) (tr : Option PReg) (esz : BitVec 2) (sp : Space) (m : Mem) (disp : BitVec 21) (s : State),
    let mis (ins : Instr) (f : Fr) (c : Chk) (at_ n : Nat) : Prop :=
      s.ready f c = true → at_ % n ≠ 0 → exec ins s = .next (s.illegalOp f 2)
    let fb := baseFr g false
    let fx := extFr x (dispLit m.disp)
    let fo := extFr x false
    let off := (s.rd a.toNat).toNat
    let based : Nat := (s.rd a.toNat + (i.signExtend 64 * 4 : Dword).extractLsb' 0 32).toNat
    let global : Nat := (s.rd64 a.toNat + i.signExtend 64 * 4).toNat
    let place : Nat := if m.space = .global then (s.rd64 m.a.toNat + dispVal m.disp).toNat
      else (s.rd m.a.toNat + (dispVal m.disp).extractLsb' 0 32).toNat
    let n := sizeBytes sz
    let srcs := spaceRegs m.space m.a
    let object : Chk := { srcs := a.toNat :: rsrcRegs q }
    let reads : Chk := { srcs := a.toNat :: rsrcRegs q, dsts := [d.toNat] }
    let tile (ins : Instr) (lo : List (Bool × Nat)) : Prop :=
      mis ins (xtFr xt) { role := s.isMatrix, ops := lo ++ [(s.declared xt.h.toNat, 4)], srcs := [a.toNat] }
        (s.rd a.toNat + disp.zeroExtend 32).toNat 32
    (mis (.ldw g d a i) fb { ops := [(pairOk a, 2)], srcs := pairRegs a, dsts := [d.toNat] } global 4
      ∧ mis (.stw g d a i) fb { ops := [(pairOk a, 2)], srcs := d.toNat :: pairRegs a } global 4
      ∧ mis (.lds g d a i) fb (chkUn d a) based 4 ∧ mis (.sts g d a i) fb { srcs := [d.toNat, a.toNat] } based 4
      ∧ mis (.atomsAdd g d a y) (baseFr g (bsrcLit y)) (chkBR d a y) off 4)
    ∧ (mis (.ld x sz sx acq pol d m) fx
          { ops := [(sizeRegOk sz d, 1), (spaceRegOk m.space m.a, 2)], srcs := srcs, dsts := sizeRegs sz d } place n
      ∧ mis (.st x sz rel pol m b) fx
          { ops := [(spaceRegOk m.space m.a, 2), (sizeRegOk sz b, 3)], srcs := srcs ++ sizeRegs sz b } place n
      ∧ mis (.atom x op sz o sc d m b) fx
          { ops := [(sizeRegOk sz d, 1), (spaceRegOk m.space m.a, 2), (sizeRegOk sz b, 3)],
            srcs := srcs ++ sizeRegs sz b, dsts := sizeRegs sz d } place n
      ∧ mis (.cas x sz o sc d m b e) fx
          { ops := [(sizeRegOk sz d, 1), (spaceRegOk m.space m.a, 2), (sizeRegOk sz b, 3), (sizeRegOk sz e, 4)],
            srcs := srcs ++ sizeRegs sz b ++ sizeRegs sz e, dsts := sizeRegs sz d } place n)
    ∧ (mis (.binit x a q) fo object off 16 ∧ mis (.barrive x a q) fo object off 16 ∧ mis (.bdue x a q w) fo object off 16
      ∧ mis (.bwait x d a q) fo reads off 16)
    ∧ (mis (.rproduceClaim x d a) fo (chkUn d a) off 32 ∧ mis (.rproduceFill x a q) fo object off 32
      ∧ mis (.rpeek x d a q) fo reads off 32 ∧ mis (.await g d a) fb (chkUn d a) off 32 ∧ mis (.awaitX x d a q tr) fo reads off 32
      ∧ mis (.release g a b) fb { srcs := [a.toNat, b.toNat] } off 32 ∧ mis (.releaseX x a q) fo object off 32
      ∧ (∀ r : RSrc, mis (.rinit x a r e) fo { srcs := a.toNat :: e.toNat :: rsrcRegs r } off 32))
    ∧ (mis (.enq g p a b) fb { srcs := [a.toNat, b.toNat] } off 16 ∧ mis (.deq g d a p) fb (chkUn d a) off 16
      ∧ mis (.enqX x sp esz p a b) fo
          { ops := [(spaceRegOk sp a, 2), (sizeRegOk (tqSize esz.toNat) b, 3)],
            srcs := spaceRegs sp a ++ sizeRegs (tqSize esz.toNat) b } off 16
      ∧ mis (.deqX x sp esz d a p) fo
          { ops := [(sizeRegOk (tqSize esz.toNat) d, 1), (spaceRegOk sp a, 2)],
            srcs := spaceRegs sp a, dsts := sizeRegs (tqSize esz.toNat) d } off 16)
    ∧ tile (.tload xt cl d a disp) [(s.tileFullOk d, 1)] ∧ tile (.tstore xt cl a b disp) [(s.tileFullOk b, 3)]
    ∧ tile (.split xt zx cl d a disp) [(s.tileFullOk d, 1)]
    ∧ tile (.adrain xt fmt zx mon cl d a b disp) [(fmt != .reef || s.tileReefOk d, 1), (s.accOk b, 3)]

/-! ## Tile and matrix instructions (spec/08_registers_tile.md, spec/09_matrix.md) -/

/-- R30, R166, R168-R174 Table 6, R186 Table 3: in a matrix crew, at a declared hitch it has not signed in this phase
and whose phase is of no other kind, in a deterministic troop no earlier team of another unit about to issue (log 26),
with the tests of its operands passed, no held tile fault to deliver, room in TL and its token, and room for the op
when its signature is the last, each tile and matrix instruction signs with its own operands and destinations, and its
strand goes on. That the kind of a phase is its subop, that a held fault is delivered after the operand checks and the
other orders of checks are log 23. -/
def Obligations.TileInstructionsSign : Prop :=
  ∀ (t : XT) (d a b : Reg) (s : State),
    let h := t.h.toNat
    let signs (i : Instr) (coll : Nat) (lo hi : List (Bool × Nat)) (srcs dsts : List Nat) (bad : Option Trap) (vals : List Word) : Prop :=
      s.ready (extFr t.x false) { role := s.isMatrix, ops := lo ++ [(s.declared h, 4)] ++ hi, srcs := srcs, dsts := dsts } = true →
      let u := s.readAcquire srcs
      let g : Sig := { x := s.x, contrib := true, vals := vals, dsts := dsts, tok := t.tok.map (·.toNat), ins := some i }
      bad = none → (s.dueTl (fun _ => true)) = [] → u.signHeld h = false → s.signBad h { coll := coll } = none →
      (s.firstSigner h = true → s.myCrew.tl < 63 ∧ s.tokRoom (crewOf s.x) t.tok = true) → u.lastWaits h g { coll := coll } = false →
      exec i s = .next (u.signTile t { coll := coll } g)
    let local_ (i : Instr) (at_ : Word) : Option Trap := s.tileAddrBad t.h i at_
    let addr (disp : BitVec 21) : Word := s.rd a.toNat + disp.zeroExtend 32
    signs (.tdset t d a) 0x100 [(s.tileAnyOk d, 1), (pairOk a, 2)] [] (pairRegs a) []
        (if dsValid (s.tileSlot (troopOf s.x)) (s.rd64 a.toNat) then none else some { code := 0x02, tval := 2 }) [s.rd a.toNat, s.rd (a.toNat + 1)]
    ∧ signs (.tdget t d a) 0x101 [(pairOk d, 1), (s.tileAnyOk a, 2)] [] [] (pairRegs d) none []
    ∧ (∀ cl disp, signs (.tload t cl d a disp) 0x102 [(s.tileFullOk d, 1)] [] [a.toNat] [] (local_ (.tload t cl d a disp) (addr disp)) [addr disp]
        ∧ signs (.tstore t cl a b disp) 0x103 [(s.tileFullOk b, 3)] [] [a.toNat] [] (local_ (.tstore t cl a b disp) (addr disp)) [addr disp]
        ∧ (∀ sat, signs (.split t sat cl d a disp) 0x105 [(s.tileFullOk d, 1)] [] [a.toNat] [] (local_ (.split t sat cl d a disp) (addr disp)) [addr disp])
        ∧ ∀ fmt z mon, signs (.adrain t fmt z mon cl d a b disp) 0x107 [(fmt != .reef || s.tileReefOk d, 1), (s.accOk b, 3)] [] [a.toNat] []
            (local_ (.adrain t fmt z mon cl d a b disp) (addr disp)) [addr disp])
    ∧ signs (.tzero t d) 0x104 [(s.tileFullOk d, 1)] [] [] [] none []
    ∧ (∀ m n : BitVec 2, signs (.azero t d m n) 0x106 [(s.accOk d, 1)]
        [(decide (shapeM (n ++ m) * shapeN (n ++ m) * 4 ≤ s.accSlot (troopOf s.x)), 5)] [] [] none [])
    ∧ signs (.aread t d a b) 0x108 [(s.accOk b, 3)] [] [a.toNat] [d.toNat] none [s.rd a.toNat]
    ∧ signs (.awrite t d a b) 0x109 [(s.accOk d, 1)] [] [a.toNat, b.toNat] [] none [s.rd a.toNat, s.rd b.toNat]
    ∧ (∀ k : Word, signs (.ascale t d k) 0x10A [(s.accOk d, 1)] [(decide (-254 ≤ k.toInt ∧ k.toInt ≤ 254), 5)] [] [] none [])
    ∧ signs (.reefq t d a b) 0x10B [(s.tileAnyOk b, 3)] [] [a.toNat] [d.toNat] none [s.rd a.toNat]
    ∧ signs (.mmaS t d a b) 0x200 [(s.accOk d, 1), (s.tileFullOk a, 2), (s.tileFullOk b, 3)] [] [] [] none []
    ∧ signs (.mmaB t d a b) 0x201 [(s.accOk d, 1), (s.tileFullOk a, 2), (s.tileFullOk b, 3)] [] [] [] none []
    ∧ signs (.mmaE t d a b) 0x202 [(s.accOk d, 1), (s.tileFullOk a, 2), (s.tileFullOk b, 3)] [] [] [] none []
    ∧ ∀ n1 : BitVec 3, signs (.mmaprog t d a b n1) 0x203 [(s.accOk d, 1), (s.chainOk a n1, 2), (s.chainOk b n1, 3)]
        [(decide (a.toNat + n1.toNat ≤ 15 ∧ b.toNat + n1.toNat ≤ 15), 5)] [] [] none []

/-- R30, R169, R171: a signature of an engine collective that leaves its phase incomplete is recorded, makes its
destination registers pending, counts in TL of a crew that had not contributed to the phase, and leaves its strand
Eligible past the instruction with no register, predicate or byte changed. R169, R170, R323: the op of a complete
phase joins the core's tile queue with the troop's next sequence number and, where it has scratchpad bytes, a
range-scoreboard entry; while the troop holds a tile fault, or ops held behind one, it waits with the held ops. That
held ops wait outside the queue is log 27. -/
def Obligations.TileOpsAreQueued : Prop :=
  (∀ (s : State) (t : XT) (k : OpKind) (g : Sig), g.contrib = true → g.x = s.x → (∀ r ∈ g.dsts, r < 128) →
      let h := t.h.toNat
      let c := crewOf s.x
      let p := s.phase c h
      let u := s.signTile t k g
      (let s1 := (s.tileAttach t h).modMe (fun v => { v with pend := g.dsts.foldl setBit v.pend })
       ((((s1.finish 2).sign h g k).scoreUnqueue s.x).phaseReady c h = false)) →
      (∃ n, (u.phase c h).sigs = p.sigs ++ [{ g with key := n }] ∧ (s.myLaunch.det = false → n = 0)) ∧ (u.phase c h).kind = some (p.kind.getD k)
      ∧ (u.crew c).tl = s.myCrew.tl + (if p.sigs.any (fun q => q.contrib && crewOf q.x == c) then 0 else 1)
      ∧ (u.strand s.x).life = .eligible ∧ ((u.strand s.x).pc, (u.strand s.x).step) = s.nextPc ⟨7, false, 2⟩
      ∧ (∀ r, u.rdX s.x r = s.rdX s.x r) ∧ (u.strand s.x).preds = s.myStrand.preds ∧ (u.strand s.x).fill = s.myStrand.fill
      ∧ (∀ r, (u.strand s.x).pend.getLsbD r = (s.myStrand.pend.getLsbD r || g.dsts.contains r)) ∧ SameBytes s u)
  ∧ (∀ (s : State) (o : TileOp),
      let k := coreOfTroop o.troop
      let t := s.enterTile o false
      (t.troop o.troop).opseq = (s.troop o.troop).opseq + 1
      ∧ ((s.troop o.troop).tfaults = [] → (s.troop o.troop).theld = [] → (t.core k).tq = (s.core k).tq ++ [{ o with inserted := false }] ∧ (t.troop o.troop).theld = (s.troop o.troop).theld)
      ∧ ((s.troop o.troop).tfaults ≠ [] ∨ (s.troop o.troop).theld ≠ [] → (t.core k).tq = (s.core k).tq ∧ (t.troop o.troop).theld = (s.troop o.troop).theld ++ [o])
      ∧ (t.core k).score.length = (s.core k).score.length + (if o.scored then 1 else 0) ∧ SameBytes s t)

/-- R170, R172, R174-R180, R196: the tile engine starts the op at the head of its core's queue when no older entry of
its troop conflicts and no queued store meets it. The op then has its effect: a descriptor written or given to every
signer, a zeroed accumulator with its shape, its elements written, read or scaled, a tile zeroed, loaded, stored or
encoded from FP32, an accumulator drained in each format, the state of a block reported; a product gives every element
of the accumulator the value of R188 and R191, pair after pair, while no save is asked for; an op that faults leaves
the queue and is held at its leader, and writes nothing. The op retires: it leaves the queue and TL of its crew falls.
The places of a faulted op and of the held ones, and the progress word, are log 27, the order of the checks log 23. -/
def Obligations.TileEngineExecutes : Prop :=
  ∀ (s : State) (o : TileOp) (rest : List TileOp), let k := s.ev.unit
    (s.core k).tq = o :: rest → s.still k = false → coreOfTroop o.troop = k → s.memOk = true →
    let p := o.troop
    let v (i : Nat) : Nat := ((opLeader o).vals.getD i 0).toNat
    let runs (post : State → Prop) : Prop := ∃ t, exec .tileOpStart s = .next t ∧ (t.core k).tq.head? = some { o with running := true, began := (s.core k).cycle }
      ∧ post t ∧ (∀ pa, t.pbyte pa = s.pbyte pa) ∧ t.strands = s.strands
    let gives (ws : Sig → List (Nat × Word)) (len : Nat) : Prop :=
      (o.sigs.map (·.x)).Nodup → (∀ g ∈ o.sigs, g.dsts.length = len) →
      ∃ t, exec .tileOpStart s = .next t ∧ (t.core k).tq.head? = some { o with running := true, began := (s.core k).cycle } ∧ SameBytes s t
        ∧ (∀ c i j, t.accAt p c i j = s.accAt p c i j) ∧ (∀ y, y ∉ o.sigs.map (·.x) → t.strand y = s.strand y)
        ∧ ∀ g ∈ o.sigs, (g.gone = true ∨ s.alive g.x = false → t.strand g.x = s.strand g.x)
          ∧ (g.gone = false → s.alive g.x = true → ∀ r, t.rdX g.x r = regAfter (ws g) (s.rdX g.x) r
            ∧ ((t.strand g.x).pend.getLsbD r = ((s.strand g.x).pend.getLsbD r && !g.dsts.contains r)))
    let faults (e : TFault) : Prop := s.alive (opLeader o).x = true → opLeader o ∈ o.sigs → (opLeader o).contrib = true → (opLeader o).gone = false →
      ∃ t f, exec .tileOpStart s = .next t ∧ (t.troop p).tfaults = f :: (s.troop p).tfaults ∧ f.op = o ∧ f.anchor = (opLeader o).x
        ∧ f.cause = e.cause ∧ f.tval = e.tval ∧ f.delivered = false ∧ (∀ q ∈ (t.core k).tq, q.troop ≠ p)
        ∧ (t.troop p).theld = rest.filter (fun q => q.troop == p) ++ (s.troop p).theld ∧ SameBytes s t ∧ (∀ c i j, t.accAt p c i j = s.accAt p c i j)
    let scales (ds : Dword) (sc : List Nat) : Prop := if dsScaleBytes ds = 0 then sc = []
      else s.spmIn p (dsScOff ds) (dsScaleBytes ds) = true ∧ s.errRead (some p) (dsScOff ds) (dsScaleBytes ds) = none
        ∧ sc = (mread (s.troop p).spm (dsScOff ds) (dsScaleBytes ds)).map (·.toNat)
    (s.tileDue k = true →
      (∀ (x : XT) (d a : Reg), o.sub = .tdset x d a → runs (fun t => (t.troop p).descOf d.toNat = BitVec.ofNat 64 (v 0 + v 1 * 2 ^ 32)))
      ∧ (∀ (x : XT) (d : Reg) (m n : BitVec 2), o.sub = .azero x d m n →
          runs (fun t => (∀ i j, i < 64 → j < 64 → t.accAt p d.toNat i j = 0) ∧ (t.troop p).shapeOf d.toNat = n ++ m
            ∧ ∀ c i j, c ≠ d.toNat → i < 64 → j < 64 → t.accAt p c i j = s.accAt p c i j))
      ∧ (∀ (x : XT) (d a b : Reg), o.sub = .awrite x d a b → o.sigs = [opLeader o] →
          let i := v 0 % 65536
          let j := v 0 / 65536
          let sh := (s.troop p).shapeOf d.toNat
          runs (fun t => ∀ c i' j', i' < 64 → j' < 64 → t.accAt p c i' j' =
            if c = d.toNat ∧ i' = i ∧ j' = j ∧ i < shapeM sh ∧ j < shapeN sh then BitVec.ofNat 32 (v 1) else s.accAt p c i' j'))
      ∧ (∀ (x : XT) (d : Reg), o.sub = .tzero x d → dsFormat ((s.troop p).descOf d.toNat) ≠ 0 → dsReef ((s.troop p).descOf d.toNat) = false →
          runs (fun t => ∀ a, a < 2 ^ 20 → mbyte (t.troop p).tiles a =
            if tileBase d.toNat ≤ a ∧ a < tileBase d.toNat + dsFoot ((s.troop p).descOf d.toNat) then 0 else mbyte (s.troop p).tiles a))
      ∧ (∀ (x : XT) (d a : Reg) (disp : BitVec 21), o.sub = .tload x false d a disp →
          let ds := (s.troop p).descOf d.toNat
          dsFormat ds ≠ 0 → dsReef ds = false → s.spmIn p (v 0) (dsFoot ds) = true → s.errRead (some p) (v 0) (dsFoot ds) = none →
          runs (fun t => ∀ a, a < 2 ^ 20 → mbyte (t.troop p).tiles a =
            if tileBase d.toNat ≤ a ∧ a < tileBase d.toNat + dsFoot ds then mbyte (s.troop p).spm (v 0 + (a - tileBase d.toNat))
            else mbyte (s.troop p).tiles a))
      ∧ (∀ (x : XT) (a b : Reg) (disp : BitVec 21), o.sub = .tstore x false a b disp →
          let ds := (s.troop p).descOf b.toNat
          dsFormat ds ≠ 0 → s.spmIn p (v 0) (dsFoot ds) = true → s.slotErr p b.toNat 0 (dsFoot ds) = none →
          runs (fun t => ∀ q a, mbyte (t.troop q).spm a = if q = p ∧ v 0 ≤ a ∧ a < v 0 + dsFoot ds
            then mbyte (s.troop p).tiles (tileBase b.toNat + (a - v 0)) else mbyte (s.troop q).spm a))
      ∧ (∀ (x : XT) (d n : Reg), o.sub = .tdget x d n → let ds := (s.troop p).descOf n.toNat
          gives (fun g => [(g.dsts.getD 0 0, ds.extractLsb' 0 32), (g.dsts.getD 1 0, ds.extractLsb' 32 32)]) 2)
      ∧ (∀ (x : XT) (d a c : Reg), o.sub = .aread x d a c → (∀ i j, s.accErrAt p c.toNat i j 1 = none) →
          gives (fun g =>
            let i := (g.vals.getD 0 0).toNat % 65536
            let j := (g.vals.getD 0 0).toNat / 65536
            let sh := (s.troop p).shapeOf c.toNat
            [(g.dsts.getD 0 0, if i < shapeM sh ∧ j < shapeN sh then s.accAt p c.toNat i j else 0x7FC00010)]) 1)
      ∧ (∀ (x : XT) (d a n : Reg), o.sub = .reefq x d a n → (∀ off len, s.slotErr p n.toNat off len = none) →
          gives (fun g =>
            let ds := (s.troop p).descOf n.toNat
            let b := (g.vals.getD 0 0).toNat % 2 ^ 20
            let img := s.slotNat p n.toNat (dsFoot ds)
            let z := (List.range (geoNs (dsGeo ds))).countP (fun q => imgZbit (dsGeo ds) img b q)
            [(g.dsts.getD 0 0, if dsReef ds = true ∧ b < geoNb (dsGeo ds) then BitVec.ofNat 32 (imgCount (dsGeo ds) img b + 2 ^ 8 * imgScale img b + 2 ^ 16 * z)
              else 0xFFFFFFFF)]) 1)
      ∧ (∀ (x : XT) (c : Reg) (k : Word), o.sub = .ascale x c k → s.accErr p c.toNat = none →
          let sh := (s.troop p).shapeOf c.toNat
          runs (fun t => (t.troop p).tiles = (s.troop p).tiles ∧ ∀ c' i j, c' < 16 → i < 64 → j < 64 → t.accAt p c' i j =
            if c' = c.toNat ∧ i < shapeM sh ∧ j < shapeN sh then f32ldexp .rne (s.accAt p c' i j) k.toInt else s.accAt p c' i j))
      ∧ (∀ (x : XT) (sat : Bool) (d a : Reg) (disp : BitVec 21), o.sub = .split x sat false d a disp →
          let ds := (s.troop p).descOf d.toNat
          let n := dsRows ds * dsCols ds
          let elem (k : Nat) : Word := (wordsOf (mread (s.troop p).spm (v 0) (4 * n))).getD k 0
          dsFormat ds ≠ 0 → (sat = true → dsFormat ds = 0x12) → s.spmIn p (v 0) (4 * n) = true → s.errRead (some p) (v 0) (4 * n) = none →
          (∀ cv : Cvt, (dsFormat ds, cv) ∈ [(0x10, Cvt.f32bf16), (0x11, .f32e4m3), (0x12, if sat then .f32e5m2s else .f32e5m2)] →
            let w := dsEbytes ds
            runs (fun t => (∀ k < n, leNat (mread (t.troop p).tiles (tileBase d.toNat + w * k) w) = (fconvert cv .rne (elem k)).toNat)
              ∧ ∀ a, a < 2 ^ 20 → ¬ (tileBase d.toNat ≤ a ∧ a < tileBase d.toNat + w * n) → mbyte (t.troop p).tiles a = mbyte (s.troop p).tiles a))
          ∧ (dsReef ds = true → ∀ sc, scales ds sc →
            (∀ img, encodeImage (dsGeo ds) sc (fun i j => elem (i * dsCols ds + j)) = .ok img → runs (fun t => ∀ a, a < 2 ^ 20 → mbyte (t.troop p).tiles a =
              if tileBase d.toNat ≤ a ∧ a < tileBase d.toNat + img.length then img.getD (a - tileBase d.toNat) 0 else mbyte (s.troop p).tiles a))
            ∧ ∀ b k, encodeImage (dsGeo ds) sc (fun i j => elem (i * dsCols ds + j)) = .error (b, k) →
                faults { cause := causeReefOverflow, tval := BitVec.ofNat 32 (b * 2 ^ 11 + k) }))
      ∧ (∀ (x : XT) (fmt : DrainFmt) (z : Bool) (mon : Option (BitVec 4)) (d a c : Reg) (disp : BitVec 21),
          o.sub = .adrain x fmt z mon false d a c disp → s.accErr p c.toNat = none →
          let ds := (s.troop p).descOf d.toNat
          let sh := (s.troop p).shapeOf c.toNat
          let n := shapeM sh * shapeN sh
          let elem (k : Nat) : Word := s.accAt p c.toNat (k / shapeN sh) (k % shapeN sh)
          let vs := (List.range n).map elem
          let drains (bs : List Byte) : Prop := s.spmIn p (v 0) bs.length = true → runs (fun t => (t.troop p).tiles = (s.troop p).tiles
            ∧ (∀ q a, mbyte (t.troop q).spm a = if q = p ∧ v 0 ≤ a ∧ a < v 0 + bs.length then bs.getD (a - v 0) 0 else mbyte (s.troop q).spm a)
            ∧ (∀ c' i j, c' < 16 → i < 64 → j < 64 → t.accAt p c' i j = if z = true ∧ c' = c.toNat then 0 else s.accAt p c' i j)
            ∧ (mon = none → (t.troop p).fid = (s.troop p).fid)
            ∧ ∀ st, mon = some st → (sget (t.troop p).fid {} st.toNat).cnt = ((sget (s.troop p).fid {} st.toNat).cnt + 1) % 2 ^ 32)
          (fmt = .f32 → drains ((List.range n).flatMap (fun k => leBytes 4 (elem k).toNat)))
          ∧ (fmt = .bf16 → drains ((List.range n).flatMap (fun k => leBytes 2 (fconvert .f32bf16 .rne (elem k)).toNat)))
          ∧ (fmt = .reef → dsReef ds = true →
            (dsRows ds ≠ shapeM sh ∨ dsCols ds ≠ shapeN sh → faults { cause := causeTileShape, tval := BitVec.ofNat 32 (7 + 5 * 2 ^ 8 + c.toNat * 2 ^ 12) })
            ∧ (dsRows ds = shapeM sh → dsCols ds = shapeN sh → ∀ sc, scales ds sc →
              (∀ img, encodeImage (dsGeo ds) sc (fun i j => vs.getD (i * shapeN sh + j) 0) = .ok img → drains img)
              ∧ ∀ b k, encodeImage (dsGeo ds) sc (fun i j => vs.getD (i * shapeN sh + j) 0) = .error (b, k) →
                  faults { cause := causeReefOverflow, tval := BitVec.ofNat 32 (b * 2 ^ 11 + k) })))
      ∧ (∀ c a b n, mmaFields o.sub = some (c, a, b, n) → o.part = false → (s.troop p).saveReq = none →
          let sub := tileSub o.sub
          let sh := (s.troop p).shapeOf c
          let pair (q : Nat) : Opnd × Opnd := (s.opnd p (a + q), s.opnd p (b + q))
          (∀ r i, prodReason sub c sh ((List.range n).map pair) = some (r, i) → faults { cause := causeTileShape, tval := BitVec.ofNat 32 (sub + r * 2 ^ 8 + i * 2 ^ 12) })
          ∧ (prodReason sub c sh ((List.range n).map pair) = none → (∀ k off len, s.slotErr p k off len = none) → s.accErr p c = none →
            ∃ t, exec .tileOpStart s = .next t ∧ SameBytes s t ∧ t.strands = s.strands ∧ (∃ q, (t.core k).tq = q :: rest ∧ q.running = true ∧ q.opid = o.opid)
              ∧ (∀ i j, i < shapeM sh → j < shapeN sh → ∃ f : Nat → Word, f 0 = s.accAt p c i j ∧ f n = t.accAt p c i j
                ∧ ∀ q < n, PairElement (dsReef (pair q).1.d) (pair q).1 (pair q).2 i j (f q) (f (q + 1)))
              ∧ ∀ c' i j, i < 64 → j < 64 → c' ≠ c ∨ shapeM sh ≤ i ∨ shapeN sh ≤ j → t.accAt p c' i j = s.accAt p c' i j))
      ∧ (∀ c a b n s1, mmaFields o.sub = some (c, a, b, n) → (s.troop p).saveReq = none → s.runXmma o c a b n none = .ok (s1, true) →
          ∃ t, exec .tileOpStart s = .next t ∧ t.troops = s1.troops ∧ ∃ q, (t.core k).tq = q :: rest ∧ q.running = true ∧ q.opid = o.opid)
      ∧ (∀ e, mmaFields o.sub = none → s.runXtile o = .error e → faults e))
    ∧ (o.running = true → ∀ c tok, o.crews = [(c, tok)] → s.hasCrew c = true →
        let plain (q : TileOp) : TileOp := { q with inserted := false }
        ∃ t more, exec .tileOpRetire s = .next t ∧ ((t.core k).tq).map plain = (rest ++ more).map plain ∧ (t.crew c).tl = (s.crew c).tl - 1 ∧ SameBytes s t)

/-! ## Queues (spec/14_queues.md) -/

/-- R295, R296, R298: on a valid ring that nothing stands before, the ring instructions read and write the object as
Table 4 gives, in one step, and no other byte; `await` reads only a filled slot, and waits otherwise unless `.try`. A
release of a held slot moves `ri` past every filled and released slot in order. A wait is the model's retry (log 6);
the latched index of `await` is log 25. -/
def Obligations.RingInstructions : Prop :=
  (∀ (g : Guard) (x : XG) (d a e : Reg) (b : RSrc) (s : State), s.myStrand.latch = none → s.memOk = true →
    let t := troopOf s.x
    let off := (s.rd a.toNat).toNat
    let n := (s.rsrc b).toNat
    let r := ringOf (s.ringAt t off)
    let f := extFr x false
    let fb := baseFr g false
    off % 32 = 0 →
    (let geo := s.rd e.toNat
     let ssz := (geo.extractLsb' 0 13).toNat
     let slots := (geo.extractLsb' 16 7).toNat
     s.ready f { srcs := a.toNat :: e.toNat :: rsrcRegs b } = true → n % 64 = 0 → geo.extractLsb' 13 3 = 0 → geo.extractLsb' 23 9 = 0 →
     1 ≤ ssz → ssz ≤ 4096 → 1 ≤ slots → slots ≤ 64 → n + slots * ssz * 64 ≤ s.spmSize t → s.objNamed t true off = false →
     s.objClear true off 32 true = true → ∃ v, exec (.rinit x a b e) s = .next v ∧ GoesWith s v f [] [] t off
       (leBytes 32 (n + ssz * 2 ^ 32 + slots * 2 ^ 48)))
    ∧ (ringValid (s.spmSize t) (s.ringAt t off) = true →
      (s.objClear true off 32 true = true →
        let sets (i : Instr) (f : Fr) (ws : List (Nat × Word)) (q : Ring) : Prop :=
          ∃ v, exec i s = .next v ∧ GoesWith s v f ws [] t off (leBytes 32 (ringNat q))
        (s.ready f (chkUn d a) = true →
          (r.free r.wi = true → sets (.rproduceClaim x d a) f [(d.toNat, BitVec.ofNat 32 (r.wi % r.n))] { r with wi := (r.wi + 1) % (2 * r.n) })
          ∧ (r.free r.wi = false → exec (.rproduceClaim x d a) s = .next (((s.readAcquire [a.toNat]).park .retry).chanTouch t off 32)))
        ∧ (s.ready f { srcs := a.toNat :: rsrcRegs b } = true →
          (n < r.n → r.claimed n = true → sets (.rproduceFill x a b) f [] { r with fph := r.fph ^^^ BitVec.twoPow 64 n })
          ∧ (r.n ≤ n ∨ r.claimed n = false → exec (.rproduceFill x a b) s = .next (((s.readAcquire (a.toNat :: rsrcRegs b)).illegalOp f 3).chanTouch t off 32))
          ∧ (n < r.n → sets (.releaseX x a b) f [] (r.release n)))
        ∧ (∀ c : Reg, s.ready fb { srcs := [a.toNat, c.toNat] } = true → (s.rd c.toNat).toNat < r.n →
            sets (.release g a c) fb [] (r.release (s.rd c.toNat).toNat)))
      ∧ (s.objClear true off 32 false = true →
        (s.ready f { srcs := a.toNat :: rsrcRegs b, dsts := [d.toNat] } = true → n < r.n →
          let j := (r.ri + n) % (2 * r.n)
          (∃ (v : State) (w : Word), exec (.rpeek x d a b) s = .next v ∧ Goes s v f [(d.toNat, w)] [] ∧ SameBytes s v ∧ w.extractLsb' 0 6 = BitVec.ofNat 6 (j % r.n)
            ∧ w.getLsbD 6 = r.filled j ∧ w.getLsbD 7 = r.released (j % r.n)
            ∧ w.extractLsb' 8 7 = BitVec.ofNat 7 ((r.wi + 2 * r.n - r.ri) % (2 * r.n)) ∧ w.getLsbD 15 = r.fault ∧ w.getLsbD 16 = r.bad)
          ∧ (r.filled j = true → s.dueEn (fun v => v.obj == some (true, off) && v.slot == j % r.n) = [] → ∀ pt : Option PReg,
              ∃ v, exec (.awaitX x d a b pt) s = .next v ∧ SameBytes s v
                ∧ Goes s v f [(d.toNat, BitVec.ofNat 32 (j % r.n))] (pt.toList.map (fun p => (p, true))))
          ∧ (r.filled j = false → (∀ p : PReg, ∃ v, exec (.awaitX x d a b (some p)) s = .next v ∧ Goes s v f [] [(p, false)] ∧ SameBytes s v)
              ∧ ∃ v, exec (.awaitX x d a b none) s = .next v ∧ (v.strand s.x).life = .parked ∧ (v.strand s.x).pc = s.myStrand.pc
                ∧ RegFile s v [] [] ∧ SameBytes s v))
        ∧ (s.ready fb (chkUn d a) = true → r.filled r.ri = true →
            s.dueEn (fun v => v.obj == some (true, off) && v.slot == r.ri % r.n) = [] →
            ∃ v, exec (.await g d a) s = .next v ∧ SameBytes s v ∧ Goes s v fb [(d.toNat, BitVec.ofNat 32 (r.ri % r.n))] []))))
  ∧ ∀ (r : Ring) (k : Nat), k < r.n → r.n ≤ 64 → r.wi < 2 * r.n → r.ri < 2 * r.n → r.released k = false →
      let q := r.release k
      q.rph = r.rph ^^^ BitVec.twoPow 64 k ∧ q.fph = r.fph ∧ q.wi = r.wi ∧ (q.ri = q.wi ∨ ¬(q.filled q.ri = true ∧ q.released (q.ri % q.n) = true))

/-- R299-R302, R392: `send` hands the entry in its registers to the network with the next number of its crew, channel
and destination, within a window of 8, once the strand's loads have returned, and its strand goes on; one for another
package needs its route, and waits for the engine writes its span release awaits. A troop or a package that is not
there is ILLEGAL_OPERAND. `recv` takes the oldest entry of the troop's channel into its registers, in order, and
waits, or with `.try` writes false, when there is none; a buffer that something else has accessed gives undefined
values (R299). R303, R304: on a valid queue header that nothing stands before, `enq` writes its entry at `tail` and
`deq` reads the one at `head`, each with the header's counter raised by one, in one step, and `pd` true; the entry
lies in the header's scratchpad. A full or an empty queue leaves memory as it is and writes false. A header that is
not valid or has another entry size is ILLEGAL_OPERAND, and one or an entry outside the scratchpad SPM_ACCESS, with no
byte changed. A global queue's action is sent to the header's home, and one through the window to the header's bank. A
wait is the model's retry (log 6); what a send waits for is log 13 and log 29, that a dequeue empties the L1 log 8,
the address of SPM_ACCESS log 25. -/
def Obligations.ChannelsAndTaskQueues : Prop :=
  (∀ (g : Guard) (x : XG) (d c : Reg) (b : XSrc) (try_ : Option PReg) (s : State), s.memOk = true →
      let l := s.myLaunch
      let ch := c.toNat
      let words := ((l.chan ch % 16) + 1) * 4
      let home := s.pkg.toNat
      let f := extFr x false
      let fx := extFr x (xsrcLit b)
      let fb := baseFr g false
      chanOn l ch = true → d.toNat + words ≤ 128 →
      let regs := (List.range words).map (d.toNat + ·)
      let anyPort (m : ChanMsg) : ChanMsg := { m with out := none }
      let sends (i : Instr) (f : Fr) (k : Chk) (pkg dest : Nat) : Prop := s.ready f k = true →
        let there := dest < l.troops ∧ (pkg ≠ home → (sget s.routes (0, false) pkg).2 = true)
        let seq := sget s.myTroop.chanSeq 0 (chanKey (crewIdx (crewOf s.x)) ch pkg dest)
        (¬there → exec i s = .next ((s.readAcquire k.srcs).illegalOp f 3))
        ∧ (there → 8 ≤ s.chanWindow (crewOf s.x) ch ∨ s.loadsIn = false ∨ (pkg ≠ home ∧ s.relReady .span = false) →
            exec i s = .next ((s.readAcquire k.srcs).park .retry))
        ∧ (there → s.chanWindow (crewOf s.x) ch < 8 → s.loadsIn = true → (pkg ≠ home → s.relReady .span = true) →
            ∃ t m, exec i s = .next t ∧ Goes s t f [] [] ∧ SameBytes s t ∧ t.chanMsgs.map anyPort = s.chanMsgs.map anyPort ++ [m]
              ∧ m.chan = ch ∧ m.troop = dest ∧ m.pkg = pkg ∧ m.lid = l.lid ∧ m.span = l.spanId ∧ m.crew = crewOf s.x ∧ m.strand = s.x
              ∧ m.data = regs.map s.rd ∧ m.st = 0 ∧ m.seq = seq
              ∧ sget (t.troop (troopOf s.x)).chanSeq 0 (chanKey (crewIdx (crewOf s.x)) ch pkg dest) = (seq + 1) % 2 ^ 32
              ∧ (pkg = home → t.uaOut = s.uaOut)
              ∧ (t.uaOut = s.uaOut ∨ ∃ u, t.uaOut = s.uaOut ++ [u] ∧ u.kind = 2 ∧ u.pkg = pkg ∧ u.addr = chanPort))
      sends (.send g d c) fb { ops := chanOps l d c, srcs := chanRegs l d c } home ((s.myTroop.index + 1) % l.troops)
      ∧ sends (.sendX x d c b) fx { ops := chanOps l d c ++ [(xsrcOk b, 5)], srcs := chanRegs l d c ++ xsrcRegs b }
          ((s.xsrc b).extractLsb' 24 8).toNat ((s.xsrc b).extractLsb' 0 24).toNat
      ∧ (let q := s.chan (troopOf s.x) ch
         let slots := l.chan ch / 16 % 64 + 1
         let gets (i : Instr) (f : Fr) (ps : List (PReg × Bool)) : Prop := 0 < q.occ →
           ∃ t vs, exec i s = .next t ∧ SameBytes s t ∧ Goes s t f (runWrites d.toNat vs) ps ∧ vs.length = words
             ∧ (q.touched = false →
                 vs = wordsOf (mread s.myTroop.spm (chanBase l (s.spmSize (troopOf s.x)) ch + q.head * (4 * words)) (4 * words)))
             ∧ (t.chan (troopOf s.x) ch).occ = q.occ - 1 ∧ (t.chan (troopOf s.x) ch).head = (q.head + 1) % slots
         (s.ready fb { ops := chanOps l d c, dsts := chanRegs l d c } = true → gets (.recv g d c) fb []
            ∧ (q.occ = 0 → exec (.recv g d c) s = .next (s.park .retry)))
         ∧ (s.ready f { ops := chanOps l d c, dsts := chanRegs l d c } = true → gets (.recvX x d c try_) f (try_.toList.map (fun p => (p, true)))
            ∧ (q.occ = 0 → (∀ p : PReg, Computes (.recvX x d c (some p)) s f [] [(p, false)])
                ∧ exec (.recvX x d c none) s = .next (s.park .retry)))))
  ∧ (∀ (g : Guard) (x : XG) (sp : Space) (sz : BitVec 2) (pd : PReg) (d a b : Reg) (s : State), s.memOk = true →
      let f := extFr x false
      let fb := baseFr g false
      let z := tqSize sz.toNat
      let at_ := (s.rd a.toNat).toNat
      let acts (enq : Bool) (i : Instr) (f : Fr) (c : Chk) (sp : Space) (k : Nat) : Prop := s.ready f c = true → at_ % 16 = 0 →
        let n := 2 ^ (k + 2)
        let u := s.readAcquire c.srcs
        (s.spmPlace sp at_ 16 = none → exec i s = .next (u.trap f (spmFault at_)))
        ∧ ∀ q o, s.spmPlace sp at_ 16 = some (q, o) → s.relReady .die = true →
          (sp = .cluster → ∃ t, exec i s = .next t ∧ AwaitsRequest s t s.myCore.nextReq ∧ SameBytes s t
            ∧ ∃ r ∈ (t.core (coreOf s.x)).reqs, r.id = s.myCore.nextReq ∧ r.kind = (if enq then .enq k else .deq k) ∧ r.tgt = .spm q ∧ r.addr = o
              ∧ r.pdst = pd.toNat ∧ r.data = if enq then s.storeBytes n b else []) ∧
          (sp ≠ .cluster → s.spmBlocked q o 16 true = false → s.myCrew.sq = [] → s.bankOut (coreOf s.x) (.spm q) o 16 = false → s.tqArrived q o = false →
          (s.myLaunch.det = true → s.detReady = true) → s.errRead (some q) o 16 = none →
          let v := mnat (s.troop q).spm o 16
          let h := tqOf v
          let count := (h.tail + 2 ^ 32 - h.head) % 2 ^ 32
          let e := o + (16 + (if enq then h.tail else h.head) % h.cap * n)
          let header (head tail : Nat) : List Byte := leBytes 16 (h.cap + h.esize * 2 ^ 24 + head * 2 ^ 64 + tail * 2 ^ 96)
          (tqValid v = false ∨ h.esize ≠ k → exec i s = .next ((u.chanTouch q o 16).illegalOp f 2))
          ∧ (tqValid v = true → h.esize = k →
            ((if enq then h.cap ≤ count else h.tail = h.head) → ∃ t, exec i s = .next t ∧ Goes s t f [] [(pd, false)] ∧ SameBytes s t)
            ∧ (¬(if enq then h.cap ≤ count else h.tail = h.head) →
              (s.spmIn q e n = false → exec i s = .next ((u.chanTouch q o 16).trap f (spmFault (at_ + (e - o)))))
              ∧ (s.spmIn q e n = true → s.spmBlocked q e n true = false →
                (enq = true → ∃ t, exec i s = .next t ∧ Goes s t f [] [(pd, true)] ∧ (∀ pa, t.pbyte pa = s.pbyte pa)
                  ∧ (∀ k', mbyte t.hostMem k' = mbyte s.hostMem k') ∧ (∀ y k', mbyte (t.troop y).tiles k' = mbyte (s.troop y).tiles k')
                  ∧ ∀ y k', mbyte (t.troop y).spm k' = if y = q ∧ e ≤ k' ∧ k' < e + n then (s.storeBytes n b).getD (k' - e) 0
                      else if y = q ∧ o ≤ k' ∧ k' < o + 16 then (header h.head ((h.tail + 1) % 2 ^ 32)).getD (k' - o) 0
                      else mbyte (s.troop y).spm k')
                ∧ (enq = false → s.errRead (some q) e n = none →
                    ∃ t, exec i s = .next t ∧ (t.core (coreOf s.x)).l1 = []
                      ∧ GoesWith s t f (runWrites d.toNat (wordsOf (mread (s.troop q).spm e n))) [(pd, true)] q o
                          (header ((h.head + 1) % 2 ^ 32) h.tail))))))
      let sent (i : Instr) (c : Chk) (k : ReqKind) (data : List Byte) : Prop := s.ready f c = true →
        let at_ := s.rd64 a.toNat
        at_.toNat % 16 = 0 → canonical at_ = true → s.myCrew.ld < 63 → s.relReady .pkg = true →
        ∀ e : Tlb, s.tlbHit (coreOf s.x) (s.asidOf (troopOf s.x)) at_ (needR + needW) = some e → s.lost e.target = false →
        ∃ t, exec i s = .next t ∧ AwaitsRequest s t s.myCore.nextReq ∧ SameBytes s t ∧ (t.crew (crewOf s.x)).ld = s.myCrew.ld + 1
          ∧ ∃ r ∈ (t.core (coreOf s.x)).reqs, r.id = s.myCore.nextReq ∧ r.kind = k ∧ r.addr = e.addr at_ ∧ r.data = data ∧ r.pdst = pd.toNat
      let cEnq : Chk := { ops := [(spaceRegOk sp a, 2), (sizeRegOk z b, 3)], srcs := spaceRegs sp a ++ sizeRegs z b }
      let cDeq : Chk := { ops := [(sizeRegOk z d, 1), (spaceRegOk sp a, 2)], srcs := spaceRegs sp a, dsts := sizeRegs z d }
      acts true (.enq g pd a b) fb { srcs := [a.toNat, b.toNat] } .spm 0
      ∧ acts false (.deq g d a pd) fb (chkUn d a) .spm 0
      ∧ (sz.toNat < 3 → sp ≠ .global → acts true (.enqX x sp sz pd a b) f cEnq sp sz.toNat ∧ acts false (.deqX x sp sz d a pd) f cDeq sp sz.toNat)
      ∧ (sz.toNat < 3 → sp = .global → sent (.enqX x sp sz pd a b) cEnq (.enq sz.toNat) (s.storeBytes (2 ^ (sz.toNat + 2)) b)
          ∧ sent (.deqX x sp sz d a pd) cDeq (.deq sz.toNat) []))

/-! ## Counters, tokens, buoys, paddock requests (spec/16_counters.md, spec/14_queues.md R305-R307) -/

/-- R345, R347, R363, R355, R356: a wait goes on once each class it names is at or below its limit, or each token it
names is complete with status ok, and no fault of its strand is due there; it parks while one is not, and raises a due
engine fault, or the NAK of a token, in its place. `perfcfg` sets a counter to zero with its event; `fidrd` reads a
stream's counts and with `.clr` clears what it read. A wait is the model's retry (log 6). -/
def Obligations.WaitsAndCounters : Prop :=
  ∀ (g : Guard) (x : XG) (s : State),
    let f := extFr x false
    let fb := baseFr g false
    let quiet := s.dueTl (fun _ => true) = [] ∧ s.myStrand.faults = [] ∧ s.myStrand.naks = []
    let goes (i : Instr) (f : Fr) : Prop := ∃ t, exec i s = .next t ∧ Goes s t f [] [] ∧ SameBytes s t
    (∀ (cls : BitVec 3) (n : BitVec 6), s.ready fb { ops := [(decide (cls.toNat < 5), 2)] } = true →
      let k := clsCodes.getD cls.toNat .ld
      (quiet → clsCount s.myCrew k ≤ n.toNat → goes (.wait g cls n) fb)
      ∧ (s.dueTl (fun _ => true) = [] → n.toNat < clsCount s.myCrew k → exec (.wait g cls n) s = .next (s.park .retry))
      ∧ (∀ v, s.dueTl (fun _ => true) = [] → s.myStrand.faults = [v] → v.cls = .en → k = .en → s.myCrew.en ≤ n.toNat →
          s.myStrand.cause.getLsbD 31 = false → ∃ t, exec (.wait g cls n) s = .next t
            ∧ TookTrap (s.modMe (fun m => { m with faults := [] })) t fb { code := v.cause, tval := v.tval, taddr := v.taddr, pfr := if v.cause = 0x0A then v.pfr else 0, defer := true }))
    ∧ (s.ready f {} = true → ∀ ld st en tl pt : BitVec 6,
        let below (n : BitVec 6) (c : Nat) : Prop := n = 63 ∨ c ≤ n.toNat
        (quiet → below ld s.myCrew.ld → below st s.myCrew.st → below en s.myCrew.en → below tl s.myCrew.tl → below pt s.myCrew.pt →
          goes (.waitX x ld st en tl pt) f)
        ∧ (s.dueTl (fun _ => true) = [] → ¬(below ld s.myCrew.ld ∧ below st s.myCrew.st ∧ below en s.myCrew.en ∧ below tl s.myCrew.tl ∧ below pt s.myCrew.pt) →
          exec (.waitX x ld st en tl pt) s = .next (s.park .retry)))
    ∧ (let token (w : Nat) := s.token (crewOf s.x) w
       (s.ready fb {} = true → ∀ w : BitVec 4,
          (quiet → (token w.toNat).cnt = 0 → (token w.toNat).status = .ok → goes (.wtok g w) fb)
          ∧ (s.dueTl (fun _ => true) = [] → (token w.toNat).cnt ≠ 0 → exec (.wtok g w) s = .next (s.park .retry))
          ∧ (∀ r i more, (token w.toNat).cnt = 0 → (token w.toNat).status = .nak r i more → s.myStrand.nakMarks.getLsbD w.toNat = false →
              s.myStrand.cause.getLsbD 31 = false → r < 16 → i < 32 → ∃ t, exec (.wtok g w) s = .next t
                ∧ TookTrap (s.modMe (fun m => { m with nakMarks := setBit m.nakMarks w.toNat })) t fb { code := 0x0F, tval := BitVec.ofNat 32 (r + 16 * i + if more then 2 ^ 31 else 0), defer := true }))
       ∧ (s.ready f {} = true → ∀ mask : BitVec 16,
          (quiet → (∀ w, w < 16 → mask.getLsbD w = true → (token w).cnt = 0 ∧ (token w).status = .ok) → goes (.wtokX x mask) f)
          ∧ (s.dueTl (fun _ => true) = [] → (∃ w, w < 16 ∧ mask.getLsbD w = true ∧ (token w).cnt ≠ 0) →
              exec (.wtokX x mask) s = .next (s.park .retry))))
    ∧ (∀ (k : BitVec 3) (b : RSrc), s.ready f { srcs := rsrcRegs b } = true →
        let c := s.rsrc b
        ((c.extractLsb' 0 8).toNat ≤ 0x11 → c.extractLsb' 9 23 = 0 → ∃ t, exec (.perfcfg x k b) s = .next t ∧ Goes s t f [] [] ∧ SameBytes s t
            ∧ sfind (t.core (coreOf s.x)).perf k.toNat = some (0, c, troopOf s.x)
            ∧ ∀ j, j ≠ k.toNat → sfind (t.core (coreOf s.x)).perf j = sfind s.myCore.perf j)
        ∧ (0x11 < (c.extractLsb' 0 8).toNat ∨ c.extractLsb' 9 23 ≠ 0 → exec (.perfcfg x k b) s = .next ((s.readAcquire (rsrcRegs b)).illegalOp f 3)))
    ∧ ∀ (sel : FidSel) (clr : Bool) (i : BitVec 4) (d : Reg),
        s.ready f { ops := [(pairOk d, 1), (sel != .flags || i == 0, 5)], dsts := pairRegs d } = true →
        ∃ (t : State) (v : Dword), exec (.fidrd x sel clr i d) s = .next t ∧ SameBytes s t
          ∧ Goes s t f [(d.toNat, v.extractLsb' 0 32), (d.toNat + 1, v.extractLsb' 32 32)] []
          ∧ (match sel with
            | .exceed => v = BitVec.ofNat 64 ((s.fid i.toNat).exceed + if (s.fid i.toNat).flag then 2 ^ 32 else 0)
            | .cnt => v = BitVec.ofNat 64 (s.fid i.toNat).cnt
            | .flags => ∀ j, j < 64 → v.getLsbD j = (decide (j < 16) && (s.fid j).flag))
          ∧ ∀ j, j < 16 → sget (t.troop (troopOf s.x)).fid {} j = match sel with
            | .exceed => if clr ∧ j = i.toNat then { s.fid j with exceed := 0, flag := false } else s.fid j
            | .cnt => if clr ∧ j = i.toNat then { s.fid j with cnt := 0 } else s.fid j
            | .flags => if clr then { s.fid j with flag := false } else s.fid j

/-- R348, R349, R351: `binit` writes a buoy in phase 0 with its arrivals; `barrive` takes one arrival and its bytes
off and `bdue` adds arrivals and bytes, each in one update, and the phase flips and the arrivals reload when none and
no byte are left; `bwait` returns the status word once the phase differs from the one it names, and waits till then. A
wait is the model's retry (log 6). -/
def Obligations.BuoyInstructions : Prop :=
  ∀ (x : XG) (d a : Reg) (b : RSrc) (k : Byte) (s : State),
    let t := troopOf s.x
    let off := (s.rd a.toNat).toNat
    let n := s.rsrc b
    let old := s.buoyAt t off
    let v := buoyOf old
    let f := extFr x false
    let flips (w : Buoy) : Buoy := if w.pending = 0 ∧ w.bytes = 0 then { w with phase := (!w.phase), pending := w.expected } else w
    let sets (i : Instr) (w : Nat) : Prop := ∃ u, exec i s = .next u ∧ GoesWith s u f [] [] t off (leBytes 16 w)
    (s.ready f { srcs := a.toNat :: rsrcRegs b } = true → s.objClear false off 16 true = true →
      (1 ≤ n.toNat → n.toNat ≤ 32767 → s.objNamed t false off = false → sets (.binit x a b) (n.toNat * 2 + n.toNat * 2 ^ 16))
      ∧ (n.toNat = 0 ∨ 32767 < n.toNat → exec (.binit x a b) s = .next ((s.readAcquire (a.toNat :: rsrcRegs b)).illegalOp f 3))
      ∧ (buoyValid old = true →
        sets (.barrive x a b) (buoyNat (flips { v with pending := v.pending - 1, isOver := v.isOver || v.pending == 0, bytes := v.bytes - n }))
        ∧ sets (.bdue x a b k) (buoyNat (flips { v with pending := min (v.pending + k.toNat) 32767, isOver := v.isOver || decide (32767 < v.pending + k.toNat), bytes := v.bytes + n }))))
    ∧ (s.ready f { srcs := a.toNat :: rsrcRegs b, dsts := [d.toNat] } = true → s.objClear false off 16 false = true → buoyValid old = true →
      (v.phase ≠ n.getLsbD 0 → s.dueEn (fun e => e.obj == some (false, off)) = [] → ∃ u, exec (.bwait x d a b) s = .next u ∧ SameBytes s u
          ∧ Goes s u f [(d.toNat, BitVec.ofNat 32 ((if v.fault then 1 else 0) + (if v.bad then 2 else 0) + if v.isOver then 4 else 0))] [])
      ∧ (v.phase = n.getLsbD 0 → exec (.bwait x d a b) s = .next (((s.readAcquire (a.toNat :: rsrcRegs b)).park .retry).chanTouch t off 16)))

/-- R305-R307: a spawn joins its eight words to the bin of its key, which is due at 32 requests, taking a free bin
where the key has none, and writes true; with no room it writes false and changes nothing else. `spawn` names its key
by the entry address, a key nobody uses being ILLEGAL_OPERAND; `pdkey.flush` makes a bin with requests due. -/
def Obligations.PaddockRequests : Prop :=
  ∀ (g : Guard) (x : XG) (pd : PReg) (a b : Reg) (k : BitVec 4) (s : State), a.toNat ≤ 120 →
    let p := troopOf s.x
    let words := (List.range 8).map (fun i => s.rd (a.toNat + i))
    let regs := regRange a.toNat 8
    let joins (i : Instr) (f : Fr) (key : Nat) : Prop :=
      (s.binOf p key = none → s.freeBin (coreOf s.x) = none → Computes i s f [] [(pd, false)])
      ∧ (∀ n, s.binOf p key = none → s.freeBin (coreOf s.x) = some n → ∃ t, exec i s = .next t ∧ Goes s t f [] [(pd, true)] ∧ SameBytes s t
          ∧ ∃ w, sfind (t.core (coreOf s.x)).bins n = some w ∧ w.troop = p ∧ w.key = key ∧ w.reqs = [words] ∧ w.due = false)
      ∧ (∀ n w, s.binOf p key = some (n, w) →
          (32 ≤ w.reqs.length → Computes i s f [] [(pd, false)])
          ∧ (w.reqs.length < 32 → ∃ t, exec i s = .next t ∧ Goes s t f [] [(pd, true)] ∧ SameBytes s t
              ∧ ∃ v, sfind (t.core (coreOf s.x)).bins n = some v ∧ v.reqs = w.reqs ++ [words] ∧ v.due = (w.due || w.reqs.length == 31)))
    (s.ready (extFr x false) { ops := [(decide (a.toNat ≤ 120), 2)], srcs := regs } = true →
      (keyEntry (s.paddockKey k.toNat) ≠ 0 → joins (.spawnX x pd a k) (extFr x false) k.toNat)
      ∧ (keyEntry (s.paddockKey k.toNat) = 0 → exec (.spawnX x pd a k) s = .next ((s.readAcquire regs).illegalOp (extFr x false) 3)))
    ∧ (s.ready (baseFr g false) { ops := [(decide (a.toNat ≤ 120), 2), (pairOk b, 3)], srcs := regs ++ pairRegs b } = true →
      let e := (s.rd64 b.toNat).toNat
      (∀ key, key < 16 → e ≠ 0 → keyEntry (s.paddockKey key) = e → (∀ j, j < key → keyEntry (s.paddockKey j) ≠ e) →
        joins (.spawn g pd a b) (baseFr g false) key)
      ∧ ((∀ j, j < 16 → keyEntry (s.paddockKey j) ≠ e) → exec (.spawn g pd a b) s = .next ((s.readAcquire (regs ++ pairRegs b)).illegalOp (baseFr g false) 3)))
    ∧ (s.ready (extFr x false) {} = true →
      (s.binOf p k.toNat = none → Computes (.pdkeyFlush x k) s (extFr x false) [] [])
      ∧ ∀ n w, s.binOf p k.toNat = some (n, w) → w.reqs ≠ [] → ∃ t, exec (.pdkeyFlush x k) s = .next t ∧ Goes s t (extFr x false) [] []
          ∧ SameBytes s t ∧ ∃ v, sfind (t.core (coreOf s.x)).bins n = some v ∧ v.due = true ∧ v.reqs = w.reqs)

/-! ## Engine and KV commands (spec/12_engines.md R251-R258, R263, spec/11_kv_space.md R238-R246) -/

/-- R20, R252, R255-R258, R263, R323: a command whose record, alignment, offsets, pieces and addresses pass R256's
tests joins its engine's queue with the operands it was given and the troop's next sequence number, counts in EN,
takes a range-scoreboard entry, and its strand goes on with nothing written; `lrec` installs a record that R252
accepts. -/
def Obligations.EngineCommandsEnterQueues : Prop :=
  ∀ (v : XA) (ring : Bool) (d a b e : Reg) (h : BitVec 4) (lw : BitVec 20) (s : State), s.myCrew.sq = [] → (∀ a n, s.bankOut (coreOf s.x) (.spm (troopOf s.x)) a n = false) →
    let p := troopOf s.x
    let f := extFr v.x false
    let off := if ring then 0 else (s.rd d.toNat).toNat
    let obj := (s.rd e.toNat).toNat
    let fits (n : Nat) (here : Bool) : Prop := s.spmIn p obj (objBytes ring) = true ∧ obj % objBytes ring = 0
      ∧ (ring = false → off % 32 = 0 ∧ (here = true → s.spmIn p off n = true)) ∧ (ring = true → ∀ at_ m z, s.ringArea obj = some (at_, m, z) → n ≤ z)
    let room (xf : Bool) : Prop := s.cmdRoom xf = true ∧ s.myCrew.en < 63 ∧ s.tokRoom (crewOf s.x) v.tok = true
      ∧ s.scoreRoom p s.myTroop.opseq s.x = true
    let enters (i : Instr) (queue : Core → List EngOp) (holds : EngOp → Prop) : Prop :=
      ∃ t, exec i s = .next t ∧ GoesTok s t f ∧ SameBytes s t ∧ (t.crew (crewOf s.x)).en = s.myCrew.en + 1
        ∧ (t.troop p).opseq = s.myTroop.opseq + 1 ∧ (t.core (coreOf s.x)).score.length = s.myCore.score.length + 1
        ∧ ∃ q, queue (t.core (coreOf s.x)) = queue s.myCore ++ [q] ∧ q.sub = i ∧ q.troop = p ∧ q.strand = s.x ∧ q.opid = s.myTroop.opseq
          ∧ q.active = false ∧ q.dst = off ∧ q.obj = obj ∧ q.objRing = ring ∧ q.tok = v.tok.map (·.toNat) ∧ holds q
    (let streams (i : Instr) (k : SKind) (c : Chk) (list : Nat) (mask : BitVec 64) : Prop :=
       s.ready f c = true → room false → ∀ r, sfind s.myTroop.recs h.toNat = some r →
       let t := trecOf r
       let total := t.b0 * t.b1 * t.b2 * t.es
       let co := s.coords a
       fits total (k != .mc) → (k.indexed = true → list % 4 = 0 ∧ s.spmIn p list (4 * t.b1) = true) →
       (k = .mc → 1 ≤ (onesOf mask).length ∧ (onesOf mask).length ≤ 12) → (k ≠ .ld → t.cmode = false) →
       (t.cmode = true → co.getD 0 0 * t.es % 4096 = 0 ∧ (t.badlist ≠ noList → s.spmIn p t.badlist (4 + 4 * t.badcap) = true)) →
       copyAddrBad t co k.indexed = 0 →
       enters i Core.sqe (fun q => q.record = r ∧ q.handle = h.toNat ∧ q.coords = co ∧ q.src = list ∧ q.mask = mask)
     let ck (b : List Nat) : Chk := { role := s.isStreamer, ops := [(coordOk a, 2), (true, 3)], srcs := (if ring then [] else [d.toNat]) ++ coordRegs a ++ b ++ [e.toNat] }
     streams (.copyLd v ring d a e h) .ld (ck []) 0 0
     ∧ (ring = false → streams (.copySt v d a e h) .st (ck []) 0 0)
     ∧ (ring = false → streams (.copymc v d a b e h lw) .mc { ck (pairRegs b) with ops := [(coordOk a, 2), (pairOk b, 3)] } 0 (s.rd64 b.toNat))
     ∧ streams (.gather v ring d a b e h) .gather (ck [b.toNat]) (s.rd b.toNat).toNat 0
     ∧ (ring = false → streams (.scatter v d a b e h) .scatter (ck [b.toNat]) (s.rd b.toNat).toNat 0))
    ∧ (∀ op : XfOp, s.ready f { role := s.isAccess, ops := [(op != .pack || pairOk b, 3)], srcs := (if ring then [] else [d.toNat]) ++ [a.toNat] ++ (if op = .pack then pairRegs b else []) ++ [e.toNat] } = true → room true →
        let src := (s.rd a.toNat).toNat
        let ds : Dword := if op = .pack then s.rd64 b.toNat else 0
        ∀ r, (xfHandle op = true → sfind s.myTroop.recs h.toNat = some r) → (xfHandle op = false → r = 0) →
        let z := xfSizes op (trecOf r) ds (if xfReadsHeader op && s.spmIn p src 32 then s.headerAt p src else none)
        fits z.2 true → src % 32 = 0 → s.spmIn p src z.1 = true → (xfReadsHeader op = true → s.spmBlocked p src 32 false = false) →
        (op = .pack → s.packDescOk ds = true ∧ s.spmIn p (dsScOff ds) (dsScaleBytes ds) = true) → (op = .tr → (trecOf r).b2 = 1) →
        (ring = false → ivalMeet (src, src + z.1) (off, off + z.2) = false ∨ (op = .zmap ∧ off = src)) →
        enters (.xform v ring op d a b e h) Core.xqe (fun q => q.record = r ∧ q.src = src ∧ q.desc = ds))
    ∧ (∀ (x : XG) (n : BitVec 4), s.ready (extFr x false) { role := s.isAccess, srcs := [a.toNat] } = true →
        let o := (s.rd a.toNat).toNat
        o % 64 = 0 → s.spmIn p o 64 = true → s.spmBlocked p o 64 false = false → s.errRead (some p) o 64 = none →
        let r : BitVec 512 := BitVec.ofNat 512 (mnat s.myTroop.spm o 64)
        (trecOk r = true → ∃ t, exec (.lrec x a n) s = .next t ∧ Goes s t (extFr x false) [] [] ∧ SameBytes s t
            ∧ sfind (t.troop p).recs n.toNat = some r ∧ ∀ m, m ≠ n.toNat → sfind (t.troop p).recs m = sfind s.myTroop.recs m)
        ∧ (trecOk r = false → exec (.lrec x a n) s = .next ((s.readAcquire [a.toNat]).illegalOp (extFr x false) 2)))

/-- R238, R240, R242-R244, R246: KV commands of a crew that may issue them join the KV engine's queue with the
operands they were given; `kvopen` of a valid sequence of this package binds the lowest free handle, a writer only
where the sequence has none; `kvlen` reads a sequence's count; `kvclose` frees a handle no queued op names. The
polarity of the free bitmap and the places of log 15 are the model's. -/
def Obligations.KvInstructions : Prop :=
  ∀ (v : XA) (x : XG) (pub ring wr : Bool) (part : KvPart) (d a b e : Reg) (n : BitVec 9) (s : State), s.myCrew.sq = [] → (∀ a n, s.bankOut (coreOf s.x) (.spm (troopOf s.x)) a n = false) →
    let p := troopOf s.x
    let f := extFr v.x false
    let g := extFr x false
    let w := s.rd a.toNat
    let obj := (s.rd e.toNat).toNat
    let enters (i : Instr) (entries : Nat) (holds : KvOp → Prop) : Prop :=
      s.kvRoom = true → s.myCrew.en < 63 → s.tokRoom (crewOf s.x) v.tok = true → (entries = 0 ∨ s.scoreRoom p s.myTroop.opseq s.x = true) →
      ∃ t, exec i s = .next t ∧ GoesTok s t f ∧ SameBytes s t ∧ (t.crew (crewOf s.x)).en = s.myCrew.en + 1
        ∧ (t.troop p).opseq = s.myTroop.opseq + 1 ∧ (t.core (coreOf s.x)).score.length = s.myCore.score.length + entries
        ∧ ∃ q, (t.core (coreOf s.x)).kq = s.myCore.kq ++ [q] ∧ q.sub = i ∧ q.troop = p ∧ q.strand = s.x ∧ q.opid = s.myTroop.opseq
          ∧ q.active = false ∧ q.tok = v.tok.map (·.toNat) ∧ holds q
    (∀ k bd, s.streamOf w = some (k, bd) →
      (s.ready f { role := s.isAccess, srcs := [d.toNat, a.toNat, e.toNat] } = true → bd.writer = true → w.extractLsb' 8 8 = 0 →
        (s.rd d.toNat).toNat % 32 = 0 → obj % 16 = 0 → s.spmIn p (s.rd d.toNat).toNat (bd.heads * 2 * n.toNat * bd.row) = true → s.spmIn p obj 16 = true →
        enters (.kvappend v pub d a e n) 1 (fun q => q.handle = k ∧ q.layer = w.toNat % 256 ∧ q.n = n.toNat ∧ q.dst = (s.rd d.toNat).toNat ∧ q.obj = obj))
      ∧ (s.ready f { role := s.isAccess, srcs := (if ring then [] else [d.toNat]) ++ [a.toNat, b.toNat, e.toNat] } = true →
        let dst := if ring then 0 else (s.rd d.toNat).toNat
        dst % 32 = 0 → obj % objBytes ring = 0 → s.spmIn p obj (objBytes ring) = true → (ring = false → s.spmIn p dst (gatherBytes bd part n.toNat) = true) →
        (ring = true → ∀ at_ m z, s.ringArea obj = some (at_, m, z) → gatherBytes bd part n.toNat ≤ z) →
        enters (.kvgather v part ring d a b e n) 1 (fun q => q.handle = k ∧ q.layer = w.toNat % 256 ∧ q.head = w.toNat / 256 % 256
          ∧ q.first = (s.rd b.toNat).toNat ∧ q.n = n.toNat ∧ q.dst = dst ∧ q.obj = obj ∧ q.objRing = ring)))
    ∧ (∀ k bd, s.handleOf w = some (k, bd) →
      (s.ready f { role := s.isAccess, srcs := [a.toNat, b.toNat] } = true → bd.writer = true →
        s.loadsIn = true → enters (.kvwin v a b) 0 (fun q => q.handle = k ∧ q.win = (s.rd b.toNat).toNat))
      ∧ (s.ready f { role := s.isAccess, srcs := [a.toNat] } = true → bd.writer = true → enters (.kvtrim v a) 0 (fun q => q.handle = k))
      ∧ (s.ready g { role := s.isAccess, srcs := [a.toNat] } = true →
        (s.kvBusy p k = false → bd.writer = false → ∃ t, exec (.kvclose x a) s = .next t ∧ Goes s t g [] [] ∧ SameBytes s t
            ∧ t.kvBind p k = none ∧ ∀ j, j ≠ k → t.kvBind p j = s.kvBind p j)
        ∧ (s.kvBusy p k = false → bd.writer = true → ∃ t, exec (.kvclose x a) s = .next t ∧ Goes s t g [] [] ∧ t.kvBind p k = none
            ∧ (bd.entry + 32 ≤ hbmTop → (sfind (s.slice (sliceOf (bd.entry / 128))).lines (bd.entry / 128)).isSome = true →
                ∀ pa, t.pbyte pa = if pa = bd.entry + 28 then s.pbyte pa &&& 0xFE else s.pbyte pa))
        ∧ (s.kvBusy p k = true → exec (.kvclose x a) s = .next ((s.readAcquire [a.toNat]).park .retry)))
      ∧ (s.ready g { srcs := [a.toNat], dsts := [d.toNat] } = true → bd.pkg = s.pkg.toNat → bd.entry + 32 ≤ hbmTop → s.errRead none bd.entry 32 = none →
        bits (s.pnat bd.entry 32) 81 80 ≠ 3 → seqReservedOk (s.pnat bd.entry 32) = true → ∃ t, exec (.kvlen x d a) s = .next t ∧ Goes s t g [(d.toNat, BitVec.ofNat 32 (s.pnat bd.entry 4))] []
          ∧ ((sfind (s.slice (sliceOf (bd.entry / 128))).lines (bd.entry / 128)).isSome = true → SameBytes s t)))
    ∧ (s.ready g { role := s.isAccess, srcs := [a.toNat], dsts := [d.toNat] } = true →
      let root : Dword := BitVec.ofNat 64 s.myLaunch.kvroot
      let q := w.toNat % 2 ^ 20
      let at_ := seqAddr root q
      let val := s.pnat at_ 32
      w.extractLsb' 28 4 = 0 → (w.extractLsb' 20 8).toNat = s.pkg.toNat → root ≠ 0 → q < 2 ^ rootLgn root → at_ + 32 ≤ hbmTop →
      s.errRead none at_ 32 = none → val.testBit 84 = true → bits val 81 80 ≠ 3 → seqReservedOk val = true →
      let answers (r : Word) (k : Option Nat) : Prop := ∃ t, exec (.kvopen x wr d a) s = .next t ∧ Goes s t g [(d.toNat, r)] []
        ∧ (∀ j, t.kvBind p j = if k = some j then some (bindOf s.pkg.toNat q root wr val) else s.kvBind p j)
        ∧ ((sfind (s.slice (sliceOf (at_ / 128))).lines (at_ / 128)).isSome = true →
            ∀ pa, t.pbyte pa = if wr = true ∧ k.isSome = true ∧ pa = at_ + 28 then s.pbyte pa ||| 1 else s.pbyte pa)
      ((∀ j, j < 16 → s.kvBind p j ≠ none) → answers 0xFFFFFFFF none)
      ∧ ∀ k, k < 16 → s.kvBind p k = none → (∀ j, j < k → s.kvBind p j ≠ none) →
          (wr = true → val.testBit 224 = true → answers 0xFFFFFFFE none)
          ∧ (wr = false ∨ val.testBit 224 = false → answers (BitVec.ofNat 32 k) (some k)))

/-! ## The memory system's own steps (spec/10_memories.md R206-R217, R226, spec/15_tables.md R333-R340) -/

/-- R212-R217, R226: a filter window that has run out ends, and the oldest merge window; a pin request is granted
where an entry is free, its function's quota has room and no pin covers its pages, and refused otherwise, a release
ends the pin it names, and the answer goes to the strand's predicate; a faded pin ends and is reported; an idle timer
that has run out closes its bank, unless a request that hits the open row is queued, and a refresh all banks of its
stack; critical temperature puts the stack in self-refresh and freezes every context until no stack is critical. No
byte of memory changes. -/
def Obligations.MemorySystemSteps : Prop :=
  ∀ s : State, let n := s.ev.unit
    let slices (t : State) : Prop := (∀ m, m ≠ n → t.slice m = s.slice m) ∧ { t with slices := s.slices } = s
    let stacks' (t : State) : Prop := ∀ m, m ≠ n → sget t.hbmStacks {} m = sget s.hbmStacks {} m
    (2 ^ (s.slice n).filtwin ≤ (s.slice n).misses → ∃ t, exec .filterWindowEnd s = .next t ∧ SameBytes s t ∧ slices t
        ∧ t.slice n = { s.slice n with filter := [], misses := 0 })
    ∧ (∀ l rest, (s.slice n).merging = l :: rest → ∃ t, exec .mergeWindowEnd s = .next t ∧ SameBytes s t ∧ slices t
        ∧ t.slice n = { s.slice n with merging := rest })
    ∧ (∀ r rest, s.pinReqs = r :: rest → s.still (coreOf r.strand) = false → s.alive r.strand = true →
        (s.strand r.strand).life ≠ .saved →
        let mine := { s with cur := { strand := r.strand } }
        let answers (ok : Bool) (t : State) : Prop := exec .pinRequestServe s = .next t ∧ SameBytes s t ∧ t.pinReqs = rest
          ∧ Goes mine t ⟨7, false, r.len⟩ [] [(BitVec.ofNat 3 r.pdst, ok)]
        let func := s.funcOf r.asid
        (r.release = false → ∀ i, i < 64 → sfind s.pins i = none → (∀ j, j < i → sfind s.pins j ≠ none) →
          (s.pins.countP (fun p => p.2.func == func) < sget s.quotas 64 func →
              (∀ p ∈ s.pins, (p.2.fade = 0 ∨ p.2.counter ≠ 0) → ∀ a ∈ p.2.pages, a ∉ r.pages) →
            ∃ t, answers true t ∧ (∀ j, j ≠ i → sfind t.pins j = sfind s.pins j) ∧ sfind t.pins i = some { func := func, asid := r.asid, counter := r.fade, unit := r.unit, fade := r.fade, units := r.units, vbase := r.va, pages := r.pages })
          ∧ (sget s.quotas 64 func ≤ s.pins.countP (fun p => p.2.func == func)
                ∨ (∃ p ∈ s.pins, (p.2.fade = 0 ∨ p.2.counter ≠ 0) ∧ ∃ a ∈ p.2.pages, a ∈ r.pages) →
              ∃ t, answers false t ∧ t.pins = s.pins))
        ∧ (r.release = false → (∀ i, i < 64 → sfind s.pins i ≠ none) → ∃ t, answers false t ∧ t.pins = s.pins)
        ∧ (r.release = true → (∀ p ∈ s.pins, p.2.asid = r.asid → r.va < p.2.vbase ∨ p.2.vbase + 65536 * p.2.units ≤ r.va) →
            ∃ t, answers false t ∧ t.pins = s.pins)
        ∧ (r.release = true → ∀ i p, s.pins = [(i, p)] → p.fade = 0 ∨ p.counter ≠ 0 → p.asid = r.asid → p.vbase ≤ r.va → r.va < p.vbase + 65536 * p.units →
            ∃ t, answers true t ∧ t.pins = []))
    ∧ (∀ p, sfind s.pins s.ev.item = some p → p.fade ≠ 0 → p.counter = 0 → s.mevq.length < 4096 →
        ∃ t, exec .pinFadeExpiry s = .next t ∧ SameBytes s t ∧ sfind t.pins s.ev.item = none
          ∧ (∀ j, j ≠ s.ev.item → sfind t.pins j = sfind s.pins j) ∧ t.mevq = s.mevq ++ [devRecord 6 p.func 0 s.ev.item]
          ∧ ∀ m l v, sfind (t.slice m).lines l = some v → p.pages.contains (l / 32) = true → v.pinned = false)
    ∧ (∀ row, sfind (sget s.hbmStacks {} n).open_ s.ev.item = some row →
        (0 < sget (sget s.hbmStacks {} n).timers 0 s.ev.item ∨ s.rowQueued n s.ev.item row = true → exec .pageIdleTimer s = .next s)
        ∧ (sget (sget s.hbmStacks {} n).timers 0 s.ev.item = 0 → s.rowQueued n s.ev.item row = false → ∃ t, exec .pageIdleTimer s = .next t ∧ SameBytes s t ∧ stacks' t
        ∧ sfind (sget t.hbmStacks {} n).open_ s.ev.item = none
        ∧ ∀ b, b ≠ s.ev.item → sfind (sget t.hbmStacks {} n).open_ b = sfind (sget s.hbmStacks {} n).open_ b))
    ∧ (n < 12 → ∃ t, exec .hbmRefresh s = .next t ∧ SameBytes s t ∧ stacks' t ∧ sget t.hbmStacks {} n = { sget s.hbmStacks {} n with open_ := [], timers := [] })
    ∧ (n < 12 → (sget s.hbmStacks {} n).selfRef = false → s.mevq.length < 4096 → ∃ t, exec .thermalCritical s = .next t ∧ t.frozen = true ∧ stacks' t
        ∧ sget t.hbmStacks {} n = { sget s.hbmStacks {} n with selfRef := true, open_ := [], timers := [] }
        ∧ t.mevq = s.mevq ++ [devRecord 3 (8 + n) 0 2] ∧ (∀ a, t.pbyte a = s.pbyte a) ∧ t.strands = s.strands ∧ t.troops = s.troops)
    ∧ ((sget s.hbmStacks {} n).selfRef = true → ∃ t, exec .thermalResume s = .next t ∧ stacks' t
        ∧ sget t.hbmStacks {} n = { sget s.hbmStacks {} n with selfRef := false }
        ∧ t.frozen = (s.frozen && t.hbmStacks.any (fun e => e.2.selfRef)) ∧ (∀ a, t.pbyte a = s.pbyte a) ∧ t.strands = s.strands ∧ t.troops = s.troops)

/-- R206, R334-R339, R365, R399: the oldest key of a die is served by its TLB, or starts a walk; a walk reads the
table entry of each level, from the root or a pointer its die's walk cache holds, and ends in the page of its leaf,
which enters the TLBs and frees the key, or hands its fault, found from the root, with a tag to the dispatch
controller; the controller's answer lets the key walk again, or refuses it, and the strands that wait for it take the
fault. An invalidation takes the covered translations from the TLBs, the walk caches and waiting accesses at once, and
is over when no access by them is left. A resolved fault walks its key again (log 22); the contents of the walk cache
are log 7. -/
def Obligations.AddressTranslation : Prop :=
  ∀ s : State, let d := s.ev.unit
    (∀ w rest, (s.die d).keys = w :: rest → s.still (64 * d) = false → (s.die d).walks.length < 1024 →
        (∀ t ∈ (s.die d).tlb, (t.covers w.asid (w.page * 4096) && t.grants w.need) = false) →
        ∃ t, exec .walkStart s = .next t ∧ SameBytes s t ∧ t.strands = s.strands ∧ (t.die d).keys = rest ∧ (t.die d).walks = (s.die d).walks ++ [w])
    ∧ (∀ w, (s.die d).walks[s.ev.item]? = some w → s.still (64 * d) = false →
        let found := s.dieWalk d w.asid w.page w.need
        (∀ r, found.fin = .fault r → (s.die d).devq.length < 4096 → ∃ t, exec .walkComplete s = .next t ∧ SameBytes (s.walkTouch found.reads) t
            ∧ t.strands = s.strands ∧ s.walk w.asid w.page w.need = .fault r
            ∧ (t.die d).wfaults = (s.die d).wfaults ++ [{ tag := (s.die d).nextTag, asid := w.asid, page := w.page, need := w.need, reason := r, cores := w.cores }]
            ∧ (t.die d).walks = (s.die d).walks.erase w ∧ (t.die d).devq = (s.die d).devq ++ [devRecord 4 s.ev.item (s.die d).nextTag 0])
        ∧ (∀ p, found.fin = .page p → ∃ t, exec .walkComplete s = .next t ∧ SameBytes (s.walkTouch found.reads) t
            ∧ (∀ x, { t.strand x with xl := (s.strand x).xl } = s.strand x) ∧ p ∈ (t.die d).tlb ∧ (p.covers w.asid (w.page * 4096) = true → w ∉ (t.die d).walks
                ∧ ∀ k ∈ w.cores, ¬({ asid := w.asid, page := w.page } : Miss) ∈ (t.core k).miss))
        ∧ (found.fin = .reserved → exec .walkComplete s = .fault .reservedPhysical))
    ∧ (∀ asid page need, (s.die d).wcache = [] → (s.dieWalk d asid page need).fin = s.walk asid page need)
    ∧ (∀ (asid page need lvl table : Nat), let a := table + 8 * (page * 4096 / 2 ^ (12 + 9 * lvl) % 512)
        let e := s.pnat a 8
        a + 8 ≤ hbmTop →
        (e.testBit 0 = false → s.walkFrom asid (page * 4096) need (lvl + 1) table = .fault 2)
        ∧ (e.testBit 0 = true → bits e 55 52 = 0 → e.testBit 5 = false → s.errRead none a 8 = none →
            (e.testBit 1 = false → bits e 63 56 = 0 → bits e 11 6 = 0 → bits e 4 2 = 0 →
              s.walkFrom asid (page * 4096) need (lvl + 1) table = s.walkFrom asid (page * 4096) need lvl (bits e 51 12 * 4096))
            ∧ (e.testBit 1 = true → bits e 7 6 < 2 → bits e 63 56 = 0 → sizeAt lvl (bits e 10 8) = true →
                bits e 51 12 * 4096 % pageBytes (bits e 10 8) = 0 →
                let leaf : Tlb := { asid := asid, vbase := page * 4096 / pageBytes (bits e 10 8) * pageBytes (bits e 10 8), size := bits e 10 8, pa := bits e 51 12 * 4096, tgt := bits e 7 6, pkg := 0, nocache := e.testBit 11, r := e.testBit 2, w := e.testBit 3, x := e.testBit 4 }
                s.walkFrom asid (page * 4096) need (lvl + 1) table = if leaf.grants need then .page leaf else .fault 5)))
    ∧ (∀ f, d < 8 → (s.ctl d).machine = true → (s.die d).wfaults = [f] → f.tag = s.ev.value.toNat % 65536 →
        (s.ev.value.getLsbD 16 = true → ∃ t, exec .faultrespWrite s = .next t ∧ SameBytes s t ∧ t.strands = s.strands ∧ (t.die d).wfaults = []
            ∧ (t.die d).keys = (s.die d).keys ++ [{ asid := f.asid, page := f.page, need := f.need, cores := f.cores }])
        ∧ (s.ev.value.getLsbD 16 = false → ∀ k, f.cores = [k] → (s.core k).sqe = [] → (s.core k).xqe = [] →
            ∃ t, exec .faultrespWrite s = .next t ∧ SameBytes s t ∧ (t.die d).wfaults = []
              ∧ ∀ x need, (s.strand x).life = .parked → (s.strand x).wait = .key f.asid f.page need →
                  coreOf x = k → (sfind s.strands x).isSome = true →
                  (t.strand x).refused = some (f.asid, f.page, f.reason)))
    ∧ ((s.ctl 8).machine = true → s.ev.value.getLsbD 0 = true → s.invBusy = false → ∃ t, exec .invgoWrite s = .next t ∧ SameBytes s t
        ∧ t.invBusy = true ∧ t.invFor = none
        ∧ (let gone (e : Tlb) : Prop := invMeets (s.invas.toNat % 64) (s.invva.toNat % 2 ^ 57) s.invlen.toNat e.asid e.vbase (pageBytes e.size) = true
           (∀ k e, e ∈ (t.core k).tlb → ¬gone e) ∧ (∀ m e, e ∈ (t.die m).tlb → ¬gone e) ∧ (∀ x e, e ∈ (t.strand x).xl → ¬gone e)
           ∧ (∀ k o e, o ∈ (t.core k).sqe → e ∈ o.xl → ¬gone e)
           ∧ ∀ m w, w ∈ (t.die m).wcache → invMeets (s.invas.toNat % 64) (s.invva.toNat % 2 ^ 57) s.invlen.toNat w.asid (w.pre * 2 ^ (21 + 9 * w.lvl)) (2 ^ (21 + 9 * w.lvl)) = false))
    ∧ (s.invBusy = true → s.oldLeft (s.invas.toNat % 64) (s.invva.toNat % 2 ^ 57) s.invlen.toNat = false → ∃ t, exec .invalidationComplete s = .next t
        ∧ SameBytes s t ∧ t.invBusy = false ∧ t.invFor = none ∧ ∀ f, s.invFor = some f → Signals s t f 0
          ∧ t.mbxAt f = { s.mbxAt f with stat := BitVec.ofNat 32 ((s.mbxAt f).tag * 2 ^ 16) })

/-! ## Engine and KV ops as they run (spec/12_engines.md R257-R265, spec/11_kv_space.md R240-R248) -/

/-- R257-R265, R349, R363: an op that is due starts, claiming its ring's slot or reading its index list; a row outside
the tensor is fill; a segment's bytes land at their place in the destination and are credited to the buoy in one
update, with the arrival at the last; a `copymc` box lands in its receiver's partition and is credited there, with
status bit 0 where the op has failed; an error read at a landing ends the op; a write to another package is awaited
until its acknowledgement; a finished op with none outstanding leaves its queue, EN of its crew falls, and its fault,
if any, waits for its strand: its buoy takes the bytes not credited, the arrival and status bit 0 in one update, and a
`copymc`'s the arrival. Bytes the spec leaves undefined are free (log 3); the details of log 25 are the model's. -/
def Obligations.EngineOpsRun : Prop :=
  ∀ (s : State) (o : EngOp), let k := s.ev.unit
    let xf := isXf s.ev.eng
    let p := o.troop
    let t0 := trecOf o.record
    s.liveOp k xf s.ev.item = some o →
    let opIs (t : State) (q : EngOp) : Prop := t.liveOp k xf s.ev.item = some q
    (s.engineDue k xf o = true →
      (isIndexed o.sub = false → o.objRing = false → ∃ t, exec .engineOpStart s = .next t ∧ SameBytes s t ∧ t.strands = s.strands ∧ opIs t { o with active := true })
      ∧ (isIndexed o.sub = false → o.objRing = true → s.objFault p o.obj 32 (ringValid (s.spmSize p) (s.ringAt p o.obj)) = none →
          let r := ringOf (s.ringAt p o.obj)
          ∃ t, exec .engineOpStart s = .next t ∧ t.strands = s.strands
            ∧ opIs t { o with active := true, slot := r.wi % r.n, dst := r.base + r.wi % r.n * r.slotBytes }
            ∧ (∀ pa, t.pbyte pa = s.pbyte pa) ∧ ∀ q a, mbyte (t.troop q).spm a = if q = p ∧ o.obj ≤ a ∧ a < o.obj + 32
                then (leBytes 32 (ringNat { r with wi := (r.wi + 1) % (2 * r.n) })).getD (a - o.obj) 0 else mbyte (s.troop q).spm a)
      ∧ (isIndexed o.sub = true → o.objRing = false → s.spmIn p o.src (4 * t0.b1) = true → s.errRead (some p) o.src (4 * t0.b1) = none →
          ∃ t, exec .engineOpStart s = .next t ∧ SameBytes s t ∧ t.strands = s.strands
            ∧ opIs t { o with active := true, idx := (chunks 4 (mread (s.troop p).spm o.src (4 * t0.b1)) t0.b1).map (fun w => sextInt 32 w) }))
    ∧ (o.run o.seg = none → s.loadRow k o s.ev.data = .ok (t0.fillBytes (t0.b0 * t0.es), s))
    ∧ (∀ va n pc, s.vrange k (s.asidOf p) needR o.xl va n = .ok [pc] → pc.t = .dev → s.pieceHeld k clsEng pc = false → s.errRead none pc.a pc.n = none →
        ∃ s1, s.vload k (s.asidOf p) o.xl va n s.ev.data = .ok (s.pread pc.a pc.n, s.ev.data, s1) ∧ s1.troops = s.troops)
    ∧ (o.running = true → o.seg < o.segs → isCopymc o.sub = false → o.objRing = false → s.objFault p o.obj 16 (buoyValid (s.buoyAt p o.obj)) = none →
        let b := buoyOf (s.buoyAt p o.obj)
        let buoy (n : Nat) : Nat := buoyNat (buoySub { b with bad := b.bad || o.bad } (if o.seg + 1 = o.segs then 1 else 0) (BitVec.ofNat 32 n))
        let credited (t : State) (n : Nat) (q at_ : Nat) (bs : List Byte) : Prop := t.strands = s.strands
          ∧ opIs t { o with seg := o.seg + 1, credited := o.credited + n, xl := [] }
          ∧ ∀ r a, mbyte (t.troop r).spm a = if r = p ∧ o.obj ≤ a ∧ a < o.obj + 16 then (leBytes 16 (buoy n)).getD (a - o.obj) 0
              else if r = q ∧ at_ ≤ a ∧ a < at_ + bs.length then bs.getD (a - at_) 0 else mbyte (s.troop r).spm a
        (∀ bs s1, isXf s.ev.eng = false → xfOf o.sub = none → isStoreOp o.sub = false → t0.cmode = false → s.loadRow k o s.ev.data = .ok (bs, s1) →
            o.obj + 16 ≤ o.place ∨ o.place + bs.length ≤ o.obj →
            ∃ t, exec .engineSegmentComplete s = .next t ∧ credited t bs.length p o.place bs)
        ∧ (∀ op bs, xfOf o.sub = some op → s.xformOut o op = .ok bs → s.spmIn p o.dst bs.length = true →
            o.obj + 16 ≤ o.dst ∨ o.dst + bs.length ≤ o.obj →
            ∃ t, exec .engineSegmentComplete s = .next t ∧ credited t bs.length p o.dst bs ∧ ∀ pa, t.pbyte pa = s.pbyte pa))
    ∧ (isXf s.ev.eng = false → isCopymc o.sub = true → o.active = true → o.seg = o.segs ∨ o.failed = true → s.ev.aux ∈ o.todo → s.landWaits o s.ev.aux = false →
        let left := o.todo.filter (· != s.ev.aux)
        (∀ q base b, s.landing o s.ev.aux = .ok (q, base, b) →
            let n := if o.failed then t0.b0 * t0.b1 * t0.b2 * t0.es else o.result.length
            let theirs := buoyOf (s.buoyAt q b)
            b + 16 ≤ base ∨ base + n ≤ b →
            ∃ t, exec .copymcLanding s = .next t ∧ t.strands = s.strands ∧ opIs t { o with todo := left } ∧ (∀ pa, t.pbyte pa = s.pbyte pa)
            ∧ ∀ r a, (o.failed = true → r = q → a < base ∨ base + n ≤ a) → mbyte (t.troop r).spm a = if r = q ∧ b ≤ a ∧ a < b + 16
                then (leBytes 16 (buoyNat (buoySub { theirs with fault := theirs.fault || o.failed } 1 (BitVec.ofNat 32 n)))).getD (a - b) 0
                else if r = q ∧ base ≤ a ∧ a < base + n then o.result.getD (a - base) 0 else mbyte (s.troop r).spm a)
        ∧ (∀ a, s.landing o s.ev.aux = .error (.ecc a) → o.failed = false → ∃ t, exec .copymcLanding s = .next t
            ∧ opIs t { o with todo := left, fault := some (0x12, engTval o, BitVec.ofNat 64 a), pfr := 0, susp := none, xl := [], failed := true, owed := s.opTotal o - o.credited })
        ∧ (∀ a, s.landing o s.ev.aux = .error (.spm a) → o.fault = none → ∃ t, exec .copymcLanding s = .next t ∧ SameBytes s t
            ∧ opIs t { o with todo := left, fault := some (0x0D, engTval o, BitVec.ofNat 64 a) }))
    ∧ (∀ q pkg va port, s.findReq k s.ev.item = none → s.findOut k s.ev.item = some (q, pkg, va, port) → s.findOp k false q.id = some q →
        s.ev.err = none → s.routeOk pkg = true → ∃ t, exec .storeAck s = .next t ∧ SameBytes s t ∧ t.strands = s.strands
          ∧ t.findOp k false q.id = some { q with outs := q.outs.filter (fun w => w.1 != s.ev.item) })
    ∧ (o.active = true → o.outs = [] → (isCopymc o.sub = true → o.todo = []) → s.hasCrew (crewOf o.strand) = true →
        let mine := buoyOf (s.buoyAt p o.obj)
        let lastUpdate (t : State) : Prop := o.objRing = false → s.objFault p o.obj 16 (buoyValid (s.buoyAt p o.obj)) = none →
          (∀ pa, t.pbyte pa = s.pbyte pa) ∧ ∀ r a, mbyte (t.troop r).spm a = if r = p ∧ o.obj ≤ a ∧ a < o.obj + 16
            then (leBytes 16 (buoyNat (buoySub { mine with fault := mine.fault || o.fault.isSome, bad := mine.bad || (o.bad && !isCopymc o.sub) } 1
              (if isCopymc o.sub then 0 else BitVec.ofNat 32 o.owed)))).getD (a - o.obj) 0 else mbyte (s.troop r).spm a
        (isCopymc o.sub = true → o.seg = o.segs ∨ o.fault ≠ none → ∃ t, exec .engineOpRetire s = .next t ∧ lastUpdate t)
        ∧ (o.fault = none → o.seg = o.segs → isCopymc o.sub = false → ∃ t, exec .engineOpRetire s = .next t ∧ SameBytes s t ∧ t.findOp k xf s.ev.item = none
            ∧ (t.strand o.strand).faults = (s.strand o.strand).faults
            ∧ (t.crew (crewOf o.strand)).en = (s.crew (crewOf o.strand)).en - 1
            ∧ ∀ w, o.tok = some w → (t.token (crewOf o.strand) w).cnt = (s.token (crewOf o.strand) w).cnt - 1)
        ∧ (∀ c v a, o.fault = some (c, v, a) → (s.strand o.strand).life ≠ .exited → ∃ t d, exec .engineOpRetire s = .next t ∧ lastUpdate t
            ∧ t.findOp k xf s.ev.item = none ∧ (t.strand o.strand).faults = (s.strand o.strand).faults ++ [d] ∧ d.cls = .en ∧ d.cause = c
            ∧ d.tval = v ∧ d.taddr = a ∧ d.tok = o.tok ∧ d.obj = some (o.objRing, o.obj)))

/-- R240-R246: of a sequence whose entry is well formed and can be reached, the oldest KV op of its troop starts by
reading count and window of its sequence, a gather counting itself in `gin`; a gather's segment writes the rows its
positions hold, zeros for those outside the window, and its last the mask; `kvwin`, once its core's earlier stores are
done, moves the window up within the count and flips the epoch once no gather of the older epoch is left; `kvtrim`
waits for the same; a finished op leaves its queue and EN of its crew falls, a publishing append having raised the
count. The readings of log 15 are the model's; that a gather empties the L1 when it starts is log 8, that `kvwin`
waits for its core's stores and loads log 13. -/
def Obligations.KvOpsRun : Prop :=
  ∀ (s : State) (o : KvOp) (b : KvBind), let k := s.ev.unit
    let p := o.troop
    s.liveKv k s.ev.item = some o → s.kvBind p o.handle = some b → b.pkg = s.pkg.toNat → b.entry + 32 ≤ hbmTop → s.errRead none b.entry 32 = none →
    (sfind (s.slice (sliceOf (b.entry / 128))).lines (b.entry / 128)).isSome = true →
    let v := s.pnat b.entry 32
    s.kheld b.pkg b.entry 32 = false → bits v 81 80 ≠ 3 → seqReservedOk v = true →
    let e := seqEpoch v
    let opIs (t : State) (q : KvOp) : Prop := t.liveKv k s.ev.item = some q
    let s0 := if s.ev.value.getLsbD 0 then s.dropKvCache p o.handle else s
    let entry (t : State) (w : Nat) : Prop := t.pnat b.entry 32 = w ∧ ∀ pa, pa < b.entry ∨ b.entry + 32 ≤ pa → t.pbyte pa = s.pbyte pa
    (s.kvDue k o = true → o.objRing = false → o.susp = none → o.fault = none → o.read = false →
      (isAppend o.sub = true → ∃ t, exec .kvOpStart s = .next t ∧ SameBytes s t ∧ opIs t { o with active := true, read := true, count := seqCount v, win0 := seqWin v, epoch := e, counted := false })
      ∧ (isGatherKv o.sub = true → ∃ t, exec .kvOpStart s = .next t ∧ entry t (seqSetGin v e (seqGin v e + 1))
          ∧ opIs t { o with active := true, read := true, count := seqCount v, win0 := seqWin v, epoch := e, counted := true } ∧ (t.core k).l1 = [])
      ∧ (isAppend o.sub = false → isGatherKv o.sub = false → ∃ t, exec .kvOpStart s = .next t ∧ SameBytes s t ∧ opIs t { o with active := true }))
    ∧ (o.running = true → o.read = true → isGatherKv o.sub = true → o.objRing = false → s.objFault p o.obj 16 (buoyValid (s.buoyAt p o.obj)) = none →
        let bu := buoyOf (s.buoyAt p o.obj)
        let segs := gatherSegs b o
        let lands (at_ : Nat) (bs : List Byte) (arrivals : Nat) : Prop := o.obj + 16 ≤ at_ ∨ at_ + bs.length ≤ o.obj → ∃ t, exec .kvSegmentComplete s = .next t
          ∧ opIs t { o with seg := o.seg + 1, credited := o.credited + bs.length }
          ∧ ∀ r a, mbyte (t.troop r).spm a = if r = p ∧ o.obj ≤ a ∧ a < o.obj + 16
              then (leBytes 16 (buoyNat (buoySub bu arrivals (BitVec.ofNat 32 bs.length)))).getD (a - o.obj) 0
              else if r = p ∧ at_ ≤ a ∧ a < at_ + bs.length then bs.getD (a - at_) 0 else mbyte (s.troop r).spm a
        (∀ sg, segs[o.seg]? = some sg →
          let r := groupRange b sg.2.2 o.first (o.first + o.n)
          (∀ bs s1, s0.gatherRows b o sg s.ev.data = .ok (bs, s1) → lands (gatherPlace b o sg).1 bs 0)
          ∧ (min r.2 o.count ≤ max r.1 o.win0 → s.gatherRows b o sg s.ev.data = .ok (List.replicate ((r.2 - r.1) * b.row) 0, s)))
        ∧ (o.seg = segs.length → o.n ≤ 256 → ∃ mask : List Byte, lands (o.dst + o.n * b.row * (kvPartsOf o.sub).length) mask 1 ∧ mask.length = 32
            ∧ ∀ j, j < 256 → (mask.getD (j / 8) 0).getLsbD (j % 8) = decide (j < o.n ∧ o.win0 ≤ o.first + j ∧ o.first + j < o.count)))
    ∧ (o.running = true → o.read = true → isAppend o.sub = true → o.seg < (appendSegs b o).length → ∀ sg s1, (appendSegs b o)[o.seg]? = some sg → s0.appendRows b o sg = .ok s1 →
        exec .kvSegmentComplete s = .next (s1.setKv k { o with seg := o.seg + 1 }))
    ∧ (o.running = true → o.seg = 0 → (∀ i ∈ o.after, i ∉ s.storesOf k) →
      (isWin o.sub = true →
        let w := min (max (seqWin v) o.win) (seqCount v)
        (w = seqWin v → ∃ t, exec .kvwinApply s = .next t ∧ SameBytes s t ∧ opIs t { o with seg := 1 })
        ∧ (w ≠ seqWin v → seqGin v (!e) ≠ 0 → exec .kvwinApply s = .next s)
        ∧ (w ≠ seqWin v → seqGin v (!e) = 0 → ∃ t, exec .kvwinApply s = .next t ∧ opIs t { o with seg := 1 }
            ∧ entry t (putBits (putBits v 63 32 w) 225 225 (if e then 0 else 1))))
      ∧ (isTrim o.sub = true → (seqGin v (!e) ≠ 0 → exec .kvtrimFree s = .next s)
          ∧ (seqGin v (!e) = 0 → ∀ x s1 s2, s.knat b.pkg b.entry 32 [] = .ok (v, x, s1) → s1.trimAll b (seqWin v) = .ok s2 →
              exec .kvtrimFree s = .next (s2.setKv k { o with seg := 1 }))))
    ∧ (o.active = true → o.susp = none → o.fault = none → (isAppend o.sub = true ∨ isGatherKv o.sub = true → o.read = true) → o.seg = kvSegs b o → s.hasCrew (crewOf o.strand) = true →
        ∃ t, exec .kvOpRetire s = .next t ∧ t.findKv k s.ev.item = none ∧ (t.crew (crewOf o.strand)).en = (s.crew (crewOf o.strand)).en - 1
          ∧ (isAppend o.sub = true → kvPub o.sub = true → o.counted = false → entry t (putBits v 31 0 (o.count + o.n)))
          ∧ (isAppend o.sub = false → o.counted = true → entry t (seqSetGin v o.epoch (seqGin v o.epoch - 1))))

/-! ## Loops, ports, channel entries, UALink (spec/14_queues.md R299-R302, spec/18_outside.md R391-R396, R366) -/

/-- R301, R302, R395, R396, R391, R317: a loop packet next in order is accepted and acknowledged once, one ahead of
its turn is held, one seen before is discarded, and a failed loop carries none; an unacknowledged packet is counted
and sent again once 4,096 cycles of its stop have passed, and a loop with eight drops, or one that fails, is retired
and its packets go to its partner. A channel entry that reaches a troop with room is stored behind those there, one
that finds none is refused and goes out again after its back-off, and its acknowledgement frees its place. Training
brings a port up, with no more lanes than lane retirement has left it; a port that fails is down; a lost path posts
its events and ends the launches that span it. Which packets a loop carries is log 16. -/
def Obligations.LoopsLinksAndChannels : Prop :=
  ∀ s : State,
    (∀ p, s.findPkt s.ev.item = some p → let key := pairKey p.src p.dst p.kind
      let q := sget s.loopSeen 0 key
      (p.got = true → exec .loopPacketArrival s = .next s ∧ ∃ t, exec .loopAcknowledgement s = .next t ∧ SameBytes s t ∧ t.findPkt s.ev.item = none)
      ∧ (s.loopOk p.loop = false → exec .loopPacketArrival s = .next s)
      ∧ (p.got = false → s.loopOk p.loop = true → p.seq = q → (∀ u ∈ s.loopPkts, u.early = false) → ∃ t, exec .loopPacketArrival s = .next t ∧ SameBytes s t
          ∧ t.findPkt s.ev.item = some { p with early := false, got := true } ∧ sget t.loopSeen 0 key = q + 1)
      ∧ (p.got = false → s.loopOk p.loop = true → q < p.seq → p.early = false → (∀ u ∈ s.loopPkts, u.early = false) → ∃ t, exec .loopPacketArrival s = .next t ∧ SameBytes s t
          ∧ t.findPkt s.ev.item = some { p with early := true } ∧ t.loopSeen = s.loopSeen)
      ∧ (p.got = false → p.seq < q → exec .loopPacketArrival s = .next s)
      ∧ (s.ev.flag = false → s.loopClock p.loop < p.sent + 4096 → exec .loopResendTimer s = .next s)
      ∧ (s.ev.flag = false → p.got = false → p.early = false → p.sent + 4096 ≤ s.loopClock p.loop → let v := sget s.loops {} p.loop
          ∃ t, exec .loopResendTimer s = .next t ∧ SameBytes s t ∧ (sget t.loops {} p.loop).drops = v.drops + 1
            ∧ (sget t.loops {} p.loop).failed = (v.failed || decide (8 ≤ v.drops + 1))
            ∧ t.findPkt s.ev.item = some (if 8 ≤ v.drops + 1 ∧ v.failed = false
                then { p with loop := partner p.loop, sent := s.loopClock (partner p.loop) } else { p with sent := s.loopClock p.loop })))
    ∧ (s.ev.flag = true → s.ev.unit < 72 → ∃ t, exec .loopResendTimer s = .next t ∧ SameBytes s t
        ∧ (sget t.loops {} s.ev.unit).drops = (sget s.loops {} s.ev.unit).drops + 1
        ∧ (sget t.loops {} s.ev.unit).failed = ((sget s.loops {} s.ev.unit).failed || decide (8 ≤ (sget s.loops {} s.ev.unit).drops + 1)))
    ∧ (s.ev.unit < 72 → (sget s.loops {} s.ev.unit).failed = false → s.mevq.length < 4096 → ∃ t, exec .loopFailure s = .next t ∧ SameBytes s t
        ∧ (sget t.loops {} s.ev.unit).failed = true ∧ t.mevq = s.mevq ++ [devRecord 4 s.ev.unit 0 s.ev.unit]
        ∧ t.loopPkts = s.loopPkts.map (fun p => if p.loop = s.ev.unit then { p with loop := partner s.ev.unit, sent := s.loopClock (partner s.ev.unit) } else p))
    ∧ (∀ m rest, s.chanMsgs = m :: rest → m.id = s.ev.item → m.pkg = s.pkg.toNat → s.still (coreOf m.strand) = false →
        (m.st = 0 → s.onLoop m.id = false → s.storesLeft m.after (coreOf m.strand) = false →
          (∀ t, s.chanFate m.lid m.troop m.chan = .take t →
            let l := s.launchOf t
            let c := s.chan t m.chan
            ∃ u, exec .channelEntryArrival s = .next u ∧ (u.chan t m.chan).occ = c.occ + 1 ∧ (u.chan t m.chan).head = c.head
              ∧ u.chanMsgs.head? = some { m with st := 2 } ∧ (∀ pa, u.pbyte pa = s.pbyte pa) ∧ u.strands = s.strands
              ∧ let at_ := chanBase l (s.spmSize t) m.chan + (c.head + c.occ) % chanSlots l m.chan * chanBytes l m.chan
                ∀ r a, mbyte (u.troop r).spm a = if r = t ∧ at_ ≤ a ∧ a < at_ + 4 * m.data.length then (bytesOf m.data).getD (a - at_) 0
                  else mbyte (s.troop r).spm a)
          ∧ (s.chanFate m.lid m.troop m.chan = .refuse → ∃ u, exec .channelEntryArrival s = .next u ∧ SameBytes s u ∧ u.strands = s.strands
              ∧ u.chanMsgs.head? = some { m with st := 1, out := none, time := (s.core (coreOf m.strand)).cycle }))
        ∧ (2 ≤ m.st → ∃ u, exec .channelAck s = .next u ∧ SameBytes s u ∧ u.strands = s.strands ∧ u.chanMsgs = rest.filter (fun q => q.id != m.id))
        ∧ (m.st = 1 → m.time + 64 * 2 ^ m.chbk ≤ (s.core (coreOf m.strand)).cycle → ∃ u, exec .channelResendTimer s = .next u
            ∧ SameBytes s u ∧ u.strands = s.strands ∧ ∃ q, u.chanMsgs.head? = some q ∧ q.id = m.id ∧ q.st = 0))
    ∧ (∀ p, p = s.ev.unit → (p < 64 → s.ev.item = 4 ∨ s.ev.item = 2 ∨ s.ev.item = 1 → s.ev.item ≤ (sget s.ports {} p).width.toNat → ∃ t, exec .linkTraining s = .next t ∧ SameBytes s t
          ∧ sget t.ports {} p = { sget s.ports {} p with live := true, fast := s.ev.flag, lanes := BitVec.ofNat 3 s.ev.item } ∧ ∀ q, q ≠ p → sget t.ports {} q = sget s.ports {} q)
        ∧ ((sget s.ports {} p).live = true → s.mevq.length < 4096 → ∃ t, exec .ualinkPortFailure s = .next t ∧ SameBytes s t
          ∧ (sget t.ports {} p).live = false ∧ (∀ q, q ≠ p → sget t.ports {} q = sget s.ports {} q) ∧ t.mevq = s.mevq ++ [devRecord 4 p 0 p]))
    ∧ (s.ev.flag = true → s.ev.item ≠ s.pkg.toNat → s.routeOk s.ev.item = false → s.puts = [] →
        (∀ l ∈ s.launches, l.1 = s.ev.aux → l.2.spanId = 0 ∨ l.2.closing ≠ none) → exec .linkLoss s = .next s)
    ∧ (s.ev.flag = true → s.ev.item ≠ s.pkg.toNat → s.routeOk s.ev.item = false → s.puts = [] → ∀ l, s.launches = [(s.ev.aux, l)] → l.lid = s.ev.aux →
        l.spanId ≠ 0 → l.closing = none → (∀ t ∈ s.troops, t.2.lid ≠ s.ev.aux) → s.evrings = [] → (s.die l.die).devq.length < 4096 → ∀ u, ((s.postLoss [s.ev.aux]).closeLaunch s.ev.aux 2).writeRecord { l with closing := some 2 } 2 0 = some u →
        ∃ t, exec .linkLoss s = .next t ∧ t.launches = [] ∧ (s.postLoss [s.ev.aux]).die l.die = { s.die l.die with devq := (s.die l.die).devq ++ [devRecord 9 l.queue 0 s.ev.aux] })

/-- R393, R394, R401: before Run no request is served; a request from a package without a valid route gets an error
answer. A PUT record with a home here becomes a message with its word, index, lanes and value; one for another package
answers 5, and a malformed one 2. A channel entry in its turn, or the first of a crew, with `seq` 0, is stored and
answers 0; one ahead of its turn, or that finds no room, is refused, and after a refused first one those behind it are
(log 17). A read answers with the bytes of memory, and an atomic of UALink or of the atomic port with the old value,
having written the new one. The answers this package receives end the request of their tag; an error answer to a PUT
is a NAK of reason 5. Which launch a channel request meets is log 17. -/
def Obligations.UalinkTraffic : Prop :=
  ∀ s : State, let bs := s.ev.data
    let from_ := s.ev.unit
    let answers (i : Instr) (kind addr : Nat) (body : List Byte) : Prop := ∃ t m, exec i s = .next t ∧ t.uaOut = s.uaOut ++ [m] ∧ m.kind = kind ∧ m.pkg = from_
      ∧ m.addr = addr ∧ m.data = body ∧ t.strands = s.strands
    (s.booted = false → exec .ualinkPutRequest s = .next s ∧ exec .ualinkChannelRequest s = .next s ∧ exec .ualinkMemoryRequest s = .next s
        ∧ exec .ualinkAtomicRequest s = .next s)
    ∧ (s.booted = true → s.routed from_ = false → answers .ualinkPutRequest 6 0x100000000000 [] ∧ answers .ualinkChannelRequest 6 0x100000010000 []
        ∧ answers .ualinkMemoryRequest 6 s.ev.value.toNat [] ∧ answers .ualinkAtomicRequest 6 0x100000030000 [])
    ∧ (s.booted = true → s.routed from_ = true →
      (let tag := natAt bs 24 8
       (putRecordOk bs = false → answers .ualinkPutRequest 4 0x100000008000 (leBytes 8 tag ++ leBytes 1 2 ++ leBytes 7 0))
       ∧ (putRecordOk bs = true → cwPkg (BitVec.ofNat 64 (natAt bs 0 8)) ≠ s.pkg.toNat →
           answers .ualinkPutRequest 4 0x100000008000 (leBytes 8 tag ++ leBytes 1 5 ++ leBytes 7 0))
       ∧ (putRecordOk bs = true → cwPkg (BitVec.ofNat 64 (natAt bs 0 8)) = s.pkg.toNat → ∃ t m, exec .ualinkPutRequest s = .next t ∧ SameBytes s t
           ∧ t.strands = s.strands ∧ t.puts = s.puts ++ [m] ∧ m.word = BitVec.ofNat 64 (natAt bs 0 8) ∧ m.idx = byteAt bs 8 ∧ m.kind = byteAt bs 9
           ∧ m.lanes = BitVec.ofNat 32 (natAt bs 12 4) ∧ m.val = BitVec.ofNat 32 (natAt bs 16 4) ∧ m.tag = some (BitVec.ofNat 64 tag)))
      ∧ (let ch := natAt bs 0 4 / 2 ^ 24
         let troop := natAt bs 0 4 % 2 ^ 24
         let reply (r : Nat) : List Byte := leBytes 8 (natAt bs 16 8) ++ leBytes 1 r ++ leBytes 7 0
         let seq := natAt bs 12 4
         let next (t : State) : Nat := t.nextSeq s.ev.aux troop ch (natAt bs 8 4)
         (chanHeaderOk bs = false → answers .ualinkChannelRequest 4 0x100000018000 (reply 1))
         ∧ (chanHeaderOk bs = true → ∀ l, s.launchAt s.ev.aux = some l → chanOn l ch = true → chanBytes l ch + 32 = bs.length →
           (∀ t, s.chanFate s.ev.aux troop ch = .take t →
              (seq = next s ∨ seq = 0 → answers .ualinkChannelRequest 4 0x100000018000 (reply 0)
                ∧ ∃ u, exec .ualinkChannelRequest s = .next u ∧ (u.chan t ch).occ = (s.chan t ch).occ + 1 ∧ next u = (seq + 1) % 2 ^ 32)
              ∧ (seq ≠ next s → seq ≠ 0 → answers .ualinkChannelRequest 4 0x100000018000 (reply 1)
                ∧ ∃ u, exec .ualinkChannelRequest s = .next u ∧ SameBytes s u ∧ u.troops = s.troops ∧ next u = next s))
           ∧ (s.chanFate s.ev.aux troop ch = .refuse → answers .ualinkChannelRequest 4 0x100000018000 (reply 1)
              ∧ ∃ u, exec .ualinkChannelRequest s = .next u ∧ u.troops = s.troops ∧ next u = if seq = 0 then 0 else next s)
           ∧ (s.chanFate s.ev.aux troop ch = .lose → answers .ualinkChannelRequest 4 0x100000018000 (reply 2))))
      ∧ (s.ev.flag = false → s.ev.opt = none → s.ev.value.toNat + s.ev.item ≤ hbmTop → s.stackWaits s.ev.value.toNat s.ev.item = false →
          (s.errRead none s.ev.value.toNat s.ev.item = none → answers .ualinkMemoryRequest 4 s.ev.value.toNat (s.pread s.ev.value.toNat s.ev.item))
          ∧ (s.errRead none s.ev.value.toNat s.ev.item ≠ none → answers .ualinkMemoryRequest 6 s.ev.value.toNat []))
      ∧ (∀ code, s.ev.flag = false → s.ev.opt = some code → s.ev.value.toNat + s.ev.item ≤ hbmTop →
          let a := s.ev.value.toNat
          let n := s.ev.item
          (¬(code ≤ 10 ∧ code ≠ 9 ∧ (n = 4 ∨ n = 8) ∧ a % n = 0) → answers .ualinkMemoryRequest 6 a [])
          ∧ (code ≤ 10 ∧ code ≠ 9 ∧ (n = 4 ∨ n = 8) ∧ a % n = 0 → s.stackWaits a n = false → s.errRead none a n = none →
              answers .ualinkMemoryRequest 4 a (s.pread a n)
              ∧ ((sfind (s.slice (sliceOf (a / 128))).lines (a / 128)).isSome = true → ∃ t, exec .ualinkMemoryRequest s = .next t
                  ∧ t.pread a n = (match uaAtomic code n bs (leNat (s.pread a n)) with | some v => leBytes n v | none => s.pread a n)
                  ∧ ∀ pa, pa < a ∨ a + n ≤ pa → t.pbyte pa = s.pbyte pa)))
      ∧ (s.ev.flag = true → s.ev.value.toNat + bs.length ≤ hbmTop → s.stackWaits s.ev.value.toNat bs.length = false →
          answers .ualinkMemoryRequest 4 s.ev.value.toNat []
          ∧ (bs ≠ [] → s.ev.value.toNat / 128 = (s.ev.value.toNat + bs.length - 1) / 128 →
              (sfind (s.slice (sliceOf (s.ev.value.toNat / 128))).lines (s.ev.value.toNat / 128)).isSome = true →
              ∃ t, exec .ualinkMemoryRequest s = .next t ∧ ∀ a, t.pbyte a = if s.ev.value.toNat ≤ a ∧ a < s.ev.value.toNat + bs.length
                then bs.getD (a - s.ev.value.toNat) 0 else s.pbyte a))
      ∧ (let a := natAt bs 0 8
         let n := if byteAt bs 17 = 3 then 8 else 4
         atomRecordOk bs = true → a % n = 0 → a + n ≤ hbmTop → s.stackWaits a n = false → s.errRead none a n = none →
         answers .ualinkAtomicRequest 4 0x100000038000 (leBytes 8 (natAt bs 24 8) ++ padTo 8 (s.pread a n) ++ leBytes 1 0 ++ leBytes 15 0)
         ∧ ((sfind (s.slice (sliceOf (a / 128))).lines (a / 128)).isSome = true → ∃ t, exec .ualinkAtomicRequest s = .next t
             ∧ t.pread a n = leBytes n (atomNew (atomOps.getD (byteAt bs 16) .add) n (leNat (s.pread a n)) (natAt bs 8 n))
             ∧ ∀ pa, pa < a ∨ a + n ≤ pa → t.pbyte pa = s.pbyte pa)))
    ∧ (∀ m, s.puts = [m] → m.out = true → m.id = natAt bs 0 8 → s.hasCrew (crewOf m.src) = true → ∃ t, exec .ualinkPutAnswer s = .next t ∧ SameBytes s t
        ∧ t.puts = [] ∧ (t.crew (crewOf m.src)).pt = (s.crew (crewOf m.src)).pt - 1
        ∧ (let r := if s.ev.flag then 5 else byteAt bs 8
           m.tok = none → s.alive m.src = true → r ≠ 0 → (t.strand m.src).naks = (s.strand m.src).naks ++ [(r, m.idx, (s.core (coreOf m.src)).cycle)]))
    ∧ (∀ m, s.chanMsgs = [m] → m.pkg ≠ s.pkg.toNat → m.id = natAt bs 0 8 →
        (byteAt bs 8 = 0 → exec .ualinkChannelAnswer s = .next { s with chanMsgs := [] })
        ∧ (byteAt bs 8 = 1 → ∃ t, exec .ualinkChannelAnswer s = .next t ∧ SameBytes s t ∧ t.strands = s.strands
            ∧ t.chanMsgs = [{ m with st := 1, out := none, time := (s.core (coreOf m.strand)).cycle }]))
    ∧ (∀ r, (s.core from_).reqs.find? (fun q => q.sent && q.tag == natAt bs 0 8) = some r → r.done = false → byteAt bs 16 = 0 → ∃ t, exec .ualinkAtomicAnswer s = .next t ∧ SameBytes s t
        ∧ t.strands = s.strands ∧ t.findReq from_ r.id = some { r with done := true, val := (bs.drop 8).take 8, err := none })

/-! ## Strands, crews and troops begin and end (spec/02_execution.md R16-R24, R34, R39-R42; spec/14_queues.md R305, R306) -/

/-- R41, R80, R42, R199, R306, R412: a Pending strand whose operands are there is Eligible again; words that are no
instruction take ILLEGAL_INSTR with word 0 in TVAL. A crew whose strands have all exited and whose counters are zero
gives up its slot, its strands and its capabilities; a troop whose crews have gone and whose ops have retired is
counted in its launch and reported; the registers, the hitches, the scratchpad and the tiles keep their values. A bin
whose timer has run out is due, and a due bin becomes one crew, a strand for each request, at the key's entry with the
request's words in `r0`-`r7`. The unit a spawned crew takes where several suit is the model's choice (log 19); its
release waits for local stores too (log 24); what an ended troop leaves is log 30, that the entry of a key loses two
low bits log 24. -/
def Obligations.StrandsAndTroopsBeginAndEnd : Prop :=
  ∀ s : State,
    (let x := s.ev.unit
     let up (t : State) : Prop := t.strand x = { s.strand x with life := .eligible, stamp := (s.unit (s.unitOfCrew (crewOf x))).stampCtr, wait := .none }
       ∧ (∀ y, y ≠ x → t.strand y = s.strand y) ∧ SameBytes s t
     s.still (coreOf x) = false → s.mayIssue (crewOf x) = true →
       ∀ r, (s.strand x).life = .pending → (s.strand x).wait = .result r →
         (r &&& (s.strand x).pend = 0 → ∃ t, exec .operandAvailable s = .next t ∧ up t)
         ∧ (r &&& (s.strand x).pend ≠ 0 → exec .operandAvailable s = .next s))
    ∧ (∀ w0 ws e, s.fetchFrame = .words w0 ws → decodeWords ws = .error e → s.myStrand.cause.getLsbD 31 = false →
        ∃ t, exec .notAnInstruction s = .next t ∧ TookTrap s t ⟨7, false, w0.extractLsb' 0 2⟩ { code := 0x01, tval := w0 })
    ∧ (let c := s.ev.unit
       s.hasCrew c = true → s.liveLanes c = [] → (s.crew c).ld = 0 → (s.crew c).st = 0 → (s.crew c).pt = 0 → (s.crew c).sq = [] → s.bankWaits c = false →
        ∃ t, exec .crewRelease s = .next t ∧ SameBytes s t ∧ t.hasCrew c = false ∧ (∀ x, crewOf x = c → sfind t.strands x = none)
          ∧ (∀ q, q ≠ c → t.hasCrew q = s.hasCrew q)
          ∧ (srising s.strands = true → ∀ x, crewOf x = c → (sfind s.strands x).isSome = true →
              sfind (sget t.past {} (troopOfCrew c)).strands x = sfind s.strands x)
          ∧ ∀ e, (sget (s.core (coreOfTroop (troopOfCrew c))).caps {} e).crew = c →
              (sget (t.core (coreOfTroop (troopOfCrew c))).caps {} e).live = false)
    ∧ (let q := s.ev.unit
       let v := s.troop q
       let k := coreOfTroop q
       (sfind s.troops q).isSome = true → v.res = .resident → s.crewsOf q = [] → s.opsLeft q = false → s.troopStores q = false → s.bankDue q = false → v.kv = [] →
       (s.die (dieOfCore k)).devq.length < 4096 →
       ∀ l, s.launchAt v.lid = some l → l.closing = none → l.retired.length + 1 ≠ l.troops →
        ∃ t, exec .troopRetire s = .next t ∧ sfind t.troops q = none ∧ (∀ p, p ≠ q → t.troop p = s.troop p) ∧ t.strands = s.strands
          ∧ (∀ pa, t.pbyte pa = s.pbyte pa) ∧ (t.die (dieOfCore k)).devq = (s.die (dieOfCore k)).devq ++ [devRecord 2 (k % 64) 0 v.index]
          ∧ t.launchAt v.lid = some { l with retired := v.index :: l.retired, tilelost := l.tilelost || v.tilelost }
          ∧ (sget t.past {} q).spm = v.spm ∧ (sget t.past {} q).tiles = v.tiles ∧ (sget t.past {} q).acc = v.acc ∧ (sget t.past {} q).hitches = v.hitches)
    ∧ (let k := s.ev.unit
       ∀ b, sfind (s.core k).bins s.ev.item = some b → s.still k = false → (s.troop b.troop).saving = false → (s.troop b.troop).res = .resident → b.reqs ≠ [] →
        (b.due = false → b.timer = some 0 → ∃ t, exec .paddockTimerExpiry s = .next t ∧ SameBytes s t ∧ t.strands = s.strands ∧ t.crews = s.crews
            ∧ sfind (t.core k).bins s.ev.item = some { b with due := true })
        ∧ (b.due = true → s.freeBlocks b.troop ≠ 0 → (∀ c ∈ s.crewsOf b.troop, (s.crew c).res ≠ .saved) →
            let key := sget (s.troop b.troop).keys 0 b.key
            let us := s.unitsFor b.troop (roleOf (keyRole key))
            ∀ i u, s.spawnIndex b.troop = some i → (us.find? (· == s.ev.aux)).or us.head? = some u →
              let c := 64 * b.troop + i
              ∃ t, exec .paddockLaunch s = .next t ∧ SameBytes s t ∧ sfind (t.core k).bins s.ev.item = none ∧ t.hasCrew c = true
                ∧ (t.crew c).role = roleOf (keyRole key) ∧ (t.crew c).unit = u ∧ (t.crew c).res = .resident
                ∧ ∀ n < b.reqs.length, (t.strand (32 * c + n)).pc = pcOf (keyEntry key) ∧ (t.strand (32 * c + n)).life = .eligible
                    ∧ ∀ r < 8, r < (b.reqs.getD n []).length → t.rdX (32 * c + n) r = (b.reqs.getD n []).getD r 0))

/-! ## Launches (spec/14_queues.md R309-R314) -/

/-- R309-R314, R399: a tail within the ring is taken and reported, one beyond it sets the queue's `err`. The packet at
a queue's head is rejected with the lowest reason its checks give, or accepted and stays at the head. A dispatch
decision steps `LOTSEED` by the xorshift of R313 and places a troop of the launch the draw gives: its crews in their
units, every strand Eligible at the entry with registers of zero. The dispatch controller's registers place a troop
whose launch no producer holds back, move a head past its packet, or set `err`. Which core and which slots a troop
takes where several fit, and reason 9 without a record, are the model's choices (log 19); that the entry loses two low
bits is log 24, that a PLACE waits for producers log 11. -/
def Obligations.LaunchesReachCores : Prop :=
  ∀ s : State, let d := s.ev.unit
    let placed (l : Launch) (k index : Nat) (us : List Nat) (t : State) : Prop :=
      let q := 64 * k + (s.troopSlot k).getD 0
      (t.troop q).lid = l.lid ∧ (t.troop q).index = index ∧ (t.troop q).res = .resident
        ∧ (∀ c < l.ncrews, (t.crew (64 * q + c)).role = roleOf (l.role c) ∧ (t.crew (64 * q + c)).unit = us.getD c 0
            ∧ ∀ v < 32, { t.strand (32 * (64 * q + c) + v) with stamp := 0 } = { pc := pcOf l.entry })
        ∧ ∀ x, troopOf x ≠ q → t.strand x = s.strand x
    (let q := s.ev.item
     let v := s.ev.value.toNat % 2 ^ 32
     let far := 2 ^ (s.queueAt d q).lgsz < (v + 2 ^ 32 - (s.queueAt d q).head) % 2 ^ 32
     s.silent = false → d < 8 → q < 64 →
      (s.ev.aux ≠ 0 → s.ev.aux ≠ s.queueOwner q → exec .lqtailDoorbell s = .next s)
      ∧ (s.ev.aux = 0 ∨ s.ev.aux = s.queueOwner q →
          (far → ∃ t, exec .lqtailDoorbell s = .next t ∧ SameBytes s t ∧ t.queueAt d q = { s.queueAt d q with ctl := setBit (s.queueAt d q).ctl 31 })
          ∧ (¬ far → (s.die d).devq.length < 4096 → ∃ t, exec .lqtailDoorbell s = .next t ∧ SameBytes s t ∧ t.queueAt d q = { s.queueAt d q with tail := v }
              ∧ (t.die d).devq = (s.die d).devq ++ [devRecord 1 q 0 0])))
    ∧ (let q := s.ev.item
       let v := s.queueAt d q
       d < 8 → q < 64 → s.booted = true → v.head ≠ v.tail → s.packetHeld d q (v.head % 2 ^ v.lgsz) = false → (∀ l ∈ s.launches, ¬(l.2.die = d ∧ l.2.queue = q ∧ l.2.headed = true)) →
        ((sget s.spaces 0 q).getLsbD 127 = false → ∃ t, exec .launchPacketCheck s = .next t ∧ t.launches = s.launches ∧ t.strands = s.strands
            ∧ (t.queueAt d q).head = (v.head + 1) % 2 ^ 32 ∧ (t.queueAt d q).ctl.getLsbD 31 = true)
        ∧ ((sget s.spaces 0 q).getLsbD 127 = true → ∀ bs s1, s.readPacket v.base (v.head % 2 ^ v.lgsz) = .ok (bs, s1) →
            let l : Launch := { noLaunch with lid := natAt bs 112 4, die := d, queue := q, packet := lineOfBytes bs }
            (s1.packetReasons l = [] → l.extAddr = 0 → ∃ t, exec .launchPacketCheck s = .next t ∧ t.strands = s1.strands
                ∧ t.launchAt l.lid = some { l with ext := List.replicate 516 0 } ∧ t.queueAt d q = s1.queueAt d q)
            ∧ (∀ r rs, s1.packetReasons l = r :: rs → ∀ u, s1.writeRecord l 3 r = some u → ∃ t, exec .launchPacketCheck s = .next t
                ∧ t.launches = u.launches ∧ (t.queueAt d q).head = ((u.queueAt d q).head + 1) % 2 ^ 32)))
    ∧ (let es := s.candidates d
       let y := xorshift (s.die d).lotseed
       d < 8 → s.booted = true → s.restoreDue d = false → es ≠ [] →
        ∀ l, drawn es (y.toNat % (es.map (·.2)).sum) = some l → l.gang = false → s.launchAt l.lid = some l →
        (s.fits l d (s.ev.data.map (·.toNat)) = [] → ∃ t, exec .dispatchDecision s = .next t ∧ SameBytes s t ∧ (t.die d).lotseed = y ∧ t.troops = s.troops)
        ∧ ∀ k us rest, s.fits l d (s.ev.data.map (·.toNat)) = (k, us) :: rest → k = s.ev.item ∨ (∀ f ∈ rest, f.1 ≠ s.ev.item) →
            ∃ t, exec .dispatchDecision s = .next t ∧ placed l k l.placed us t ∧ (t.die d).lotseed = y
              ∧ (t.launchAt l.lid).map (·.placed) = some (l.placed + 1))
    ∧ (let r := s.sram d s.ev.value.toNat 256
       d < 8 → (s.ctl d).machine = true → s.ev.value.toNat % 64 = 0 → ∀ l, s.launchAt (natAt r 112 4) = some l → l.lid = natAt r 112 4 → l.extAddr = 0 →
        let l1 := { l with ext := List.replicate 516 0 }
        let k := 64 * d + byteAt r 132 % 64
        let quarters := if byteAt r 133 % 16 = 0 then [0, 1, 2, 3] else [0, 1, 2, 3].filter (byteAt r 133 % 16).testBit
        (s.fitCore l1 k quarters [] = none → ∃ t, exec .placeWrite s = .next t ∧ SameBytes s t ∧ t.troops = s.troops ∧ (t.die d).placeStat = 2)
        ∧ ((s.depMet (l.dep 0) && s.depMet (l.dep 1)) = false → ∃ t, exec .placeWrite s = .next t ∧ SameBytes s t ∧ t.troops = s.troops ∧ (t.die d).placeStat = 2)
        ∧ ∀ us, (s.depMet (l.dep 0) && s.depMet (l.dep 1)) = true → s.fitCore l1 k quarters [] = some us → ∃ t, exec .placeWrite s = .next t ∧ placed l1 k (natAt r 128 4) us t
            ∧ (t.die d).placeStat = BitVec.ofNat 64 ((s.troopSlot k).getD 0 * 256))
    ∧ (let q := s.ev.value.toNat % 64
       d < 8 → (s.ctl d).machine = true →
        (∃ t, exec .lqadvWrite s = .next t ∧ SameBytes s t ∧ t.strands = s.strands ∧ t.queueAt d q = { s.queueAt d q with head := ((s.queueAt d q).head + 1) % 2 ^ 32 }
          ∧ ∀ e ∈ t.launches, e.2.die = d → e.2.queue = q → e.2.headed = false)
        ∧ ∃ t, exec .lqerrWrite s = .next t ∧ SameBytes s t ∧ t.queueAt d q = { s.queueAt d q with ctl := setBit (s.queueAt d q).ctl 31 })

/-! ## Contexts (spec/17_traps_context.md R370-R381) -/

/-- R372-R376, R388, R399: `HALT` exits every strand of a troop and drops its ops that have not started. `SAVE` and
`PREEMPT` request a save; it begins when the live strands are at rest, or 65,536 cycles after the request, and ends,
once what is outstanding has settled and the area is written, with the context saved and queued for its restore. A
troop's area says while it is written or read that it is. A restore takes the first context the core can hold, ahead
of the lottery or by the dispatch controller's record, applies the PUTs that wait for it, and reads its area back.
What a restore reads of the area, and what stays in State, is log 14. -/
def Obligations.ContextsAreSavedAndRestored : Prop :=
  ∀ s : State, let n := s.ev.unit
    (let v := s.ev.value.toNat
     let t := 64 * (64 * n + v % 64) + v / 64 % 64
     n < 8 → (s.ctl n).machine = true →
      ((sfind s.troops t).isSome = true → ∃ u, exec .haltWrite s = .next u ∧ SameBytes s u
          ∧ (∀ c ∈ s.crewsOf t, ∀ x ∈ s.liveLanes c, (u.strand x).life = .exited) ∧ (∀ x, troopOf x ≠ t → u.strand x = s.strand x)
          ∧ (∀ o ∈ (u.core (coreOfTroop t)).tq, o.troop = t → o.running = true) ∧ ∀ b ∈ (u.core (coreOfTroop t)).bins, b.2.troop ≠ t)
      ∧ ((s.launchOf t).save ≠ 0 → v / 2 ^ 12 % 64 = 63 → s.canSaveTroop t = true → ∃ u, exec .saveWrite s = .next u ∧ SameBytes s u ∧ u.strands = s.strands
          ∧ (u.troop t).saving = true ∧ (u.troop t).saveReq = some ((s.troop t).saveReq.getD 0))
      ∧ (let c := 64 * t + v / 2 ^ 12 % 64
         (s.launchOf t).save ≠ 0 → v / 2 ^ 12 % 64 ≠ 63 → s.canSaveCrew c = true → (s.troop t).saveReq = none → s.awaitsHeld c = false →
           ∃ u, exec .saveWrite s = .next u ∧ SameBytes s u ∧ u.strands = s.strands ∧ (u.crew c).saving = true ∧ (u.crew c).grow = none
             ∧ (u.crew c).saveReq = some ((s.crew c).saveReq.getD 0)))
    ∧ (∀ a, s.ev.flag = false → (sfind s.troops n).isSome = true → (s.troop n).saveReq = some a → (s.troop n).saving = false → s.still (coreOfTroop n) = false →
        (a < 65536 → exec .gracePeriodExpiry s = .next s)
        ∧ (65536 ≤ a → ∃ u, exec .gracePeriodExpiry s = .next u ∧ SameBytes s u ∧ u.strands = s.strands ∧ (u.troop n).saving = true))
    ∧ (∀ a, s.ev.flag = true → s.hasCrew n = true → (s.crew n).saveReq = some a → (s.crew n).saving = false → s.still (coreOfTroop (troopOfCrew n)) = false →
        s.awaitsHeld n = false →
        (a < 65536 → exec .gracePeriodExpiry s = .next s)
        ∧ (65536 ≤ a → ∃ u, exec .gracePeriodExpiry s = .next u ∧ SameBytes s u ∧ u.strands = s.strands ∧ (u.crew n).saving = true))
    ∧ (s.ev.flag = true → s.hasCrew n = true → (s.crew n).saveReq ≠ none → s.still (coreOfTroop (troopOfCrew n)) = false → s.awaitsHeld n = false →
        ((s.crew n).saving = false → (∀ x ∈ s.liveLanes n, atRest (s.strand x).life = true) →
          ∃ u, exec .contextSave s = .next u ∧ SameBytes s u ∧ u.strands = s.strands ∧ (u.crew n).saving = true)
        ∧ ((s.crew n).saving = true → s.crewSettled n true = true → s.areaHeld (troopOfCrew n) = false →
            let q := troopOfCrew n
            let p := s.blobs (s.saveArea q) (s.crewBlobs (recordAt n) n true)
            ∀ w, p.2.ctlWrite (s.launchOf q).queue p.1 = .ok w → w.strands = s.strands → w.crews = s.crews →
              ∃ u, exec .contextSave s = .next u ∧ (u.crew n).res = .saved ∧ (u.crew n).saving = false ∧ (u.crew n).saveReq = none
                ∧ ∀ x ∈ s.liveLanes n, (u.strand x).life = .saved ∧ (u.strand x).held = heldLife (s.strand x).life))
    ∧ (let cs := (s.crewsOf n).filter (fun c => (s.crew c).res == .resident)
       s.ev.flag = false → (sfind s.troops n).isSome = true → (s.troop n).saveReq ≠ none → s.still (coreOfTroop n) = false →
        ((s.troop n).saving = false → (∀ c ∈ cs, ∀ x ∈ s.liveLanes c, atRest (s.strand x).life = true) →
          ∃ u, exec .contextSave s = .next u ∧ SameBytes s u ∧ u.strands = s.strands ∧ (u.troop n).saving = true)
        ∧ ((s.troop n).saving = true → (∀ c ∈ cs, s.crewSettled c false = true) → s.opsSettled n = true → s.bankDue n = false → s.areaHeld n = false →
            (s.troop n).writing = false →
            let p := s.blobs (s.saveArea n)
              [(0, .bytes (headerBytes n (s.troop n) ((s.crewsOf n).filter (fun c => (s.liveLanes c) != [])) 3))]
            ∀ w, p.2.ctlWrite (s.launchOf n).queue p.1 = .ok w → ∃ u, exec .contextSave s = .next u ∧ (u.troop n).writing = true
              ∧ u.strands = w.strands ∧ ∀ a, u.pbyte a = w.pbyte a)
        ∧ ((s.troop n).saving = true → (∀ c ∈ cs, s.crewSettled c false = true) → s.opsSettled n = true → s.bankDue n = false → s.areaHeld n = false →
            (s.troop n).writing = true →
            let s0 := s.takeOps n
            let p := s0.blobs (s0.saveArea n) (s0.troopBlobs n)
            (∀ w, p.2.ctlWrite (s0.launchOf n).queue p.1 = .ok w → ∃ u, exec .contextSave s = .next u ∧ (u.troop n).res = .saved
                ∧ (u.troop n).saving = false ∧ (u.troop n).saveReq = none ∧ (u.troop n).writing = false)
            ∧ (p.2.ctlWrite (s0.launchOf n).queue p.1 = .error .reserved → exec .contextSave s = .fault .reservedPhysical)))
    ∧ (∀ e us, s.canRestore e = some us → s.still (coreOfTroop e.1) = false → s.areaHeld e.1 = false → s.putWaiting (s.ctxCrews e) = none →
        (∀ c h, (s.phase c h).sigs = []) → (∀ k, (s.core k).sqe = []) →
        let d := dieOfCore (coreOfTroop e.1)
        let back (u : State) : Prop := (u.die d).savedCtx = (s.die d).savedCtx.erase e
          ∧ (match e.2 with
             | some c => (u.crew c).res = .resident ∧ (u.crew c).unit = us.headD 0
             | none => (u.troop e.1).res = .resident)
        let cs := match e.2 with
          | some c => [c]
          | none => (s.crewsOf e.1).filter (fun c => !((s.die d).savedCtx.filterMap (·.2)).contains c)
        let s1 := s.modDie d (fun v => { v with savedCtx := v.savedCtx.erase e })
        let reads : Prop := ∃ s3, s1.reloadCtx e.1 e.2.isNone cs = .ok s3
          ∧ (e.2 = none → (s.troop e.1).writing = true
            ∧ let s4 := s3.enterCtx e cs us
              let p := s4.blobs (s4.saveArea e.1)
                [(6, .bytes (leBytes 1 ((if (s4.crewsOf e.1).any (fun c => (s4.crew c).res == .saved) then 1 else 0) + coreOfTroop e.1 % 64 * 4)))]
              ∃ w, p.2.ctlWrite (s4.launchOf e.1).queue p.1 = .ok w)
        reads →
        ((s.die n).savedCtx[s.ev.item]? = some e → ∃ u, exec .contextRestore s = .next u ∧ back u)
        ∧ (let r := s.sram n s.ev.value.toNat 64
           (s.die n).savedCtx = [e] → (s.ctl n).machine = true → natAt r 11 53 = 0 → n < 8 → coreOfTroop e.1 = 64 * n + byteAt r 8 → s.saveArea e.1 = natAt r 0 8 →
           (match e.2 with
            | some c => byteAt r 9 = 1 ∧ crewIdx c = byteAt r 10
            | none => byteAt r 9 = 0) →
           ∃ u, exec .restoreWrite s = .next u ∧ back u))
    ∧ (∀ e us m, s.canRestore e = some us → s.still (coreOfTroop e.1) = false → s.areaHeld e.1 = false → s.putWaiting (s.ctxCrews e) = some m →
        (s.die n).savedCtx[s.ev.item]? = some e → exec .contextRestore s = .next (s.servePut m))
    ∧ (∀ f, let m := s.mbxAt f
       s.commanded f 10 false [32, 24, 8] = true → ∀ l, s.launchAt (m.arg 0) = some l → l.lid = m.arg 0 → l.save ≠ 0 → m.arg 1 < l.troops →
       f = 0 ∨ f = s.queueOwner l.queue → ∀ q v, s.troops = [(q, v)] → v.lid = l.lid → v.index = m.arg 1 → (s.die (dieOfCore (coreOfTroop q))).devq.length < 4096 →
        let posted (u : State) : Prop := Ended .preempt s u f 0 ∧ SameBytes s u ∧ u.strands = s.strands
          ∧ (u.die (dieOfCore (coreOfTroop q))).devq = (s.die (dieOfCore (coreOfTroop q))).devq ++ [devRecord 6 (coreOfTroop q % 64) 0 (m.arg 1)]
        (m.arg 2 = 255 → s.canSaveTroop q = true → ∃ u, posted u ∧ (u.troop q).saveReq = some (v.saveReq.getD 0))
        ∧ (m.arg 2 < 64 → s.hasCrew (64 * q + m.arg 2) = true → s.canSaveCrew (64 * q + m.arg 2) = true → v.saveReq = none → s.awaitsHeld (64 * q + m.arg 2) = false →
            ∃ u, posted u ∧ (u.crew (64 * q + m.arg 2)).saveReq = some ((s.crew (64 * q + m.arg 2)).saveReq.getD 0)))

/-! ## The host and its commands (spec/18_outside.md R384-R390, R399; spec/15_tables.md R339, R340) -/

/-- R384, R387, R385, R399: a read through the aperture gives the bytes of the device address the offset stands for,
and a write writes them; `MBXDB` queues the mailbox's command. A register written takes the bits it has, by a writer
that has it, and no other; a controller outside machine mode takes an access fault instead, or an illegal instruction.
What a queue base keeps of its low bits is log 5; what an access outside machine mode ends in is log 11. -/
def Obligations.HostAccesses : Prop :=
  ∀ s : State, let f := s.ev.unit
    let n := if s.ev.flag then s.ev.data.length else s.ev.item
    (∀ a, s.apertureAt f s.ev.value.toNat n = some a → s.silent = false → a + n ≤ 0x10400000000 → s.stackWaits a n = false →
        (f = 0 → a = s.ev.value.toNat)
        ∧ (s.ev.flag = false → (s.errRead none a n = none → ∃ t, exec .hostApertureAccess s = .next t ∧ t.hostOut = s.pread a n ∧ t.strands = s.strands)
            ∧ (s.errRead none a n ≠ none → exec .hostApertureAccess s = .next { s with hostOut := [] }))
        ∧ (s.ev.flag = true → ∃ t, exec .hostApertureAccess s = .next t ∧ t.strands = s.strands
            ∧ (a + n ≤ 0xC000000000 → n ≠ 0 → a / 128 = (a + n - 1) / 128 → (sfind (s.slice (sliceOf (a / 128))).lines (a / 128)).isSome = true →
                ∀ b, t.pbyte b = if a ≤ b ∧ b < a + n then s.ev.data.getD (b - a) 0 else s.pbyte b)))
    ∧ (f < 32 → (s.mbxAt f).stat.getLsbD 0 = false → s.silent = false → s.mevq.length < 4096 → ∃ t, exec .mbxdbDoorbell s = .next t ∧ SameBytes s t
        ∧ t.mbxq = s.mbxq ++ [f] ∧ t.mbxAt f = { s.mbxAt f with stat := setBit (s.mbxAt f).stat 0 } ∧ t.mevq = s.mevq ++ [devRecord 1 f 0 (s.mbxAt f).op])
    ∧ ((s.ctl 8).machine = true → (s.mbxAt f).stat.getLsbD 0 = true → ∃ t, Ended .mbxdoneWrite s t f (s.ev.value.toNat / 256 % 256))
    ∧ (let v := s.ev.value
       let writes (t : State) : Prop := exec .registerWrite s = .next t ∧ SameBytes s t ∧ t.strands = s.strands
       s.silent = false →
        (s.ev.flag = false →
          (∀ d q, s.ev.reg = .lqbase d q → s.ev.aux ≠ 0 → s.ev.aux ≠ s.queueOwner q → exec .registerWrite s = .next s)
          ∧ (∀ d q, s.ev.reg = .lqbase d q → s.ev.aux = 0 ∨ s.ev.aux = s.queueOwner q → ∃ t, writes t
              ∧ t.queueAt d q = { s.queueAt d q with base := v &&& ~~~(0xFFF : Dword) })
          ∧ (∀ d, s.ev.reg = .lotseed d → s.ev.aux = 0 → ∃ t, writes t
              ∧ t.die d = { s.die d with lotseed := if v.extractLsb' 0 32 = 0 then 1 else v.extractLsb' 0 32 })
          ∧ (∀ d, s.ev.reg = .gangrounds d → s.ev.aux = 0 → ∃ t, writes t ∧ t.die d = { s.die d with gangrounds := v.toNat % 65536 })
          ∧ (s.ev.reg = .pwrlim → s.ev.aux = 0 → ∃ t, writes t
              ∧ t.pwrlim.toNat = if v.toNat % 4096 < 1000 then 1000 else if 3900 < v.toNat % 4096 then 3900 else v.toNat % 4096)
          ∧ (∀ i, s.ev.reg = .ras i → s.ev.aux = 0 → ∃ t, writes t
              ∧ ∀ b, b < 64 → (t.rasAt i).getLsbD b = if b < 43 then (s.rasAt i).getLsbD b else v.getLsbD b)
          ∧ (∀ g w, s.ev.reg = .mbxBlock g w → w < 8 → s.ev.aux = g → ∃ t, writes t
              ∧ ∀ i, i < 512 → (t.mbxAt g).block.getLsbD i = if i / 64 = w then v.getLsbD (i % 64) else (s.mbxAt g).block.getLsbD i)
          ∧ (∀ g w, s.ev.reg = .mbxBlock g w → s.ev.aux ≠ g → exec .registerWrite s = .next s))
        ∧ (s.ev.flag = true → s.ev.unit = 8 → (s.ctl 8).machine = true →
          (∀ p, s.ev.reg = .routeMask p → ∃ t, writes t ∧ sget t.routes (0, false) p = (v, (sget s.routes (0, false) p).2))
          ∧ (∀ p, s.ev.reg = .routeValid p → ∃ t, writes t ∧ sget t.routes (0, false) p = ((sget s.routes (0, false) p).1, v.getLsbD 0))
          ∧ (s.ev.reg = .mevie → ∃ t, writes t ∧ t.mevie = v &&& 1)
          ∧ (∀ i, s.ev.reg = .pageList i → ∃ t, writes t ∧ sget t.pageLists 0 i = v)
          ∧ (∀ i, s.ev.reg = .ras i → ∃ t, writes t ∧ ∀ b, b < 64 → (t.rasAt i).getLsbD b = if b < 43 then (s.rasAt i).getLsbD b else v.getLsbD b)
          ∧ (∀ k, s.ev.reg = .filtwin k → ∃ t, writes t ∧ (t.slice k).filtwin = if v.toNat % 32 < 8 then 8 else if 28 < v.toNat % 32 then 28 else v.toNat % 32))
        ∧ (s.ev.flag = true → s.ev.unit < 8 → (s.ctl s.ev.unit).machine = true → ∀ d,
          (s.ev.reg = .devie d → d ≠ s.ev.unit → exec .registerWrite s = .next s)
          ∧ (s.ev.reg = .devie d → d = s.ev.unit → ∃ t, writes t ∧ t.die d = { s.die d with devie := v &&& 1 })
          ∧ (s.ev.reg = .dmasrc d → d = s.ev.unit → ∃ t, writes t ∧ t.die d = { s.die d with dmasrc := v })
          ∧ (s.ev.reg = .dmadst d → d = s.ev.unit → ∃ t, writes t ∧ t.die d = { s.die d with dmadst := v })
          ∧ (s.ev.reg = .dmalen d → d = s.ev.unit → ∃ t, writes t ∧ t.die d = { s.die d with dmalen := v }))
        ∧ (s.ev.flag = true → s.ev.unit < 9 → (s.ctl s.ev.unit).machine = false →
          (∀ k, s.ev.reg = .xwdctl k → exec .registerWrite s = .next (s.hartTrap s.ev.unit codeIllegal 0))
          ∧ ((∀ k, s.ev.reg ≠ .xwdctl k) → exec .registerWrite s = .next (s.hartTrap s.ev.unit codeStoreFault (winAddr (winOff s.ev.reg))))))

/-- R388, R384, R389, R339: the oldest mailbox command of all functions is executed. Each writes what its arguments
name and ends with result 0; one that its function may not give ends with result 2, one whose arguments are out of
range with 1, and one the device cannot do in its state with 3. `tlb_inval` drops the covered translations and ends
when the accesses by them are over. The results of log 20 are the model's where R388 states none; the reset quota of a
function is log 5. -/
def Obligations.MailboxCommands : Prop :=
  ∀ (s : State) (f : Nat), let m := s.mbxAt f
    (∀ i op ws, (i, op, ws) ∈ [(Instr.pkgSet, 1, [8]), (.asWrite, 2, [6, 64, 64]), (.routeWrite, 4, [8, 64, 1]), (.sliceWrite, 5, [6, 2, 32]),
        (.hbmWrite, 6, [4, 32]), (.kvpoolInit, 7, [44, 28]), (.pinQuota, 8, [5, 7]), (.fwStage, 11, [64, 32]), (.fwActivate, 12, []),
        (.vfWindow, 14, [5, 64]), (.fuseCommit, 15, [])] →
        s.commanded f op false ws = true → f ≠ 0 → ∃ t, Ended i s t f 2 ∧ SameBytes s t ∧ t.strands = s.strands)
    ∧ (s.commanded f 1 true [8] = true → (s.launches = [] → ∃ t, Ended .pkgSet s t f 0 ∧ t.pkg = BitVec.ofNat 8 (m.arg 0))
        ∧ (s.launches ≠ [] → ∃ t, Ended .pkgSet s t f 3 ∧ t.pkg = s.pkg))
    ∧ (s.commanded f 2 true [6, 64, 64] = true → let v := BitVec.ofNat 128 (m.arg 1 + m.arg 2 * 2 ^ 64)
        (v.extractLsb' 52 50 ≠ 0 ∨ v.extractLsb' 0 12 ≠ 0 → ∃ t, Ended .asWrite s t f 1 ∧ t.spaces = s.spaces)
        ∧ (v.extractLsb' 52 50 = 0 → v.extractLsb' 0 12 = 0 → s.spaceBusy (m.arg 0) = true → ∃ t, Ended .asWrite s t f 3 ∧ t.spaces = s.spaces)
        ∧ (v.extractLsb' 52 50 = 0 → v.extractLsb' 0 12 = 0 → s.spaceBusy (m.arg 0) = false → ∃ t, Ended .asWrite s t f 0
            ∧ sget t.spaces 0 (m.arg 0) = v ∧ ∀ e, e ≠ m.arg 0 → sget t.spaces 0 e = sget s.spaces 0 e))
    ∧ (s.commanded f 4 true [8, 64, 1] = true → ∃ t, Ended .routeWrite s t f 0 ∧ sget t.routes (0, false) (m.arg 0) = (BitVec.ofNat 64 (m.arg 1), m.arg 2 == 1)
        ∧ ∀ p, p ≠ m.arg 0 → sget t.routes (0, false) p = sget s.routes (0, false) p)
    ∧ (s.commanded f 5 true [6, 2, 32] = true → let v := m.arg 2
        (m.arg 1 = 0 → v < 65536 → ∃ t, Ended .sliceWrite s t f 0 ∧ (t.slice (m.arg 0)).waymask = BitVec.ofNat 16 v &&& ~~~(s.slice (m.arg 0)).dead)
        ∧ (m.arg 1 = 1 → v < 32 → ∃ t, Ended .sliceWrite s t f 0 ∧ SameBytes s t ∧ (t.slice (m.arg 0)).filtwin = if v < 8 then 8 else if 28 < v then 28 else v)
        ∧ (m.arg 1 = 2 → v < 4096 → ∃ t, Ended .sliceWrite s t f 0 ∧ SameBytes s t ∧ (t.slice (m.arg 0)).mergewin = v)
        ∧ (m.arg 1 = 3 ∨ (m.arg 1 = 0 ∧ 65536 ≤ v) ∨ (m.arg 1 = 1 ∧ 32 ≤ v) ∨ (m.arg 1 = 2 ∧ 4096 ≤ v) → ∃ t, Ended .sliceWrite s t f 1 ∧ t.slices = s.slices))
    ∧ (s.commanded f 6 true [4, 32] = true → m.arg 0 < 12 → m.arg 1 / 2 ^ 16 % 2 ^ 15 = 0 → ∃ t, Ended .hbmWrite s t f 0 ∧ SameBytes s t
        ∧ (sget t.hbmStacks {} (m.arg 0)).pagectl = if m.arg 1 % 65536 = 0 then BitVec.ofNat 32 (m.arg 1 + 1) else BitVec.ofNat 32 (m.arg 1))
    ∧ (s.commanded f 7 true [44, 28] = true → m.arg 0 % 2 ^ 20 = 0 → (∀ t ∈ s.troops, t.2.kv = []) → m.arg 0 + (m.arg 1 + 7) / 8 ≤ 0x10400000000 →
        ∃ t, Ended .kvpoolInit s t f 0 ∧ t.kvpoolbase = BitVec.ofNat 64 (m.arg 0) ∧ t.kvpooln = BitVec.ofNat 64 (m.arg 1))
    ∧ (s.commanded f 8 true [5, 7] = true → (64 < m.arg 1 → ∃ t, Ended .pinQuota s t f 1 ∧ t.quotas = s.quotas)
        ∧ (m.arg 1 ≤ 64 → ∃ t, Ended .pinQuota s t f 0 ∧ SameBytes s t ∧ sget t.quotas 64 (m.arg 0) = m.arg 1))
    ∧ (s.commanded f 9 false [6] = true → ∀ p, sfind s.pins (m.arg 0) = some p →
        (f = 0 ∨ p.func = f → ∃ t, Ended .pinRelease s t f 0 ∧ SameBytes s t ∧ sfind t.pins (m.arg 0) = none)
        ∧ (f ≠ 0 → p.func ≠ f → ∃ t, Ended .pinRelease s t f 2 ∧ t.pins = s.pins))
    ∧ (s.commanded f 3 false [6, 64, 64] = true → canonical (BitVec.ofNat 64 (m.arg 1)) = true →
        (f ≠ 0 → f ≠ s.queueOwner (m.arg 0) → ∃ t, Ended .tlbInval s t f 2)
        ∧ (f = 0 ∨ f = s.queueOwner (m.arg 0) → s.invBusy = false → ∃ t, exec .tlbInval s = .next t ∧ SameBytes s t ∧ t.mbxq = s.mbxq ∧ t.invBusy = true
            ∧ t.invFor = some f ∧ t.invas = BitVec.ofNat 64 (m.arg 0)
            ∧ ∀ k e, e ∈ (t.core k).tlb → invMeets (m.arg 0) (m.arg 1 % 2 ^ 57) (m.arg 2) e.asid e.vbase (pageBytes e.size) = false)
        ∧ (f = 0 ∨ f = s.queueOwner (m.arg 0) → s.invBusy = true → exec .tlbInval s = .next s))
    ∧ (s.commanded f 11 true [64, 32] = true → let img := s.pread (m.arg 0) (m.arg 1)
        s.switching = false → lenOk (m.arg 1) = true → m.arg 0 + m.arg 1 ≤ 0x10400000000 → s.errRead none (m.arg 0) (m.arg 1) = none →
          (s.verify img (m.arg 1) = 0 → s.svn ≤ imgSvn img → ∃ t, Ended .fwStage s t f 0 ∧ SameBytes s t ∧ t.staged = some img)
          ∧ (s.verify img (m.arg 1) ≠ 0 ∨ imgSvn img < s.svn → ∃ t, Ended .fwStage s t f 1 ∧ SameBytes s t ∧ t.staged = s.staged))
    ∧ (s.commanded f 12 true [] = true → (s.staged = none ∨ s.switching = true → ∃ t, Ended .fwActivate s t f 3 ∧ t.switching = s.switching)
        ∧ (s.staged ≠ none → s.switching = false → ∃ t, Ended .fwActivate s t f 0 ∧ SameBytes s t ∧ t.switching = true ∧ ∀ c < 9, (t.ctl c).xquiet = true))
    ∧ (s.commanded f 13 false [64, 17] = true →
        (m.arg 0 % 4096 ≠ 0 ∨ m.arg 1 < 64 → ∃ t, Ended .evRing s t f 1 ∧ t.evrings = s.evrings)
        ∧ ∀ k, 6 ≤ k → k ≤ 16 → m.arg 0 % 4096 = 0 → m.arg 1 = 2 ^ k → ∃ t, Ended .evRing s t f 0
            ∧ sfind t.evrings f = some { base := m.arg 0, size := m.arg 1 } ∧ (∀ i < 4, mbyte t.hostMem (m.arg 0 + i) = 0)
            ∧ ∀ a, a < m.arg 0 ∨ m.arg 0 + 4 ≤ a → mbyte t.hostMem a = mbyte s.hostMem a)
    ∧ (s.commanded f 14 true [5, 64] = true → m.arg 0 ≠ 0 → m.arg 1 % 2 ^ 36 = 0 → ∃ t, Ended .vfWindow s t f 0 ∧ SameBytes s t
        ∧ sfind t.vfwin (m.arg 0) = some (BitVec.ofNat 64 (m.arg 1)))
    ∧ (s.commanded f 15 true [] = true → ∃ t, Ended .fuseCommit s t f 0 ∧ SameBytes s t ∧ t.minSvn = max s.minSvn s.svn)

/-! ## Resets, boot, firmware and the controllers' windows (spec/18_outside.md R397-R408) -/

/-- R5, R400-R402, R404: a function-level reset of the physical function ends every launch and context and returns the
device to the boot ROM's wait, with the fuses and HBM4 as they were; one of a virtual function loses its mailbox and
its ring. `BOOTCTL` starts the check of the image that HBM4 holds; the boot ROM then loads it into the nine
controllers, or leaves its failure code. A controller at a quiet point goes over to the image of the switch; when a
new one knows another handover format, or declares no quiet point in 2^24 of its cycles, the switch is taken back.
What a reset keeps is log 18; the checks of the image where the spec states none are log 20, its cryptography log 10;
what `quietPoint` outside machine mode ends in is log 11, the revert on another handover format log 14. -/
def Obligations.ResetAndBoot : Prop :=
  ∀ s : State, let c := s.ev.unit
    (∀ i, (i = Instr.functionLevelReset ∧ c = 0) ∨ i = Instr.powerUp → ∃ t, exec i s = .next t ∧ t.launches = [] ∧ t.troops = [] ∧ t.crews = [] ∧ t.strands = []
        ∧ t.spaces = [] ∧ t.bootstat = 1 ∧ t.revoked = s.revoked ∧ t.minSvn = s.minSvn ∧ (∀ a, mbyte t.hostMem a = mbyte s.hostMem a)
        ∧ (i = .functionLevelReset → s.slices = [] → ∀ a < 0xC000000000, t.pbyte a = s.pbyte a))
    ∧ (0 < c → c < 32 → ∃ t, exec .functionLevelReset s = .next t ∧ SameBytes s t ∧ t.strands = s.strands ∧ t.mbxAt c = {} ∧ sfind t.evrings c = none
        ∧ ∀ g, g ≠ c → t.mbxAt g = s.mbxAt g ∧ sfind t.evrings g = sfind s.evrings g)
    ∧ (let v := s.ev.value
       let len := s.bootctl.toNat % 2 ^ 32
       let img := s.pread 0 len
       let st := s.bootstat.toNat % 8
       s.silent = false →
        (s.ev.flag = false → st = 1 ∨ st = 5 → v.getLsbD 63 = true → exec .bootVerify s = .next { s with bootctl := v &&& 0x80000000FFFFFFFF, bootstat := 2 })
        ∧ (s.ev.flag = false → (st ≠ 1 ∧ st ≠ 5) ∨ v.getLsbD 63 = false → exec .bootVerify s = .next { s with bootctl := v &&& 0x80000000FFFFFFFF })
        ∧ (s.ev.flag = true → st = 2 → s.errRead none 0 len ≠ none → exec .bootVerify s = .next { s with bootstat := 5 + 5 * 256 })
        ∧ (s.ev.flag = true → st = 2 → s.errRead none 0 len = none → lenOk len = false → exec .bootVerify s = .next { s with bootstat := 5 + 256 })
        ∧ (s.ev.flag = true → st = 2 → s.errRead none 0 len = none → lenOk len = true →
            (s.verify img len = 0 → exec .bootVerify s = .next { s with bootstat := 3, image := img })
            ∧ (s.verify img len ≠ 0 → exec .bootVerify s = .next { s with bootstat := BitVec.ofNat 32 (5 + s.verify img len * 256) }))
        ∧ (s.ev.flag = true → st = 3 → ∃ t, exec .bootVerify s = .next t ∧ t.bootstat = 4 ∧ t.image = s.image ∧ t.svn = imgSvn s.image ∧ t.strands = s.strands
            ∧ ∀ k < 9, (t.ctl k).pc = BitVec.ofNat 64 (0x80000000 + natAt s.image (28 + 16 * k) 4) ∧ (t.ctl k).machine = true)
        ∧ (s.ev.flag = true → st ≠ 2 → st ≠ 3 → exec .bootVerify s = .next s))
    ∧ (∀ img len : Nat, ∀ bs : List Byte, img = imgSvn bs → s.verify bs len = 0 → s.minSvn ≤ img ∧ natAt bs 12 4 = len ∧ s.revoked.testBit (byteAt bs 6) = false)
    ∧ (c < 9 → (s.ctl c).machine = true →
        ((s.ctl c).xquiet = true → s.canSwitch c = true → ∃ t, exec .quietPoint s = .next t ∧ t.strands = s.strands
            ∧ (s.reverting = true ∨ Config.handoverFormat s.nextImage = 1 → (t.ctl c).xquiet = false)
            ∧ (s.reverting = false → Config.handoverFormat s.nextImage ≠ 1 → t.reverting = true ∧ t.nextImage = s.image ∧ ∀ k < 9, (t.ctl k).xquiet = true)
            ∧ (t.ctl c).pc = entryAt s.nextImage c ∧ (t.ctl c).machine = true)
        ∧ ((s.ctl c).xquiet = true → s.canSwitch c = false → exec .quietPoint s = .next s)
        ∧ ((s.ctl c).xquiet = false → s.switching = false → ∃ t, exec .quietPoint s = .next t ∧ SameBytes s t ∧ t.ctl c = { s.ctl c with age := none }))
    ∧ (c < 9 → (s.ctl c).machine = false → exec .quietPoint s = .next (s.hartTrap c codeIllegal 0))
    ∧ (∀ k n, k < 9 → s.switching = true → s.reverting = false → (s.ctl k).age = some n → 2 ^ 24 ≤ n → ∃ t, exec .fwRevertTimeout s = .next t ∧ SameBytes s t
        ∧ t.reverting = true ∧ t.nextImage = s.image ∧ ∀ j < 9, (t.ctl j).xquiet = true ∧ (t.ctl j).age = none)
    ∧ (s.reverting = true → exec .fwRevertTimeout s = .next s)

/-- R398, R399, R402, R403, R406, R408: `xwdog` arms the watchdog; an expiry takes the next step of the ladder, counts
in `xlevel` and is reported. The windows pop events, copy by DMA, answer pin requests, freeze the contexts, set the
package, commit the fuse, answer attestation, and sign; outside machine mode they do none of it and the access is an
exception. Temperature freezes a die or a stack at critical, lets it go on below, and resets the device at shutdown.
The length of a signature is the signer's (log 10); what the last ladder steps keep is log 5 and log 18; what an
exception of a controller changes is log 11. -/
def Obligations.ControllersAct : Prop :=
  ∀ s : State, let c := s.ev.unit
    (c < 9 → (s.ctl c).machine = true → ∃ t, exec .xwdogWrite s = .next t ∧ SameBytes s t
        ∧ t.ctl c = { s.ctl c with xwdog := (s.ctl c).xwdctl.toNat % 2 ^ 32, wdOn := true })
    ∧ (c < 9 → (s.ctl c).wdOn = false ∨ (s.ctl c).xwdog ≠ 0 → exec .watchdogExpiry s = .next s)
    ∧ (let q := s.ctl c
       let n := match q.since with
         | none => 1
         | some a => if 2 ^ 30 ≤ a then 1 else if c = 8 ∧ q.rung = 2 then 4 else min 5 (q.rung + 1)
       let stays (t : State) : Prop := (t.ctl c).xlevel.toNat = (q.xlevel.toNat / 2 ^ 8 + 1) % 2 ^ 24 * 2 ^ 8 + n ∧ (t.ctl c).rung = n
         ∧ (t.ctl c).since = some 0 ∧ (t.ctl c).xwdog = q.xwdctl.toNat % 2 ^ 32 ∧ t.mevq = s.mevq ++ [devRecord 7 c 0 n]
       let resets (t : State) : Prop := t.troops = [] ∧ t.launches = [] ∧ t.strands = [] ∧ (t.ctl c).xlevel = 0 ∧ (t.ctl c).rung = n
         ∧ (t.ctl c).since = some 0
       c < 9 → q.wdOn = true → q.xwdog = 0 → s.mevq.length < 4096 →
        (n = 1 → ∃ t, exec .watchdogExpiry s = .next t ∧ stays t ∧ (t.ctl c).pc = entryAt (s.runImage c) c ∧ (t.ctl c).machine = true ∧ t.strands = s.strands)
        ∧ (n = 2 → c = 8 ∨ ((s.die c).wfaults = [] ∧ (s.die c).kfaults = []) → ∃ t, exec .watchdogExpiry s = .next t ∧ stays t
            ∧ (t.ctl c).pc = entryAt (s.runImage c) c ∧ (t.ctl c).machine = true ∧ t.strands = s.strands
            ∧ (∀ k a, k ≠ c → mbyte (t.ctl k).sram a = mbyte (s.ctl k).sram a))
        ∧ (n = 2 → ∃ t, exec .watchdogExpiry s = .next t ∧ (t.ctl c).pc = entryAt (s.runImage c) c ∧ (t.ctl c).machine = true)
        ∧ (n = 3 → (∀ v ∈ s.troops, dieOfCore (coreOfTroop v.1) ≠ c) → ∃ t, exec .watchdogExpiry s = .next t ∧ stays t ∧ t.strands = s.strands
            ∧ t.troops = s.troops ∧ (t.die c).savedCtx = [] ∧ (t.die c).wfaults = [] ∧ (t.die c).kfaults = [])
        ∧ (n = 4 → ∃ t, exec .watchdogExpiry s = .next t ∧ resets t ∧ t.bootstat = 1)
        ∧ (n = 5 → ∃ t, exec .watchdogExpiry s = .next t ∧ resets t ∧ t.silent = true))
    ∧ ((s.ctl 8).machine = true → (∃ t, exec .xeventWrite s = .next t ∧ (∀ a, t.pbyte a = s.pbyte a) ∧ t.strands = s.strands ∧ t.ctls = s.ctls)
        ∧ ∀ f r, s.evrings = [(f, r)] → r.size ≠ 0 → ∃ t, exec .xeventWrite s = .next t ∧ Signals s t f 1
          ∧ mread t.hostMem (r.base + 64 + 16 * (r.index % r.size)) 16 = s.sram 8 s.ev.value.toNat 16
          ∧ mread t.hostMem r.base 4 = leBytes 4 ((r.index + 1) % 2 ^ 32)
          ∧ sfind t.evrings f = some { r with index := (r.index + 1) % 2 ^ 32 })
    ∧ (c < 8 → (s.ctl c).machine = true → ∃ t, exec .devqRead s = .next t ∧ SameBytes s t ∧ (t.ctl c).rdata = (s.die c).devq.headD 0
        ∧ t.die c = { s.die c with devq := (s.die c).devq.drop 1 })
    ∧ (c < 8 → (s.ctl c).machine = true → (s.die c).devq.length ≤ 4096 → ∃ t, exec .devcntRead s = .next t ∧ SameBytes s t ∧ t.die c = { s.die c with devLost := false }
        ∧ (t.ctl c).rdata.toNat % 65536 = (s.die c).devq.length ∧ (t.ctl c).rdata.getLsbD 16 = (s.die c).devLost)
    ∧ (c = 8 → (s.ctl 8).machine = true → s.mevq.length ≤ 4096 → ∃ t, exec .devcntRead s = .next t ∧ SameBytes s t ∧ t.mevLost = false
        ∧ (t.ctl 8).rdata.toNat % 65536 = s.mevq.length ∧ (t.ctl 8).rdata.getLsbD 16 = s.mevLost)
    ∧ ((s.ctl 8).machine = true → ∃ t, exec .mevqRead s = .next t ∧ SameBytes s t ∧ (t.ctl 8).rdata = s.mevq.headD 0 ∧ t.mevq = s.mevq.drop 1)
    ∧ (c < 8 → (s.ctl c).machine = true → (s.ev.value.getLsbD 0 = false → exec .dmagoWrite s = .next s)
        ∧ (s.ev.value.getLsbD 0 = true → ∃ t, exec .dmagoWrite s = .next t ∧ SameBytes s t ∧ t.die c = { s.die c with dmaBusy := true }))
    ∧ (let d := s.die c
       let n := d.dmalen.toNat
       let a := s.dmaCheck c (dmaEnd d.dmasrc) n true
       let b := s.dmaCheck c (dmaEnd d.dmadst) n false
       let bs := (s.dmaRead c (dmaEnd d.dmasrc) n).1
       c < 8 → (d.dmaBusy = false → exec .dmaComplete s = .next s) ∧ (d.dmaBusy = true →
        (n = 0 ∨ 2 ^ 20 < n → ∃ t, exec .dmaComplete s = .next t ∧ SameBytes s t ∧ t.die c = { d with dmaBusy := false, dmaErr := true })
        ∧ (0 < n → n ≤ 2 ^ 20 → a < 2 → b < 2 → a = 1 ∨ b = 1 → ∃ t, exec .dmaComplete s = .next t ∧ SameBytes s t
            ∧ t.die c = { d with dmaBusy := false, dmaErr := true })
        ∧ (0 < n → n ≤ 2 ^ 20 → a = 0 → b = 0 → ∃ t, exec .dmaComplete s = .next t ∧ t.strands = s.strands ∧ (t.die c).dmaBusy = false ∧ (t.die c).dmaErr = false
            ∧ (∀ o, dmaEnd d.dmadst = .host o → (∀ k e, mbyte (t.ctl k).sram e = mbyte (s.ctl k).sram e)
                ∧ ∀ e, mbyte t.hostMem e = if o ≤ e ∧ e < o + n then bs.getD (e - o) 0 else mbyte s.hostMem e)
            ∧ (∀ o, dmaEnd d.dmadst = .sram o → (∀ e, mbyte t.hostMem e = mbyte s.hostMem e)
                ∧ (∀ k e, k ≠ c → mbyte (t.ctl k).sram e = mbyte (s.ctl k).sram e)
                ∧ ∀ e, mbyte (t.ctl c).sram e = if o ≤ e ∧ e < o + n then bs.getD (e - o) 0 else mbyte (s.ctl c).sram e)
            ∧ ((∀ o, dmaEnd d.dmadst ≠ .dev o) → (∀ o, dmaEnd d.dmasrc ≠ .dev o) → ∀ e, t.pbyte e = s.pbyte e))))
    ∧ ((s.ctl 8).machine = true → (∀ r ∈ s.pinReqs, r.tag ≠ s.ev.value.toNat % 65536) → exec .pinansWrite s = .next s)
    ∧ (∀ r, s.pinReqs = [r] → r.tag = s.ev.value.toNat % 65536 → (s.ctl 8).machine = true → s.still (coreOf r.strand) = false →
        ∃ t, exec .pinansWrite s = .next t ∧ SameBytes s t ∧ t.pinReqs = [] ∧ t.pins = s.pins
          ∧ (s.alive r.strand = true → (s.strand r.strand).life ≠ .saved →
              Goes { s with cur := { strand := r.strand } } t ⟨7, false, r.len⟩ [] [(BitVec.ofNat 3 r.pdst, s.ev.value.getLsbD 16)])
          ∧ (s.alive r.strand = true → (s.strand r.strand).life = .saved → (t.strand r.strand).life = .saved ∧ (t.strand r.strand).held = .eligible)
          ∧ (s.alive r.strand = false → t.strands = s.strands))
    ∧ ((s.ctl 8).machine = true → exec .freezeWrite s = .next { s with frozen := s.ev.value.getLsbD 0 }
        ∧ exec .pkgsetWrite s = .next { s with pkg := s.ev.value.extractLsb' 0 8 }
        ∧ exec .fusecommitWrite s = .next (if s.ev.value.getLsbD 0 = true then { s with minSvn := max s.minSvn s.svn } else s)
        ∧ exec .signgoWrite s = .next (if s.ev.value.getLsbD 0 = true then { s with signgo := s.signgo ||| 1 } else s)
        ∧ exec .doesendWrite s = .next { s with doeAns := mread (s.ctl 8).sram (s.ev.value.toNat % 2 ^ 32 % 2 ^ 20) (s.ev.value.toNat / 2 ^ 32) })
    ∧ ((s.ctl 8).machine = false → ∀ i code off, (i, code, off) ∈ [(Instr.mevqRead, 5, 0), (.pinansWrite, 7, 0x4400), (.freezeWrite, 7, 0xD100), (.pkgsetWrite, 7, 0xD200),
        (.doesendWrite, 7, 0xF808), (.signgoWrite, 7, 0xFA10), (.fusecommitWrite, 7, 0xFB08)] → exec i s = .next (s.hartTrap 8 code (winAddr off)))
    ∧ (c < 8 → (s.ctl c).machine = false → ∀ i code off, (i, code, off) ∈ [(Instr.devqRead, 5, 0), (.devcntRead, 5, 8), (.dmagoWrite, 7, 0x518)] →
        exec i s = .next (s.hartTrap c code (winAddr off)))
    ∧ ((s.ctl 8).machine = false → exec .xeventWrite s = .next (s.hartTrap 8 codeIllegal 0))
    ∧ (c < 9 → (s.ctl c).machine = false → exec .xwdogWrite s = .next (s.hartTrap c codeIllegal 0))
    ∧ (let req := s.ev.data
       let answers (i : Instr) (ans : List Byte) : Prop := ∃ t, exec i s = .next t ∧ SameBytes s t ∧ t.doeAns = ans ∧ t.doeReq = req.take 2048
       (byteAt req 0 = 1 → req.length = 36 → ∃ t, exec .doeAttestRequest s = .next t ∧ SameBytes s t ∧ t.doeAns.take 68 = leBytes 4 (0x81 + s.measureLog.length * 256) ++ leBytes 64 s.measure.toNat
          ∧ (t.doeAns.drop 68).take 32 = req.drop 4)
       ∧ (byteAt req 0 = 1 → req.length ≠ 36 → answers .doeAttestRequest [0xFF, 2, 0, 0])
       ∧ (byteAt req 0 ≠ 1 → byteAt req 0 ≠ 2 → answers .doeAttestRequest [0xFF, 1, 0, 0])
       ∧ (byteAt req 0 = 2 → exec .doeAttestRequest s = .next s) ∧ (byteAt req 0 ≠ 2 → exec .doeCertRequest s = .next s)
       ∧ (byteAt req 0 = 2 → req.length = 4 → answers .doeCertRequest chainAnswer) ∧ (byteAt req 0 = 2 → req.length ≠ 4 → answers .doeCertRequest [0xFF, 2, 0, 0]))
    ∧ (s.signgo.getLsbD 0 = false → exec .signComplete s = .next s)
    ∧ (s.signgo.getLsbD 0 = true → let o := s.signout.toNat % 2 ^ 20
        ∃ t n, exec .signComplete s = .next t ∧ n < 1535 ∧ t.signgo = BitVec.ofNat 64 (n * 16) ∧ (∀ a, t.pbyte a = s.pbyte a) ∧ (∀ k, k ≠ 8 → t.ctl k = s.ctl k)
          ∧ ∀ a, a < o ∨ o + n ≤ a → mbyte (t.ctl 8).sram a = mbyte (s.ctl 8).sram a)
    ∧ (let deg := s.ev.item
       let lv := s.ev.aux
       let held := if c < 8 then (s.die c).hot else (sget s.hbmStacks {} (c - 8)).selfRef
       c < 20 → deg < 256 → s.mevq.length < 4096 →
        (lv < 3 → ∃ t, exec .temperatureLevelChange s = .next t ∧ (∀ a, t.pbyte a = s.pbyte a) ∧ t.strands = s.strands ∧ sfind t.sensors c = some (deg, lv)
            ∧ t.mevq = s.mevq ++ [devRecord 3 c 0 lv]
            ∧ (c < 8 → (t.die c).hot = decide (lv = 2) ∧ t.frozen = s.frozen)
            ∧ (8 ≤ c → (sget t.hbmStacks {} (c - 8)).selfRef = decide (lv = 2) ∧ (lv = 2 → held = false → t.frozen = true)
                ∧ (lv < 2 → held = true → s.hbmStacks.length = 1 → t.frozen = false)
                ∧ (lv < 2 → (∃ e ∈ s.hbmStacks, e.1 ≠ c - 8 ∧ e.2.selfRef = true) → t.frozen = s.frozen) ∧ (decide (lv = 2) = held → t.frozen = s.frozen))
            ∧ ((∀ e ∈ s.sensors, e.2.1 ≤ deg) → t.tempmax.toNat % 256 = deg
                ∧ t.tempmax.toNat / 256 = if lv = 2 ∧ held = false then min (2 ^ 24 - 1) (s.tempmax.toNat / 256 + 1) else s.tempmax.toNat / 256))
        ∧ (lv = 3 → ∃ t, exec .temperatureLevelChange s = .next t ∧ t.troops = [] ∧ t.launches = [] ∧ t.strands = [] ∧ t.bootstat = 1))

/-! ## Errors (spec/16_counters.md R357, spec/10_memories.md R218) -/

/-- R357, R218: a corrected error counts in its domain, saturating, and in its resource; the resource that reaches the
threshold is retired once, counted and reported; a window's end, once its cycles have passed, clears the corrected
counts. An uncorrectable error counts in `ucnt` and is reported, but for one of an L1, whose line goes; of a clean
slice line it only loses the line, of a word of a scratchpad or a register it stands there. Resources, units and
windows of an error are those of log 21. -/
def Obligations.ErrorsAreCountedAndRetired : Prop :=
  ∀ s : State, let i := s.ev.unit
    let r := s.ev.item
    let v := s.rasAt i
    let k := sget s.rasTrack {} i
    let due := rasThresh v ≠ 0 ∧ rasThresh v ≤ countOf (trackOne k.counts r) r
    (s.rasOver i = false →
        (i < 1428 → ¬ due ∨ k.gone.contains r = true → ∃ t, exec .correctedError s = .next t ∧ SameBytes s t ∧ t.strands = s.strands
            ∧ rasCcnt (t.rasAt i) = min 65535 (rasCcnt v + 1) ∧ rasUcnt (t.rasAt i) = rasUcnt v ∧ rasRetired (t.rasAt i) = rasRetired v
            ∧ rasThresh (t.rasAt i) = rasThresh v ∧ (∀ j, j ≠ i → t.rasAt j = s.rasAt j) ∧ (sget t.rasTrack {} i).counts = trackOne k.counts r)
        ∧ (due → k.gone.contains r = false →
          (i < 1100 → s.mevq.length < 4096 → ∃ t, exec .correctedError s = .next t ∧ t.strands = s.strands
              ∧ rasRetired (t.rasAt i) = min 255 (rasRetired v + 1) ∧ t.mevq = s.mevq ++ [devRecord 2 i 0 r] ∧ (sget t.rasTrack {} i).gone = r :: k.gone
              ∧ (i < 512 → (sfind s.troops (64 * i + s.ev.aux)).isSome = false → (t.core i).retiredGran = (s.core i).retiredGran + 1)
              ∧ (1024 ≤ i → i < 1088 → (t.slice (i - 1024)).dead.getLsbD (r % 16) = true))
          ∧ (1100 ≤ i → i < 1172 → (sget s.loops {} (i - 1100)).failed = false →
              ∃ t, exec .correctedError s = .next t ∧ (sget t.loops {} (i - 1100)).failed = true)
          ∧ (1172 ≤ i → i < 1428 → let p := (i - 1172) / 4
              ∃ t, exec .correctedError s = .next t ∧ (sget t.ports {} p).lanes = (if (sget s.ports {} p).width = 4 then 2 else if (sget s.ports {} p).width = 2 then 1 else 0))))
    ∧ (s.rasOver i = true → i < 1428 → rasThresh v ≠ 1 → ∃ t, exec .correctedError s = .next t ∧ SameBytes s t ∧ t.strands = s.strands ∧ rasCcnt (t.rasAt i) = 1
        ∧ (sget t.rasTrack {} i).counts = [(r, 1)])
    ∧ (∀ cs : List (Nat × Nat), cs.length ≤ 16 → (trackOne cs r).length ≤ 16 ∧ ((cs.map (·.1)).Nodup → countOf (trackOne cs r) r = countOf cs r + 1))
    ∧ (i < 1428 → (s.rasOver i = false → exec .rasWindowEnd s = .next s)
        ∧ (s.rasOver i = true → ∃ t, exec .rasWindowEnd s = .next t ∧ SameBytes s t ∧ t.strands = s.strands ∧ rasCcnt (t.rasAt i) = 0 ∧ rasUcnt (t.rasAt i) = rasUcnt v
            ∧ rasRetired (t.rasAt i) = rasRetired v ∧ (sget t.rasTrack {} i).counts = [] ∧ (sget t.rasTrack {} i).gone = k.gone ∧ t.rasOver i = false
            ∧ ∀ j, j ≠ i → t.rasAt j = s.rasAt j))
    ∧ (let e := s.ev.loc
       let u := s.rasAt (errDomain e)
       let counts (t : State) : Prop := exec .uncorrectableError s = .next t ∧ ((∀ x q, e ≠ .reg x q) → t.strands = s.strands) ∧ t.aer = s.aer ++ (match e with | .l1 _ _ => [] | _ => [e]) ∧ rasUcnt (t.rasAt (errDomain e)) = min 65535 (rasUcnt u + 1)
         ∧ rasCcnt (t.rasAt (errDomain e)) = rasCcnt u
       errDomain e < 1428 →
        (∃ t, counts t)
        ∧ (∀ k slot off, e = .pool k slot off → ∃ t, counts t ∧ SameBytes s t ∧ t.errRead (some (64 * k + slot)) off 1 ≠ none)
        ∧ (∀ x q, e = .reg x q → q < 128 → (sfind s.strands x).isSome = true → ∃ t, counts t ∧ SameBytes s t ∧ (t.strand x).bad.getLsbD q = true)
        ∧ (∀ k l, e = .l1 k l → ∃ t, counts t ∧ SameBytes s t ∧ sfind (t.core k).l1 l = none)
        ∧ (∀ n b w, e = .line n b → sfind (s.slice (sliceOf n)).lines n = some w →
            (w.dirty = false → ∃ t, counts t ∧ sfind (t.slice (sliceOf n)).lines n = none ∧ t.errs = s.errs)
            ∧ (w.dirty = true → ∃ t, counts t ∧ SameBytes s t ∧ t.errRead none (128 * n) 128 ≠ none)))

/-! ## Every instruction (spec/02_execution.md R27, R29; spec/04_encoding.md R64-R82; spec/05_registers_strand.md R90, R95) -/

/-- R27, R70, R74: an instruction of a strand whose guard is false only advances the strand's PC by its length, or the
step of its macro: no register, no predicate, no other strand and no byte changes. The collectives sign. -/
def Obligations.FalseGuardOnlyAdvances : Prop :=
  ∀ (i : Instr) (fs : Fields) (s : State), wellFormed i = true → encodeFields i = some fs → signsWhenFalse fs = false →
    s.guardOk (guardFr fs) = false → Computes i s (guardFr fs) [] []

/-- R82, R81, R90, R29, R146, R171: of the checks of an instruction whose guard is true the first that fails decides:
the role, the operands in their order, the lowest register beyond the crew's blocks; then an empty source parks the
strand, and a register that awaits a result makes it Pending; last comes a source register in error (R218; log 21).
How a parked strand tries again is log 6, where a register in error is met log 21. -/
def Obligations.ChecksInOrder : Prop :=
  ∀ (s : State) (f : Fr) (c : Chk) (body : State → State), s.guardOk f = true → s.myStrand.cause.getLsbD 31 = false →
    let bad := (c.srcs ++ c.dsts ++ c.names).filter s.regBad
    let only (t : State) (life : Life) (w : Wait) : Prop :=
      t.strand s.x = { s.myStrand with life := life, wait := w } ∧ (∀ y, y ≠ s.x → t.strand y = s.strand y) ∧ SameBytes s t
    (c.role = false → TookTrap s (s.issue f c body) f { code := 0x03, tval := s.cur.word0 })
    ∧ (c.role = true → ∀ pre n post, c.ops = pre ++ (false, n) :: post → pre.all (·.1) = true →
        TookTrap s (s.issue f c body) f { code := 0x02, tval := BitVec.ofNat 32 n })
    ∧ (c.role = true → c.ops.all (·.1) = true → ∀ r ∈ bad, (∀ q ∈ bad, r ≤ q) → TookTrap s (s.issue f c body) f { code := 0x04, tval := BitVec.ofNat 32 r })
    ∧ (c.role = true → c.ops.all (·.1) = true → bad = [] →
        ((∃ r ∈ c.srcs, s.myStrand.fill.getLsbD r = false) → ∃ e, only (s.issue f c body) .parked (.fill e)
            ∧ ∀ r, r < 128 → e.getLsbD r = (c.srcs.contains r && !s.myStrand.fill.getLsbD r))
        ∧ ((∀ r ∈ c.srcs, s.myStrand.fill.getLsbD r = true) → (∃ r ∈ c.srcs ++ c.dsts, s.myStrand.pend.getLsbD r = true) →
            ∃ e, only (s.issue f c body) .pending (.result e)
              ∧ ∀ r, r < 128 → e.getLsbD r = ((c.srcs ++ c.dsts).contains r && s.myStrand.pend.getLsbD r))
        ∧ ((∀ r ∈ c.srcs, s.myStrand.fill.getLsbD r = true) → (∀ r ∈ c.srcs ++ c.dsts, s.myStrand.pend.getLsbD r = false) →
            ∀ r ∈ c.srcs, s.myStrand.bad.getLsbD r = true → (∀ q ∈ c.srcs, s.myStrand.bad.getLsbD q = true → r ≤ q) →
            TookTrap s (s.issue f c body) f { code := 0x12, tval := BitVec.ofNat 32 r, taddr := BitVec.ofNat 64 r }))

/-! ## The whole machine -/

/-- The state after reset: no launch, context, translation or route; `LOTSEED` 1, `GANGROUNDS` 16, `WAYMASK` 0xFFFF,
`FILTWIN` 16, `MERGEWIN` 0, `PWRLIM` 3,900, the boot ROM waiting, and every memory empty (R198, R211-R213, R293, R313,
R318, R401). `pins`, `evrings`, `routes` empty and the unlisted byte 0 are the model's choices where no rule gives
them (log 2, log 5). -/
def Obligations.ResetState : Prop :=
  State.reset.strands = [] ∧ State.reset.crews = [] ∧ State.reset.troops = [] ∧ State.reset.launches = [] ∧ State.reset.spaces = []
    ∧ State.reset.routes = [] ∧ State.reset.pins = [] ∧ State.reset.evrings = [] ∧ State.reset.bootstat = 1 ∧ State.reset.pwrlim = 3900
    ∧ (∀ d, (State.reset.die d).lotseed = 1 ∧ (State.reset.die d).gangrounds = 16 ∧ (State.reset.die d).devq = [] ∧ (State.reset.die d).tlb = [])
    ∧ (∀ d q, State.reset.queueAt d q = {})
    ∧ (∀ n, (State.reset.slice n).waymask = 0xFFFF ∧ (State.reset.slice n).filtwin = 16 ∧ (State.reset.slice n).mergewin = 0 ∧ (State.reset.slice n).lines = [])
    ∧ (∀ k, (State.reset.core k).tlb = [] ∧ (State.reset.core k).l1 = [] ∧ (State.reset.core k).caps = [] ∧ (State.reset.core k).score = [])
    ∧ State.reset.memOk = true

/-- Every memory of the machine keeps its canonical form: physical memory, host memory, the scratchpad and tile slots
of every troop, and the SRAM of every controller. A form of the model's own data (log 2). -/
def Obligations.StepKeepsMemoriesCanonical : Prop :=
  ∀ s t : State, s.memOk = true → step s = .next t → t.memOk = true

/-- R64, R66, R67: a unit's next team member issues the instruction that the words at its PC decode to: the step is
that instruction's meaning, run for that strand once the lines of its words have been accessed; the last member of a
team gives the strands their stamps. After the step, launches whose strands have all triggered are noted (R39, R399),
what the step changes of a crew that is saved enters that crew's record (R156, R375), and where no crew is saved there
is nothing more. A macro call is not among them (R331). That a step is one strand of a team is the model's order of
moves (log 1); the record of a saved crew is log 14; the slice accesses of a fetch are log 7, the stamps and the
deterministic turn log 26, when an exit counts log 13. -/
def Obligations.StepRunsTheDecodedInstruction : Prop :=
  ∀ (s : State) (u x : Nat) (rest : List Nat) (ms : List Move), s.agenda = .issue u :: ms → s.still (u / 5) = false → (s.unit u).team = x :: rest →
    let s1 := { s with agenda := ms, focus := u }.modUnit u (fun v => { v with team := rest })
    (∀ v, v / 5 = u / 5 → (s.unit v).team ≠ [] → v = u) → s1.alive x = true → (s1.strand x).life = .eligible → s1.mayIssue (crewOf x) = true →
    ∀ w0 ws i more, { s1 with cur := { strand := x } }.fetchFrame = .words w0 ws → decodeWords ws = .ok (i, more) → callOf i = none →
      let s0 := { s1 with cur := { strand := x } }
      let s2 := { (if s0.myStrand.step < 32 then s0 else s0.fetchTouch ws.length) with cur := { strand := x, word0 := w0 } }
      (∀ t, exec i s2 = .next t → let s3 := t.restamp u
          let t2 := if rest = [] then (if (s3.launchOf (troopOf x)).det = true then s3.rotSettle (troopOf x) u else s3) else t
          step s = s.afterStep t2 ∧ ((∀ c ∈ s.crews, c.2.res ≠ .saved) → step s = .next ((t2.launches.map (·.1)).foldl State.noteLaunch t2)))
      ∧ (∀ e, exec i s2 = .fault e → step s = .fault e) ∧ (∀ r, exec i s2 = .refused r → step s = .refused r)

/-! ## Encoding (spec/04_encoding.md R64-R80) -/

/-- Words written out from the encoding tables of the spec decode to their instructions (R68, R71, R73, R104, R219). -/
def Obligations.WordsDecode : Prop :=
  decodeWords [0x10100804] = .ok (.add .always 1 4 (.reg 8), []) ∧ decodeWords [0xFE100808] = .ok (.addi .always 1 4 (.imm 0x7F), [])
    ∧ decodeWords [0x10100805, 0x89ABCDEF, 0x00000000] = .error .fieldNotUsed
    ∧ decodeWords [0x00100805, 0x89ABCDEF, 0x00000000] = .ok (.add .always 1 4 (.lit 0x89ABCDEF), [])
    ∧ decodeWords [0x10100806, 0x00000B00, 0x00000000] = .ok (.add (.ext 3 true) 1 4 (.reg 8), [])
    ∧ decodeWords [0x000000B0] = .ok (.exit .always, []) ∧ decodeWords [0x00000000] = .error .reservedOp7
    ∧ decodeWords [0x000001B0] = .error .majorInBaseFrame

/-- R64-R80: the words of every well-formed instruction of a strand decode to it, whatever words follow. -/
def Obligations.EveryInstructionRoundTrips : Prop :=
  ∀ (i : Instr) (ws rest : List Word), wellFormed i = true → encodeWords i = some ws → decodeWords (ws ++ rest) = .ok (i, rest)

/-- R79, R80: no two word sequences mean one instruction, and no field goes unread: words that decode to an
instruction are its own words, with what follows. -/
def Obligations.EveryWordHasOneMeaning : Prop :=
  ∀ (i : Instr) (ws rest : List Word), decodeWords ws = .ok (i, rest) → wellFormed i = true ∧ ∃ us, encodeWords i = some us ∧ ws = us ++ rest
end

