-- ==== Sys2Proof/Tests/Slice0.lean ====
section
/-! SUPPORT. Slice0.lean: the tests of the model: ill-formed terms refused, words written out from the encodings of the
spec, one step of small states against values worked out by hand from the spec, and for each statement states that meet
its hypotheses. -/

namespace Sys2Proof.Tests
open Sys2Proof.Machine
set_option Elab.async false

/-! ## Small states -/

/-- A troop of launch 1 on core 0: 2 scratchpad granules, 4 of accumulators, 8 of tiles, 16 of registers. -/
def troop0 : Troop := { lid := 1, sgw := 0x00210810 }
/-- One crew of one strand at 0x10000, with registers and a role. -/
def one (role : Role) (regs : Sparse Word) : State :=
  { launches := [(1, probeLaunch)], troops := [(0, troop0)], crews := [(0, { role := role, ext := 3 })],
    strands := [(0, { pc := 0x10000, regs := regs })] }
/-- The same crew with strands on lanes 0 and 31, hitch 31 declared for two signatures. -/
def two (role : Role) (regs : Sparse Word) : State :=
  { one role regs with
    troops := [(0, { troop0 with hitches := [(31, { decl := .count 2 })] })]
    strands := [(0, { pc := 0x10000, regs := regs }), (31, { pc := 0x10000, regs := regs })] }
/-- The strand of the issue after an outcome. -/
def after (r : Out) : Option Strand := match r with | .next t => some (t.strand t.x) | _ => none
def regOf (r : Out) (n : Nat) : Option Word := (after r).map (fun t => sget t.regs 0 n)
def causeOf (r : Out) : Option Nat := (after r).map (fun t => t.cause.toNat % 256)
def landed (r : Out) : Bool := match r with | .next _ => true | _ => false

/-! ## Ill-formed terms (R80, R102, R174, R221, R239, R255, R263, R304) -/

def g7 : XG := ⟨7, false⟩
def xa : XA := ⟨g7, none⟩
theorem test_ill_pop : wellFormed (.pop .always .not 1 2 3) = false ∧ wellFormed (.pop .always .set 1 2 0) = false := by decide
theorem test_ill_ld_policy : wellFormed (.ld g7 .b32 false none .stream 1 ⟨.spm, 2, .imm 0⟩) = false := by decide
theorem test_ill_ld_sign : wellFormed (.ld g7 .b32 true none .normal 1 ⟨.spm, 2, .imm 0⟩) = false := by decide
theorem test_ill_st : wellFormed (.st g7 .b32 none .nl1 ⟨.cluster, 2, .imm 0⟩ 3) = false := by decide
theorem test_ill_atom : wellFormed (.atom g7 .add .b16 .relaxed .crew 1 ⟨.spm, 2, .imm 0⟩ 3) = false
    ∧ wellFormed (.atom g7 .fadd .b64 .relaxed .crew 1 ⟨.spm, 2, .imm 0⟩ 4) = false := by decide
theorem test_ill_cas : wellFormed (.cas g7 .b128 .relaxed .crew 1 ⟨.spm, 2, .imm 0⟩ 3 4) = false := by decide
theorem test_ill_cinval : wellFormed (.cinval g7 true ⟨2, .imm 0⟩ 0) = false ∧ wellFormed (.cinval g7 true ⟨0, .imm 4⟩ 0) = false := by decide
theorem test_ill_adrain : wellFormed (.adrain ⟨g7, 0, none⟩ .f32 false none false 1 2 3 0) = false := by decide
theorem test_ill_ring_engines : wellFormed (.copyLd xa true 1 2 3 4) = false ∧ wellFormed (.gather xa true 1 2 3 4 5) = false := by decide
theorem test_ill_xform : wellFormed (.xform xa true .pack 1 2 3 4 0) = false ∧ wellFormed (.xform xa false .rtr 1 2 3 4 0) = false
    ∧ wellFormed (.xform xa false .zmap 1 2 0 4 1) = false := by decide
theorem test_ill_kv_counts : wellFormed (.kvappend xa false 1 2 3 0) = false ∧ wellFormed (.kvappend xa false 1 2 3 257) = false
    ∧ wellFormed (.kvgather xa .k false 1 2 3 4 0) = false ∧ wellFormed (.kvgather xa .k true 1 2 3 4 8) = false := by decide
theorem test_ill_queue_size : wellFormed (.enqX g7 .global 3 1 2 3) = false ∧ wellFormed (.deqX g7 .global 3 1 2 3) = false := by decide
theorem test_ill_registers : hwRegOk (.lqbase 8 0) = false ∧ hwRegOk (.mbxBlock 0 8) = false ∧ errLocOk (.loop 72) = false := by decide

/-! ## Words written out from the encoding tables (R68-R79, and the table of each family) -/

/-- Word 0 by R68 Table 2, bit by bit: frame [1:0], `op7` [8:2], guard [10:9], d [17:11], a [24:18], b [31:25]. -/
def wd0 (len op7 g d a b : Nat) : Word :=
  BitVec.ofNat 32 (len + op7 * 2 ^ 2 + g * 2 ^ 9 + d * 2 ^ 11 + a * 2 ^ 18 + b * 2 ^ 25)
/-- Word 1 by R73 Table 7 under the guard `p7`: subop [39:32], `gpred` [42:40], `gsense` [43], e [50:44], mods [55:51], fmt8 [63:56]. -/
def wd1 (subop e mods fmt8 : Nat) : Word :=
  BitVec.ofNat 32 (subop + 7 * 2 ^ 8 + e * 2 ^ 12 + mods * 2 ^ 19 + fmt8 * 2 ^ 24)
abbrev reads (ws : List Word) (i : Instr) : Prop := (decodeWords ws = .ok (i, []) ∧ wellFormed i = true)
/-- An extended instruction: op7, d, a, b, subop, e, mods, fmt8, imm32. -/
def ext (op7 d a b subop e mods fmt8 imm : Nat) : List Word :=
  [wd0 2 op7 0 d a b, wd1 subop e mods fmt8, BitVec.ofNat 32 imm]

/-- The sequence of R87's chapter: every word as the spec sums it. -/
theorem test_words_short_sequence :
    reads [0x0C142004] (.add .always 4 5 (.reg 6)) ∧ reads [0xFE1C3C08] (.addi .notP0 7 7 (.imm 0x7F))
    ∧ reads [0x00142005, 0x3E8, 0] (.add .always 4 5 (.lit 1000)) ∧ reads [0x0A108880] (.cmp .always .lt 1 4 (.reg 5))
    ∧ reads [0x00104196, 0x40480700, 0x40] (.ld g7 .b32 false (some .die) .normal 8 ⟨.global, 4, .imm 64⟩)
    ∧ reads [0xFFFFB8A0] (.bra .always 0x1FFFF7) := by and_intros <;> decide +kernel
theorem test_words_integer :
    reads [wd0 0 0x1B 1 4 5 6] (.bfe .p0 4 5 (.reg 6)) ∧ reads [wd0 0 0x13 3 4 5 31] (.sari .p1 4 5 (.imm 31))
    ∧ reads [wd0 0 0x1E 0 4 127 127] (.li .always 4 (.imm 0x3FFF)) ∧ reads [wd0 0 0x1F 0 4 6 8] (.add64 .always 4 6 (.reg 8))
    ∧ reads [wd0 0 0x22 0 (3 * 8 + 3) 2 5] (.pop .always .andn 3 2 5) ∧ reads [wd0 0 0x21 0 (9 * 8 + 6) 2 64] (.cmpi .always .geu 6 2 (.imm 0x40))
    ∧ reads [wd0 2 0x19 0 4 5 0, 0x00000C00, 0] (.popc (.ext 4 true) 4 5) := by and_intros <;> decide +kernel
theorem test_words_control :
    reads [0x28201094] (.spawn .always 2 8 20) ∧ reads [0x00000098] (.rein .always) ∧ reads [0x0000009C] (.trigger .always)
    ∧ reads [wd0 0 0x24 0 63 1 2] (.mcall .always 63 1 2) ∧ reads [wd0 0 0x2A 0 0 4 0] (.brx .always 4)
    ∧ reads [wd0 0 0x2E 0 0 1 64] (.trap .always 0x2001) ∧ reads [wd0 0 0x29 2 0 0 1] (.call .notP0 0x4000) := by and_intros <;> decide +kernel
theorem test_words_float :
    reads [wd0 0 0x33 0 4 5 6] (.ffma .always 4 5 (.reg 6)) ∧ reads [wd0 0 0x36 0 (13 * 8 + 1) 5 6] (.fcmp .always .uge 1 5 (.reg 6))
    ∧ reads [wd0 0 0x37 0 4 5 6] (.fsfu .always .tanh 4 5) ∧ reads [wd0 0 0x38 0 4 5 11] (.fcvt .always .e8m0f32 4 5)
    ∧ reads [wd0 0 0x3F 0 4 5 0] (.fclass .always 4 5) := by and_intros <;> decide +kernel
/-- The example of R135, and base collectives. -/
theorem test_words_collectives :
    reads [0x002C518A, 0x23182700, 3] (.shflX g7 .up 3 10 11 (.imm 3) 2 4) ∧ reads [wd0 0 0x44 0 4 6 3] (.vote .always .mask 4 6)
    ∧ reads [wd0 0 0x45 0 4 5 11] (.redux .always .xor 4 5) ∧ reads (ext 0x62 4 6 0 4 5 (3 * 2) (9 * 8 + 5) 0) (.peers g7 true true 5 4 6 5 9)
    ∧ reads (ext 0x62 0 0 0 5 0 3 (4 * 8) 0xFF) (.hset g7 true 4 (.imm 0xFF)) ∧ reads (ext 0x62 31 7 0 7 0 0 (2 * 8) 0) (.kset g7 31 (.reg 7) 2)
    ∧ reads (ext 0x62 4 5 0 3 1 (7 * 2) (1 * 8 + 2) 0) (.scan g7 .minU true 2 4 5 1) := by and_intros <;> decide +kernel
theorem test_words_put :
    reads [wd0 0 0x48 0 31 4 6] (.put .always 31 4 (.reg 6)) ∧ reads [wd0 0 0x4A 0 40 0 32] (.empty .always 40 32)
    ∧ reads [wd0 0 0x4B 0 5 9 0] (.fillq .always 5 9) ∧ reads (ext 0x64 4 8 6 0 3 4 0 17) (.capmint g7 .add 4 8 6 3 17)
    ∧ reads (ext 0x64 7 4 6 5 0 2 (128 + 8 * 3) 0x2A) (.putadd ⟨g7, some 3⟩ true 7 4 6 (some 10))
    ∧ reads (ext 0x64 7 0 0 6 9 0 0 32) (.emptyX g7 7 9 32) := by and_intros <;> decide +kernel
theorem test_words_memory :
    reads [wd0 0 0x50 0 4 6 0x7F] (.ldw .always 4 6 0x7F) ∧ reads [wd0 0 0x53 0 4 6 1] (.sts .always 4 6 1)
    ∧ reads [wd0 0 0x54 0 4 1 64] (.ldp .always 4 0x2001) ∧ reads (ext 0x65 4 6 8 2 9 (2 * 4 + 3) (4 * 32 + 1) 16)
      (.atom g7 .fadd .b32 .ar .span 4 ⟨.spm, 6, .imm 16⟩ 8)
    ∧ reads (ext 0x65 0 6 8 1 0 (4 * 4) (1 * 8) 0xFFFFFFFC) (.st g7 .b128 none .stream ⟨.global, 6, .imm 0xFFFFFFFC⟩ 8)
    ∧ reads (ext 0x65 0 0 0 6 1 0 0 0) (.cinval g7 true ⟨0, .imm 0⟩ 0) ∧ reads (ext 0x65 0 0 0 9 0 3 (3 * 32) 0) (.fence g7 .full .pkg)
    ∧ reads (ext 0x65 5 6 8 7 9 0 0 64) (.pin g7 5 ⟨6, .imm 64⟩ 8 9) := by and_intros <;> decide +kernel
/-- The example of R174, and others of R174 Table 6 and R186 Table 3. -/
theorem test_words_tile :
    reads [0x0018119A, 0x88000702, 0x100] (.tload ⟨g7, 0, some 1⟩ false 2 6 0x100)
    ∧ reads (ext 0x66 3 6 9 7 31 (1 + 2 * 2 + 8 + 16) 0 (0x40 + 5 * 2 ^ 28)) (.adrain ⟨g7, 31, none⟩ .reef true (some 5) true 3 6 9 0x40)
    ∧ reads (ext 0x66 3 0 0 6 1 0 0 (2 + 3 * 4)) (.azero ⟨g7, 1, none⟩ 3 2 3) ∧ reads (ext 0x66 3 0 0 10 0 0 0 0xFFFFFF02) (.ascale ⟨g7, 0, none⟩ 3 0xFFFFFF02)
    ∧ reads (ext 0x67 3 4 5 3 2 0 0x88 7) (.mmaprog ⟨g7, 2, some 1⟩ 3 4 5 7) ∧ reads (ext 0x67 15 14 13 2 0 0 0 0) (.mmaE ⟨g7, 0, none⟩ 15 14 13) := by
  and_intros <;> decide +kernel
/-- The examples of R239, R255 and R351, and others of their tables. -/
theorem test_words_engines :
    reads [0x182C51A6, 0xA810D701, 0x28] (.kvgather ⟨g7, some 5⟩ .kv false 10 11 12 13 40)
    ∧ reads [0x005051A2, 0x9000E700, 3] (.copyLd ⟨g7, some 2⟩ false 10 20 14 3) ∧ reads (ext 0x68 10 20 12 1 14 0 0 (3 + 2 * 2 ^ 8)) (.copymc xa 10 20 12 14 3 2)
    ∧ reads (ext 0x68 0 20 0 4 14 0 4 (1 * 16)) (.xform xa true .rtr 0 20 0 14 0) ∧ reads (ext 0x68 0 20 0 5 0 0 0 15) (.lrec g7 20 15)
    ∧ reads (ext 0x69 10 11 0 0 13 1 0 256) (.kvappend xa true 10 11 13 256) ∧ reads (ext 0x69 10 11 0 5 0 1 0 0) (.kvopen g7 true 10 11) := by
  and_intros <;> decide +kernel
theorem test_words_queues_counters :
    reads [0x002019AE, 0x00080704, 0] (.bwait g7 3 8 (.imm 0)) ∧ reads [wd0 0 0x5E 0 2 4 6] (.enq .always 2 4 6)
    ∧ reads [wd0 0 0x5F 0 2 4 6] (.deq .always 2 4 6) ∧ reads [wd0 0 0x58 0 0 (1 + 8 * 15) 3] (.wait .always 1 0x3F)
    ∧ reads (ext 0x6A 4 8 0 3 5 3 0 1) (.awaitX g7 4 8 (.imm 1) (some 5)) ∧ reads (ext 0x6A 2 8 4 7 0 0 (2 + 2 * 4) 0) (.enqX g7 .global 2 2 8 4)
    ∧ reads (ext 0x6A 0 0 0 10 0 2 9 0) (.pdkeyFlush g7 9) ∧ reads (ext 0x6A 5 8 0 9 0 0 15 0) (.spawnX g7 5 8 15)
    ∧ reads (ext 0x6B 0 0 0 0 0 0 0 (1 + 2 * 64 + 3 * 4096 + 4 * 2 ^ 18 + 5 * 2 ^ 24)) (.waitX g7 1 2 3 4 5)
    ∧ reads (ext 0x6B 4 0 0 10 0 (2 + 2 * 4) 15 0) (.fidrd g7 .flags true 15 4) ∧ reads (ext 0x6B 0 8 6 5 0 0 255 0) (.bdue g7 8 (.reg 6) 255) := by
  and_intros <;> decide +kernel
/-- The words of R367, and XALU, XFP, XSPEC and XMAC by their tables. -/
theorem test_words_system :
    reads [0x000011B2, 0x00000702, 0] (.ppoint g7 false 2) ∧ reads [0x000001B2, 0x00080703, 1000] (.sleep g7 (.imm 1000))
    ∧ reads [0x000001B2, 0x00100700, 0] (.eretSkip g7) ∧ reads (ext 0x6C 5 0 0 1 0 0 2 0) (.causeLogn g7 5)
    ∧ reads (ext 0x60 4 6 8 9 0 2 3 0) (.lea g7 true 3 4 6 (.reg 8)) ∧ reads (ext 0x60 4 6 8 5 0 0 (2 + 3 * 8) 0) (.addc g7 4 6 (.reg 8) 2 3)
    ∧ reads ([wd0 3 0x60 0 4 0 0, wd1 10 0 1 0, 0, 5, 6]) (.li64 g7 4 (.lit 0x600000005)) ∧ reads (ext 0x60 4 6 8 14 9 6 0 0) (.dsh g7 true true 4 6 (.reg 8) 9)
    ∧ reads (ext 0x61 4 5 0 5 0 (3 * 2) 4 0) (.fcvtX g7 .ru .f32e5m2s 4 5) ∧ reads (ext 0x61 4 5 6 10 7 2 0 0) (.fdot2 g7 .rz 4 5 (.reg 6) 7)
    ∧ reads (ext 0x63 4 0 0 0 0 0 0x12 0) (.sread g7 4 .cause)
    ∧ reads (ext 0x63 4 31 0 4 0 0 0 0) (.kmov g7 4 31) ∧ reads (ext 0x63 0 5 0 5 0 2 0x7F 0) (.pmovSet g7 5 0x7F)
    ∧ reads (ext 0x6D 0 4 6 0 2 0 63 0) (.mstore g7 63 4 (.reg 6) 2) ∧ reads (ext 0x6D 1 2 0 2 3 1 5 127) (.mcallX g7 5 1 2 (.imm 127) 3) := by
  and_intros <;> decide +kernel

/-! ## Each statement's hypotheses are met -/

def sV : State := one .vector [(4, 7), (6, 0xFFFFFFF9)]
def sM : State := one .matrix [(4, 7)]
/-- The strand's fields changed. -/
def tweak (s : State) (f : Strand → Strand) : State := { s with cur := { strand := 0 } }.modStrand 0 f

theorem witness_IntegerRegisterResults :
    sV.ready (baseFr .always false) (chkBR 127 6 (.reg 4)) = true ∧ sV.ready (baseFr .notP0 true) (chkBR 0 6 (.lit 0xFFFFFFFF80000000)) = true
    ∧ sV.ready (baseFr (.ext 7 false) false) (chkBRd 4 6 (.reg 4)) = true ∧ sV.ready (baseFr .always false) (chkBI 4 6 (.imm 0x40)) = true
    ∧ sV.ready (baseFr .always true) (chkBI 4 6 (.lit 0xFFFFFFFF)) = true ∧ sV.ready (baseFr .always false) (chkSh 4 6 (.imm 31)) = true
    ∧ sV.ready (baseFr .always true) (chkSh 4 6 (.lit 31)) = true ∧ sV.ready (baseFr .always false) (chkUn 4 6) = true
    ∧ sV.ready (baseFr .always true) { ops := [(wimmOk (.lit 9), 5)], dsts := [4] } = true := by and_intros <;> decide +kernel
theorem witness_ComparePredicateSelect :
    sV.ready (baseFr .always false) { ops := [(bsrcOk (.reg 6), 5)], srcs := [4, 6] } = true
    ∧ sV.ready (baseFr .always false) { ops := [(bimmOk (.imm 3), 5)], srcs := [4] } = true
    ∧ sV.ready (extFr g7 true) { ops := [(pairOk 4, 2), (xsrcPairOk (.lit 5), 3)], srcs := pairRegs 4 ++ xsrcPair (.lit 5) } = true
    ∧ sV.ready (baseFr .always false) {} = true ∧ sV.ready (extFr g7 false) (chkXR 4 6 (.imm 5)) = true := by and_intros <;> decide +kernel
theorem witness_ExtendedIntegerResults :
    sV.ready (extFr g7 false) (chkXR 4 6 (.imm 0)) = true ∧ sV.ready (extFr g7 true) (chkXR 4 6 (.lit 0xFFFFFFFFFFFFFFFF)) = true
    ∧ sV.ready (baseFr .always false) { ops := [(pairOk 126, 1), (pairOk 6, 2), (bsrcPairOk (.reg 4), 3)], srcs := pairRegs 6 ++ bsrcPair (.reg 4), dsts := pairRegs 126 } = true
    ∧ sV.ready (extFr g7 false) { ops := [(pairOk 8, 1), (pairOk 6, 2), (xsrcPairOk (.imm 1), 3)], srcs := pairRegs 6, dsts := pairRegs 8 } = true
    ∧ sV.ready (extFr g7 false) { ops := [(pairOk 8, 1), (xsrcOk (.reg 4), 5)], srcs := [6, 4], dsts := pairRegs 8 } = true
    ∧ sV.ready (extFr g7 false) { ops := [(pairOk 8, 1), (pairOk 6, 2)], srcs := pairRegs 6 ++ [4], dsts := pairRegs 8 } = true
    ∧ sV.ready (extFr g7 true) { ops := [(pairOk 8, 1)], dsts := pairRegs 8 } = true ∧ sV.ready (extFr g7 false) (chkUn 4 6) = true
    ∧ sV.ready (extFr g7 false) (chkXRe 8 6 (.reg 4) 7) = true := by and_intros <;> decide +kernel
theorem witness_FloatResults :
    sV.ready (baseFr .always false) (chkBR 4 6 (.reg 4)) = true ∧ sV.ready (baseFr .always true) (chkBRd 4 6 (.lit 0x3F800000)) = true
    ∧ sV.ready (baseFr .always false) { ops := [(bsrcOk (.reg 6), 5)], srcs := [4, 6] } = true ∧ sV.ready (baseFr .always false) (chkUn 4 6) = true
    ∧ sV.ready (extFr g7 false) (chkXR 4 6 (.imm 5)) = true ∧ sV.ready (extFr g7 false) (chkXRe 4 6 (.reg 4) 7) = true
    ∧ sV.ready (extFr g7 false) (chkUn 4 6) = true ∧ sV.ready (extFr g7 false) { srcs := [6], dsts := [4, 4] } = true := by and_intros <;> decide +kernel
theorem witness_FloatNanAndInfinity :
    isNan 0x7F800001 = true ∧ isNan 0xFFFFFFFF = true ∧ isNan 0x7F800000 = false ∧ isNan 1 = false
    ∧ BitVec.extractLsb' 0 31 (1 : Word) ≠ 0 ∧ BitVec.extractLsb' 0 31 (0xFF7FFFFF : Word) ≠ 0x7F800000 ∧ isNan 0xFF7FFFFF = false := by and_intros <;> decide +kernel
theorem witness_RoundingKeepsRepresentable :
    0 < fpBf16.mw ∧ 1 < fpBf16.ew ∧ (0x8001 : Nat) < 2 ^ (1 + fpBf16.ew + fpBf16.mw) ∧ fdecode fpBf16 0x8001 = .fin true 1 (-133)
    ∧ fval 0x7F7FFFFF = .fin false 0xFFFFFF 104 ∧ fval 0x00000001 = .fin false 1 (-149) := by and_intros <;> decide +kernel
/-- One third rounds to 0x3EAAAAAB to nearest and 0x3EAAAAAA towards zero; 0x3EAAAAAC is another code of its sign. -/
theorem witness_RoundingIsNearest :
    0 < 1 ∧ 0 < 3 ∧ (0x3EAAAAAC : Nat) < 2 ^ 32 ∧ fdecode fp32 0x3EAAAAAC = .fin false 0xAAAAAC (-25)
    ∧ fdecode fp32 (roundQ fp32 .rne false 1 3 0) = .fin false 0xAAAAAB (-25)
    ∧ fdecode fp32 (roundQ fp32 .rz false 1 3 0) = .fin false 0xAAAAAA (-25) := by and_intros <;> decide +kernel
theorem witness_BranchCallReturn :
    sV.ready (baseFr .always false) {} = true ∧ sV.ready (baseFr (.ext 7 false) false) { dsts := [126, 127] } = true
    ∧ sV.ready (baseFr .always false) { ops := [(pairOk 6, 2)], srcs := pairRegs 6 } = true
    ∧ sV.ready (baseFr .always false) { srcs := [126, 127] } = true ∧ (sV.rd64 6).extractLsb' 0 2 = 1 ∧ (sV.rd64 126).extractLsb' 0 2 = 0 := by
  and_intros <;> decide +kernel
theorem witness_TrapEntry :
    sV.myStrand.cause.getLsbD 31 = false ∧ (255 : Nat) < 256 ∧ (7 : Nat) < 8 ∧ (63 : Nat) < 64
    ∧ (tweak sV ({ · with cause := 0x80000001 })).myStrand.cause.getLsbD 31 = true ∧ sV.myStrand.faults = [] ∧ sV.myCrew.log.length < 8 := by
  and_intros <;> decide +kernel
theorem witness_SoftwareTraps : sV.ready (baseFr .p1 false) {} = false ∧ sV.ready (baseFr .notP0 false) {} = true ∧ sV.myStrand.cause.getLsbD 31 = false := by
  and_intros <;> decide +kernel
/-- Without and with a save request, with no store on its way and with one in the crew's queue, in its handler and not. -/
def sSave : State := sV.modCrew 0 (fun c => { c with saveReq := some 0 })
def sStore : State := sV.modCrew 0 (fun c => { c with sq := [{ tgt := .spm 0, va := 0, addr := 64, data := [1], strand := 0 }] })
def sRein : State := sM.modTroop 0 (fun t => { t with reins := [(0, 1, 0)] })
theorem witness_StrandSuspension :
    sV.ready (baseFr .always false) {} = true ∧ sV.relReady .pkg = true ∧ sStore.relReady .pkg = false ∧ sStore.ready (baseFr .always false) {} = true
    ∧ sV.ready (extFr g7 false) {} = true ∧ 32 ≤ bits (tweak sV ({ · with cause := 0xBF000001 })).myStrand.cause.toNat 29 24
    ∧ sV.myStrand.latch = none ∧ (sV.myCrew.saveReq.isSome || sV.myTroop.saveReq.isSome) = false
    ∧ (sSave.myCrew.saveReq.isSome || sSave.myTroop.saveReq.isSome) = true ∧ sSave.ready (extFr g7 false) {} = true
    ∧ sRein.myCrew.role = .matrix ∧ (∃ p ∈ sRein.myTroop.reins, p.1 = crewIdx (crewOf sRein.x) ∨ p.2.1 = crewIdx (crewOf sRein.x))
    ∧ sRein.guardOk (baseFr .always false) = true := by and_intros <;> decide +kernel
def sDet : State := { sV with launches := [(1, { probeLaunch with packet := probeLaunch.packet ||| BitVec.ofNat 1024 (2 ^ 554) })] }
def sSlept : State := { tweak sV ({ · with life := .parked, wait := .clock 0, latch := some 0 }) with ev := { unit := 0 } }
def sAsleep : State := { tweak sV ({ · with life := .parked, wait := .clock 9, latch := some 9 }) with ev := { unit := 0 } }
theorem witness_SleepParksUntilTheCount :
    let r (s : State) (b : XSrc) := s.ready (extFr g7 false) { ops := [(xsrcOk b, 5)], srcs := xsrcRegs b }
    r sV (.imm 0) = true ∧ sV.xsrc (.imm 0) = 0 ∧ r sDet (.imm 5) = true ∧ sDet.myLaunch.det = true ∧ r sV (.reg 4) = true ∧ sV.xsrc (.reg 4) ≠ 0
    ∧ sV.myLaunch.det = false ∧ sV.myStrand.latch = none ∧ r sSlept (.imm 5) = true ∧ sSlept.myStrand.latch = some 0 ∧ 0 ≤ sSlept.myCore.cycle
    ∧ (sAsleep.strand 0).life = .parked ∧ (sAsleep.strand 0).wait = .clock 9 ∧ (sAsleep.core 0).cycle < 9
    ∧ (sSlept.strand 0).life = .parked ∧ (sSlept.strand 0).wait = .clock 0 ∧ 0 ≤ (sSlept.core 0).cycle ∧ sSlept.still 0 = false ∧ sSlept.mayIssue 0 = true := by
  and_intros <;> decide +kernel
def sBin : State := sV.modCore 0 (fun k => { k with bins := [(3, { troop := 0, key := 15, reqs := [[1]], timer := none })] })
def sCap : State := { sV with strands := [(0, { pc := 0x10000, regs := [(4, 0x02000000)] })] }.modCore 0 (fun k =>
  { k with caps := [(0, { live := true, rights := 1, base := 127, count := 1, lanes := 0xFFFFFFFF })] })
theorem witness_SpecialRegisters :
    sV.ready (extFr g7 false) { dsts := [4] } = true ∧ sBin.binOf 0 15 = some (3, { troop := 0, key := 15, reqs := [[1]], timer := none })
    ∧ sV.ready (extFr g7 false) { ops := [(decide ((31 : Reg).toNat < 32), 2)], dsts := [4] } = true
    ∧ sV.ready (extFr g7 false) { ops := [(pairOk 4, 1)], dsts := pairRegs 4 } = true ∧ sV.ready (baseFr .always false) { names := [9] } = true
    ∧ sV.ready (baseFr .always false) (chkUn 4 6) = true
    ∧ sCap.ready (extFr g7 false) { ops := [(pairOk 8, 1), (pairOk 4, 2)], srcs := pairRegs 4, dsts := pairRegs 8 } = true
    ∧ sCap.capValid (sCap.rd64 4) = true ∧ (sCap.cap 0 0).rights < 8 ∧ (sCap.cap 0 0).base < 128
    ∧ sV.ready (extFr g7 false) { srcs := [4] } = true ∧ sV.myStrand.team = none ∧ (sget sV.myCore.perf (0, 0, 0) 0).2.1.extractLsb' 0 8 ≠ 0x11
    ∧ (∀ b, sV.binOf 0 15 = some b → b.2.reqs.length < 64) := by and_intros <;> decide +kernel
/-- Extension 1 of a troop of 64 blocks, and of one of 4 whose other crew holds 2; LD above 0; macros owned by nobody,
by the troop and by another. -/
def sExt : State := sV.modCrew 0 (fun c => { c with ext := 1 })
def sFull : State := { (sExt.modTroop 0 (fun t => { t with sgw := 0x00210801 })) with crews := [(0, { role := .vector, ext := 1 }), (1, { ext := 1 })] }
def sLd : State := sExt.modCrew 0 (fun c => { c with ld := 1 })
def sMac : State := { sV with strands := [(0, { pc := 0x10000, regs := [(4, 4), (5, 8)] })] }.modCore 0 (fun k => { k with mowner := [(0, 0), (63, 5)] })
theorem witness_BlocksAndMacros :
    sExt.ready (extFr g7 false) {} = true ∧ (1 : Nat) ≤ sExt.myCrew.ext ∧ sExt.myCrew.ext < 3 ∧ sExt.myStrand.latch = none
    ∧ (∀ q ∈ sExt.crewsOf 0, (sExt.crew q).grow = none) ∧ 0 ∈ sExt.crewsOf 0 ∧ 3 - sExt.myCrew.ext ≤ sExt.freeBlocks 0 ∧ sExt.alive 0 = true
    ∧ sFull.ready (extFr g7 false) {} = true ∧ (∀ q ∈ sFull.crewsOf 0, (sFull.crew q).grow = none) ∧ sFull.freeBlocks 0 < 3 - sFull.myCrew.ext
    ∧ sExt.myCrew.ld = 0 ∧ sExt.myCrew.grow = none ∧ sLd.myCrew.ld ≠ 0 ∧ sLd.ready (extFr g7 false) {} = true ∧ 0 < sLd.myCrew.ext
    ∧ sMac.ready (extFr g7 false) { ops := [(pairOk 4, 2)], srcs := pairRegs 4 ++ rsrcRegs (.imm 31) } = true ∧ recordOk (sMac.rd64 4) = true
    ∧ recordOk (sV.rd64 6) = false ∧ sMac.macroOwner 1 = none ∧ sMac.macroOwner 0 = some (troopOf sMac.x) ∧ sMac.macroOwner 63 = some 5
    ∧ sMac.ready (extFr g7 false) { ops := [(pairOk 8, 1)], srcs := [], dsts := pairRegs 8 } = true
    ∧ sMac.ready (baseFr .always false) { ops := [(decide ((63 : Reg).toNat < 64), 1)] } = true
    ∧ sMac.ready (extFr g7 false) { ops := [(decide ((127 : Word).toNat < 128), 5)] } = true := by and_intros <;> decide +kernel

def sH : State := two .vector [(4, 7), (6, 0xFFFFFFF9)]
/-- Hitch 31 as a mask of the crew's two lanes, and lane 31 waiting with its signature of operation `k`. -/
def sMask : State := sH.modTroop 0 (fun t => { t with hitches := [(31, { decl := .mask 0x80000001 0 })] })
def sSigned (k : OpKind) (x : Nat) : State :=
  (sH.modTroop 0 (fun t => { t with hitches := [(31, { decl := .count 2, phase := { kind := some k, sigs := [{ x := x, contrib := true, dsts := [4] }] } })] })).modStrand x
    (fun t => { t with life := .signed })
theorem witness_CollectivesSign :
    let c (x : Chk) (h : Nat) : Chk := { x with ops := x.ops ++ [(sH.declared h, 5)] }
    sH.ready (baseFr .always false) (c (chkBR 4 6 (.reg 4)) 0) = true ∧ sH.signBad 0 { coll := 0, width := 32, fn := 3 } = none
    ∧ sH.ready (extFr g7 false) (c (chkW (chkXR 4 6 (.imm 3)) 5) 31) = true ∧ sH.signBad 31 { coll := 0, width := 32, fn := 1 } = none
    ∧ sH.ready (baseFr .always false) (c { dsts := [4] } 0) = true ∧ sH.ready (extFr g7 false) (c (chkW { dsts := [4] } 0) 31) = true
    ∧ sH.ready (baseFr .always false) (c (chkUn 4 6) 0) = true ∧ sH.ready (extFr g7 false) (c (chkW (chkUn 4 6) 5) 31) = true
    ∧ sH.ready (extFr g7 false) (c (chkW { ops := [(pairOk 6, 2)], srcs := pairRegs 6, dsts := [4] } 2) 31) = true
    ∧ sH.myCrew.sq = [] ∧ sStore.myCrew.sq ≠ [] ∧ sStore.ready (baseFr .always false) {} = true ∧ sStore.signBad 0 { coll := 6 } = none
    ∧ sH.ready (extFr g7 false) (c {} 31) = true ∧ sMask.uniform 31 = true ∧ sH.uniform 31 = false
    ∧ sMask.ready (extFr g7 false) { ops := [(decide ((31 : Reg).toNat < 32), 1), (xsrcOk (.reg 4), 5)] ++ [(sMask.declared 31, 5)], srcs := [4] } = true
    ∧ sMask.signBad 31 { coll := 7 } = none := by and_intros <;> decide +kernel
/-- A first signature of two, a second one of the same strand, one of another operation, and one of the same. -/
theorem witness_SigningRules :
    (let s := sH; let s1 := (((s.advance 2).retire).modMe (fun v => { v with life := .signed, wait := .none })).sign 31 { x := 0, contrib := true } { coll := 8 }
      s1.phaseReady 0 31 = false)
    ∧ signedIn ((sSigned { coll := 8 } 0).phase 0 31) 0 = true ∧ signedIn ((sSigned { coll := 8 } 31).phase 0 31) 0 = false
    ∧ ((sSigned { coll := 8 } 31).phase 0 31).kind = some { coll := 8 } ∧ ({ coll := 8 } : OpKind) ≠ { coll := 6 } ∧ (sH.phase 0 31).kind = none := by
  and_intros <;> decide +kernel
def hitch2 : Hitch :=
  { decl := .count 2, phase := { kind := some { coll := 8 }, sigs := [{ x := 0, contrib := true, dsts := [4] }, { x := 31, contrib := true, dsts := [4] }] } }
def sFull2 : State := sH.modTroop 0 (fun t => { t with hitches := [(31, hitch2)] })
def sBoth : State := sFull2.modStrand 0 (fun t => { t with life := .signed })
def hitchK : Hitch :=
  { decl := .count 2, phase := { kind := some { coll := 7 }, sigs := [{ x := 0, contrib := true, vals := [5], dsts := [3] }, { x := 31, contrib := true, vals := [6], dsts := [3] }] } }
def sKset : State := sH.modTroop 0 (fun t => { t with hitches := [(31, hitchK)] })
theorem witness_PhaseExecutes :
    (sBoth.phase 0 31).sigs.Pairwise (fun a b => a.x ≠ b.x) ∧ (sKset.phase 0 31).kind = some { coll := 7 } ∧ sKset.phaseReady 0 31 = true
    ∧ (sKset.phase 0 31).sigs.Pairwise (fun a b => a.x ≠ b.x) ∧ laneOf 0 < laneOf 31 ∧
    (sBoth.phase 0 31).kind = some { coll := 8 } ∧ (8 : Nat) < 9 ∧ (∀ g ∈ (sBoth.phase 0 31).sigs, g.ins = none) ∧ sBoth.phaseReady 0 31 = true
    ∧ (∃ g ∈ (sBoth.phase 0 31).sigs, g.contrib = true ∧ g.gone = false ∧ (sBoth.strand g.x).life = .signed) := by and_intros <;> decide +kernel
/-- Lanes 0, 1, 5 and 31 of one crew: `idx`, `up`, `down` and `xor` each have a source, lane 0 is lowest, lane 31 alone in its
pair, and lane 5 asks beyond its subgroup's edge. -/
def sg (l : Nat) (b : Word) : Sig := { x := l, contrib := true, vals := [w32 (10 * l), b], dsts := [4] }
def sgs : List Sig := [sg 0 1, sg 1 1, sg 5 9, sg 31 0]
theorem witness_CollectiveResults :
    sg 0 1 ∈ sgs ∧ sg 1 1 ∈ sgs ∧ sg 31 0 ∈ sgs ∧ sgs.Pairwise (fun a b => a.x ≠ b.x) ∧ 2 ∈ [1, 2, 4, 8, 16, 32]
    ∧ laneOf (sg 1 1).x % 2 = ((sg 0 1).vals.getD 1 0).toNat % 2 ∧ 1 ≤ 1 % 2 ∧ laneOf (sg 0 1).x = laneOf (sg 1 1).x - 1
    ∧ 0 % 2 + 1 < 2 ∧ laneOf (sg 1 1).x = 0 + 1 ∧ laneOf (sg 1 1).x % 2 = (0 % 2) ^^^ (1 % 2) ∧ ((sg 5 9).vals.getD 1 0).toNat > 5 % 8
    ∧ (∀ g ∈ sgs, laneOf g.x / 2 = 31 / 2 → laneOf g.x ≤ 31) ∧ (∀ g ∈ sgs, laneOf g.x / 2 = 0 → 0 ≤ laneOf g.x) ∧ sgs.length < 65536 := by
  and_intros <;> decide +kernel
theorem witness_HitchDeclaration :
    sH.ready (extFr g7 false) { ops := [(xsrcOk (.imm 2048), 5)], srcs := [] } = true ∧ (sH.xsrc (.imm 2048)).toNat ≤ 2048
    ∧ ¬(sH.xsrc (.imm 2049)).toNat ≤ 2048 ∧ 1 ≤ (sH.xsrc (.imm 1)).toNat ∧ sH.xsrc (.imm 0) = 0 ∧ (sH.xsrc (.reg 4)).toNat ≠ 0
    ∧ (sH.hitch 0 31).phase.sigs = [] ∧ ((sSigned { coll := 8 } 31).hitch 0 31).phase.sigs ≠ [] ∧ (1 : BitVec 5) ≠ 0 := by and_intros <;> decide +kernel

/-! Capabilities: entry 1 taken, entry 0 free; every entry taken. -/
def sCaps (regs : Sparse Word) (caps : Sparse Cap) : State := { sV with strands := [(0, { pc := 0x10000, regs := regs })] }.modCore 0 (fun k => { k with caps := caps })
def cap0 : Cap := { live := true, rights := 1, base := 96, count := 32, lanes := 1 }
def sTaken : State := sCaps [(4, 0x02000000), (6, 1)] ((List.range 256).map (fun e => (e, cap0)))
theorem witness_FillBitsAndCapabilities :
    (1 : Nat) ≤ (32 : Reg).toNat ∧ (96 : Reg).toNat + 32 ≤ 128 ∧ sV.ready (baseFr .always false) { names := regRange 96 32 } = true
    ∧ sV.ready (extFr g7 false) { dsts := [9], names := regRange 127 1 } = true
    ∧ emptyOk 96 32 = true ∧ sTaken.rd 6 ≠ 0 ∧ (∀ r ∈ regRange 96 32, sTaken.regBad r = false)
    ∧ sTaken.ready (extFr g7 false) { ops := [(pairOk 8, 1), (emptyOk 96 32, 5)], srcs := [6], dsts := pairRegs 8 } = true
    ∧ (∀ e, e < 256 → (sTaken.cap 0 e).live = true) ∧ (sCap.cap 0 0).live = true ∧ (sCap.cap 0 1).live = false
    ∧ sTaken.ready (extFr g7 false) { ops := [(pairOk 4, 2)], srcs := pairRegs 4 } = true ∧ cwLow (sTaken.rd64 4) = 0
    ∧ sTaken.capValid (sTaken.rd64 4) = true ∧ (sTaken.cap 0 0).crew = crewOf sTaken.x ∧ (sCaps [(4, 0x02000000)] []).capValid 0x02000000 = false := by
  and_intros <;> decide +kernel
/-- A PUT on this package, one towards package 1 with a live port, and one towards package 1 with none. -/
def sFar (live : Bool) : State := { sCaps [(4, 0x02000000), (5, 0x01000000)] [] with routes := [(1, 2, true)], ports := [(1, { live := live })] }
def sAdd : State := sCaps [(4, 0x08000000)] []
theorem witness_PutSends :
    let ok (s : State) (kind : Nat) : Prop := s.ready (extFr g7 false) (chkPut 4 (.reg 6)) = true ∧ cwLow (s.rd64 4) = 0
      ∧ bitOf (s.rd64 4).toNat 27 = decide (2 ≤ kind) ∧ s.myCrew.pt < 63 ∧ s.tokRoom 0 (some 15) = true
    ok sTaken 0 ∧ ok (sFar true) 1 ∧ ok (sFar false) 1 ∧ ok sAdd 3 ∧ cwPkg (sTaken.rd64 4) = sTaken.pkg.toNat ∧ cwPkg ((sFar true).rd64 4) ≠ (sFar true).pkg.toNat
    ∧ (sFar true).relReady .span = true ∧ (sFar true).routeOk 1 = true ∧ (sFar false).routeOk 1 = false
    ∧ (sFar true).pairHeld 0 (cwCore ((sFar true).rd64 4)) 1 = false ∧ (sFar true).puts = []
    ∧ sTaken.ready (baseFr .always true) (chkPut 4 (.lit 5)) = true := by and_intros <;> decide +kernel
/-- Words of each outcome at entries of each right, on a live lane and on one that has exited. -/
def pm (word : Dword) (idx : Nat) (lanes : BitVec 32) (kind : Nat) : PutMsg := { id := 5, word := word, idx := idx, lanes := lanes, val := 3, kind := kind, src := 0 }
def capR (r : Nat) : Cap := { live := true, rights := r, base := 96, count := 32, lanes := 3 }
def sPut : State := (sCaps [] [(0, capR 1), (1, capR 2), (2, capR 4)]).modStrand 0 (fun t => { t with fill := clrBit t.fill 127 })
theorem witness_PutApplies :
    let c (e : Nat) : Cap := sPut.cap 0 e
    (c 3).live = false ∧ (c 0).live = true ∧ (c 0).gen = cwGen (pm 0x02000000 31 0 0).word ∧ (c 0).gen ≠ cwGen 0x12000000 ∧ (c 0).rights ≠ cwRights 0x04000000
    ∧ (c 0).rights = cwRights 0x02000000 ∧ (c 1).rights = cwRights 0x04000000 ∧ (c 2).rights = cwRights 0x08000000 ∧ 31 < (c 0).count ∧ ¬32 < (c 0).count
    ∧ (4 : BitVec 32) &&& ~~~(c 0).lanes ≠ 0 ∧ (3 : BitVec 32) &&& ~~~(c 0).lanes = 0 ∧ (c 0).base + 31 < 128 ∧ sPut.alive 0 = true ∧ sPut.alive 1 = false
    ∧ (sPut.strand 0).fill.getLsbD 127 = false ∧ (sPut.strand 0).fill.getLsbD 126 = true ∧ ((c 2).rights = 4 ↔ (2 : Nat) = 2 ∨ (2 : Nat) = 3) := by
  and_intros <;> decide +kernel
def sMsg : State := { sPut with puts := [pm 0x02000000 31 0 0], ev := { item := 5 } }
def sAns : State := { sPut with putAns := [{ id := 5, src := 0, tok := none, idx := 31, reason := 3 }], ev := { item := 5 } }
/-- The same PUT from another package, and one towards package 1, with a live port and with none. -/
def sUaMsg : State := { sPut with puts := [{ pm 0x02000000 31 0 0 with tag := some 9 }], ev := { item := 5 } }
def farPut : PutMsg := pm (0x02000000 + 2 ^ 56) 31 0 0
def sFarPut (live : Bool) : State := { sPut with routes := [(1, 2, true)], ports := [(1, { live := live })], puts := [farPut], ev := { item := 5 } }
theorem witness_PutArrivesAndIsAnswered :
    sMsg.puts.find? (fun q => q.id == sMsg.ev.item) = some (pm 0x02000000 31 0 0) ∧ sMsg.storesLeft [] 0 = false ∧ sMsg.onLoop 5 = false
    ∧ sMsg.putBehind (pm 0x02000000 31 0 0) = false ∧ sMsg.putHeld (pm 0x02000000 31 0 0) = false ∧ sMsg.still 0 = false
    ∧ (pm 0x02000000 31 0 0).tag = none ∧ cwPkg (pm 0x02000000 31 0 0).word = sMsg.pkg.toNat ∧ sUaMsg.onLoop 5 = false ∧ sUaMsg.putHeld { pm 0x02000000 31 0 0 with tag := some 9 } = false
    ∧ sUaMsg.putBehind { pm 0x02000000 31 0 0 with tag := some 9 } = false ∧ cwPkg farPut.word ≠ (sFarPut true).pkg.toNat ∧ farPut.out = false ∧ (sFarPut true).still 0 = false
    ∧ (sFarPut true).routeOk 1 = true ∧ (sFarPut true).pairHeld 0 (cwCore farPut.word) 1 = false ∧ (∀ q ∈ (sFarPut true).puts, q.id ≠ farPut.id → (sFarPut true).putAway q = false)
    ∧ (sFarPut false).routeOk 1 = false ∧ (sFarPut false).hasCrew 0 = true ∧ (sFarPut false).alive 0 = true
    ∧ sAns.putAns.find? (fun q => q.id == sAns.ev.item) = some { id := 5, src := 0, tok := none, idx := 31, reason := 3 } ∧ sAns.still 0 = false
    ∧ sAns.hasCrew 0 = true ∧ sAns.alive 0 = true := by and_intros <;> decide +kernel

/-! Loads and stores: a page of device memory readable and writable at 0x10000, its address in s4:s5, a scratchpad offset
in s6; a queued store over the bytes and one beside them; a line of the L1. -/
def rwPage : Tlb := { probePage with r := true, w := true }
def sL : State := { one .vector [(4, 0x10040), (6, 0x7FFC)] with strands := [(0, { pc := 0x10000, regs := [(4, 0x10040), (6, 0x7FFC), (8, 128)] })] }.modCore 0
  (fun k => { k with tlb := [rwPage] })
def farPage : Tlb := { rwPage with tgt := 2, pkg := 9 }
def sLost : State := sL.modCore 0 (fun k => { k with tlb := [farPage] })
def ent (t : Target) (a : Nat) (bs : List Byte) : StoreEnt := { tgt := t, va := a, addr := a, data := bs, strand := 0 }
def sQ (es : List StoreEnt) : State := sL.modCrew 0 (fun c => { c with sq := es })
def sL1 : State := sL.modCore 0 (fun k => { k with l1 := [(lineKey .dev 0x10040, { data := 5 })] })
def gm : Mem := ⟨.global, 4, .imm 0⟩
def sm : Mem := ⟨.spm, 6, .imm 0⟩
theorem witness_LoadsComplete :
    let cx (sz : Size) (d : Reg) (m : Mem) : Chk := { ops := [(sizeRegOk sz d, 1), (spaceRegOk m.space m.a, 2)], srcs := spaceRegs m.space m.a, dsts := sizeRegs sz d }
    sL.ready (baseFr .always false) { ops := [(pairOk 4, 2)], srcs := pairRegs 4, dsts := [9] } = true
    ∧ sL.ready (extFr g7 false) (cx .b128 12 gm) = true ∧ (sL.rd64 4 + dispVal gm.disp).toNat % 16 = 0 ∧ canonical (sL.rd64 4) = true ∧ sL.myCrew.ld < 63
    ∧ sL.tlbHit 0 (sL.asidOf 0) 0x10040 needR = some rwPage ∧ (sQ [ent .dev 0x10040 [1, 2, 3, 4]]).forward .dev 0x10040 4 = .bytes [1, 2, 3, 4]
    ∧ sL.forward .dev 0x10040 4 = .none ∧ sL.lost .dev = false ∧ sL1.readL1 0 .dev 0x10040 4 = some [0, 0, 0, 0] ∧ sL.readL1 0 .dev 0x10040 4 = none
    ∧ sL.lineUnacked 0 .dev 0x10040 = false ∧ sL.ready (baseFr .always false) (chkUn 9 6) = true ∧ (sL.rd 6).toNat % 4 = 0
    ∧ sL.spmPlace .spm 0x7FFC 4 = some (0, 0x7FFC) ∧ sL.spmPlace .spm 0x8000 4 = none ∧ sL.spmBlocked 0 0x7FFC 4 false = false
    ∧ (sQ [ent (.spm 0) 0x7FFC [1, 2, 3, 4]]).forward (.spm 0) 0x7FFC 4 = .bytes [1, 2, 3, 4] ∧ sL.forward (.spm 0) 0x7FFC 4 = .none
    ∧ sL.errRead (some 0) 0x7FFC 4 = none ∧ sL.ready (extFr g7 false) (cx .b16 9 sm) = true ∧ sL.bankOut 0 (.spm 0) 0x7FFC 4 = false
    ∧ sL.myStrand.latch = none ∧ (tweak sL ({ · with latch := some 3 })).myStrand.latch = some 3 ∧ (tweak sL ({ · with latch := some 3 })).ready (extFr g7 false) (cx .b128 12 gm) = true := by and_intros <;> decide +kernel
/-- One argument word declared. -/
def sArgs : State := { sL with launches := [(1, { probeLaunch with packet := probeLaunch.packet ||| BitVec.ofNat 1024 (0x10040 * 2 ^ 64 + 2 ^ 688) })] }
theorem witness_LoadsComplete_argument :
    sArgs.ready (baseFr .always false) { ops := [(decide ((0 : BitVec 14).toNat < sArgs.myLaunch.argw), 5)], dsts := [9] } = true
    ∧ sArgs.tlbHit 0 (sArgs.asidOf 0) (BitVec.ofNat 64 (sArgs.myLaunch.args + 4 * 0)) needR = some rwPage := by and_intros <;> decide +kernel
theorem witness_StoresGoThroughTheQueue :
    let cx (sz : Size) (m : Mem) (b : Reg) : Chk := { ops := [(spaceRegOk m.space m.a, 2), (sizeRegOk sz b, 3)], srcs := spaceRegs m.space m.a ++ sizeRegs sz b }
    sL.ready (extFr g7 false) (cx .b128 gm 12) = true ∧ sL.ready (extFr g7 false) (cx .b8 sm 9) = true ∧ sL.relReady .span = true ∧ sL.myCrew.st < 63 ∧ sL.myCrew.sq.length < 32
    ∧ sL.tlbHit 0 (sL.asidOf 0) 0x10040 needW = some rwPage ∧ sL.lost rwPage.target = false ∧ sLost.tlbHit 0 (sLost.asidOf 0) 0x10040 needW = some farPage
    ∧ sLost.lost farPage.target = true ∧ sLost.hasCrew 0 = true ∧ sLost.myCrew.log.length < 8 ∧ sL.spmBlocked 0 0x7FFC 4 true = false
    ∧ sL.ready (baseFr .always false) { ops := [(pairOk 4, 2)], srcs := 9 :: pairRegs 4 } = true ∧ sL.ready (baseFr .always false) { srcs := [9, 6] } = true
    ∧ (sQ [ent (.spm 0) 0x7FFC [1]]).memOk = true ∧ ((sQ [ent (.spm 0) 0x7FFC [1]]).crew 0).sq = [ent (.spm 0) 0x7FFC [1]] ∧ sL.still 0 = false
    ∧ ((sQ [ent .dev 0x10040 [1]]).crew 0).sq = [ent .dev 0x10040 [1]] ∧ (sQ [ent .dev 0x10040 [1]]).lost .dev = false
    ∧ (ent (.spm 0) 0x7FFC [1]).cluster = false ∧ sL.bankOut 0 (.spm 0) 0x7FFC 4 = false ∧ { ent (.spm 0) 0x7FFC [1] with cluster := true }.cluster = true
    ∧ (ent .dev 0x10040 (List.replicate 16 1)).data.length = 16 ∧ (ent .dev 0x10040 [1]).half = none := by and_intros <;> decide +kernel
/-- A store of the last byte of a line that its slice holds, and a load of it, done and not. -/
def rq (k : ReqKind) (done : Bool) : Req := { id := 3, kind := k, strand := 0, tgt := .dev, addr := 0x1007F, data := [7], dsts := [9], done := done, len := 2 }
def sR (r : Req) : State := { (sL.modCore 0 (fun k => { k with reqs := [r] })).modSlice (sliceOf 0x200) (fun q => { q with lines := [(0x200, { data := 0 })] }) with ev := { item := 3 } }
theorem witness_StoresGoThroughTheQueue_slice :
    let r := rq .store false
    (sR r).memOk = true ∧ (sR r).findReq 0 3 = some r ∧ (sR r).reqOnLoop 0 3 false = false ∧ (sR r).lineHeld 0 r = false ∧ (sR r).turnHeld r = false ∧ (sR r).reqBehind 0 r = false ∧ (sR r).still 0 = false ∧ r.addr + r.data.length ≤ hbmTop
    ∧ r.addr / 128 = (r.addr + r.data.length - 1) / 128 ∧ (sfind ((sR r).slice (sliceOf (r.addr / 128))).lines (r.addr / 128)).isSome = true := by
  and_intros <;> decide +kernel
theorem witness_ScratchpadAtomics :
    let cx (sz : Size) (m : Mem) (d b : Reg) : Chk := { ops := [(sizeRegOk sz d, 1), (spaceRegOk m.space m.a, 2), (sizeRegOk sz b, 3)], srcs := spaceRegs m.space m.a ++ sizeRegs sz b, dsts := sizeRegs sz d }
    let ce (sz : Size) (m : Mem) (d b e : Reg) : Chk := { ops := [(sizeRegOk sz d, 1), (spaceRegOk m.space m.a, 2), (sizeRegOk sz b, 3), (sizeRegOk sz e, 4)], srcs := spaceRegs m.space m.a ++ sizeRegs sz b ++ sizeRegs sz e, dsts := sizeRegs sz d }
    let m8 : Mem := ⟨.spm, 6, .imm 0xFFFFFFFC⟩
    sL.ready (baseFr .always false) (chkBR 9 6 (.reg 4)) = true ∧ sL.ready (extFr g7 false) (cx .b64 m8 12 14) = true ∧ sL.ready (extFr g7 false) (ce .b64 m8 12 14 16) = true
    ∧ sL.memOk = true ∧ sL.spmPlace .spm 0x7FF8 8 = some (0, 0x7FF8) ∧ sL.spmBlocked 0 0x7FF8 8 true = false ∧ sL.myCrew.sq = [] ∧ sL.relReady .span = true
    ∧ sL.bankOut 0 (.spm 0) 0x7FF8 8 = false ∧ sL.myLaunch.det = false ∧ sL.errRead (some 0) 0x7FF8 8 = none := by and_intros <;> decide +kernel
/-- Pages of a flush of one line, of a pin of one unit of 16 KiB. -/
theorem witness_AtomicsAndCacheInstructions :
    let cx (sz : Size) (m : Mem) (d b : Reg) : Chk := { ops := [(sizeRegOk sz d, 1), (spaceRegOk m.space m.a, 2), (sizeRegOk sz b, 3)], srcs := spaceRegs m.space m.a ++ sizeRegs sz b, dsts := sizeRegs sz d }
    let ce (sz : Size) (m : Mem) (d b e : Reg) : Chk := { ops := [(sizeRegOk sz d, 1), (spaceRegOk m.space m.a, 2), (sizeRegOk sz b, 3), (sizeRegOk sz e, 4)], srcs := spaceRegs m.space m.a ++ sizeRegs sz b ++ sizeRegs sz e, dsts := sizeRegs sz d }
    sL.ready (extFr g7 false) (cx .b64 gm 12 14) = true ∧ sL.ready (extFr g7 false) (ce .b32 gm 12 14 16) = true ∧ (sL.rd64 4).toNat % 8 = 0
    ∧ sL.tlbHit 0 (sL.asidOf 0) 0x10040 (needR + needW) = some rwPage ∧ sL.lineUnacked 0 .dev 0x10040 = false
    ∧ sL.ready (extFr g7 false) { ops := [(pairOk 4, 2)], srcs := pairRegs 4 } = true ∧ canonical 0x0100000000000000 = false ∧ sL.ready (extFr g7 false) {} = true
    ∧ sL.relReady .die = true ∧ sStore.relReady .core = false ∧ sStore.ready (extFr g7 false) {} = true
    ∧ sL.ready (extFr g7 false) { ops := [(pairOk 4, 2)], srcs := 8 :: pairRegs 4 } = true
    ∧ (match (sL.readAcquire (8 :: pairRegs 4)).xlatePages (linePages 0x10040 (sL.rd 8).toNat) with | .ok _ => true | _ => false) = true
    ∧ sL.ready (extFr g7 false) { ops := [(pairOk 4, 2)], srcs := 8 :: 9 :: pairRegs 4 } = true ∧ (sL.rd 9).toNat = 0 ∧ (sL.rd 8).toNat ≠ 0
    ∧ pinUnits 0x10040 128 ≤ 16384 ∧ 16384 < pinUnits 0x10040 0xFFFFFFFF ∧ (sL.rd 9).extractLsb' 20 12 = 0 ∧ (0x00100000 : Word).extractLsb' 20 12 ≠ 0
    ∧ (match (sL.readAcquire (8 :: 9 :: pairRegs 4)).xlatePages (pinPages 0x10040 128) with | .ok _ => true | _ => false) = true := by and_intros <;> decide +kernel
theorem witness_RequestsComplete :
    let ld := ReqKind.load 1 false .normal false
    (sR (rq ld false)).findReq 0 3 = some (rq ld false) ∧ (sR (rq ld false)).still 0 = false ∧ (sR (rq ld false)).reqBehind 0 (rq ld false) = false
    ∧ 0x1007F / 128 * 128 + 128 ≤ hbmTop ∧ 0x1007F % 128 + 1 ≤ 128 ∧ (sfind ((sR (rq ld false)).slice (sliceOf 0x200)).lines 0x200).isSome = true
    ∧ (sR (rq ld false)).errRead none 0x1007F 1 = none ∧ 0x10400000000 < 0x10400000000 + (rq ld false).size
    ∧ (sR (rq (.flush 1) false)).findReq 0 3 = some (rq (.flush 1) false) ∧ (sR (rq (.flush 1) false)).reqBehind 0 (rq (.flush 1) false) = false
    ∧ (sR (rq ld false)).reqOnLoop 0 3 false = false ∧ (sR (rq ld false)).reqOnLoop 0 3 true = false ∧ (sR (rq ld false)).lineHeld 0 (rq ld false) = false
    ∧ (sR (rq ld false)).turnHeld (rq ld false) = false ∧ (sR (rq (.flush 1) false)).turnHeld (rq (.flush 1) false) = false
    ∧ (rq ld false).sent = false ∧ (rq ld false).err = none ∧ (sR (rq ld true)).answerErr (rq ld true) = none
    ∧ (sR (rq ld true)).findReq 0 3 = some (rq ld true) ∧ (rq ld true).err = none ∧ (sR (rq ld true)).alive 0 = true ∧ (sR (rq ld true)).hasCrew 0 = true
    ∧ (sR (rq .store true)).findReq 0 3 = some (rq .store true) ∧ (rq .store true).done = true := by and_intros <;> decide +kernel

/-- An atomic, a comparison, and the actions of a queue of 2 entries of 4 bytes at 0x10040, of which one stands. -/
def rqA (k : ReqKind) : Req := { id := 3, kind := k, strand := 0, tgt := .dev, addr := 0x10040, va := 0x10040, data := [7, 0, 0, 0], cmp := [2, 0, 0, 0], dsts := [9], pdst := 2, len := 2 }
def sRA (k : ReqKind) (t : Nat) : State := (sR (rqA k)).modSlice (sliceOf 0x200) (fun q => { q with lines := [(0x200, { data := BitVec.ofNat 1024 ((2 + t * 2 ^ 96) * 2 ^ 512) })] })
theorem witness_RequestsComplete_atomics :
    let v (t : Nat) : Nat := leNat ((sRA (.enq 0) t).pread 0x10040 16)
    (sRA (.atom .add 4) 1).findReq 0 3 = some (rqA (.atom .add 4)) ∧ (sRA (.cas 4) 1).findReq 0 3 = some (rqA (.cas 4)) ∧ (sRA (.enq 0) 1).reqBehind 0 (rqA (.enq 0)) = false
    ∧ (sRA (.enq 0) 1).lineHeld 0 (rqA (.enq 0)) = false ∧ (sRA (.enq 0) 1).turnHeld (rqA (.enq 0)) = false ∧ 0x10040 + 16 ≤ hbmTop ∧ 0x10040 / 128 = (0x10040 + 16 - 1) / 128 ∧ (sRA (.enq 0) 1).errRead none 0x10040 16 = none
    ∧ (sfind ((sRA (.enq 0) 1).slice (sliceOf (0x10040 / 128))).lines (0x10040 / 128)).isSome = true
    ∧ leNat ((sRA (.cas 4) 1).pread 0x10040 4) = leNat (rqA (.cas 4)).cmp ∧ tqValid (v 1) = true ∧ (tqOf (v 1)).esize = 0 ∧ (tqOf (v 1)).esize ≠ 1
    ∧ ¬(tqOf (v 1)).cap ≤ (1 + 2 ^ 32 - 0) % 2 ^ 32 ∧ (tqOf (v 2)).cap ≤ (2 + 2 ^ 32 - 0) % 2 ^ 32 ∧ (tqOf (v 0)).tail = (tqOf (v 0)).head
    ∧ (sRA (.enq 0) 1).tlbHit 0 ((sRA (.enq 0) 1).asidOf 0) (BitVec.ofNat 64 (0x10040 + (16 + 1 % 2 * 4))) (needR + needW) = some rwPage ∧ rwPage.target = .dev := by
  and_intros <;> decide +kernel

/-! Tile instructions: t2 and t3 hold 16 × 16 BF16 tiles, c1 a 16 × 16 shape; s6 a scratchpad offset, s8 a descriptor of 16 ×
16 BF16 elements. Hitch 31 is declared for two signatures. -/
def mTroop : Troop := { troop0 with hitches := [(31, { decl := .count 2 })], desc := [(2, 0x10), (3, 0x10), (4, 0x00000303)], shapes := [] }
def sT : State := { two .matrix [] with troops := [(0, mTroop)] }.modStrand 0 (fun t => { t with regs := [(6, 0x40), (8, 0x10)] })
def t31 : XT := ⟨g7, 31, some 15⟩
def signable (i : Instr) (coll : Nat) (lo hi : List (Bool × Nat)) (srcs dsts : List Nat) (vals : List Word) : Bool :=
  let g : Sig := { x := 0, contrib := true, vals := vals, dsts := dsts, tok := some 15, ins := some i }
  sT.ready (extFr g7 false) { role := sT.isMatrix, ops := lo ++ [(sT.declared 31, 4)] ++ hi, srcs := srcs, dsts := dsts }
    && (sT.dueTl (fun _ => true)).isEmpty && (sT.signBad 31 { coll := coll }).isNone && decide (sT.myCrew.tl < 63) && sT.tokRoom 0 (some 15)
    && !(sT.readAcquire srcs).lastWaits 31 g { coll := coll }
theorem witness_TileInstructionsSign :
    signable (.tdset t31 15 8) 0x100 [(sT.tileAnyOk 15, 1), (pairOk 8, 2)] [] (pairRegs 8) [] [0x10, 0] = true ∧ dsValid (sT.tileSlot 0) (sT.rd64 8) = true
    ∧ signable (.tdget t31 10 2) 0x101 [(pairOk 10, 1), (sT.tileAnyOk 2, 2)] [] [] (pairRegs 10) [] = true
    ∧ signable (.tload t31 false 2 6 0x20) 0x102 [(sT.tileFullOk 2, 1)] [] [6] [] [0x60] = true ∧ sT.tileAddrBad 31 (.tload t31 false 2 6 0x20) 0x60 = none
    ∧ signable (.tstore t31 true 6 3 0) 0x103 [(sT.tileFullOk 3, 3)] [] [6] [] [0x40] = true ∧ sT.tileAddrBad 31 (.tstore t31 true 6 3 0) 0x40 = none
    ∧ signable (.split t31 false false 2 6 0) 0x105 [(sT.tileFullOk 2, 1)] [] [6] [] [0x40] = true ∧ sT.tileAddrBad 31 (.split t31 false false 2 6 0) 0x40 = none
    ∧ signable (.adrain t31 .f32 true none false 0 6 1 0) 0x107 [(DrainFmt.f32 != .reef || sT.tileReefOk 0, 1), (sT.accOk 1, 3)] [] [6] [] [0x40] = true
    ∧ sT.tileAddrBad 31 (.adrain t31 .f32 true none false 0 6 1 0) 0x40 = none ∧ signable (.tzero t31 2) 0x104 [(sT.tileFullOk 2, 1)] [] [] [] [] = true
    ∧ signable (.azero t31 1 3 0) 0x106 [(sT.accOk 1, 1)] [(decide (shapeM 3 * shapeN 3 * 4 ≤ sT.accSlot 0), 5)] [] [] [] = true
    ∧ signable (.aread t31 9 6 1) 0x108 [(sT.accOk 1, 3)] [] [6] [9] [0x40] = true ∧ signable (.awrite t31 1 6 8) 0x109 [(sT.accOk 1, 1)] [] [6, 8] [] [0x40, 0x10] = true
    ∧ signable (.ascale t31 1 0xFFFFFF02) 0x10A [(sT.accOk 1, 1)] [(decide (-254 ≤ (0xFFFFFF02 : Word).toInt ∧ (0xFFFFFF02 : Word).toInt ≤ 254), 5)] [] [] [] = true
    ∧ signable (.reefq t31 9 6 4) 0x10B [(sT.tileAnyOk 4, 3)] [] [6] [9] [0x40] = true
    ∧ signable (.mmaS t31 1 2 3) 0x200 [(sT.accOk 1, 1), (sT.tileFullOk 2, 2), (sT.tileFullOk 3, 3)] [] [] [] [] = true
    ∧ signable (.mmaprog t31 1 2 3 1) 0x203 [(sT.accOk 1, 1), (sT.chainOk 2 1, 2), (sT.chainOk 3 1, 3)] [(decide ((2 : Reg).toNat + 1 ≤ 15 ∧ (3 : Reg).toNat + 1 ≤ 15), 5)] [] [] [] = true := by
  and_intros <;> decide +kernel
/-- s4:s5 holds a global address off by one, s6 an offset off by one and s12 one off by 4; s8 stands for the data. -/
def sOdd : State := tweak sL (fun t => { t with regs := [(4, 0x10041), (6, 0x7FF9), (8, 1), (12, 0x7FF4)] })
theorem witness_MisalignedAccessTraps :
    let fb := baseFr .always false
    let fx := extFr g7 false
    sOdd.ready fb { ops := [(pairOk 4, 2)], srcs := pairRegs 4, dsts := [9] } = true ∧ (sOdd.rd64 4).toNat % 4 ≠ 0
    ∧ sOdd.ready fb { ops := [(pairOk 4, 2)], srcs := 8 :: pairRegs 4 } = true ∧ sOdd.ready fb (chkUn 9 6) = true ∧ (sOdd.rd 6).toNat % 4 ≠ 0
    ∧ sOdd.ready fb { srcs := [8, 6] } = true ∧ sOdd.ready fb (chkBR 9 6 (.reg 8)) = true ∧ (sOdd.rd 12).toNat % 8 ≠ 0 ∧ (sOdd.rd 12).toNat % 16 ≠ 0
    ∧ sOdd.ready fx { ops := [(sizeRegOk .b64 10, 1), (spaceRegOk .spm 12, 2)], srcs := spaceRegs .spm 12, dsts := sizeRegs .b64 10 } = true
    ∧ sOdd.ready fx { ops := [(spaceRegOk .global 4, 2), (sizeRegOk .b128 8, 3)], srcs := spaceRegs .global 4 ++ sizeRegs .b128 8 } = true
    ∧ sOdd.ready fx { ops := [(sizeRegOk .b64 10, 1), (spaceRegOk .spm 12, 2), (sizeRegOk .b64 8, 3)], srcs := spaceRegs .spm 12 ++ sizeRegs .b64 8, dsts := sizeRegs .b64 10 } = true
    ∧ sOdd.ready fx { ops := [(sizeRegOk .b32 10, 1), (spaceRegOk .cluster 6, 2), (sizeRegOk .b32 8, 3), (sizeRegOk .b32 9, 4)], srcs := spaceRegs .cluster 6 ++ sizeRegs .b32 8 ++ sizeRegs .b32 9, dsts := sizeRegs .b32 10 } = true
    ∧ sOdd.ready fx { srcs := 12 :: rsrcRegs (.reg 8) } = true ∧ sOdd.ready fx { srcs := 12 :: rsrcRegs (.imm 1), dsts := [9] } = true ∧ (sOdd.rd 12).toNat % 32 ≠ 0
    ∧ sOdd.ready fx (chkUn 9 12) = true ∧ sOdd.ready fb { srcs := [12, 8] } = true ∧ sOdd.ready fx { srcs := 12 :: 8 :: rsrcRegs (.reg 9) } = true
    ∧ sOdd.ready fx { ops := [(spaceRegOk .spm 12, 2), (sizeRegOk (tqSize 1) 8, 3)], srcs := spaceRegs .spm 12 ++ sizeRegs (tqSize 1) 8 } = true
    ∧ sOdd.ready fx { ops := [(sizeRegOk (tqSize 2) 8, 1), (spaceRegOk .spm 12, 2)], srcs := spaceRegs .spm 12, dsts := sizeRegs (tqSize 2) 8 } = true := by
  and_intros <;> decide +kernel
theorem witness_MisalignedAccessTraps_tiles :
    let c (lo : List (Bool × Nat)) (a : Reg) : Chk := { role := sT.isMatrix, ops := lo ++ [(sT.declared t31.h.toNat, 4)], srcs := [a.toNat] }
    sT.ready (xtFr t31) (c [(sT.tileFullOk 2, 1)] 8) = true ∧ sT.ready (xtFr t31) (c [(sT.tileFullOk 3, 3)] 8) = true
    ∧ sT.ready (xtFr t31) (c [(DrainFmt.f32 != .reef || sT.tileReefOk 0, 1), (sT.accOk 1, 3)] 8) = true
    ∧ (sT.rd 8 + (0 : BitVec 21).zeroExtend 32).toNat % 32 ≠ 0 := by and_intros <;> decide +kernel
theorem witness_TileOpsAreQueued :
    (∀ r ∈ [9], r < 128) ∧ (let g : Sig := { x := 0, contrib := true, dsts := [9], ins := some (.tzero t31 2) }
      let s1 := (sT.tileAttach t31 31).modMe (fun v => { v with pend := g.dsts.foldl setBit v.pend })
      (((s1.finish 2).sign 31 g { coll := 0x104 }).scoreUnqueue 0).phaseReady 0 31 = false) ∧ (sT.troop 0).tfaults = [] ∧ (sT.troop 0).theld = []
    ∧ sT.myLaunch.det = false := by and_intros <;> decide +kernel
/-- One op at the head of the queue, its leader's operands, running or not. -/
def tOp (i : Instr) (vals : List Word) (run : Bool) : TileOp :=
  { troop := 0, opid := 0, sub := i, sigs := [{ x := 0, contrib := true, vals := vals, ins := some i }], crews := [(0, none)], running := run }
def sE (o : TileOp) : State := sT.modCore 0 (fun k => { k with tq := [o], score := [scoreEntry 0 4 0 (0x7E00, 0x8000) (0, 0)] })
theorem witness_TileEngineExecutes :
    let due (o : TileOp) : Prop := ((sE o).core 0).tq = [o] ∧ (sE o).still 0 = false ∧ coreOfTroop o.troop = 0 ∧ (sE o).memOk = true ∧ (sE o).tileDue 0 = true
    due (tOp (.tdset t31 15 8) [0x10, 0] false) ∧ due (tOp (.azero t31 1 3 0) [] false) ∧ due (tOp (.awrite t31 1 6 8) [15 + 15 * 65536, 7] false)
    ∧ (tOp (.awrite t31 1 6 8) [15, 7] false).sigs = [opLeader (tOp (.awrite t31 1 6 8) [15, 7] false)]
    ∧ due (tOp (.tzero t31 2) [] false) ∧ due (tOp (.tload t31 false 2 6 0) [0x7E00] false) ∧ due (tOp (.tstore t31 false 6 3 0) [0x7E00] false)
    ∧ dsFormat (mTroop.descOf 2) ≠ 0 ∧ dsReef (mTroop.descOf 2) = false ∧ dsFormat (mTroop.descOf 3) ≠ 0 ∧ sT.spmIn 0 0x7E00 (dsFoot (mTroop.descOf 2)) = true
    ∧ sT.errs = [] ∧ mmaFields (.mmaB t31 1 2 3) = some (1, 2, 3, 1) ∧ (sT.troop 0).saveReq = none
    ∧ (match sT.runXmma (tOp (.mmaB t31 1 2 3) [] false) 1 2 3 1 none with | .ok (_, true) => true | _ => false) = true
    ∧ (match (sE (tOp (.split t31 false false 2 6 0) [0x40] false)).runXtile (tOp (.split t31 false false 4 6 0) [0x8000] false) with | .error _ => true | _ => false) = true
    ∧ sT.alive 0 = true ∧ (opLeader (tOp (.tzero t31 2) [] true)).gone = false ∧ opLeader (tOp (.tzero t31 2) [] true) ∈ (tOp (.tzero t31 2) [] true).sigs
    ∧ (sE (tOp (.tzero t31 2) [] true)).hasCrew 0 = true := by and_intros <;> decide +kernel

/-! Rings, channels and task queues: a ring of 2 slots of 64 bytes at 64 in s4's offset, slot 0 claimed and filled; the header
of a queue of 2 entries of 4 bytes at 32, one entry in it; channel 0 of one slot of 16 bytes at the top. -/
def ringW (wi ri fph : Nat) : List Byte := leBytes 32 (128 + 1 * 2 ^ 32 + 2 * 2 ^ 48 + wi * 2 ^ 64 + ri * 2 ^ 72 + fph * 2 ^ 128)
def chLaunch : Launch := { probeLaunch with packet := probeLaunch.packet ||| BitVec.ofNat 1024 (2 ^ (704 + 11)) }
def sQu (bs : List Byte) (at_ : Nat) : State :=
  { one .vector [(4, w32 at_), (6, 1), (8, 0x00020001), (9, 2)] with launches := [(1, chLaunch)] }.modTroop 0 (fun t => { t with spm := mwrite [] at_ bs })
theorem witness_RingInstructions :
    let r1 := sQu (ringW 1 0 1) 64
    let full := sQu (ringW 2 0 0) 64
    r1.myStrand.latch = none ∧ r1.memOk = true ∧ (r1.rd 4).toNat % 32 = 0 ∧ r1.ready (extFr g7 false) { srcs := 4 :: 8 :: rsrcRegs (.imm 128) } = true
    ∧ (r1.rd 8).extractLsb' 13 3 = 0 ∧ (r1.rd 8).extractLsb' 23 9 = 0 ∧ ((r1.rd 8).extractLsb' 0 13).toNat = 1 ∧ ((r1.rd 8).extractLsb' 16 7).toNat = 2
    ∧ 128 + 2 * 1 * 64 ≤ r1.spmSize 0 ∧ r1.objNamed 0 true 64 = false ∧ r1.objClear true 64 32 true = true ∧ r1.objClear true 64 32 false = true
    ∧ ringValid (r1.spmSize 0) (r1.ringAt 0 64) = true ∧ r1.ready (extFr g7 false) (chkUn 9 4) = true ∧ (ringOf (r1.ringAt 0 64)).free 1 = true
    ∧ ringValid (full.spmSize 0) (full.ringAt 0 64) = true ∧ (ringOf (full.ringAt 0 64)).free 2 = false ∧ full.objClear true 64 32 true = true
    ∧ r1.ready (extFr g7 false) { srcs := 4 :: rsrcRegs (.imm 0), dsts := [9] } = true ∧ (ringOf ((sQu (ringW 1 0 0) 64).ringAt 0 64)).claimed 0 = true ∧ (sQu (ringW 1 0 0) 64).objClear true 64 32 true = true
    ∧ (ringOf (r1.ringAt 0 64)).claimed 1 = false ∧ (ringOf (r1.ringAt 0 64)).n = 2 ∧ r1.ready (baseFr .always false) { srcs := [4, 6] } = true ∧ (r1.rd 6).toNat < 2
    ∧ (ringOf (r1.ringAt 0 64)).filled 0 = true ∧ (ringOf (r1.ringAt 0 64)).filled 1 = false ∧ (r1.dueEn (fun v => v.obj == some (true, 64) && v.slot == 0)) = []
    ∧ (ringOf (r1.ringAt 0 64)).released 0 = false ∧ r1.ready (baseFr .always false) (chkUn 9 4) = true := by and_intros <;> decide +kernel
def sCh (occ : Nat) (win : Nat) : State :=
  { (sQu [] 64).modTroop 0 (fun t => { t with chans := [(0, { occ := occ })] }) with
    chanMsgs := (List.range win).map (fun i => { id := i, crew := 0, strand := 0, chan := 0, pkg := 0, lid := 1, span := 0, troop := 0, data := [] }) }
theorem witness_ChannelsAndTaskQueues :
    chanOn chLaunch 0 = true ∧ (sCh 1 7).memOk = true ∧ (124 : Reg).toNat + ((chLaunch.chan 0 % 16) + 1) * 4 ≤ 128 ∧ 0 < chLaunch.troops ∧ (sCh 1 7).chanWindow 0 0 < 8
    ∧ 8 ≤ (sCh 1 8).chanWindow 0 0 ∧ (sCh 1 7).ready (baseFr .always false) { ops := chanOps chLaunch 20 0, srcs := chanRegs chLaunch 20 0 } = true
    ∧ (sCh 1 7).ready (extFr g7 false) { ops := chanOps chLaunch 20 0 ++ [(xsrcOk (.imm 0), 5)], srcs := chanRegs chLaunch 20 0 ++ xsrcRegs (.imm 0) } = true
    ∧ (sCh 1 7).ready (extFr g7 false) { ops := chanOps chLaunch 20 0, dsts := chanRegs chLaunch 20 0 } = true ∧ 0 < ((sCh 1 7).chan 0 0).occ
    ∧ ((sCh 1 7).chan 0 0).touched = false ∧ ((sCh 0 0).chan 0 0).occ = 0 ∧ (0 : Word).extractLsb' 24 8 = 0
    ∧ ((sCh 1 7).modTroop 0 (fun t => { t with chans := [(0, { occ := 1, touched := true })] })).memOk = true := by and_intros <;> decide +kernel
/-- An entry for troop 0 of package 1, with and without a route there and with a store of the crew queued. -/
def sChFar (live : Bool) (es : List StoreEnt) : State := { (sCh 1 7).modCrew 0 (fun c => { c with sq := es }) with routes := [(1, 2, live)] }
theorem witness_ChannelInstructions_far :
    let k : Chk := { ops := chanOps chLaunch 20 0 ++ [(xsrcOk (.lit 0x01000000), 5)], srcs := chanRegs chLaunch 20 0 ++ xsrcRegs (.lit 0x01000000) }
    let s := sChFar true []
    let q := sChFar true [{ tgt := .spm 0, va := 0, addr := 64, data := [1], strand := 0 }]
    s.ready (extFr g7 true) k = true ∧ (s.xsrc (.lit 0x01000000)).extractLsb' 24 8 = 1 ∧ s.pkg.toNat ≠ 1 ∧ (sget s.routes (0, false) 1).2 = true ∧ s.relReady .span = true
    ∧ s.chanWindow 0 0 < 8 ∧ q.ready (extFr g7 true) k = true ∧ q.relReady .span = false ∧ (sChFar false []).ready (extFr g7 true) k = true
    ∧ (sget (sChFar false []).routes (0, false) 1).2 = false ∧ ¬1 < chLaunch.troops := by and_intros <;> decide +kernel
/-- A queue with `h` and `t` entries ever dequeued and enqueued. -/
def sTq (h t : Nat) : State := sQu (leBytes 16 (2 + h * 2 ^ 64 + t * 2 ^ 96)) 32
def sTg : State := { sL with strands := [(0, { pc := 0x10000, regs := [(4, 0x10040)] })] }
theorem witness_ChannelsAndTaskQueues_queues :
    let v (s : State) := mnat (s.troop 0).spm 32 16
    let s0 := sQu [] 32
    (sTq 0 1).ready (baseFr .always false) { srcs := [4, 6] } = true ∧ (sTq 0 1).ready (baseFr .always false) (chkUn 9 4) = true
    ∧ (sTq 0 1).ready (extFr g7 false) { ops := [(spaceRegOk .spm 4, 2), (sizeRegOk (tqSize 0) 6, 3)], srcs := spaceRegs .spm 4 ++ sizeRegs (tqSize 0) 6 } = true
    ∧ (sTq 0 1).ready (extFr g7 false) { ops := [(sizeRegOk (tqSize 2) 12, 1), (spaceRegOk .spm 4, 2)], srcs := spaceRegs .spm 4, dsts := sizeRegs (tqSize 2) 12 } = true
    ∧ ((sTq 0 1).rd 4).toNat % 16 = 0 ∧ (sTq 0 1).spmPlace .spm 32 16 = some (0, 32) ∧ (sTq 0 1).spmBlocked 0 32 16 true = false ∧ (sTq 0 1).myCrew.sq = []
    ∧ (sTq 0 1).relReady .die = true ∧ (sTq 0 1).myLaunch.det = false ∧ (sTq 0 1).errs = [] ∧ tqValid (v (sTq 0 1)) = true ∧ (tqOf (v (sTq 0 1))).esize = 0
    ∧ (1 + 2 ^ 32 - 0) % 2 ^ 32 < (tqOf (v (sTq 0 1))).cap ∧ (tqOf (v (sTq 0xFFFFFFFF 1))).cap ≤ (1 + 2 ^ 32 - (tqOf (v (sTq 0xFFFFFFFF 1))).head) % 2 ^ 32
    ∧ tqValid (v (sTq 0xFFFFFFFF 1)) = true ∧ (tqOf (v (sTq 1 1))).tail = (tqOf (v (sTq 1 1))).head ∧ tqValid (v (sTq 1 1)) = true ∧ (tqOf (v (sTq 0 1))).tail ≠ (tqOf (v (sTq 0 1))).head
    ∧ (sTq 0 1).spmIn 0 (32 + (16 + 1 % 2 * 2 ^ 2)) 4 = true ∧ (sTq 0 1).spmBlocked 0 52 4 true = false
    ∧ ((sQu [] 0x8000).rd 4).toNat % 16 = 0 ∧ (sQu [] 0x8000).spmPlace .spm 0x8000 16 = none
    ∧ (let s := sQu (leBytes 16 (2 + 2 ^ 96)) 0x7FF0; s.spmPlace .spm 0x7FF0 16 = some (0, 0x7FF0) ∧ s.spmBlocked 0 0x7FF0 16 true = false
        ∧ tqValid (mnat (s.troop 0).spm 0x7FF0 16) = true ∧ s.spmIn 0 (0x7FF0 + (16 + 1 % 2 * 4)) 4 = false)
    ∧ tqValid (mnat (s0.troop 0).spm 32 16) = false ∧ canonical (sTg.rd64 4) = true ∧ sTg.myCrew.ld < 63
    ∧ sTg.ready (extFr g7 false) { ops := [(spaceRegOk .global 4, 2), (sizeRegOk (tqSize 0) 6, 3)], srcs := spaceRegs .global 4 ++ sizeRegs (tqSize 0) 6 } = true
    ∧ sTg.ready (extFr g7 false) { ops := [(sizeRegOk (tqSize 2) 12, 1), (spaceRegOk .global 4, 2)], srcs := spaceRegs .global 4, dsts := sizeRegs (tqSize 2) 12 } = true
    ∧ (sTg.rd64 4).toNat % 16 = 0 ∧ sTg.tlbHit 0 (sTg.asidOf 0) 0x10040 (needR + needW) = some rwPage ∧ sTg.lost .dev = false ∧ sTg.relReady .pkg = true := by
  and_intros <;> decide +kernel

/-! Waits: counters above a limit, an engine fault due, a token done, outstanding, and refused. -/
def sWait : State := sV.modCrew 0 (fun c => { c with ld := 1, toks := [(14, { cnt := 1 }), (15, { cnt := 0, status := .nak 5 31 true })] })
def flt : Deferred := { cls := .en, cause := 0x0A, tval := 5, taddr := 5, pfr := 4, time := 0, tok := none, obj := none }
def sFlt : State := tweak sV ({ · with faults := [flt] })
theorem witness_WaitsAndCounters :
    sWait.ready (baseFr .always false) { ops := [(decide ((0 : BitVec 3).toNat < 5), 2)] } = true ∧ sV.dueTl (fun _ => true) = [] ∧ sV.myStrand.faults = []
    ∧ sV.myStrand.naks = [] ∧ clsCount sWait.myCrew .ld ≤ (1 : BitVec 6).toNat ∧ (0 : BitVec 6).toNat < clsCount sWait.myCrew .ld
    ∧ sFlt.dueTl (fun _ => true) = [] ∧ sFlt.myStrand.faults = [flt] ∧ flt.cls = .en ∧ clsCodes.getD (2 : BitVec 3).toNat .ld = .en ∧ sFlt.myCrew.en ≤ 0
    ∧ sFlt.ready (baseFr .always false) { ops := [(decide ((2 : BitVec 3).toNat < 5), 2)] } = true ∧ sFlt.myStrand.cause.getLsbD 31 = false
    ∧ sWait.ready (extFr g7 false) {} = true ∧ ¬((0 : BitVec 6) = 63 ∨ sWait.myCrew.ld ≤ 0) ∧ (sWait.token 0 13).cnt = 0 ∧ (sWait.token 0 13).status = .ok
    ∧ (sWait.token 0 14).cnt ≠ 0 ∧ (sWait.token 0 15).cnt = 0 ∧ (sWait.token 0 15).status = .nak 5 31 true ∧ sWait.myStrand.nakMarks.getLsbD 15 = false
    ∧ (∀ w, w < 16 → (0x3FFF : BitVec 16).getLsbD w = true → (sWait.token 0 w).cnt = 0 ∧ (sWait.token 0 w).status = .ok)
    ∧ sV.ready (extFr g7 false) { srcs := rsrcRegs (.imm 0x111) } = true ∧ ((0x111 : Word).extractLsb' 0 8).toNat ≤ 0x11 ∧ (0x111 : Word).extractLsb' 9 23 = 0
    ∧ 0x11 < ((0x12 : Word).extractLsb' 0 8).toNat ∧ (0x200 : Word).extractLsb' 9 23 ≠ 0
    ∧ sV.ready (extFr g7 false) { ops := [(pairOk 8, 1), (FidSel.cnt != .flags || (15 : BitVec 4) == 0, 5)], dsts := pairRegs 8 } = true
    ∧ sV.ready (extFr g7 false) { ops := [(pairOk 8, 1), (FidSel.flags != .flags || (0 : BitVec 4) == 0, 5)], dsts := pairRegs 8 } = true := by
  and_intros <;> decide +kernel
/-- A buoy of one arrival in phase 0 at 16. -/
def sBuoy : State := sQu (leBytes 16 (2 + 2 ^ 16)) 16
theorem witness_BuoyInstructions :
    sBuoy.ready (extFr g7 false) { srcs := 4 :: rsrcRegs (.imm 32767) } = true ∧ sBuoy.objClear false 16 16 true = true ∧ sBuoy.objNamed 0 false 16 = false
    ∧ buoyValid (sBuoy.buoyAt 0 16) = true ∧ sBuoy.ready (extFr g7 false) { srcs := 4 :: rsrcRegs (.imm 1), dsts := [9] } = true ∧ sBuoy.objClear false 16 16 false = true
    ∧ (buoyOf (sBuoy.buoyAt 0 16)).phase ≠ (1 : Word).getLsbD 0 ∧ sBuoy.dueEn (fun e => e.obj == some (false, 16)) = [] ∧ (buoyOf (sBuoy.buoyAt 0 16)).phase = (0 : Word).getLsbD 0 := by
  and_intros <;> decide +kernel
/-- Key 15 with an entry at 7 (the value of s4:s5), and bins: none, one of 31 and of 32 requests, all 16 of other keys. -/
def sKey (bins : Sparse Bin) : State := ({ one .vector [(4, 7)] with ev := {} }.modTroop 0 (fun t => { t with keys := [(15, 7)] })).modCore 0 (fun k => { k with bins := bins })
def binN (key n : Nat) : Bin := { troop := 0, key := key, reqs := List.replicate n [0], timer := none }
theorem witness_PaddockRequests :
    (120 : Reg).toNat ≤ 120 ∧ (sKey []).ready (extFr g7 false) { ops := [(decide ((120 : Reg).toNat ≤ 120), 2)], srcs := regRange 120 8 } = true
    ∧ keyEntry ((sKey []).paddockKey 15) ≠ 0 ∧ keyEntry ((sKey []).paddockKey 0) = 0 ∧ (sKey []).binOf 0 15 = none ∧ (sKey []).freeBin 0 = some 0
    ∧ (sKey ((List.range 16).map (fun i => (i, binN i 1)))).freeBin 0 = none ∧ (sKey ((List.range 16).map (fun i => (i, binN 14 1)))).binOf 0 15 = none
    ∧ (sKey [(3, binN 15 32)]).binOf 0 15 = some (3, binN 15 32) ∧ 32 ≤ (binN 15 32).reqs.length ∧ (binN 15 31).reqs.length < 32 ∧ (binN 15 31).reqs ≠ []
    ∧ (sKey [(3, binN 15 31)]).binOf 0 15 = some (3, binN 15 31)
    ∧ (sKey []).ready (baseFr .always false) { ops := [(decide ((8 : Reg).toNat ≤ 120), 2), (pairOk 4, 3)], srcs := regRange 8 8 ++ pairRegs 4 } = true
    ∧ ((sKey []).rd64 4).toNat ≠ 0 ∧ keyEntry ((sKey []).paddockKey 15) = ((sKey []).rd64 4).toNat ∧ (∀ j, j < 15 → keyEntry ((sKey []).paddockKey j) ≠ 7)
    ∧ (∀ j, j < 16 → keyEntry ((sKey []).paddockKey j) ≠ ((sKey []).rd64 6).toNat + 1) ∧ (sKey []).ready (extFr g7 false) {} = true := by and_intros <;> decide +kernel

/-! Engines: record 3 of a box of 16 × 1 × 1 bytes, coordinates 0 in s20..s25, destination 0x40 in s6, a buoy at 0x20 in s7 and
a ring, for which s8 holds a core mask of one and of 12. -/
def rec16 : BitVec 512 := BitVec.ofNat 512 (16 * 2 ^ 192 + 2 ^ 224 + 2 ^ 256 + 16 * 2 ^ 288 + 2 ^ 304 + 2 ^ 320)
def recZ : BitVec 512 := BitVec.ofNat 512 (4096 * 2 ^ 192 + 2 ^ 224 + 2 ^ 256 + 4096 * 2 ^ 288 + 2 ^ 304 + 2 ^ 320 + 2 ^ 338 + 0xFFFFFFFF * 2 ^ 352)
def sEn : State := (one .access [(6, 0x40), (7, 0x20), (8, 0xFFF), (10, 0x80), (12, 0x100), (14, 0x300)]).modTroop 0 (fun t =>
  { t with recs := [(3, rec16), (4, recZ)], spm := mwrite [] 0x300 (leBytes 64 rec16.toNat) })
theorem witness_EngineCommandsEnterQueues :
    let ck (b : List Nat) : Chk := { role := sEn.isStreamer, ops := [(coordOk 20, 2), (true, 3)], srcs := [6] ++ coordRegs 20 ++ b ++ [7] }
    sEn.myCrew.sq = [] ∧ sEn.ready (extFr g7 false) (ck []) = true ∧ sEn.ready (extFr g7 false) (ck [10]) = true
    ∧ sEn.ready (extFr g7 false) { ck (pairRegs 8) with ops := [(coordOk 20, 2), (pairOk 8, 3)] } = true ∧ sEn.cmdRoom false = true ∧ sEn.cmdRoom true = true
    ∧ sEn.myCrew.en < 63 ∧ sEn.tokRoom 0 (some 15) = true ∧ sEn.scoreRoom 0 sEn.myTroop.opseq 0 = true ∧ sfind sEn.myTroop.recs 3 = some rec16
    ∧ sEn.spmIn 0 0x20 (objBytes false) = true ∧ 0x20 % objBytes false = 0 ∧ sEn.spmIn 0 0x20 (objBytes true) = true ∧ 0x20 % objBytes true = 0
    ∧ (sEn.ringArea 0x20) = none ∧ sEn.spmIn 0 0x40 16 = true ∧ (sEn.rd 10).toNat % 4 = 0 ∧ sEn.spmIn 0 0x80 (4 * (trecOf rec16).b1) = true
    ∧ (onesOf (sEn.rd64 8)).length = 12 ∧ (onesOf (1 : BitVec 64)).length = 1 ∧ (trecOf rec16).cmode = false ∧ copyAddrBad (trecOf rec16) (sEn.coords 20) true = 0
    ∧ (trecOf recZ).cmode = true ∧ (sEn.coords 20).getD 0 0 * (trecOf recZ).es % 4096 = 0 ∧ (trecOf recZ).badlist = noList ∧ copyAddrBad (trecOf recZ) (sEn.coords 20) false = 0
    ∧ sEn.ready (extFr g7 false) { role := sEn.isAccess, ops := [(XfOp.tr != .pack || pairOk 0, 3)], srcs := [6] ++ [12] ++ [] ++ [7] } = true
    ∧ xfHandle .tr = true ∧ xfHandle .rtr = false ∧ (trecOf rec16).b2 = 1 ∧ sEn.spmIn 0 0x100 (xfSizes .tr (trecOf rec16) 0 none).1 = true
    ∧ ivalMeet (0x100, 0x100 + (xfSizes .tr (trecOf rec16) 0 none).1) (0x40, 0x40 + (xfSizes .tr (trecOf rec16) 0 none).2) = false ∧ sEn.spmBlocked 0 0x100 32 false = false
    ∧ sEn.packDescOk 0x0000000300110003 = true
    ∧ sEn.ready (extFr g7 false) { role := sEn.isAccess, srcs := [14] } = true ∧ (sEn.rd 14).toNat % 64 = 0 ∧ sEn.spmIn 0 0x300 64 = true ∧ sEn.spmBlocked 0 0x300 64 false = false
    ∧ sEn.errRead (some 0) 0x300 64 = none ∧ trecOk (BitVec.ofNat 512 (mnat sEn.myTroop.spm 0x300 64)) = true ∧ trecOk (BitVec.ofNat 512 (mnat sEn.myTroop.spm 0x340 64)) = false := by
  and_intros <;> decide +kernel
/-- Handle 2 bound as a writer and handle 3 not, to sequence 0 of a table at 0x20000; the sequence's entry is valid. -/
def bd (w : Bool) : KvBind := { pkg := 0, seq := 0, root := 0x20000, writer := w, layers := 4, heads := 2, dcode := 0, e4m3 := false, dir := 0 }
def kvLaunch : Launch := { probeLaunch with packet := probeLaunch.packet ||| BitVec.ofNat 1024 (0x20000 * 2 ^ 256) }
def sK (kv : Sparse KvBind) (busy : List KvOp) : State :=
  { ((one .access [(6, 0x40), (7, 0x20), (8, 0x00020003), (9, 2), (11, 0x00020103), (12, 3)]).modTroop 0 (fun t => { t with kv := kv })).modCore 0
      (fun k => { k with kq := busy }) with launches := [(1, kvLaunch)], pmem := mwrite [] 0x20000 (leBytes 32 (2 ^ 84 + 3 * 2 ^ 64 + 2 ^ 72)) }
def kvop : KvOp := { id := 0, troop := 0, strand := 0, opid := 0, sub := .kvtrim xa 9, handle := 2, tok := none }
def sK2 : State := sK [(2, bd true), (3, bd false)] []
theorem witness_KvInstructions :
    let acc (srcs dsts : List Nat) : Chk := { role := sK2.isAccess, srcs := srcs, dsts := dsts }
    sK2.myCrew.sq = [] ∧ sK2.streamOf (sK2.rd 8) = some (2, bd true) ∧ sK2.streamOf (sK2.rd 11) = some (2, bd true) ∧ sK2.ready (extFr g7 false) (acc [6, 8, 7] []) = true
    ∧ (sK2.rd 8).extractLsb' 8 8 = 0 ∧ (sK2.rd 6).toNat % 32 = 0 ∧ (sK2.rd 7).toNat % 16 = 0 ∧ sK2.spmIn 0 0x40 ((bd true).heads * 2 * 1 * (bd true).row) = true
    ∧ sK2.spmIn 0 0x20 16 = true ∧ sK2.kvRoom = true ∧ sK2.myCrew.en < 63 ∧ sK2.scoreRoom 0 sK2.myTroop.opseq 0 = true
    ∧ sK2.ready (extFr g7 false) (acc ([6] ++ [11, 12, 7]) []) = true ∧ sK2.spmIn 0 0x40 (gatherBytes (bd true) .kv 40) = true ∧ sK2.ringArea 0x20 = none
    ∧ sK2.handleOf (sK2.rd 9) = some (2, bd true) ∧ sK2.handleOf (sK2.rd 12) = some (3, bd false) ∧ sK2.ready (extFr g7 false) (acc [9, 12] []) = true
    ∧ sK2.ready (extFr g7 false) (acc [9] []) = true ∧ sK2.kvBusy 0 2 = false ∧ (sK [(2, bd true)] [kvop]).kvBusy 0 2 = true
    ∧ sK2.ready (extFr g7 false) { srcs := [9], dsts := [10] } = true ∧ (bd true).pkg = sK2.pkg.toNat ∧ (bd true).entry + 32 ≤ hbmTop ∧ sK2.errRead none (bd true).entry 32 = none
    ∧ sK2.ready (extFr g7 false) (acc [0] [10]) = true ∧ BitVec.ofNat 64 sK2.myLaunch.kvroot ≠ 0 ∧ sK2.rd 0 = 0 ∧ 0 < 2 ^ rootLgn (BitVec.ofNat 64 sK2.myLaunch.kvroot)
    ∧ (sK2.pnat (seqAddr (BitVec.ofNat 64 sK2.myLaunch.kvroot) 0) 32).testBit 84 = true ∧ bits (sK2.pnat 0x20000 32) 81 80 ≠ 3 ∧ seqReservedOk (sK2.pnat 0x20000 32) = true
    ∧ (∀ j, j < 16 → (sK ((List.range 16).map (fun j => (j, bd false))) []).kvBind 0 j ≠ none)
    ∧ sK2.kvBind 0 0 = none ∧ (sK [(0, bd false)] []).kvBind 0 1 = none ∧ (sK [(0, bd false)] []).kvBind 0 0 ≠ none ∧ (sK2.pnat 0x20000 32).testBit 224 = false := by
  and_intros <;> decide +kernel

def isOk {ε α : Type} (r : Except ε α) : Bool := match r with | .ok _ => true | .error _ => false
def ev (u i : Nat) : EvArgs := { unit := u, item := i }

/-! The memory system: a slice whose windows have run out, requests to pin and to release, a faded pin, an open bank, a stack in
self-refresh. -/
def pin0 : Pin := { func := 0, asid := 0, counter := 0, unit := 0, fade := 5, units := 1, vbase := 0x10000, pages := [16] }
def pinHot : Pin := { pin0 with counter := 3 }
def preq (rel : Bool) (va : Nat) (ps : List Nat) : PinReq :=
  { strand := 0, release := rel, asid := 0, va := va, units := 1, unit := 0, fade := 5, pages := ps, pdst := 2 }
def sPin (pins : Sparse Pin) (r : PinReq) : State := { sV with pins := pins, pinReqs := [r], ev := ev 0 63 }
theorem witness_MemorySystemSteps :
    (let s := sV.modSlice 0 (fun q => { q with misses := 2 ^ 16, merging := [5] }); 2 ^ (s.slice 0).filtwin ≤ (s.slice 0).misses ∧ (s.slice 0).merging = 5 :: [])
    ∧ (sPin [] (preq false 0x20000 [32])).pinReqs = preq false 0x20000 [32] :: [] ∧ sV.still 0 = false ∧ sV.alive 0 = true ∧ (sV.strand 0).life ≠ .saved ∧ sfind (sPin [] (preq false 0x20000 [32])).pins 0 = none
    ∧ (sPin [(0, pin0)] (preq false 0x20000 [32])).pins.countP (fun p => p.2.func == 0) < sget sV.quotas 64 0
    ∧ (∀ p ∈ (sPin [(0, pin0)] (preq false 0x20000 [32])).pins, ∀ a ∈ p.2.pages, a ∉ [32])
    ∧ sfind (sPin [(0, pin0)] (preq false 0x20000 [32])).pins 1 = none ∧ sfind (sPin [(0, pin0)] (preq false 0x20000 [32])).pins 0 ≠ none
    ∧ (let s := { sPin [(0, pin0)] (preq false 0x20000 [32]) with quotas := [(0, 1)] }; sget s.quotas 64 0 ≤ s.pins.countP (fun p => p.2.func == 0))
    ∧ (∀ i, i < 64 → sfind (sPin ((List.range 64).map (fun i => (i, pin0))) (preq false 0x20000 [32])).pins i ≠ none)
    ∧ (∀ p ∈ (sPin [(0, pin0)] (preq true 0x20000 [])).pins, p.2.asid = 0 → 0x20000 < p.2.vbase ∨ p.2.vbase + 65536 * p.2.units ≤ 0x20000)
    ∧ (pinHot.fade = 0 ∨ pinHot.counter ≠ 0) ∧ (∃ p ∈ (sPin [(0, pinHot)] (preq false 0x20000 [16])).pins, (p.2.fade = 0 ∨ p.2.counter ≠ 0) ∧ ∃ a ∈ p.2.pages, a ∈ [16])
    ∧ (sPin [(0, pinHot)] (preq true 0x1FFFF [])).pins = [(0, pinHot)] ∧ pinHot.asid = (preq true 0x1FFFF []).asid
    ∧ pinHot.vbase ≤ 0x1FFFF ∧ 0x1FFFF < pinHot.vbase + 65536 * pinHot.units ∧ sfind (sPin [(63, pin0)] (preq true 0 [])).pins (sPin [] (preq true 0 [])).ev.item = some pin0
    ∧ pin0.fade ≠ 0 ∧ pin0.counter = 0 ∧ sV.mevq.length < 4096
    ∧ (let s := { sV with hbmStacks := [(11, { open_ := [(63, 1)], selfRef := true })] }
       (sfind (sget s.hbmStacks {} 11).open_ 63).isSome = true ∧ (sget s.hbmStacks {} 11).selfRef = true ∧ (sget s.hbmStacks {} 0).selfRef = false) := by
  and_intros <;> decide +kernel
/-! Walks: space 0 with tables at 0x30000, 0x31000 and 0x32000 and a page of 1 GiB; a key at the die, its walk, a fault handed over. -/
def tables : List (Nat × Nat) := [(0x30000, 0x31001), (0x31000, 0x32001), (0x32000, 0x61F)]
def wk : Walk := { asid := 0, page := 16, need := needR, cores := [0] }
def sWalk : State :=
  { sV with spaces := [(0, BitVec.ofNat 128 (2 ^ 127 + 0x30000))], pmem := tables.foldl (fun m p => mwrite m p.1 (leBytes 8 p.2)) [] }
def wf0 : WalkFault := { tag := 5, asid := 0, page := 16, need := needR, reason := 5, cores := [0] }
def sWf (v : Dword) : State := ({ sV with ev := { value := v } }.modDie 0 (fun d => { d with wfaults := [wf0] })).modStrand 0 (fun t => { t with life := .parked, wait := .key 0 16 needR })
def page1G : Tlb := { asid := 0, vbase := 0, size := 6, pa := 0, tgt := 0, pkg := 0, nocache := false, r := true, w := true, x := true }
theorem witness_AddressTranslation :
    (let s := sWalk.modDie 0 (fun d => { d with keys := [wk], tlb := [farPage] }); (s.die 0).keys = wk :: [] ∧ s.still 0 = false ∧ (s.die 0).walks.length < 1024
      ∧ (∀ t ∈ (s.die 0).tlb, (t.covers 0 (0x30 * 4096) && t.grants needR) = false))
    ∧ ((sWalk.modDie 0 (fun d => { d with walks := [wk] })).die 0).walks[(0 : Nat)]? = some wk ∧ (sV.dieWalk 0 0 16 needR).fin = .fault 1 ∧ (sV.die 0).devq.length < 4096
    ∧ (sWalk.dieWalk 0 0 16 needR).fin = .page page1G ∧ (sWalk.die 0).wcache = [] ∧ page1G.covers 0 (16 * 4096) = true ∧ page1G.grants needR = true
    ∧ ({ sV with spaces := [(0, BitVec.ofNat 128 (2 ^ 127 + 0x10400000000))] }.dieWalk 0 0 16 needR).fin = .reserved
    ∧ (let e := sWalk.pnat 0x32000 8; 0x32000 + 8 ≤ hbmTop ∧ e.testBit 0 = true ∧ bits e 55 52 = 0 ∧ e.testBit 5 = false ∧ sWalk.errRead none 0x32000 8 = none
        ∧ e.testBit 1 = true ∧ bits e 7 6 < 2 ∧ bits e 63 56 = 0 ∧ sizeAt 2 (bits e 10 8) = true ∧ bits e 51 12 * 4096 % pageBytes (bits e 10 8) = 0)
    ∧ (let e := sWalk.pnat 0x31000 8; e.testBit 0 = true ∧ e.testBit 1 = false ∧ bits e 63 56 = 0 ∧ bits e 11 6 = 0 ∧ bits e 4 2 = 0) ∧ (sWalk.pnat 0x32008 8).testBit 0 = false
    ∧ ((sWf 5).ctl 0).machine = true ∧ ((sWf 5).die 0).wfaults = [wf0] ∧ wf0.tag = (sWf 5).ev.value.toNat % 65536 ∧ (sWf 0x10005).ev.value.getLsbD 16 = true
    ∧ wf0.tag = (sWf 0x10005).ev.value.toNat % 65536 ∧ (sWf 5).ev.value.getLsbD 16 = false ∧ ((sWf 5).core 0).sqe = [] ∧ ((sWf 5).core 0).xqe = []
    ∧ ((sWf 5).strand 0).wait = .key 0 16 needR ∧ (sfind (sWf 5).strands 0).isSome = true ∧ needR &&& wf0.need = needR
    ∧ (sV.ctl 8).machine = true ∧ (1 : Dword).getLsbD 0 = true ∧ sV.invBusy = false ∧ sV.oldLeft 0 0 0 = false ∧ { sV with invBusy := true, invFor := some 3 }.oldLeft 0 0 0 = false := by
  and_intros <;> decide +kernel

/-! Engine ops: streamer op 7 with its record, destination 0x40 and a buoy of 16 bytes and one arrival at 0x20, or a ring at 64; with and
without a start; the segment done; a box done whose receivers are this core and core 1; a fault. -/
def eOp (i : Instr) (ring act : Bool) : EngOp :=
  { id := 7, troop := 0, strand := 0, opid := 0, sub := i, record := rec16, handle := 3, dst := 0x40, src := 0x100, coords := [0, 0, 0], objRing := ring,
    obj := if ring then 64 else 0x20, tok := some 15, active := act }
def ldI : Instr := .copyLd ⟨g7, some 15⟩ false 6 20 7 3
def xfI : Instr := .xform ⟨g7, some 15⟩ false .tr 6 12 0 7 3
def sOp (eng : Eng) (o : EngOp) : State :=
  let s := (one .access []).modTroop 0 (fun t => { t with spm := mwrite (mwrite [] 0x20 (leBytes 16 (2 + 2 ^ 16 + 16 * 2 ^ 32))) 64 (ringW 1 0 1 ++ mread [] 0 416 ++ leBytes 8 (0x400 + 0x20 * 2 ^ 32)) })
  { s.modCore 0 (fun k => { k with tlb := [{ rwPage with vbase := 0, pa := 0x10000 }], sqe := if isXf eng then [] else [o], xqe := if isXf eng then [o] else [] })
      with ev := { item := 7, eng := eng } }
def landOp (todo : List Nat) : EngOp := { eOp (.copymc ⟨g7, none⟩ 6 20 8 7 3 0) false true with seg := 1, todo := todo, lw := 0x200 }
/-- Its landing word in error; a receiver on core 1, the last; a row written to package 1 and not acknowledged. -/
def sBadLand : State := { sOp .streamer (landOp [0, 1]) with errs := [{ loc := .pool 0 0 0x200 }] }
def sLand2 : State :=
  let s := sOp .streamer (landOp [1])
  { s with troops := s.troops ++ [(64, s.troop 0)], ev := { s.ev with aux := 1 } }
def outOp : EngOp := { eOp (.copySt ⟨g7, some 15⟩ 6 20 7 3) false true with seg := 1, outs := [(9, 1, 0x5000, 1)] }
def sOut : State := { sOp .streamer outOp with routes := [(1, 2, true)], ports := [(1, { live := true })], ev := { item := 9, eng := .streamer } }
theorem witness_EngineOpsRun :
    let s (o : EngOp) : State := sOp .streamer o
    let lives (o : EngOp) : Prop := (s o).liveOp 0 false 7 = some o
    lives (eOp ldI false false) ∧ (s (eOp ldI false false)).engineDue 0 false (eOp ldI false false) = true ∧ isIndexed ldI = false
    ∧ lives (eOp ldI true false) ∧ (s (eOp ldI true false)).engineDue 0 false (eOp ldI true false) = true 
    ∧ (s (eOp ldI true false)).objFault 0 64 32 (ringValid ((s (eOp ldI true false)).spmSize 0) ((s (eOp ldI true false)).ringAt 0 64)) = none
    ∧ lives (eOp (.gather xa false 6 20 10 7 3) false false) ∧ isIndexed (.gather xa false 6 20 10 7 3) = true ∧ (s (eOp ldI false false)).spmIn 0 0x100 (4 * (trecOf rec16).b1) = true
    ∧ (s (eOp ldI false false)).errRead (some 0) 0x100 4 = none ∧ { eOp ldI false true with coords := [-16, 0, 0] }.run 0 = none
    ∧ (let v := (s (eOp ldI false true)).vrange 0 0 needR [] 0 16; isOk v = true ∧ (match v with | .ok [pc] => pc.t == .dev && ((s (eOp ldI false true)).errRead none pc.a pc.n).isNone | _ => false) = true)
    ∧ lives (eOp ldI false true) ∧ (eOp ldI false true).running = true ∧ (eOp ldI false true).seg < (eOp ldI false true).segs ∧ isCopymc ldI = false
    ∧ (s (eOp ldI false true)).objFault 0 0x20 16 (buoyValid ((s (eOp ldI false true)).buoyAt 0 0x20)) = none ∧ xfOf ldI = none ∧ isStoreOp ldI = false ∧ (trecOf rec16).cmode = false
    ∧ isOk ((s (eOp ldI false true)).loadRow 0 (eOp ldI false true) []) = true ∧ 0x20 + 16 ≤ (eOp ldI false true).place
    ∧ (sOp .xform (eOp xfI false true)).liveOp 0 true 7 = some (eOp xfI false true) ∧ xfOf xfI = some .tr ∧ isOk ((sOp .xform (eOp xfI false true)).xformOut (eOp xfI false true) .tr) = true
    ∧ (sOp .xform (eOp xfI false true)).spmIn 0 0x40 16 = true
    ∧ lives (landOp [0, 1]) ∧ (landOp [0, 1]).seg = (landOp [0, 1]).segs ∧ 0 ∈ (landOp [0, 1]).todo ∧ (s (landOp [0, 1])).landWaits (landOp [0, 1]) 0 = false
    ∧ isOk ((s (landOp [0, 1])).landing (landOp [0, 1]) 0) = true ∧ isOk ((s (landOp [0, 1])).landing (landOp [0, 1]) 1) = false ∧ (s (landOp [0, 1])).landWaits (landOp [0, 1]) 1 = false
    ∧ (match (s (landOp [0, 1])).landing (landOp [0, 1]) 1 with | .error (.spm _) => true | _ => false) = true
    ∧ (match sBadLand.landing (landOp [0, 1]) 0 with | .error (.ecc _) => true | _ => false) = true ∧ sBadLand.liveOp 0 false 7 = some (landOp [0, 1]) ∧ sBadLand.landWaits (landOp [0, 1]) 0 = false
    ∧ sLand2.liveOp 0 false 7 = some (landOp [1]) ∧ (match sLand2.landing (landOp [1]) 1 with | .ok (q, _, _) => q == 64 | _ => false) = true
    ∧ sLand2.landWaits (landOp [1]) 1 = false ∧ sLand2.objFault 0 0x20 16 (buoyValid (sLand2.buoyAt 0 0x20)) = none
    ∧ outOp.outs ≠ [] ∧ sOut.findReq 0 9 = none ∧ sOut.findOut 0 9 = some (outOp, 1, 0x5000, 1) ∧ sOut.findOp 0 false 7 = some outOp ∧ sOut.ev.err = none ∧ sOut.routeOk 1 = true
    ∧ (eOp ldI false true).outs = []
    ∧ (landOp [0, 1]).todo.filter (· != 1) ≠ [] ∧ (landOp [0, 1]).fault = none ∧ (s (eOp ldI false true)).hasCrew 0 = true
    ∧ lives { eOp ldI false true with seg := 1 } ∧ { eOp ldI false true with seg := 1 }.seg = (eOp ldI false true).segs
    ∧ lives { eOp ldI false true with fault := some (0x0D, 0, 0) } ∧ ((s (eOp ldI false true)).strand 0).life ≠ .exited := by and_intros <;> decide +kernel
/-! KV ops 7 of handle 2: its entry of count 8, window 4 and no gather under way stands in a line of its slice. -/
def kOp (i : Instr) (act : Bool) : KvOp :=
  { id := 7, troop := 0, strand := 0, opid := 0, sub := i, handle := 2, n := 4, dst := 0x40, win := 6, obj := 0x20, hasObj := true, tok := none, active := act, read := act, count := 8, win0 := 4 }
def kEntry : Nat := 2 ^ 84 + 3 * 2 ^ 64 + 2 ^ 72 + 4 * 2 ^ 32 + 8
def sKop (o : KvOp) : State :=
  { (((sK2.modTroop 0 (fun t => { t with spm := mwrite [] 0x20 (leBytes 16 (2 + 2 ^ 16)) })).modCore 0 (fun k => { k with kq := [o] })).modSlice (sliceOf 0x400)
      (fun q => { q with lines := [(0x400, { data := BitVec.ofNat 1024 kEntry })] })) with ev := ev 0 7 }
def gaI : Instr := .kvgather xa .k false 6 11 12 7 4
def apI : Instr := .kvappend xa true 6 8 7 4
def wnI : Instr := .kvwin xa 9 10
theorem witness_KvOpsRun :
    let base (o : KvOp) : Prop := (sKop o).liveKv 0 7 = some o ∧ (sKop o).kvBind 0 o.handle = some (bd true) ∧ (sKop o).errRead none (bd true).entry 32 = none
      ∧ (sfind ((sKop o).slice (sliceOf ((bd true).entry / 128))).lines ((bd true).entry / 128)).isSome = true
    (bd true).pkg = (sKop (kOp gaI false)).pkg.toNat ∧ (bd true).entry + 32 ≤ hbmTop ∧ base (kOp apI false) ∧ (sKop (kOp apI false)).kvDue 0 (kOp apI false) = true ∧ isAppend apI = true
    ∧ base (kOp gaI false) ∧ (sKop (kOp gaI false)).kvDue 0 (kOp gaI false) = true ∧ isGatherKv gaI = true ∧ base (kOp wnI false) ∧ (sKop (kOp wnI false)).kvDue 0 (kOp wnI false) = true
    ∧ (kOp gaI false).read = false ∧ (kOp gaI true).read = true ∧ (∀ i ∈ (kOp wnI true).after, i ∉ (sKop (kOp wnI true)).storesOf 0)
    ∧ base (kOp gaI true) ∧ (kOp gaI true).running = true ∧ (sKop (kOp gaI true)).objFault 0 0x20 16 (buoyValid ((sKop (kOp gaI true)).buoyAt 0 0x20)) = none
    ∧ (gatherSegs (bd true) (kOp gaI true))[(0 : Nat)]? = some (0, 0, 0) ∧ isOk ((sKop (kOp gaI true)).gatherRows (bd true) (kOp gaI true) (0, 0, 0) []) = true ∧ isOk (((sKop (kOp gaI true)).dropKvCache 0 2).gatherRows (bd true) (kOp gaI true) (0, 0, 0) []) = true
    ∧ (let r := groupRange (bd true) 0 0 4; min r.2 8 ≤ max r.1 4) ∧ 0x20 + 16 ≤ (gatherPlace (bd true) (kOp gaI true) (0, 0, 0)).1
    ∧ { kOp gaI true with seg := 1 }.seg = (gatherSegs (bd true) (kOp gaI true)).length ∧ (kOp gaI true).n ≤ 256
    ∧ base (kOp wnI true) ∧ isWin wnI = true ∧ isTrim (.kvtrim xa 9) = true ∧ min (max (seqWin kEntry) 6) (seqCount kEntry) ≠ seqWin kEntry ∧ seqGin kEntry true = 0
    ∧ min (max (seqWin kEntry) 4) (seqCount kEntry) = seqWin kEntry ∧ seqGin (kEntry + 2 ^ 208) true ≠ 0
    ∧ (kOp wnI true).susp = none ∧ (kOp wnI true).fault = none ∧ { kOp wnI true with seg := 1 }.seg = kvSegs (bd true) (kOp wnI true) ∧ (sKop (kOp wnI true)).hasCrew 0 = true
    ∧ (sKop (kOp wnI true)).pnat (bd true).entry 32 = kEntry := by and_intros <;> decide +kernel
/-- An append of one row to an empty sequence whose directory at 0x28000 gives each head one page, present and valid, whose
first chunk holds no row in granules 1 to 4 of a pool of 64; a trim at window 0 of the same. -/
def bdD : KvBind := { bd true with dir := 0x28000 }
def dirMem (e : Nat) : Memory :=
  let put (l : List Nat) (m : Memory) (at_ step v inc n : Nat) : Memory := l.foldl (fun m i => mwrite m (at_ + step * i) (leBytes n (v + inc * i))) m
  let hs := List.range 8
  mwrite (mwrite (mwrite (put hs (put hs (put hs (mwrite [] 0x20000 (leBytes 1 e)) 0x28000 16 0x29000 256 3) 0x28008 16 1 0 1) 0x29000 256 2 0 1) 0x29000 (leBytes 3 0x2A003)) 0x2A000
    (leBytes 16 (4 * 2 ^ 112 + 4 * 2 ^ 84 + 3 * 2 ^ 56 + 2 * 2 ^ 28 + 1))) 0x100000 [0xE0, 0xFF]
def apOp : KvOp := { kOp apI true with n := 1, count := 0, win0 := 0 }
def sAp (o : KvOp) (e : Nat) : State := { sKop o with pmem := dirMem e, kvpoolbase := 0x100000, kvpooln := 64 }
theorem witness_KvOpsRun_append :
    apOp.running = true ∧ isAppend apI = true ∧ apOp.seg < (appendSegs bdD apOp).length ∧ (appendSegs bdD apOp)[(0 : Nat)]? = some (0, 0, 0)
    ∧ isOk ((sAp apOp 8).appendRows bdD apOp (0, 0, 0)) = true ∧ isOk ((sAp apOp 8).knat 0 bdD.entry 32 []) = true ∧ isOk ((sAp apOp 8).trimAll bdD 0) = true := by
  and_intros <;> decide +kernel

/-! Loops and links: a packet next in order, ahead, late, accepted; an entry towards channel 0 in flight, refused, accepted; a port;
launch 1 spanning other packages. -/
def lp (seq : Nat) (e g : Bool) : LoopPkt := { id := 9, src := 3, dst := 70, loop := 71, seq := seq, kind := 1, early := e, got := g }
def sLoop (p : LoopPkt) (q : Nat) : State := { sV with loopPkts := [p], loopSeen := [(pairKey 3 70 1, q)], loops := [(71, { drops := 7 })], ev := { item := 9, unit := 71 } }
def sTime (p : LoopPkt) : State := { sLoop p 5 with rasTrack := [(1171, { clock := 4096 })] }
def cm (st : Nat) : ChanMsg := { id := 9, crew := 0, strand := 0, chan := 0, pkg := 0, lid := 1, span := 0, troop := 0, seq := 0, data := [1, 2, 3, 4], st := st, chbk := 0 }
def sChan (occ st : Nat) : State := { (sCh occ 0).modCore 0 (fun k => { k with cycle := 64 }) with chanMsgs := [cm st], ev := { item := 9 } }
def spanLaunch : Launch := { probeLaunch with packet := probeLaunch.packet ||| BitVec.ofNat 1024 (2 ^ 928) }
def sSpan : State := { troops := [], launches := [(1, spanLaunch)], ev := { item := 2, aux := 1, flag := true } }
theorem witness_LoopsLinksAndChannels :
    (sLoop (lp 5 false true) 6).findPkt 9 = some (lp 5 false true) ∧ (lp 5 false true).got = true ∧ (lp 5 false false).got = false
    ∧ (sLoop (lp 5 false false) 5).findPkt 9 = some (lp 5 false false) ∧ sget (sLoop (lp 5 false false) 5).loopSeen 0 (pairKey 3 70 1) = (lp 5 false false).seq
    ∧ (∀ u ∈ (sLoop (lp 5 false false) 5).loopPkts, u.early = false) ∧ 5 < (lp 6 false false).seq ∧ (lp 4 false false).seq < 5
    ∧ 8 ≤ (sget (sLoop (lp 5 false false) 5).loops {} 71).drops + 1 ∧ (sLoop (lp 5 false false) 5).ev.unit < 72 ∧ (sget (sLoop (lp 5 false false) 5).loops {} 71).failed = false
    ∧ sV.mevq.length < 4096 ∧ (sChan 0 0).still 0 = false ∧ (cm 0).pkg = (sChan 0 0).pkg.toNat ∧ (sChan 0 0).onLoop 9 = false ∧ (sChan 0 0).storesLeft [] 0 = false
    ∧ (match (sChan 0 0).chanFate 1 0 0 with | .take 0 => true | _ => false) = true ∧ (match (sChan 1 0).chanFate 1 0 0 with | .refuse => true | _ => false) = true
    ∧ 2 ≤ (cm 2).st ∧ (cm 1).time + 64 * 2 ^ (cm 1).chbk ≤ ((sChan 0 1).core (coreOf (cm 1).strand)).cycle
    ∧ (sLoop (lp 5 false false) 5).loopClock 71 < 0 + 4096 ∧ 0 + 4096 ≤ (sTime (lp 5 false false)).loopClock 71 ∧ (sTime (lp 5 false false)).findPkt 9 = some (lp 5 false false)
    ∧ 4 ≤ (sget sV.ports {} 63).width.toNat
    ∧ (63 : Nat) < 64 ∧ (let s := { sV with ports := [(63, { live := true })] }; (sget s.ports {} 63).live = true)
    ∧ sSpan.ev.item ≠ sSpan.pkg.toNat ∧ sSpan.routeOk 2 = false ∧ sSpan.puts = [] ∧ (∀ l ∈ ({ sSpan with launches := [(1, probeLaunch)] } : State).launches, l.1 = 1 → l.2.spanId = 0 ∨ l.2.closing ≠ none)
    ∧ spanLaunch.lid = sSpan.ev.aux ∧ spanLaunch.spanId ≠ 0 ∧ spanLaunch.closing = none ∧ (∀ t ∈ sSpan.troops, t.2.lid ≠ 1) ∧ sSpan.evrings = [] ∧ (sSpan.die 0).devq.length < 4096
    ∧ (((sSpan.postLoss [1]).closeLaunch 1 2).writeRecord { spanLaunch with closing := some 2 } 2 0).isSome = true := by
  and_intros <;> decide +kernel
/-! UALink: package 255 with a valid route and one without; a PUT record, a channel entry, an atomic on a line held. -/
def sUa (bs : List Byte) : State :=
  { (sCh 0 0).modSlice (sliceOf 0x200) (fun q => { q with lines := [(0x200, { data := 5 })] }) with
    routes := [(255, 1, true)], bootstat := 4, ev := { unit := 255, aux := 1, data := bs, value := 0x1007F, item := 1 } }
def putRec (pkg kind : Nat) : List Byte := leBytes 9 (pkg * 2 ^ 56 + 31 * 2 ^ 64) ++ [BitVec.ofNat 8 kind] ++ List.replicate 54 0
def chReq : List Byte := List.replicate 48 0
def atReq : List Byte := leBytes 16 (0x10078 + 2 ^ 64) ++ [9, 2] ++ List.replicate 14 0
theorem witness_UalinkTraffic :
    sV.booted = false ∧ { sV with bootstat := 4 }.booted = true ∧ { sV with bootstat := 4 }.routed 255 = false ∧ (sUa []).booted = true ∧ (sUa []).routed 255 = true ∧ putRecordOk (putRec 0 4) = false ∧ putRecordOk (putRec 0 3) = true ∧ putRecordOk (putRec 9 3) = true
    ∧ cwPkg (BitVec.ofNat 64 (natAt (putRec 0 3) 0 8)) = (sUa []).pkg.toNat ∧ cwPkg (BitVec.ofNat 64 (natAt (putRec 9 3) 0 8)) ≠ (sUa []).pkg.toNat
    ∧ chanHeaderOk chReq = true ∧ natAt chReq 12 4 = (sUa chReq).nextSeq 1 0 0 0 ∧ 5 ≠ (sUa chReq).nextSeq 1 0 0 0 ∧ chanHeaderOk (setAt chReq 12 5) = true ∧ (sUa chReq).launchAt 1 = some chLaunch ∧ chanOn chLaunch (natAt chReq 0 4 / 2 ^ 24) = true ∧ chanBytes chLaunch 0 + 32 = chReq.length
    ∧ (match (sUa chReq).chanFate 1 0 0 with | .take 0 => true | _ => false) = true
    ∧ (match ((sUa chReq).modTroop 0 (fun t => { t with chans := [(0, { occ := 1 })] })).chanFate 1 0 0 with | .refuse => true | _ => false) = true
    ∧ 0x1007F + 1 ≤ hbmTop ∧ (sUa []).stackWaits 0x1007F 1 = false ∧ (sUa []).errRead none 0x1007F 1 = none
    ∧ { sUa [] with errs := [{ loc := .line 0x200 false }] }.errRead none 0x1007F 1 ≠ none
    ∧ [1] ≠ ([] : List Byte) ∧ 0x1007F / 128 = (0x1007F + 1 - 1) / 128 ∧ (sfind ((sUa []).slice (sliceOf (0x1007F / 128))).lines (0x1007F / 128)).isSome = true
    ∧ atomRecordOk atReq = true ∧ 0x10078 % 4 = 0 ∧ 0x10078 + 4 ≤ hbmTop ∧ (sUa atReq).stackWaits 0x10078 4 = false ∧ (sUa atReq).errRead none 0x10078 4 = none
    ∧ 0x10078 % 8 = 0 ∧ (sUa []).stackWaits 0x10078 8 = false ∧ (sUa []).errRead none 0x10078 8 = none ∧ ¬(0x1007F : Nat) % 4 = 0
    ∧ (let s := { sPut with puts := [{ pm 0x02000000 31 0 0 with out := true }] }; s.puts = [{ pm 0x02000000 31 0 0 with out := true }] ∧ natAt (leBytes 8 5) 0 8 = 5 ∧ s.hasCrew 0 = true)
    ∧ (let s := { sChan 0 0 with chanMsgs := [{ cm 0 with pkg := 255 }] }; s.chanMsgs = [{ cm 0 with pkg := 255 }] ∧ 255 ≠ s.pkg.toNat ∧ natAt (leBytes 8 9 ++ [1]) 0 8 = 9 ∧ byteAt (leBytes 8 9 ++ [1]) 8 = 1)
    ∧ (let r := { rq (.atom .add 4) false with tgt := .remote 255, sent := true }; (sR r).findReq 0 3 = some r ∧ r.sent = true ∧ r.done = false ∧ byteAt (leBytes 17 3) 16 = 0) := by
  and_intros <;> decide +kernel
/-! Strands, crews and troops: a strand Pending on s9, words of no instruction, a crew and a troop with nothing left, a bin. -/
def sPend (m : BitVec 128) : State := tweak sV ({ · with life := .pending, pend := m, wait := .result (BitVec.ofNat 128 (2 ^ 9)) })
def sBad : State := sV.modCore 0 (fun k => { k with tlb := [probePage] })
def sGone : State := tweak (sV.modCrew 0 (fun c => { c with sq := [] })) ({ · with life := .exited })
def two1 : Launch := { probeLaunch with packet := probeLaunch.packet ||| BitVec.ofNat 1024 (2 ^ 576) }
def sRet : State := { sV with crews := [], strands := [], launches := [(1, two1)] }
def bin1 (due : Bool) : Bin := { binN 15 2 with timer := some 0, due := due, reqs := [[1, 2, 3, 4, 5, 6, 7, 8], [9]] }
def sBin1 (due : Bool) : State := { sKey [(3, bin1 due)] with ev := { unit := 0, item := 3, aux := 2 } }
theorem witness_StrandsAndTroopsBeginAndEnd :
    sV.still 0 = false ∧ sV.mayIssue 0 = true ∧ ((sPend 0).strand 0).life = .pending ∧ ((sPend 0).strand 0).wait = .result (BitVec.ofNat 128 (2 ^ 9))
    ∧ BitVec.ofNat 128 (2 ^ 9) &&& ((sPend 0).strand 0).pend = 0 ∧ BitVec.ofNat 128 (2 ^ 9) &&& ((sPend (BitVec.allOnes 128)).strand 0).pend ≠ 0
    ∧ (match sBad.fetchFrame with | .words 0 ws => !isOk (decodeWords ws) | _ => false) = true ∧ sBad.myStrand.cause.getLsbD 31 = false
    ∧ sGone.hasCrew 0 = true ∧ sGone.liveLanes 0 = [] ∧ (sGone.crew 0).ld = 0 ∧ (sGone.crew 0).st = 0 ∧ (sGone.crew 0).pt = 0 ∧ (sGone.crew 0).sq = []
    ∧ (sfind sRet.troops 0).isSome = true ∧ (sRet.troop 0).res = .resident ∧ srising sGone.strands = true ∧ sRet.troopStores 0 = false ∧ sRet.crewsOf 0 = [] ∧ sRet.opsLeft 0 = false ∧ (sRet.troop 0).kv = [] ∧ (sRet.die 0).devq.length < 4096
    ∧ sRet.launchAt 1 = some two1 ∧ two1.closing = none ∧ two1.retired.length + 1 ≠ two1.troops
    ∧ sfind ((sBin1 false).core 0).bins 3 = some (bin1 false) ∧ sfind ((sBin1 true).core 0).bins 3 = some (bin1 true) ∧ (sBin1 true).still 0 = false
    ∧ ((sBin1 true).troop 0).saving = false ∧ ((sBin1 true).troop 0).res = .resident ∧ (bin1 true).reqs ≠ [] ∧ (bin1 false).timer = some 0 ∧ (sBin1 true).freeBlocks 0 ≠ 0
    ∧ (∀ c ∈ (sBin1 true).crewsOf 0, ((sBin1 true).crew c).res ≠ .saved) ∧ (sBin1 true).spawnIndex 0 = some 32
    ∧ (((sBin1 true).unitsFor 0 .access).find? (· == 2)).or ((sBin1 true).unitsFor 0 .access).head? = some 4 := by
  and_intros <;> decide +kernel
/-! Launches: queue 63 of die 7; a device running with one packet, of a free space, of a valid one, good and bad; a launch eligible on die
0, with a core that fits and with none; a PLACE record. -/
def sQ63 (v : Dword) : State := { bootstat := 4, ev := { unit := 7, item := 63, value := v } }
def onQ (t : Nat) (sp : BitVec 128) (bs : List Byte) : State :=
  { bootstat := 4, ev := { unit := 0, item := 0 }, spaces := [(0, sp)], hostMem := mwrite [] 0x1000 bs,
    dies := [(0, { lq := [(0, { base := 0x8000000000001000, ctl := 1, head := 0, tail := t })] })] }
/-- Entry 0x10000, handler 0x11000, one vector crew, 1 granule of scratchpad and of registers, die 0, identifier 1. -/
def goodPkt : List Byte := leBytes 128 (0x10000 + 0x11000 * 2 ^ 128 + 2 * 2 ^ 448 + 0x00100001 * 2 ^ 512 + 2 ^ 560 + 2 ^ 896)
def spOk : BitVec 128 := BitVec.ofNat 128 (2 ^ 127)
def goodL : Launch := { noLaunch with lid := 1, packet := lineOfBytes goodPkt, ext := List.replicate 516 0 }
def sElig : State := { onQ 1 spOk goodPkt with launches := [(1, goodL)] }
/-- No core of die 0 has granules free. -/
def sNone : State := { sElig with cores := (List.range 64).map (fun k => (k, { retiredGran := 192 })) }
def sPlace (s : State) : State := { s with ctls := [(0, { sram := mwrite [] 0x40 (leBytes 112 0 ++ leBytes 4 1 ++ leBytes 12 0 ++ leBytes 8 0) })], ev := { value := 0x40 } }
def firstIs (rs : List Nat) (r : Nat) : Bool := match rs with | q :: _ => q == r | [] => false
theorem witness_LaunchesReachCores :
    (sQ63 0).silent = false ∧ (5 : Nat) ≠ (sQ63 0).queueOwner 63 ∧ 2 ^ ((sQ63 2).queueAt 7 63).lgsz < (2 + 2 ^ 32 - ((sQ63 2).queueAt 7 63).head) % 2 ^ 32
    ∧ ¬2 ^ ((sQ63 1).queueAt 7 63).lgsz < (1 + 2 ^ 32 - ((sQ63 1).queueAt 7 63).head) % 2 ^ 32 ∧ ((sQ63 1).die 7).devq.length < 4096
    ∧ (onQ 1 0 []).booted = true ∧ ((onQ 1 0 []).queueAt 0 0).head ≠ ((onQ 1 0 []).queueAt 0 0).tail ∧ (onQ 1 0 []).launches = [] ∧ (sget (onQ 1 0 []).spaces 0 0).getLsbD 127 = false
    ∧ (sget (onQ 1 spOk goodPkt).spaces 0 0).getLsbD 127 = true
    ∧ (match (onQ 1 spOk goodPkt).readPacket 0x8000000000001000 0 with | .ok (bs, s1) => (s1.packetReasons { noLaunch with lid := natAt bs 112 4, packet := lineOfBytes bs }).isEmpty | _ => false) = true
    ∧ (match (onQ 1 spOk (leBytes 128 0)).readPacket 0x8000000000001000 0 with
        | .ok (bs, s1) => firstIs (s1.packetReasons { noLaunch with packet := lineOfBytes bs }) 2 && (s1.writeRecord { noLaunch with packet := lineOfBytes bs } 3 2).isSome | _ => false) = true
    ∧ goodL.extAddr = 0 ∧ sElig.restoreDue 0 = false ∧ (sElig.candidates 0 = [(goodL, 1)] ∧ drawn [(goodL, 1)] ((xorshift (sElig.die 0).lotseed).toNat % ([(goodL, 1)].map (·.2)).sum) = some goodL)
    ∧ goodL.gang = false ∧ sElig.launchAt goodL.lid = some goodL ∧ sElig.fits goodL 0 [] ≠ [] ∧ sNone.fits goodL 0 [] = [] ∧ sNone.candidates 0 ≠ []
    ∧ ((sPlace sElig).ctl 0).machine = true ∧ (0x40 : Dword).toNat % 64 = 0 ∧ natAt ((sPlace sElig).sram 0 0x40 256) 112 4 = 1
    ∧ ((sPlace sElig).fitCore goodL 0 [0, 1, 2, 3] []).isSome = true ∧ ((sPlace sNone).fitCore goodL 0 [0, 1, 2, 3] []).isNone = true := by
  and_intros <;> decide +kernel

/-! Contexts: a launch with a save area at 0x1000000 of host memory (space 0 maps it by a page of 1 GiB), the crew and the troop
asked to save, saving, saved; the command of R388 that asks. -/
def svLaunch : Launch := { probeLaunch with packet := probeLaunch.packet ||| BitVec.ofNat 1024 (0x1000000 * 2 ^ 192) }
def sSv (base : Nat) (leaf : Nat) (e : EvArgs) : State :=
  { sV with launches := [(1, svLaunch)], ev := e, spaces := [(0, BitVec.ofNat 128 (2 ^ 127 + base))], pmem := mwrite sWalk.pmem 0x32000 (leBytes 8 leaf) }
def askC (a : Option Nat) (b : Bool) (s : State) : State := tweak (s.modCrew 0 (fun c => { c with saveReq := a, saving := b })) ({ · with life := .parked })
def askT (a : Option Nat) (b : Bool) (s : State) : State := tweak (s.modTroop 0 (fun t => { t with saveReq := a, saving := b })) ({ · with life := .parked })
def svE (crew : Bool) : EvArgs := { flag := crew }
def sSaved (e : Nat × Option Nat) : State :=
  (((sSv 0x30000 0x65F { value := 0x40 }).modDie 0 (fun d => { d with savedCtx := [e] })).modTroop 0 (fun t => { t with res := if e.2.isNone then .saved else .resident })).modCrew 0
    (fun c => { c with res := .saved })
def sRst (e : Nat × Option Nat) : State :=
  { sSaved e with ctls := [(0, { sram := mwrite [] 0x40 (leBytes 8 0x1000000 ++ [0, if e.2.isNone then 0 else 1] ++ leBytes 8 0) })] }
def sCmd (s : State) (f op : Nat) (args : List Nat) : State :=
  { s with bootstat := 4, mbxq := [f], mbx := [(f, { block := BitVec.ofNat 512 (op + (leNat (args.flatMap (fun a => leBytes 8 a))) * 2 ^ 64), stat := 1 })] }
theorem witness_ContextsAreSavedAndRestored :
    let s := sSv 0x30000 0x65F (ev 0 0)
    (s.ctl 0).machine = true ∧ (sfind s.troops 0).isSome = true ∧ (s.launchOf 0).save ≠ 0 ∧ (63 * 4096) / 2 ^ 12 = 63 ∧ s.canSaveTroop 0 = true ∧ s.canSaveCrew 0 = true
    ∧ (s.troop 0).saveReq = none ∧ s.awaitsHeld 0 = false ∧ ((askT (some 65536) false s).troop 0).saveReq = some 65536 ∧ ((askT (some 65535) false s).troop 0).saving = false
    ∧ s.still 0 = false ∧ s.hasCrew 0 = true ∧ ((askC (some 65536) false s).crew 0).saveReq = some 65536 ∧ ((askC (some 65535) false s).crew 0).saving = false
    ∧ (∀ x ∈ (askC (some 0) false s).liveLanes 0, atRest ((askC (some 0) false s).strand x).life = true) ∧ (askC (some 0) true s).crewSettled 0 true = true
    ∧ (sSaved (0, none)).canRestore (0, none) ≠ none ∧ (sSaved (0, some 0)).canRestore (0, some 0) ≠ none ∧ ((sSaved (0, none)).die 0).savedCtx[(0 : Nat)]? = some (0, none)
    ∧ (let r := (sRst (0, some 0)).sram 0 0x40 64
       natAt r 11 53 = 0 ∧ coreOfTroop 0 = 64 * 0 + byteAt r 8 ∧ (sRst (0, some 0)).saveArea 0 = natAt r 0 8 ∧ byteAt r 9 = 1 ∧ crewIdx 0 = byteAt r 10)
    ∧ (sCmd s 0 10 [1, 0, 255]).commanded 0 10 false [32, 24, 8] = true ∧ (sCmd s 0 10 [1, 0, 0]).commanded 0 10 false [32, 24, 8] = true
    ∧ s.launchAt (((sCmd s 0 10 [1, 0, 255]).mbxAt 0).arg 0) = some svLaunch ∧ svLaunch.lid = 1 ∧ svLaunch.save ≠ 0 ∧ 0 < svLaunch.troops ∧ s.troops = [(0, troop0)]
    ∧ troop0.lid = svLaunch.lid ∧ troop0.index = ((sCmd s 0 10 [1, 0, 255]).mbxAt 0).arg 1 ∧ ((sCmd s 0 10 [1, 0, 255]).mbxAt 0).arg 2 = 255 := by
  and_intros <;> decide +kernel
/-- What each save writes can be written, and cannot when the area has a reserved physical address. -/
def writeOf (s : State) : Except VErr State :=
  let q := askC (some 0) true s
  let p := q.blobs (q.saveArea 0) (q.crewBlobs 0xA000 0 true)
  p.2.ctlWrite 0 p.1
def troopWrite (s : State) : Except VErr State :=
  let q := (askT (some 0) true s).takeOps 0
  let p := q.blobs (q.saveArea 0) (q.troopBlobs 0)
  p.2.ctlWrite 0 p.1
theorem witness_ContextsAreSavedAndRestored_crew :
    (match writeOf (sSv 0x30000 0x65F {}) with | .ok w => decide (w.strands = (askC (some 0) true sV).strands) && decide (w.crews = (askC (some 0) true sV).crews) | _ => false) = true := by
  decide +kernel
def sTr : State := askT (some 0) true (sSv 0x30000 0x65F {})
theorem witness_ContextsAreSavedAndRestored_troop :
    ((sTr.crewsOf 0).filter (fun c => (sTr.crew c).res == .resident)).all
      (fun c => sTr.crewSettled c false && (sTr.liveLanes c).all (fun x => atRest (sTr.strand x).life)) = true ∧ sTr.opsSettled 0 = true := by and_intros <;> decide +kernel
def isReserved {α : Type} (r : Except VErr α) : Bool := match r with | .error .reserved => true | _ => false
theorem witness_ContextsAreSavedAndRestored_reserved : isReserved (troopWrite (sSv 0x10400000000 0 {})) = true := by decide +kernel
/-- The header of a troop of no granules can be written, and the whole area of one whose crews have gone. -/
def sTrW (w : Bool) : State := sTr.modTroop 0 (fun t => { t with sgw := 0, writing := w })
theorem witness_ContextsAreSavedAndRestored_header :
    let s := sTrW false
    let p := s.blobs (s.saveArea 0) [(0, .bytes (headerBytes 0 (s.troop 0) ((s.crewsOf 0).filter (fun c => (s.liveLanes c) != [])) 3))]
    isOk (p.2.ctlWrite (s.launchOf 0).queue p.1) = true ∧ s.opsSettled 0 = true ∧ (s.troop 0).writing = false := by and_intros <;> decide +kernel
theorem witness_ContextsAreSavedAndRestored_area :
    let s := ({ sTrW true with crews := [], strands := [] } : State).takeOps 0
    let p := s.blobs (s.saveArea 0) (s.troopBlobs 0)
    isOk (p.2.ctlWrite (s.launchOf 0).queue p.1) = true ∧ ({ sTrW true with crews := [], strands := [] } : State).opsSettled 0 = true ∧ ((sTrW true).troop 0).writing = true := by and_intros <;> decide +kernel
/-- The areas of a saved crew and of a saved troop of no granules can be read, and the troop's header written. -/
def sRd (e : Nat × Option Nat) : State := (sRst e).modTroop 0 (fun t => { t with sgw := 0, writing := e.2.isNone })
theorem witness_ContextsAreSavedAndRestored_reads :
    (sRst (0, some 0)).canRestore (0, some 0) = some [0] ∧ isOk (((sRst (0, some 0)).modDie 0 (fun v => { v with savedCtx := [] })).reloadCtx 0 false [0]) = true
    ∧ ((sRd (0, none)).canRestore (0, none)).isSome = true
    ∧ (match ((sRd (0, none)).modDie 0 (fun v => { v with savedCtx := [] })).reloadCtx 0 true [0], (sRd (0, none)).canRestore (0, none) with
        | .ok s3, some us => let s4 := s3.enterCtx (0, none) [0] us
          let p := s4.blobs (s4.saveArea 0) [(6, .bytes (leBytes 1 ((if (s4.crewsOf 0).any (fun c => (s4.crew c).res == .saved) then 1 else 0) + coreOfTroop 0 % 64 * 4)))]
          isOk (p.2.ctlWrite (s4.launchOf 0).queue p.1)
        | _, _ => false) = true ∧ ((sRd (0, none)).troop 0).writing = true := by and_intros <;> decide +kernel
/-- No crew of the saved states has a signature outstanding, and no core a command. -/
theorem witness_ContextsAreSavedAndRestored_quiet (e : Nat × Option Nat) :
    (∀ c h, ((sSaved e).phase c h).sigs = []) ∧ ∀ k, ((sSaved e).core k).sqe = [] := by
  refine ⟨fun c h => ?_, fun k => rfl⟩
  have hc : ((sSaved e).crew c).h0.sigs = [] := by
    by_cases h0 : c = 0
    · subst h0; rfl
    · simp [sSaved, sSv, sV, one, State.crew, State.modCrew, State.modTroop, State.modDie, State.setCrew, State.setTroop, sget, sput, sfind, Ne.symm h0]
  have ht : ∀ q, (sget ((sSaved e).troop q).hitches {} h).phase.sigs = [] := by
    intro q
    by_cases h0 : q = 0
    · subst h0; rfl
    · simp [sSaved, sSv, sV, one, State.troop, State.crew, State.modCrew, State.modTroop, State.modDie, State.setCrew, State.setTroop, sget, sput, sfind, Ne.symm h0]
  unfold State.phase
  split
  · exact hc
  · exact ht _
/-! The host: the aperture of the physical function and of function 1; a mailbox at rest and busy; each register that a writer may and
may not write. -/
def sHost (e : EvArgs) : State :=
  { sV.modSlice (sliceOf 0x200) (fun q => { q with lines := [(0x200, { data := 5 })] }) with bootstat := 4, vfwin := [(1, 0x1000000000)], ev := e }
def sReg (r : HwReg) (flag : Bool) (u a : Nat) (v : Dword) : State := sHost { reg := r, flag := flag, unit := u, aux := a, value := v }
theorem witness_HostAccesses :
    let s := sHost { value := 0x1007F, item := 1 }
    s.apertureAt 0 0x1007F 1 = some 0x1007F ∧ s.silent = false ∧ 0x1007F + 1 ≤ 0x10400000000 ∧ s.stackWaits 0x1007F 1 = false ∧ s.errRead none 0x1007F 1 = none
    ∧ s.apertureAt 1 0x7F 1 = some 0x100000007F ∧ { s with errs := [{ loc := .line 0x200 false }] }.errRead none 0x1007F 1 ≠ none
    ∧ 0x1007F + 1 ≤ 0xC000000000 ∧ 0x1007F / 128 = (0x1007F + 1 - 1) / 128 ∧ (sfind (s.slice (sliceOf (0x1007F / 128))).lines (0x1007F / 128)).isSome = true
    ∧ (s.mbxAt 31).stat.getLsbD 0 = false ∧ s.mevq.length < 4096 ∧ (s.ctl 8).machine = true ∧ ((sCmd s 31 1 [0]).mbxAt 31).stat.getLsbD 0 = true
    ∧ (sReg (.lqbase 7 63) false 0 5 0).ev.aux ≠ (sReg (.lqbase 7 63) false 0 5 0).queueOwner 63 ∧ (sReg (.lotseed 7) false 0 0 0).ev.reg = .lotseed 7
    ∧ (sReg (.mbxBlock 31 7) false 0 31 0).ev.reg = .mbxBlock 31 7 ∧ (7 : Nat) < 8 ∧ (sReg .pwrlim false 0 0 999).ev.reg = .pwrlim
    ∧ (sReg (.ras 0) false 0 0 0).ev.reg = .ras 0 ∧ (sReg (.ras 1427) true 8 0 0).ev.reg = .ras 1427 ∧ ((sReg (.ras 1427) true 8 0 0).ctl 8).machine = true ∧ (sReg (.devie 7) true 7 0 1).ev.unit = 7
    ∧ (let t := { s with ctls := [(3, { mode := 0 })], ev := { unit := 3, flag := true, reg := .xwdctl 3 } }; (t.ctl t.ev.unit).machine = false ∧ t.ev.unit < 9 ∧ t.ev.reg = .xwdctl 3) := by
  and_intros <;> decide +kernel
/-! One command of each kind, at the edges of its arguments; an image well formed but for its signature, and one that is not. -/
def sBox (f op : Nat) (args : List Nat) : State := sCmd (sHost {}) f op args
def img0 (n : Nat) : List Byte := leBytes 4 0x4B56524A ++ leBytes 2 1 ++ leBytes 6 0 ++ leBytes 4 n ++ leBytes (n - 16) 0
def sImg (img : List Byte) (op : Nat) (args : List Nat) : State := { sBox 0 op args with pmem := mwrite [] 0 img }
theorem witness_MailboxCommands :
    (sBox 31 15 []).commanded 31 15 false [] = true ∧ (31 : Nat) ≠ 0 ∧ (sBox 0 1 [255]).commanded 0 1 true [8] = true ∧ (sBox 0 1 [255]).launches ≠ [] ∧ ({ sBox 0 1 [255] with launches := [] } : State).launches = []
    ∧ (sBox 0 2 [63, 0x1000, 2 ^ 63]).commanded 0 2 true [6, 64, 64] = true ∧ (sBox 0 2 [63, 0x1000, 2 ^ 63]).spaceBusy 63 = false ∧ (sBox 0 2 [0, 0, 0]).spaceBusy 0 = true
    ∧ (BitVec.ofNat 128 (0x1000 + 2 ^ 63 * 2 ^ 64)).extractLsb' 52 50 = 0 ∧ (BitVec.ofNat 128 (0x1000 + 2 ^ 63 * 2 ^ 64)).extractLsb' 0 12 = 0 ∧ (BitVec.ofNat 128 0x800).extractLsb' 0 12 ≠ 0
    ∧ (sBox 0 4 [255, 1, 1]).commanded 0 4 true [8, 64, 1] = true ∧ (sBox 0 5 [63, 3, 65535]).commanded 0 5 true [6, 2, 32] = true ∧ (sBox 0 6 [11, 2 ^ 31]).commanded 0 6 true [4, 32] = true
    ∧ 2 ^ 31 / 2 ^ 16 % 2 ^ 15 = 0 ∧ (sBox 0 7 [2 ^ 20, 64]).commanded 0 7 true [44, 28] = true ∧ (∀ t ∈ (sBox 0 7 [2 ^ 20, 64]).troops, t.2.kv = []) ∧ 2 ^ 20 + (64 + 7) / 8 ≤ 0x10400000000
    ∧ (sBox 0 8 [31, 65]).commanded 0 8 true [5, 7] = true ∧ (sBox 31 9 [63]).commanded 31 9 false [6] = true ∧ sfind { sBox 31 9 [63] with pins := [(63, pin0)] }.pins 63 = some pin0 ∧ pin0.func ≠ 31
    ∧ (sBox 31 3 [63, 0x1000, 0]).commanded 31 3 false [6, 64, 64] = true ∧ canonical 0x1000 = true ∧ 31 ≠ (sBox 31 3 [63, 0x1000, 0]).queueOwner 63 ∧ (sBox 31 3 [63, 0x1000, 0]).invBusy = false
    ∧ (sImg (img0 3841) 11 [0, 3841]).commanded 0 11 true [64, 32] = true ∧ (sImg [] 11 [0, 3841]).switching = false ∧ lenOk 3841 = true ∧ 0 + 3841 ≤ 0x10400000000
    ∧ (sImg [] 11 [0, 3841]).errRead none 0 3841 = none ∧ (sImg [] 11 [0, 3841]).verify ((sImg [] 11 [0, 3841]).pread 0 3841) 3841 ≠ 0
    ∧ (sBox 0 12 []).commanded 0 12 true [] = true ∧ (sBox 0 12 []).staged = none ∧ { sBox 0 12 [] with staged := some [] }.staged ≠ none
    ∧ (sBox 31 13 [4096, 65536]).commanded 31 13 false [64, 17] = true ∧ 65536 = 2 ^ 16 ∧ (sBox 31 13 [4097, 64]).commanded 31 13 false [64, 17] = true
    ∧ (sBox 0 14 [31, 2 ^ 36]).commanded 0 14 true [5, 64] = true ∧ (sBox 0 15 []).commanded 0 15 true [] = true := by and_intros <;> decide +kernel
/-- An image that passes every check but those of the opaque digest and signature passes `verify` when they do (log 10). -/
theorem witness_MailboxCommands_image (h1 : Config.shake256 (((img0 3841).drop 256).take 1793) = Config.fusedKey 0) (h2 : imgSigOk (img0 3841) = true) :
    sV.verify (img0 3841) 3841 = 0 := by
  have a : imgFormOk (img0 3841) 3841 = true := by decide +kernel
  have b : byteAt (img0 3841) 6 = 0 := by decide +kernel
  have c : ¬imgSvn (img0 3841) < sV.minSvn := by decide +kernel
  have d : sV.revoked.testBit 0 = false := by decide +kernel
  simp [State.verify, a, b, c, d, h1, h2]
/-! Boot and controllers. -/
def sCt (c : Nat) (q : Ctl) (e : EvArgs) : State := { sHost e with ctls := [(c, q)] }
/-- A staged image of another handover format, when the opaque tells it (log 10). -/
theorem witness_ResetAndBoot_format (h : Config.handoverFormat [1] ≠ 1) :
    let s := { sCt 8 { xquiet := true } (ev 8 0) with staged := some [1] }
    (s.ctl 8).machine = true ∧ (s.ctl 8).xquiet = true ∧ s.canSwitch 8 = true ∧ s.reverting = false ∧ Config.handoverFormat s.nextImage ≠ 1 := by
  refine ⟨by decide +kernel, by decide +kernel, by decide +kernel, rfl, h⟩
theorem witness_ResetAndBoot :
    (sHost (ev 31 0)).ev.unit = 31 ∧ ({ sHost {} with slices := [] } : State).slices = []
    ∧ (let s := { sImg [] 0 [] with bootstat := 0x105, ev := { value := 0x8000000000000F01 } }
       s.silent = false ∧ s.ev.value.getLsbD 63 = true ∧ s.bootstat.toNat % 8 = 5 ∧ s.ev.flag = false)
    ∧ (let s := { sImg [] 0 [] with bootstat := 2, bootctl := 0x8000000000000F01, ev := { flag := true } }
       s.bootstat.toNat % 8 = 2 ∧ s.ev.flag = true ∧ lenOk (s.bootctl.toNat % 2 ^ 32) = true ∧ s.errRead none 0 3841 = none
         ∧ s.verify (s.pread 0 (s.bootctl.toNat % 2 ^ 32)) (s.bootctl.toNat % 2 ^ 32) ≠ 0 ∧ ({ s with errs := [{ loc := .line 0 false }] } : State).errRead none 0 3841 ≠ none
         ∧ lenOk (({ s with bootctl := 3840 } : State).bootctl.toNat % 2 ^ 32) = false ∧ ({ s with bootctl := 3840 } : State).errRead none 0 3840 = none
         ∧ ({ s with bootstat := 3 } : State).bootstat.toNat % 8 = 3)
    ∧ (sHost {}).bootstat.toNat % 8 = 4 ∧ (sHost {}).silent = false
    ∧ ({ sCt 8 { xquiet := true } (ev 8 0) with reverting := true } : State).canSwitch 8 = true ∧ ((sCt 8 { mode := 0 } (ev 8 0)).ctl 8).machine = false
    ∧ ((sCt 8 { xquiet := true } (ev 8 0)).ctl 8).xquiet = true ∧ (sCt 8 { xquiet := true } (ev 8 0)).canSwitch 8 = true
    ∧ (let s := { sHost (ev 8 0) with ctls := [(7, { xquiet := true }), (8, { xquiet := true })] }; (s.ctl 8).xquiet = true ∧ s.canSwitch 8 = false)
    ∧ ((sCt 8 {} (ev 8 0)).ctl 8).xquiet = false ∧ (sCt 8 {} (ev 8 0)).switching = false ∧ ((sCt 8 {} (ev 8 0)).ctl 8).machine = true
    ∧ (let s := { sCt 8 { age := some (2 ^ 24) } {} with switching := true }; s.switching = true ∧ s.reverting = false ∧ (s.ctl 8).age = some (2 ^ 24))
    ∧ { sHost {} with reverting := true }.reverting = true := by and_intros <;> decide +kernel
/-- A watchdog that has run out, after step `r` taken `a` cycles ago. -/
def sWd (c : Nat) (a : Option Nat) (r : Nat) : State := sCt c { wdOn := true, since := a, rung := r, xlevel := 0x102 } (ev c 0)
def rungOf (c : Nat) (q : Ctl) : Nat := match q.since with
  | none => 1
  | some a => if 2 ^ 30 ≤ a then 1 else if c = 8 ∧ q.rung = 2 then 4 else min 5 (q.rung + 1)
theorem witness_ControllersAct_ladder :
    let is (c : Nat) (s : State) (n : Nat) : Prop := c < 9 ∧ (s.ctl c).wdOn = true ∧ (s.ctl c).xwdog = 0 ∧ s.mevq.length < 4096 ∧ rungOf c (s.ctl c) = n
    is 8 (sWd 8 none 0) 1 ∧ is 7 (sWd 7 (some (2 ^ 30)) 2) 1 ∧ is 7 (sWd 7 (some (2 ^ 30 - 1)) 1) 2 ∧ is 8 (sWd 8 (some 5) 1) 2 ∧ is 7 (sWd 7 (some 5) 2) 3 ∧ is 8 (sWd 8 (some 5) 2) 4
    ∧ is 7 (sWd 7 (some 5) 3) 4 ∧ is 8 (sWd 8 (some 5) 4) 5 ∧ is 7 (sWd 7 (some 5) 5) 5 ∧ ((sWd 7 none 0).die 7).wfaults = [] ∧ ((sWd 7 none 0).die 7).kfaults = []
    ∧ (∀ v ∈ (sWd 7 none 0).troops, dieOfCore (coreOfTroop v.1) ≠ 7) ∧ ((sCt 8 { wdOn := true, xwdog := 1 } (ev 8 0)).ctl 8).xwdog ≠ 0 ∧ ((sCt 8 {} (ev 8 0)).ctl 8).wdOn = false
    ∧ ((sCt 8 {} (ev 8 0)).ctl 8).machine = true := by and_intros <;> decide +kernel
/-- A copy of `n` bytes that controller 7 has started. -/
def sDma (src dst n : Dword) : State := (sHost (ev 7 0)).modDie 7 (fun d => { d with dmaBusy := true, dmalen := n, dmasrc := src, dmadst := dst })
def notDev : DmaEnd → Bool
  | .dev _ => false
  | .host _ | .sram _ => true
/-- A request to pin that the dispatch controller answers: of a strand that waits, that is saved, and that is gone. -/
def sAnsPin (l : Life) : State := { tweak sV ({ · with life := l }) with pinReqs := [preq false 0 []], ev := { value := 0x10000 } }
theorem witness_ControllersAct :
    (let s := { sHost { value := 0x40 } with evrings := [(0, { base := 0x1000, size := 64, index := 63 })] }; s.evrings = [(0, { base := 0x1000, size := 64, index := 63 })] ∧ (s.ctl 8).machine = true)
    ∧ ((sHost (ev 7 0)).ctl 7).machine = true ∧ ((sHost (ev 7 0)).die 7).devq.length ≤ 4096 ∧ (1 : Dword).getLsbD 0 = true ∧ (sHost {}).mevq.length ≤ 4096
    ∧ (let s := sDma 0x8000000000000000 0x4000000000000000 0x100000
       (s.die 7).dmaBusy = true ∧ (s.die 7).dmalen.toNat ≤ 2 ^ 20 ∧ 0 < (s.die 7).dmalen.toNat ∧ s.dmaCheck 7 (dmaEnd (s.die 7).dmasrc) 0x100000 true = 0
         ∧ s.dmaCheck 7 (dmaEnd (s.die 7).dmadst) 0x100000 false = 0 ∧ notDev (dmaEnd (s.die 7).dmadst) = true ∧ notDev (dmaEnd (s.die 7).dmasrc) = true)
    ∧ (let s := sDma 0x4000000000000001 0x8000000000000000 0x100000; s.dmaCheck 7 (dmaEnd (s.die 7).dmasrc) 0x100000 true = 1 ∧ s.dmaCheck 7 (dmaEnd (s.die 7).dmadst) 0x100000 false = 0)
    ∧ (let s := sDma 0x1000 0x8000000000000000 8; s.dmaCheck 7 (dmaEnd (s.die 7).dmasrc) 8 true = 0)
    ∧ 2 ^ 20 < ((sDma 0 0 0x100001).die 7).dmalen.toNat ∧ ((sHost (ev 7 0)).die 7).dmaBusy = false
    ∧ (sAnsPin .parked).pinReqs = [preq false 0 []] ∧ (preq false 0 []).tag = (sAnsPin .parked).ev.value.toNat % 65536 ∧ ((sAnsPin .parked).ctl 8).machine = true
    ∧ (sAnsPin .parked).still 0 = false ∧ (sAnsPin .parked).alive 0 = true ∧ ((sAnsPin .parked).strand 0).life ≠ .saved ∧ (sAnsPin .saved).alive 0 = true
    ∧ ((sAnsPin .saved).strand 0).life = .saved ∧ (sAnsPin .exited).alive 0 = false ∧ (∀ r ∈ (sHost {}).pinReqs, r.tag ≠ 0)
    ∧ ((sCt 8 { mode := 0 } {}).ctl 8).machine = false ∧ ((sCt 7 { mode := 1 } (ev 7 0)).ctl 7).machine = false
    ∧ byteAt (leBytes 36 1) 0 = 1 ∧ (leBytes 36 1).length = 36 ∧ byteAt (leBytes 4 2) 0 = 2 ∧ byteAt (leBytes 4 3) 0 ≠ 1 ∧ byteAt (leBytes 4 3) 0 ≠ 2
    ∧ { sHost {} with signgo := 1 }.signgo.getLsbD 0 = true ∧ (sHost {}).signgo.getLsbD 0 = false
    ∧ (19 : Nat) < 20 ∧ (255 : Nat) < 256 ∧ ((sHost {}).die 7).hot = false ∧ (sget (sHost {}).hbmStacks {} 11).selfRef = false
    ∧ (let s := { sHost {} with hbmStacks := [(11, { selfRef := true })] }; (sget s.hbmStacks {} 11).selfRef = true ∧ s.hbmStacks.length = 1)
    ∧ (let s := { sHost {} with hbmStacks := [(3, { selfRef := true }), (11, { selfRef := true })], sensors := [(0, 40, 0)] }
       (∃ e ∈ s.hbmStacks, e.1 ≠ 11 ∧ e.2.selfRef = true) ∧ (∀ e ∈ s.sensors, e.2.1 ≤ 40) ∧ decide ((2 : Nat) = 2) = (sget s.hbmStacks {} 11).selfRef) := by
  and_intros <;> decide +kernel
/-! Errors: counts of a domain that reach and do not reach a threshold of 2; a full tracking set; lines clean and dirty. -/
def sRas (i r : Nat) : State := { sHost (ev i r) with ras := [(i, 2 ^ 49)], rasTrack := [(i, { counts := [(5, 1)] })] }
/-- Its window over, its resource gone before. -/
def sRasOver (i r : Nat) : State := { sRas i r with rasTrack := [(i, { counts := [(5, 1)], clock := 2 ^ 20 })], ras := [(i, 2 ^ 49)] }
theorem witness_ErrorsAreCountedAndRetired :
    (sRas 1427 6).rasOver 1427 = false ∧ countOf (trackOne (sget (sRas 1427 6).rasTrack {} 1427).counts 6) 6 ≠ rasThresh ((sRas 1427 6).rasAt 1427) ∧ rasThresh ((sRas 0 5).rasAt 0) ≠ 0
    ∧ ({ sRas 0 5 with rasTrack := [(0, { counts := [(5, 1)], gone := [5] })] } : State).rasOver 0 = false ∧ ([5] : List Nat).contains 5 = true
    ∧ countOf (trackOne (sget (sRas 0 5).rasTrack {} 0).counts 5) 5 = rasThresh ((sRas 0 5).rasAt 0) ∧ (sfind (sRas 0 5).troops (64 * 0 + 1)).isSome = false
    ∧ (sRas 0 5).rasOver 0 = false ∧ (sRas 1171 5).rasOver 1171 = false ∧ (sRas 1427 5).rasOver 1427 = false ∧ (sget (sRas 0 5).rasTrack {} 0).gone = []
    ∧ countOf (trackOne (sget (sRas 1171 5).rasTrack {} 1171).counts 5) 5 = rasThresh ((sRas 1171 5).rasAt 1171) ∧ (sget (sRas 1171 5).loops {} 71).failed = false
    ∧ countOf (trackOne (sget (sRas 1427 5).rasTrack {} 1427).counts 5) 5 = rasThresh ((sRas 1427 5).rasAt 1427) ∧ (sRas 0 5).mevq.length < 4096
    ∧ (sRasOver 1427 6).rasOver 1427 = true ∧ rasThresh ((sRasOver 1427 6).rasAt 1427) ≠ 1
    ∧ (let cs := (List.range 16).map (fun n => (n, 1)); cs.length ≤ 16 ∧ (cs.map (·.1)).Nodup ∧ (trackOne cs 99).length ≤ 16)
    ∧ errDomain (.lane 255) = 1427 ∧ errDomain (.pool 511 63 0) < 1428 ∧ errDomain (.line 0x200 false) < 1428 ∧ errDomain (.reg 0 127) < 1428 ∧ (sfind (sHost {}).strands 0).isSome = true
    ∧ sfind ((sHost {}).slice (sliceOf 0x200)).lines 0x200 = some { data := 5 }
    ∧ (let s := sV.modSlice (sliceOf 0x200) (fun q => { q with lines := [(0x200, { data := 5, dirty := true })] }); sfind (s.slice (sliceOf 0x200)).lines 0x200 = some { data := 5, dirty := true }) := by
  and_intros <;> decide +kernel

/-! ## The waits, and the further clauses of these statements -/

theorem witness_IntegerRegisterResults_counts :
    sV.guardOk (baseFr .always false) = true ∧ sV.guardOk (baseFr .always true) = true ∧ sV.myStrand.cause.getLsbD 31 = false
    ∧ 32 ≤ (0x20 : BitVec 7).toNat ∧ 32 ≤ ((0x7F : BitVec 7)).toNat ∧ 32 ≤ ((0x20 : Dword).extractLsb' 0 32).toNat
    ∧ sV.ready (baseFr .always true) { ops := [(pairOk 8, 1), (pairOk 6, 2), (bsrcPairOk (.lit 5), 3)], srcs := pairRegs 6, dsts := pairRegs 8 } = true := by
  and_intros <;> decide +kernel
/-- Finite codes, those of BF16, a NaN, a zero, 61,440 and the value below it; the sum and the product of 1.5 and 2.5. -/
theorem witness_FloatResults_values :
    isNan 0x7FC00001 = true ∧ isNan 0x3F800000 = false ∧ fval 0x3FC00000 = .fin false 0xC00000 (-23) ∧ fval 0x80000000 = .fin true 0 (-149)
    ∧ fdecode fpBf16 (loH 0xC0203FC0) = .fin false 0xC0 (-7) ∧ fdecode fpBf16 (hiH 0xC0203FC0) = .fin true 0xA0 (-6)
    ∧ fval 0x47700000 = .fin false 0xF00000 (-8) ∧ fval 0x476FFFFF = .fin false 0xEFFFFF (-8) ∧ 0xF00000 / 2 ^ 8 = 61440
    ∧ fdecode fp32 0 = .fin false 0 (-149) ∧ fdecode fpE5m2 0x7B = .fin false 7 13 ∧ e4m3decode 0x7E = .fin false 14 5
    ∧ f32add .rne 0x3FC00000 0x40200000 = 0x40800000 ∧ f32mul .rne 0x3FC00000 0x40200000 = 0x40700000 := by
  and_intros <;> decide +kernel
theorem witness_BranchCallReturn_guard : sV.guardOk (baseFr .p0 false) = false ∧ sV.guardOk (baseFr .notP0 false) = true := by and_intros <;> decide +kernel
/-- A request of the crew at a bank, and a load of its strand on its way. -/
def atBank : Req := { id := 3, kind := .atom .add 4, strand := 0, tgt := .spm 0, addr := 0x40, data := [7, 0, 0, 0], dsts := [9], len := 2 }
def lateLd : Req := { id := 4, kind := .load 4 false .normal false, strand := 0, tgt := .spm 0, addr := 0x80, dsts := [9], len := 2, late := true }
def withReqs (s : State) (rs : List Req) : State := s.modCore 0 (fun k => { k with reqs := rs })
theorem witness_BlocksAndMacros_waits :
    let s := tweak sExt ({ · with latch := some 0 })
    s.ready (extFr g7 false) {} = true ∧ s.myCrew.ext < 3 ∧ s.myStrand.latch ≠ none ∧ s.myStrand.cause.getLsbD 31 = false
    ∧ sExt.bankWaits 0 = false ∧ (withReqs sExt [atBank]).bankWaits 0 = true ∧ (withReqs sExt [atBank]).ready (extFr g7 false) {} = true
    ∧ (withReqs sExt [atBank]).myCrew.ld = 0 ∧ (sget (sV.modCore 0 (fun k => { k with perf := [(0, (0, 0x11, 0))] })).myCore.perf (0, 0, 0) 0).2.1.extractLsb' 0 8 = 0x11 := by
  and_intros <;> decide +kernel
def sLate : State := withReqs sH [lateLd]
theorem witness_CollectivesSign_waits :
    (sH.readAcquire [4, 6]).signHeld 31 = false ∧ sH.signHeld 0 = false ∧ sH.loadsIn = true ∧ sLate.loadsIn = false ∧ sLate.ready (baseFr .always false) {} = true
    ∧ sLate.signBad 0 { coll := 6 } = none ∧ sLate.ready (extFr g7 false) { ops := [(sLate.declared 31, 5)] } = true ∧ sLate.signHeld 31 = false
    ∧ sLate.signBad 31 { coll := 6 } = none := by and_intros <;> decide +kernel
/-- Lane 5 of a subgroup of 8 reads lane 1 by `idx`; by `up` and `xor` its 9 names none; the subgroup in order. -/
def mine5 (g : Sig) : Bool := g.contrib && crewOf g.x == crewOf 5 && laneOf g.x / 8 == laneOf 5 / 8
theorem witness_CollectiveResults_reads :
    sg 5 9 ∈ sgs ∧ mine5 (sg 1 1) = true ∧ laneOf (sg 1 1).x % 8 = 9 % 8 ∧ (∀ q ∈ sgs, mine5 q = true → ¬(9 ≤ 5 % 8 ∧ laneOf q.x = 5 - 9))
    ∧ (∀ q ∈ sgs, mine5 q = true → ¬(5 % 8 + 9 < 8 ∧ laneOf q.x = 5 + 9)) ∧ (∀ q ∈ sgs, mine5 q = true → laneOf q.x % 8 ≠ (5 % 8) ^^^ (9 % 8))
    ∧ (∀ q ∈ [sg 0 3, sg 1 3], laneOf q.x / 2 = 0 → laneOf q.x % 2 ≠ 4 % 2 + 2) ∧ (sgs.filter mine5).Pairwise (fun p q => laneOf p.x < laneOf q.x)
    ∧ sgs.filter mine5 = [sg 0 1, sg 1 1, sg 5 9] := by and_intros <;> decide +kernel
theorem witness_CollectiveResults_order (g : Sig) : g ∈ sgs.filter mine5 ↔ g ∈ sgs ∧ mine5 g = true := List.mem_filter
/-- An entry freed in this cycle. -/
def sFreed : State := sCaps [(4, 0x02000000), (6, 1)] [(0, { from_ := 1 })]
theorem witness_FillBitsAndCapabilities_freed :
    (sFreed.cap 0 0).live = false ∧ sFreed.myCore.cycle < (sFreed.cap 0 0).from_ ∧ (sFreed.cap 0 1).live = false ∧ ¬sFreed.myCore.cycle < (sFreed.cap 0 1).from_
    ∧ sFreed.ready (extFr g7 false) { ops := [(pairOk 8, 1), (emptyOk 96 32, 5)], srcs := [6], dsts := pairRegs 8 } = true := by and_intros <;> decide +kernel
theorem witness_PutSends_waits : sTaken.loadsIn = true ∧ (sFar true).loadsIn = true ∧ (sFar true).relReady .pkg = true ∧ (sFar false).loadsIn = true := by
  and_intros <;> decide +kernel
def cm6 : Mem := ⟨.cluster, 6, .imm 0⟩
theorem witness_LoadsComplete_cluster :
    let c (d : Reg) : Chk := { ops := [(sizeRegOk .b32 d, 1), (spaceRegOk cm6.space cm6.a, 2)], srcs := spaceRegs cm6.space cm6.a, dsts := sizeRegs .b32 d }
    sL.ready (extFr g7 false) (c 9) = true ∧ (sL.rd 6).toNat % 4 = 0 ∧ sL.spmPlace .cluster 0x7FFC 4 = some (0, 0x7FFC) ∧ sL.queued (.spm 0) 0x7FFC 4 = .none
    ∧ (sQ [ent (.spm 0) 0x7FFC [1, 2, 3, 4]]).queued (.spm 0) 0x7FFC 4 = .bytes [1, 2, 3, 4] ∧ sL.errRead (some 0) 0x7FFC 4 = none
    ∧ sL.bankOut 0 (.spm 0) 0x7FFC 4 = false ∧ (withReqs sL [atBank]).bankOut 0 (.spm 0) 0x40 4 = true := by and_intros <;> decide +kernel
theorem witness_StoresGoThroughTheQueue_late :
    ((sQ [ent (.spm 0) 0x7FFC [1]]).crew 0).sq = ent (.spm 0) 0x7FFC [1] :: [] ∧ (sQ [ent (.spm 0) 0x7FFC [1]]).still 0 = false := by and_intros <;> decide +kernel
theorem witness_ScratchpadAtomics_cluster :
    let c : Chk := { ops := [(sizeRegOk .b64 12, 1), (spaceRegOk .cluster 6, 2), (sizeRegOk .b64 14, 3)], srcs := spaceRegs .cluster 6 ++ sizeRegs .b64 14, dsts := sizeRegs .b64 12 }
    sL.ready (extFr g7 false) c = true ∧ sL.spmPlace .cluster 0x7FF8 8 = some (0, 0x7FF8) ∧ sL.myCrew.sq = [] ∧ sL.relReady .span = true
    ∧ sL.forward (.spm 0) 0x7FF8 8 = .none := by and_intros <;> decide +kernel
theorem witness_AtomicsAndCacheInstructions_fence :
    sL.loadsIn = true ∧ sLate.loadsIn = false ∧ sLate.ready (extFr g7 false) {} = true ∧ sLate.relReady .crew = false := by and_intros <;> decide +kernel
/-! Requests at a bank: free, and held by an engine op that writes its bytes; a load of a strand that has gone on; the answer of another
package to a task-queue action. -/
def bq (k : ReqKind) : Req := { id := 3, kind := k, strand := 0, tgt := .spm 0, addr := 0x40, data := [7, 0, 0, 0], cmp := [0, 0, 0, 0], dsts := [9], len := 2, fill := false, cluster := true }
def sBk (r : Req) (held : Bool) : State :=
  { (withReqs sL [r]).modCore 0 (fun k => { k with score := if held then [scoreEntry 0 4 0 (0, 0) (0x40, 0x80)] else [] }) with ev := { item := 3 } }
theorem witness_RequestsComplete_banks :
    let s (k : ReqKind) (held : Bool) : State := sBk (bq k) held
    let due (k : ReqKind) (held : Bool) : Prop := (s k held).findReq 0 3 = some (bq k) ∧ (s k held).reqOnLoop 0 3 false = false ∧ (s k held).reqBehind 0 (bq k) = false
      ∧ (s k held).tqBehind (bq k) = false ∧ (s k held).lineHeld 0 (bq k) = false ∧ (s k held).turnHeld (bq k) = false ∧ (s k held).memOk = true
      ∧ (sfind (s k held).troops 0).isSome = true ∧ ((s k held).troop 0).res = .resident
      ∧ (s k held).bankBlocked 0 0x40 (bq k).size (bq k).writes (troopOf (realX (bq k).strand) == 0) 3 = held
    due .store false ∧ due .store true ∧ due (.load 4 false .normal false) false ∧ due (.atom .add 4) false ∧ due (.cas 4) true ∧ due (.cas 4) false
    ∧ (bq .store).data.length ≠ 16 ∧ (s .store false).errRead (some 0) 0x40 (bq .store).size = none
    ∧ leNat (mread ((s .store false).troop 0).spm 0x40 4) = leNat (bq (.cas 4)).cmp ∧ (sR (rq .store false)).tqBehind (rq .store false) = false := by
  and_intros <;> decide +kernel
def backR (late : Bool) (k : ReqKind) : Req := { bq k with done := true, late := late, val := List.replicate 128 0 }
/-- The header of a queue of 2 entries of 4 bytes with `t` enqueued and none dequeued, and an entry. -/
def awayAns (k : ReqKind) (t : Nat) : State :=
  { sR { rqA k with tgt := .remote 1, sent := true, tag := 5 } with
    ev := { item := 3, data := leBytes 16 (2 + t * 2 ^ 96) ++ [9, 0, 0, 0] } }
theorem witness_RequestsComplete_answers :
    let s := sBk (backR true (.load 4 false .normal false)) false
    let c := sBk (backR false (.atom .add 4)) false
    let q (k : ReqKind) : Req := { rqA k with tgt := .remote 1, sent := true, tag := 5 }
    s.findReq 0 3 = some (backR true (.load 4 false .normal false)) ∧ s.reqOnLoop 0 3 true = false ∧ s.alive 0 = true ∧ s.answerErr (backR true (.load 4 false .normal false)) = none
    ∧ c.findReq 0 3 = some (backR false (.atom .add 4)) ∧ c.answerErr (backR false (.atom .add 4)) = none ∧ c.hasCrew 0 = true
    ∧ (awayAns (.enq 0) 1).findReq 0 3 = some (q (.enq 0)) ∧ (q (.enq 0)).local = false ∧ (awayAns (.enq 0) 1).answerErr (q (.enq 0)) = none
    ∧ (let v (t : Nat) := leNat (padTo 16 ((awayAns (.enq 0) t).ev.data.take 16))
       tqValid (v 1) = true ∧ (tqOf (v 1)).esize = 0 ∧ (tqOf (v 1)).full = false ∧ (tqOf (v 2)).full = true ∧ tqValid (v 2) = true ∧ (tqOf (v 0)).empty = true ∧ tqValid (v 0) = true
       ∧ (tqOf (v 1)).empty = false)
    ∧ (awayAns (.enq 0) 1).tlbHit 0 ((awayAns (.enq 0) 1).asidOf 0) (BitVec.ofNat 64 (0x10040 + (16 + 1 % 2 * 4))) (needR + needW) = some rwPage := by
  and_intros <;> decide +kernel

theorem witness_TileInstructionsSign_order : (sT.readAcquire [6, 8]).signHeld 31 = false ∧ (sT.readAcquire []).signHeld 31 = false := by and_intros <;> decide +kernel
/-! The tile engine: t5 of the reef form with room for no outlier, under derived scales and, at 0x200, supplied ones; a NaN at 0x40. -/
def dsD : Dword := BitVec.ofNat 64 (3 + 2 ^ 33)
def dsS : Dword := BitVec.ofNat 64 (3 + 16 * 2 ^ 48)
def sD (ds : Dword) (o : TileOp) : State :=
  (sE o).modTroop 0 (fun t => { t with desc := (5, ds) :: t.desc, spm := mwrite [] 0x40 (leBytes 4 0x7FC00000) })
def srcOf (s : State) (at_ : Nat) (i j : Nat) : Word := (wordsOf (mread (s.troop 0).spm at_ 1024)).getD (i * 16 + j) 0
theorem witness_TileEngineExecutes_dense :
    let due (i : Instr) (v : List Word) : Prop := ((sE (tOp i v false)).core 0).tq = [tOp i v false] ∧ (sE (tOp i v false)).memOk = true ∧ (sE (tOp i v false)).tileDue 0 = true
      ∧ ((tOp i v false).sigs.map (·.x)).Nodup
    due (.tdget t31 10 2) [] ∧ due (.aread t31 9 6 1) [15 + 15 * 65536] ∧ due (.aread t31 9 6 1) [16] ∧ due (.reefq t31 9 6 4) [0] ∧ due (.ascale t31 1 0xFFFFFF02) []
    ∧ due (.split t31 false false 2 6 0) [0x40] ∧ due (.adrain t31 .f32 true (some 5) false 0 6 1 0) [0x40] ∧ due (.adrain t31 .bf16 false none false 0 6 1 0) [0x40]
    ∧ due (.mmaB t31 1 2 3) [] ∧ due (.mmaprog t31 1 2 3 0) [] ∧ sT.accErr 0 1 = none ∧ sT.spmIn 0 0x40 1024 = true ∧ sT.errRead (some 0) 0x40 1024 = none
    ∧ dsFormat (mTroop.descOf 2) = 0x10 ∧ (opLeader (tOp (.ascale t31 1 0) [] false)).contrib = true
    ∧ mmaFields (.mmaprog t31 1 2 3 1) = some (1, 2, 3, 2) ∧ (tOp (.mmaB t31 1 2 3) [] false).part = false
    ∧ prodReason 1 1 (mTroop.shapeOf 1) [(sT.opnd 0 2, sT.opnd 0 3)] = none ∧ (prodReason 1 1 5 [(sT.opnd 0 2, sT.opnd 0 3)]).isSome = true := by
  and_intros <;> decide +kernel
theorem witness_TileEngineExecutes_errors :
    (∀ i j, sT.accErrAt 0 1 i j 1 = none) ∧ ∀ n off len, sT.slotErr 0 n off len = none := ⟨fun _ _ => rfl, fun _ _ _ => rfl⟩
/-- Zeros are encoded under both kinds of scale, and the NaN under no supplied one; an accumulator of another shape is no matrix of t5. -/
theorem witness_TileEngineExecutes_reef :
    let o (d : Reg) (at_ : Word) : TileOp := tOp (.split t31 false false d 6 0) [at_] false
    let s := sD dsD (o 5 0x1000)
    let q := sD dsS (o 5 0x1000)
    s.tileDue 0 = true ∧ dsReef ((s.troop 0).descOf 5) = true ∧ dsScaleBytes dsD = 0 ∧ dsScaleBytes dsS = 1 ∧ dsScOff dsS = 0x200
    ∧ q.spmIn 0 0x200 1 = true ∧ q.errRead (some 0) 0x200 1 = none ∧ isOk (encodeImage (dsGeo dsD) [] (srcOf s 0x1000)) = true
    ∧ isOk (encodeImage (dsGeo dsS) [0] (srcOf (sD dsS (o 5 0x40)) 0x40)) = false ∧ (mread (q.troop 0).spm 0x200 1).map (·.toNat) = [0]
    ∧ isOk (encodeImage (dsGeo dsS) ((mread (q.troop 0).spm 0x200 1).map (·.toNat)) (srcOf q 0x1000)) = true
    ∧ shapeM ((s.troop 0).shapeOf 1) = dsRows dsD ∧ shapeN ((s.troop 0).shapeOf 1) = dsCols dsD ∧ dsRows dsD ≠ shapeM 3
    ∧ (sD dsD (tOp (.adrain t31 .reef false none false 5 6 1 0) [0x40] false)).tileDue 0 = true ∧ s.alive (opLeader (o 5 0x40)).x = true := by
  and_intros <;> decide +kernel

/-! The page of an idle bank, and the ops of engines and KV. -/
def sPg (tm : Nat) : State := { sV with hbmStacks := [(11, { open_ := [(63, 1)], timers := [(63, tm)] })], ev := { unit := 11, item := 63 } }
theorem witness_MemorySystemSteps_page :
    sfind (sget (sPg 0).hbmStacks {} 11).open_ 63 = some 1 ∧ sget (sget (sPg 0).hbmStacks {} 11).timers 0 63 = 0 ∧ (sPg 0).rowQueued 11 63 1 = false
    ∧ 0 < sget (sget (sPg 9).hbmStacks {} 11).timers 0 63 := by and_intros <;> decide +kernel
theorem witness_EngineCommandsEnterQueues_banks (a n : Nat) : sEn.bankOut 0 (.spm 0) a n = false ∧ sK2.bankOut 0 (.spm 0) a n = false := ⟨rfl, rfl⟩
theorem witness_KvInstructions_loads : sK2.loadsIn = true ∧ bits (sK2.pnat 0x20000 32) 81 80 ≠ 3 ∧ seqReservedOk (sK2.pnat 0x20000 32) = true := by
  and_intros <;> decide +kernel
def failedOp : EngOp := { landOp [0] with failed := true, fault := some (0x12, 0, 0), seg := 0 }
theorem witness_EngineOpsRun_landings :
    let s (o : EngOp) : State := sOp .streamer o
    (match (s (eOp ldI false true)).vrange 0 0 needR [] 0 16 with | .ok [pc] => !(s (eOp ldI false true)).pieceHeld 0 clsEng pc | _ => false) = true
    ∧ (s failedOp).liveOp 0 false 7 = some failedOp ∧ failedOp.failed = true ∧ 0 ∈ failedOp.todo ∧ (s failedOp).landWaits failedOp 0 = false
    ∧ (match (s failedOp).landing failedOp 0 with
        | .ok (q, base, b) => decide (b + 16 ≤ base ∨ base + (trecOf failedOp.record).b0 * (trecOf failedOp.record).b1 * (trecOf failedOp.record).b2 * (trecOf failedOp.record).es ≤ b) && q == 0
        | _ => false) = true
    ∧ (match (s (landOp [0])).landing (landOp [0]) 0 with | .ok (_, base, b) => decide (b + 16 ≤ base ∨ base + (landOp [0]).result.length ≤ b) | _ => false) = true
    ∧ (landOp [0, 1]).failed = false ∧ { landOp [] with fault := some (0x12, 0, 0) }.todo = [] ∧ (s { landOp [] with fault := some (0x12, 0, 0) }).liveOp 0 false 7 = some { landOp [] with fault := some (0x12, 0, 0) }
    ∧ (s { eOp ldI false true with fault := some (0x0D, 0, 0), owed := 16 }).objFault 0 0x20 16 (buoyValid ((s { eOp ldI false true with fault := some (0x0D, 0, 0), owed := 16 }).buoyAt 0 0x20)) = none := by
  and_intros <;> decide +kernel
theorem witness_KvOpsRun_entry :
    (sKop (kOp gaI false)).kheld (bd true).pkg (bd true).entry 32 = false ∧ bits kEntry 81 80 ≠ 3 ∧ seqReservedOk kEntry = true := by and_intros <;> decide +kernel

/-! Loops that have failed, an early resend, the first entry of a crew, and an answer by its tag. -/
theorem witness_LoopsLinksAndChannels_failed :
    (sLoop (lp 5 false false) 5).loopOk 71 = true ∧ { sLoop (lp 5 false false) 5 with loops := [(71, { failed := true })] }.loopOk 71 = false
    ∧ (sLoop (lp 5 false false) 5).ev.flag = false ∧ (let s := { sLoop (lp 5 false false) 5 with ev := { flag := true, unit := 71 } }; s.ev.flag = true ∧ s.ev.unit < 72) := by
  and_intros <;> decide +kernel
theorem witness_UalinkTraffic_tags :
    let r : Req := { rq (.atom .add 4) false with tgt := .remote 255, sent := true, tag := 6 }
    ((sR r).core 0).reqs.find? (fun q => q.sent && q.tag == natAt (leBytes 17 6) 0 8) = some r ∧ natAt chReq 12 4 = 0 ∧ natAt (setAt chReq 12 5) 12 4 = 5 := by
  and_intros <;> decide +kernel

/-! What holds a crew, a troop, a packet, a launch and a context back. -/
theorem witness_StrandsAndTroopsBeginAndEnd_banks :
    sGone.bankWaits 0 = false ∧ (withReqs sGone [atBank]).bankWaits 0 = true ∧ sRet.bankDue 0 = false ∧ (sRet.troop 0).hitches = [] := by and_intros <;> decide +kernel
theorem witness_LaunchesReachCores_held :
    (onQ 1 spOk goodPkt).packetHeld 0 0 0 = false ∧ (onQ 1 0 []).packetHeld 0 0 0 = false ∧ ((sPlace sElig).depMet (goodL.dep 0) && (sPlace sElig).depMet (goodL.dep 1)) = true
    ∧ ({ sPlace sElig with launches := [(1, goodL)] } : State).depMet 1 = false := by and_intros <;> decide +kernel
theorem witness_ContextsAreSavedAndRestored_held :
    (askC (some 0) true (sSv 0x30000 0x65F {})).areaHeld 0 = false ∧ sTr.areaHeld 0 = false ∧ sTr.bankDue 0 = false ∧ (sSaved (0, none)).areaHeld 0 = false
    ∧ (sSaved (0, none)).putWaiting ((sSaved (0, none)).ctxCrews (0, none)) = none
    ∧ (let s : State := { (sSaved (0, none)).modCore 0 (fun k => { k with caps := [(0, cap0)] }) with puts := [pm 0x02000000 0 1 0] }
       s.putWaiting (s.ctxCrews (0, none)) = some (pm 0x02000000 0 1 0) ∧ s.canRestore (0, none) ≠ none ∧ s.still 0 = false ∧ s.areaHeld 0 = false) := by
  and_intros <;> decide +kernel
theorem witness_ErrorsAreCountedAndRetired_above :
    rasThresh ((sRas 0 5).rasAt 0) ≤ countOf (trackOne [(5, 4)] 5) 5 ∧ errDomain (.l1 0 0x200) < 1428 := by and_intros <;> decide +kernel

/-! ## The statements about every instruction and every step -/

def addI : Instr := .add (.ext 3 true) 1 4 (.reg 8)
theorem witness_FalseGuardOnlyAdvances :
    let s := tweak sV ({ · with preds := 0x08 })
    wellFormed addI = true ∧ (match encodeFields addI with | some fs => !signsWhenFalse fs && !s.guardOk (guardFr fs) | none => false) = true := by
  and_intros <;> decide +kernel
theorem witness_ChecksInOrder :
    let f := baseFr .always false
    sV.guardOk f = true ∧ sV.myStrand.cause.getLsbD 31 = false ∧ ({ role := sV.isMatrix } : Chk).role = false
    ∧ [(true, 1), (false, 2), (false, 3)] = [(true, 1)] ++ (false, 2) :: [(false, 3)] ∧ ([(true, 1)] : List (Bool × Nat)).all (·.1) = true
    ∧ (let bad := ([4, 32] ++ [100] ++ []).filter (sV.modCrew 0 (fun c => { c with ext := 0 })).regBad; 32 ∈ bad ∧ ∀ q ∈ bad, 32 ≤ q)
    ∧ ([4, 6] ++ [9] ++ []).filter sV.regBad = []
    ∧ (let s := tweak sV (fun t => { t with fill := clrBit t.fill 6 }); ∃ r ∈ [4, 6], s.myStrand.fill.getLsbD r = false)
    ∧ (let s := tweak sV (fun t => { t with pend := setBit t.pend 9 }); (∀ r ∈ [4, 6], s.myStrand.fill.getLsbD r = true) ∧ ∃ r ∈ [4, 6] ++ [9], s.myStrand.pend.getLsbD r = true)
    ∧ (let s := tweak sV (fun t => { t with bad := setBit t.bad 6 }); (∀ r ∈ [4, 6], s.myStrand.fill.getLsbD r = true) ∧ (∀ r ∈ [4, 6] ++ [9], s.myStrand.pend.getLsbD r = false)
        ∧ s.myStrand.bad.getLsbD 6 = true ∧ ∀ q ∈ [4, 6], s.myStrand.bad.getLsbD q = true → 6 ≤ q) := by
  and_intros <;> decide +kernel
theorem witness_StepKeepsMemoriesCanonical : (State.reset.withFetchWord 32 0x10100804).memOk = true ∧ landed (step (State.reset.withFetchWord 32 0x10100804)) = true := by
  and_intros <;> decide +kernel
/-- The team of unit 0 is strand 0 alone, and strands 0 and 1 whose next word is an `add`. -/
def sStep (team : List Nat) : State :=
  let s := State.reset.withFetchWord 32 0x10100804
  s.modUnit 0 (fun u => { u with team := team })
theorem witness_StepRunsTheDecodedInstruction :
    let s := sStep [0, 1]
    s.agenda = .issue 0 :: [] ∧ s.still 0 = false ∧ (s.unit 0).team = 0 :: [1] ∧ ((sStep [0]).unit 0).team = 0 :: []
    ∧ (let s1 := { s with agenda := [], focus := 0 }.modUnit 0 (fun v => { v with team := [1] })
       s1.alive 0 = true ∧ (s1.strand 0).life = .eligible ∧ s1.mayIssue (crewOf 0) = true
       ∧ (match { s1 with cur := { strand := 0 } }.fetchFrame with
          | .words w0 ws => match decodeWords ws with
            | .ok (i, _) => decide (w0 = 0x10100804) && decide (i = .add .always 1 4 (.reg 8)) && (callOf i).isNone
            | _ => false
          | _ => false) = true)
    ∧ landed (step (sStep [0])) = true := by and_intros <;> decide +kernel
theorem witness_StepRunsTheDecodedInstruction_unit :
    (∀ v, ((sStep [0, 1]).unit v).team ≠ [] → v = 0) ∧ ∀ c ∈ (sStep [0, 1]).crews, c.2.res ≠ .saved := by
  refine ⟨fun v h => ?_, by decide +kernel⟩
  by_cases e : v = 0
  · exact e
  · have hu : (sStep [0, 1]).units = [(0, { team := [0, 1] })] := by decide +kernel
    exact absurd (by simp [State.unit, hu, sget, sfind, Ne.symm e]) h
theorem witness_EveryInstructionRoundTrips :
    wellFormed addI = true ∧ encodeWords addI = some [0x10100806, 0x00000B00, 0x00000000] ∧ wellFormed (.exit .always) = true ∧ encodeWords (.exit .always) = some [0x000000B0] := by
  and_intros <;> decide +kernel
theorem witness_EveryWordHasOneMeaning : decodeWords ([0x000000B0] ++ [0xFFFFFFFF]) = .ok (.exit .always, [0xFFFFFFFF]) := by decide +kernel

/-! ## One step, or one operation, against values of the spec -/

def stp (i : Instr) (s : State) : Out := exec i { s with cur := { strand := 0, word0 := 0 } }
/-- `div.u s3, s4, #10` of R110's example, with `s4` = 97 (R105). -/
theorem test_div_u : regOf (stp (.divU g7 3 4 (.imm 10)) (one .vector [(4, 97)])) 3 = some 9 := by decide +kernel
/-- `div` and `rem` of -7 by 2 truncate; the remainder of the most negative by -1 is 0 (R105). -/
theorem test_div_s : regOf (stp (.divS g7 3 4 (.imm 2)) (one .vector [(4, 0xFFFFFFF9)])) 3 = some 0xFFFFFFFD
    ∧ regOf (stp (.remS g7 3 4 (.reg 5)) (one .vector [(4, 0x80000000), (5, 0xFFFFFFFF)])) 3 = some 0 := by and_intros <;> decide +kernel
/-- The operands and the result of R110's `bsel` example, with the selector that its own account of the fields gives (log 28). -/
theorem test_bsel : regOf (stp (.bsel g7 3 4 (.reg 6) 5) (one .vector [(4, 0x44332211), (5, 0x88776655), (6, 0x000201EC)])) 3 = some 0x11880055 := by decide +kernel
theorem test_add_wraps : regOf (stp (.add .always 4 4 (.reg 5)) (one .vector [(4, 0xFFFFFFFF), (5, 2)])) 4 = some 1 := by decide +kernel
theorem test_sub_order : regOf (stp (.sub .always 3 4 (.reg 5)) (one .vector [(4, 2), (5, 5)])) 3 = some 0xFFFFFFFD := by decide +kernel
theorem test_mulhi : regOf (stp (.mulhiS .always 3 4 (.reg 5)) (one .vector [(4, 0xFFFFFFFF), (5, 0xFFFFFFFF)])) 3 = some 0
    ∧ regOf (stp (.mulhiU .always 3 4 (.reg 5)) (one .vector [(4, 0xFFFFFFFF), (5, 0xFFFFFFFF)])) 3 = some 0xFFFFFFFE := by and_intros <;> decide +kernel
/-- 16,777,216 + 3 is a tie that goes to the even significand (R47; the sum of R197's example). -/
theorem test_fadd_tie : regOf (stp (.fadd .always 3 4 (.reg 5)) (one .vector [(4, 0x4B800000), (5, 0x40400000)])) 3 = some 0x4B800002 := by decide +kernel
/-- A word beyond the 32,768 bytes of the troop's scratchpad: SPM_ACCESS, cause 0x0D, with the offset (R202). -/
theorem test_spm_access : (after (stp (.lds .always 8 4 0) (one .vector [(4, 0x8000)]))).map (fun t => (t.cause, t.tval)) = some (0xBF00000D, 0x8000) := by decide +kernel
/-- `shfl.up.w8 #3` of ten times the lane, lane 4 exited: the table of R135's example. -/
theorem test_shfl_up :
    let lanes := [0, 1, 2, 3, 5, 6, 7]
    let sigs := lanes.map (fun l => { x := l, contrib := true, vals := [w32 (10 * l), 3], dsts := [10] : Sig })
    sigs.map (fun g => (collResult (shflK 1 8) sigs g).1) = [[0], [10], [20], [0], [20], [30], [70]] := by decide +kernel
/-- The draw of R313's example: 29, which passes the 5 tickets of queue 0. -/
theorem test_lottery : xorshift 1 = 0x00042021 ∧ (xorshift 1).toNat % 35 = 29
    ∧ (drawn [({ noLaunch with lid := 1 }, 5), ({ noLaunch with lid := 2 }, 30)] 29).map (·.lid) = some 2 := by decide +kernel
/-- The walk of R337's example, and the fault of a fetch. -/
def walkMem : Memory :=
  [(0x01000000, 0x02001001), (0x02001120, 0x03002001), (0x03002688, 0x04003001), (0x04003598, 0x000000031200050F)].foldl (fun m p => mwrite m p.1 (leBytes 8 p.2)) []
def sW7 : State := { pmem := walkMem, spaces := [(7, BitVec.ofNat 128 (2 ^ 127 + 0x01000000))] }
theorem test_walk :
    (match sW7.walk 7 (0x123456789ABC / 4096) needW with | .page t => t.addr 0x123456789ABC == 0x312789ABC && t.size == 5 | _ => false) = true
    ∧ (match sW7.walk 7 (0x123456789ABC / 4096) needX with | .fault 5 => true | _ => false) = true := by and_intros <;> decide +kernel
/-- The first two rows of R351's example: two arrivals set, 4,096 bytes made due. -/
def sB : State := one .vector [(4, 0x1000), (5, 0x1000)]
def nextOf (r : Out) : State := match r with | .next t => t | _ => {}
theorem test_buoy :
    let t1 := nextOf (stp (.binit g7 4 (.imm 2)) sB)
    let t2 := nextOf (stp (.bdue g7 4 (.reg 5) 0) { t1 with cur := {} })
    mnat (t1.troop 0).spm 0x1000 8 = 0x00020004 ∧ mnat (t2.troop 0).spm 0x1000 8 = 0x00020004 + 4096 * 2 ^ 32 := by and_intros <;> decide +kernel
/-- The block of R63's example in B3 and B4: scale, codes, entries. -/
def blkVal (r c : Nat) : Word :=
  match r, c with
  | 0, 3 => 0x3F400000 | 1, 0 => 0xBFA00000 | 2, 7 => 0x41400000 | 4, 2 => 0x3FC00000 | 5, 5 => 0xBF000000
  | 7, 12 => 0x40000000 | 9, 9 => 0xC1A00000 | 12, 14 => 0x40A00000 | 15, 15 => 0xBE800000 | _, _ => 0
def geo16 (w : Nat) : Geo := { w := w, e := 16, rows := 16, cols := 16, cap := 2, spill := 1, smode := 1 }
def encoded (w : Nat) : Option (Nat × List Nat × List Int) :=
  let g := geo16 w
  let xs := blockElems g blkVal 0
  match encodeBlock g (derivedScale g xs) xs with
  | .ok b => some (b.scale, b.entries, [b.codes.getD 3 0, b.codes.getD 16 0, b.codes.getD 39 0, b.codes.getD 66 0, b.codes.getD 85 0, b.codes.getD 124 0,
      b.codes.getD 153 0, b.codes.getD 206 0, b.codes.getD 255 0])
  | .error _ => none
theorem test_encode_b3 : encoded 3 = some (0x7F, [0x0129C1A0, 0x00E24140], [1, -1, 0, 2, 0, 2, 0, 3, 0]) := by decide +kernel
theorem test_encode_b4 : encoded 4 = some (0x7E, [0x0129C1A0, 0x00E24140], [2, -2, 0, 3, -1, 4, 0, 7, 0]) := by decide +kernel
/-- Element (0, 0) of the product of R197's example, from 2^24 and from 0. -/
def opA : Opnd :=
  let d : Dword := 0x0040011000000003
  { t := 1, d := d, img := leNat (imageOf (dsGeo d) [⟨0x7F, [2, 1, 0, -1] ++ List.replicate 252 0, [0x4140 + 2 * 2 ^ 21], [false, true, true, true]⟩]) }
def opB : Opnd :=
  let d : Dword := 0x0040011000000004
  { t := 2, d := d, img := leNat (imageOf (dsGeo d) [⟨0x7E, setAt (setAt (setAt (List.replicate 256 0) 0 4) 16 (-2)) 32 2, [0xC1A0 + 3 * 2 ^ 16], [false, true, true, true]⟩]) }
theorem test_mma_example :
    runSteps 0 1 [(opA, opB)] (chainSteps 0 [(opA, opB)]) [0x4B800000] = [0x4B800012]
    ∧ runSteps 0 1 [(opA, opB)] (chainSteps 0 [(opA, opB)]) [0] = [0x420C0000] := by and_intros <;> decide +kernel
/-- The record of a page fault (R381's example): CAUSE, TVAL and TADDR. -/
theorem test_trap_record :
    let t := (after (stp (.ldw .always 8 4 4) { tweak (one .vector [(4, 0x56000000), (5, 0x1234)]) (fun t => { t with pc := 0x0000700000000040, refused := some (0, 0x123456000010 / 4096, 2) }) with cur := {} }))
    t.map (fun t => (t.cause, t.tval, t.taddr, t.trappc)) = some (0xBF00020A, 0x56000010, 0x0000123456000010, 0x0000700000000040) := by decide +kernel
/-- R298's ring of 2 slots, both filled: the release of slot 1 leaves `ri`, that of slot 0 passes both. -/
def riOf (s : State) : Nat := (ringOf (s.ringAt 0 64)).ri
theorem test_release :
    let s := sQu (ringW 2 0 3) 64
    let t := nextOf (stp (.release .always 4 6) s)
    riOf t = 0 ∧ riOf (nextOf (stp (.release .always 4 7) t)) = 2 := by and_intros <;> decide +kernel
/-- Compressed words of RV64C beside the words they stand for: c.li a0, 5; c.addi sp, -16; ret; c.sdsp and c.ldsp of ra at 8; c.addiw. -/
theorem test_hart_compressed :
    [0x4515, 0x1141, 0x8082, 0xE406, 0x60A2, 0x2505].map expandC = [0x00500513, 0xFF010113, 0x00008067, 0x00113423, 0x00813083, 0x0015051B] := by decide +kernel
/-- `li a0, 5` at the first address of the controller's SRAM: a0, and the pc 2 bytes on. -/
theorem test_hart_step :
    (match step { bootstat := 4, ctls := [(3, { sram := mwrite [] 0 [0x15, 0x45], pc := 0x80000000 })], agenda := [.hart 3] } with
      | .next t => some ((t.ctl 3).xr 10, (t.ctl 3).pc) | _ => none) = some (5, 0x80000002) := by decide +kernel

end Sys2Proof.Tests
end

section
namespace Sys2Proof.Machine

/-! ## One member of a team issues (R25, R64, R66) -/

/-- The team under way goes first: a unit whose core has no other team under way is its own first. -/
theorem unitFirst_eq {s : State} {u : Nat}
    (h : ∀ v, v / 5 = u / 5 → (s.unit v).team ≠ [] → v = u) : s.unitFirst u = u := by
  unfold State.unitFirst
  cases hf : ((List.range 5).map (· + u / 5 * 5)).find? (fun v => !(s.unit v).team.isEmpty) with
  | none => rfl
  | some v =>
    have hp := List.find?_some hf
    obtain ⟨i, hi, rfl⟩ := List.mem_map.mp (List.mem_of_find?_eq_some hf)
    have hi := List.mem_range.mp hi
    exact h (i + u / 5 * 5) (by omega) (by simpa using hp)

/-- A strand whose words decode to an instruction that is no call runs it, the lines of its words accessed. -/
theorem issueStrand_decoded (run : Run) {s : State} {x : Nat} {w0 : Word} {ws more : List Word} {i : Instr}
    (hf : { s with cur := { strand := x } }.fetchFrame = .words w0 ws) (hd : decodeWords ws = .ok (i, more)) (hc : callOf i = none) :
    s.issueStrand run x =
      let s0 := { s with cur := { strand := x } }
      run i { (if s0.myStrand.step < 32 then s0 else s0.fetchTouch ws.length) with cur := { strand := x, word0 := w0 } } := by
  unfold State.issueStrand State.runDecoded
  simp only [hf, hd, hc]

/-- A member that can issue does, and the last member of a team settles its unit's stamps and turn. -/
theorem issueMember_next (run : Run) {s t : State} {u x : Nat} {rest : List Nat}
    (hgo : let s1 := s.modUnit u (fun v => { v with team := rest })
      s1.alive x = true ∧ (s1.strand x).life = .eligible ∧ s1.mayIssue (crewOf x) = true)
    (hrun : (s.modUnit u (fun v => { v with team := rest })).issueStrand run x = .next t) :
    let s3 := t.restamp u
    s.issueMember run u x rest
      = .next (if rest = [] then (if (s3.launchOf (troopOf x)).det = true then s3.rotSettle (troopOf x) u else s3) else t) := by
  obtain ⟨ha, hl, hm⟩ := hgo
  unfold State.issueMember isEligible
  simp only [ha, hl, hm, hrun, beq_self_eq_true, Bool.and_self, if_true]
  cases rest <;> rfl
/-- A member whose issue stops the machine stops it. -/
theorem issueMember_stop (run : Run) {s : State} {r : Out} {u x : Nat} {rest : List Nat}
    (hgo : let s1 := s.modUnit u (fun v => { v with team := rest })
      s1.alive x = true ∧ (s1.strand x).life = .eligible ∧ s1.mayIssue (crewOf x) = true)
    (hrun : (s.modUnit u (fun v => { v with team := rest })).issueStrand run x = r) (hr : ∀ t, r ≠ .next t) :
    s.issueMember run u x rest = r := by
  obtain ⟨ha, hl, hm⟩ := hgo
  unfold State.issueMember isEligible
  simp only [ha, hl, hm, hrun, beq_self_eq_true, Bool.and_self, if_true]
  cases r with
  | next t => exact absurd rfl (hr t)
  | fault e => exact ite_self _
  | refused e => exact ite_self _

/-- An `issue` move of a unit whose own team is under way: its next member. -/
theorem stepWith_issue (run : Run) {s : State} {u x : Nat} {rest : List Nat} {ms : List Move} (ha : s.agenda = .issue u :: ms)
    (hs : s.still (u / 5) = false) (ht : (s.unit u).team = x :: rest) (h : ∀ v, v / 5 = u / 5 → (s.unit v).team ≠ [] → v = u) :
    s.stepWith run = { s with agenda := ms, focus := u }.issueMember run u x rest := by
  have hfirst : { s with agenda := ms, focus := u }.unitFirst u = u := unitFirst_eq (s := { s with agenda := ms, focus := u }) h
  have hstill : { s with agenda := ms, focus := u }.still (u / 5) = false := hs
  have hteam : ({ s with agenda := ms, focus := u }.unit u).team = x :: rest := ht
  unfold State.stepWith State.move
  simp only [ha]
  unfold State.issueUnit
  simp only [hfirst, hstill, hteam, Bool.false_eq_true, if_false]

/-! ## What follows a step -/

/-- No crew is saved: no record is brought up to date. -/
theorem afterStep_of_no_saved {s : State} (h : ∀ c ∈ s.crews, c.2.res ≠ .saved) (t : State) :
    s.afterStep t = .next ((t.launches.map (·.1)).foldl State.noteLaunch t) := by
  have hnil (t : State) : s.imagesMoved t = [] := by
    unfold State.imagesMoved
    rw [List.map_eq_nil_iff, List.filter_eq_nil_iff]
    intro c hc
    simp [h c hc]
  unfold State.afterStep State.keepImages
  rw [hnil]
  rfl
theorem step_next {s t : State} (h : s.stepWith exec = .next t) : step s = s.afterStep t := by
  unfold step
  rw [h]
theorem step_stop {s : State} {r : Out} (h : s.stepWith exec = r) (hr : ∀ t, r ≠ .next t) : step s = r := by
  unfold step
  rw [h]
  cases r with
  | next t => exact absurd rfl (hr t)
  | fault e => rfl
  | refused e => rfl

/-- Settles O57: the move is its member's issue (`stepWith_issue`), which runs the decoded instruction
(`issueStrand_decoded`). -/
theorem stepRunsTheDecodedInstruction : Obligations.StepRunsTheDecodedInstruction := by
  intro s u x rest ms ha hs ht s1 hother halive hlife hmay w0 ws i more hf hd hc s0 s2
  have hmove := stepWith_issue exec ha hs ht hother
  have hrun : s1.issueStrand exec x = exec i s2 := issueStrand_decoded exec hf hd hc
  refine ⟨fun t he => ?_, fun e he => ?_, fun r he => ?_⟩
  · have hstep := step_next (hmove.trans (issueMember_next exec ⟨halive, hlife, hmay⟩ (hrun.trans he)))
    exact ⟨hstep, fun hn => hstep.trans (afterStep_of_no_saved hn _)⟩
  · exact step_stop (hmove.trans (issueMember_stop exec ⟨halive, hlife, hmay⟩ (hrun.trans he) (by simp))) (by simp)
  · exact step_stop (hmove.trans (issueMember_stop exec ⟨halive, hlife, hmay⟩ (hrun.trans he) (by simp))) (by simp)
end Sys2Proof.Machine
end

section
namespace Sys2Proof.Machine

/-! ## The guard of an encoded instruction (R64, R70, R74) -/

theorem guardFr_encB (g : Guard) (op : Nat) (d a b : BitVec 7) (lit : Option Dword) :
    guardFr (Sys2Proof.encB g op d a b lit) = baseFr g lit.isSome := by
  cases g <;> cases lit <;> with_unfolding_all rfl
theorem guardFr_encBR (g : Guard) (op : Nat) (d a : BitVec 7) (b : BSrc) : guardFr (encBR g op d a b) = baseFr g (bsrcLit b) := by
  cases b <;> exact guardFr_encB ..
theorem guardFr_encBI (g : Guard) (op : Nat) (d a : BitVec 7) (i : BImm) : guardFr (encBI g op d a i) = baseFr g (bimmLit i) := by
  cases i <;> exact guardFr_encB ..
theorem guardFr_encX {op sub : Nat} {x : XG} {w : XW} {lit : Bool} (h : w.lit.isSome = lit) : guardFr (encX op sub x w) = extFr x lit := by
  subst h
  obtain ⟨d, a, b, e, hi, sel, fmt8, imm, lit⟩ := w
  cases lit <;> with_unfolding_all rfl
@[simp] theorem withX_lit (w : XW) (b : XSrc) (h : w.lit = none) : (withX w b).lit.isSome = xsrcLit b := by
  cases b <;> simp [withX, xsrcLit, h]
@[simp] theorem withXA_lit (w : XW) (b : XSrc) (h : w.lit = none) : (withXA w b).lit.isSome = xsrcLit b := by
  cases b <;> simp [withXA, xsrcLit, h]
@[simp] theorem withR_lit (w : XW) (b : RSrc) : (withR w b).lit = w.lit := by cases b <;> rfl
@[simp] theorem withTry_lit (w : XW) (t : Option PReg) : (withTry w t).lit = w.lit := by cases t <;> rfl
@[simp] theorem xrm_lit (rm : Rm) (w : XW) : (xrm rm w).lit = w.lit := rfl
theorem guardFr_encXM (sub : Nat) (x : XG) (sc pol sp sz o : Nat) (dp : Disp) {w : XW} (h : w.lit = none) :
    guardFr (encXM sub x sc pol sp sz o dp w) = extFr x (dispLit dp) := by
  refine guardFr_encX ?_
  cases dp <;> simp [withDisp, dispLit, h]

/-! ## A false guard (R27) -/

/-- A macro call under a false guard is passed over, which is no retirement (R331). -/
theorem passOver_wrote (s : State) (f : Fr) : Wrote s (s.passOver f.len) f [] [] := by
  obtain ⟨q, hq⟩ := advance_strand s f
  have hx : (s.advance f.len).x = s.x := congrArg Cur.strand (advance_cur s f.len)
  have h1 : ((s.advance f.len).modMe (fun t => { t with team := none })).strand s.x
      = { s.myStrand with refused := none, latch := none, xl := [], pc := (s.nextPc f).1, step := (s.nextPc f).2, fetched := q, team := none } := by
    rw [State.modMe, hx, strand_modStrand, if_pos rfl, hq]
  have h2 := toEligible_strand ((s.advance f.len).modMe (fun t => { t with team := none })) s.x
  rw [h1] at h2
  have he : Elsewhere s ((s.advance f.len).modMe (fun t => { t with team := none })) := by
    rw [State.modMe, hx]
    exact ((Elsewhere.refl s).advance rfl f.len).strand _
  have hr : RegFile s (s.passOver f.len) [] [] := by
    obtain ⟨-, ⟨r1, r2, r3, r5, r4⟩, -, -⟩ := Track.refl s
    refine ⟨fun r => ?_, fun r => ?_, fun r => ?_, fun r => ?_, fun p => ?_⟩
    · exact (congrArg (fun v : Strand => sget v.regs 0 r) h2).trans (r1 r)
    · exact (congrArg (fun v : Strand => v.fill.getLsbD r) h2).trans (r2 r)
    · exact (congrArg (fun v : Strand => v.pend.getLsbD r) h2).trans (r3 r)
    · exact (congrArg (fun v : Strand => v.bad.getLsbD r) h2).trans (r5 r)
    · exact (congrArg (fun v : Strand => v.prd p.toNat) h2).trans (r4 p)
  refine ⟨hr, congrArg (fun v : Strand => (v.pc, v.step)) h2, ?_, he.toEligible⟩
  rw [State.passOver, h2]

theorem issue_skips {i : Instr} {f : Fr} {s : State} {c : Chk} {body : State → State} (hx : exec i s = .next (s.issue f c body))
    (hg : s.guardOk f = false) : Computes i s f [] [] :=
  ⟨_, hx.trans (congrArg _ (issue_guard_false hg c body)), finish_wrote s f⟩
theorem issueOut_skips {i : Instr} {f : Fr} {s : State} {c : Chk} {body : State → Out} (hx : exec i s = s.issueOut f c body)
    (hg : s.guardOk f = false) : Computes i s f [] [] := by
  refine ⟨_, hx.trans ?_, finish_wrote s f⟩
  unfold State.issueOut
  rw [hg, issue_guard_false hg]
  rfl
theorem exec_kvlen (x : XG) (d a : Reg) (s : State) : exec (.kvlen x d a) s = execKvlen x d a s := rfl
theorem exec_kvopen (x : XG) (w : Bool) (d a : Reg) (s : State) : exec (.kvopen x w d a) s = execKvopen x w d a s := rfl
theorem call_skips {i : Instr} {f : Fr} {s t : State} (hx : exec i s = .next (if s.guardOk f then t else s.passOver f.len))
    (hg : s.guardOk f = false) : Computes i s f [] [] := by
  refine ⟨_, hx.trans ?_, passOver_wrote s f⟩
  rw [hg]
  rfl
/-- An instruction with these fields, given what a false guard of its frame does. -/
theorem skips {i : Instr} {fs f0 : Fields} {f : Fr} {s : State} (he : encodeFields i = some fs) (hg : s.guardOk (guardFr fs) = false)
    (h0 : encodeFields i = some f0) (hf : guardFr f0 = f) (hx : s.guardOk f = false → Computes i s f [] []) :
    Computes i s (guardFr fs) [] [] := by
  obtain rfl : f0 = fs := Option.some.inj (h0.symm.trans he)
  obtain rfl := hf
  exact hx hg

/-! ## The fields of a collective -/

theorem signs_encB {op : Nat} (h : 0x40 ≤ op ∧ op ≤ 0x46) (g : Guard) (d a b : BitVec 7) (lit : Option Dword) :
    signsWhenFalse (Sys2Proof.encB g op d a b lit) = true := by
  have hop : (Sys2Proof.encB g op d a b lit).op7 = BitVec.ofNat 7 op := by cases g <;> rfl
  have hn : (BitVec.ofNat 7 op).toNat = op := by rw [BitVec.toNat_ofNat]; omega
  simp [signsWhenFalse, hop, hn, h]
theorem signs_encBR {op : Nat} (h : 0x40 ≤ op ∧ op ≤ 0x46) (g : Guard) (d a : BitVec 7) (b : BSrc) :
    signsWhenFalse (encBR g op d a b) = true := by
  cases b <;> exact signs_encB h ..
theorem signs_encXC {sub : Nat} (h : sub < 256 ∧ sub ≠ 5) (x : XG) (n : BitVec 5) (wc : BitVec 3) (w : XW) :
    signsWhenFalse (encXC sub x n wc w) = true := by
  have hn : (BitVec.ofNat 8 sub).toNat = sub := by rw [BitVec.toNat_ofNat]; omega
  simp [signsWhenFalse, encXC, encX, hn, h]
theorem signs_encXT {op : Nat} (h : op = 0x66 ∨ op = 0x67) (sub : Nat) (t : XT) (w : XW) : signsWhenFalse (encXT op sub t w) = true := by
  rcases h with rfl | rfl <;> simp [signsWhenFalse, encXT, encX]
/-- The instruction is a collective, and none is asked about. -/
theorem signs_false {i : Instr} {fs f0 : Fields} (h0 : encodeFields i = some f0) (he : encodeFields i = some fs)
    (h : signsWhenFalse f0 = true) (hs : signsWhenFalse fs = false) : False := by
  obtain rfl : f0 = fs := Option.some.inj (h0.symm.trans he)
  exact absurd (h.symm.trans hs) (by decide)

/-- Settles O53: each instruction of a strand is an `issue`, which a false guard only advances. -/
theorem falseGuardOnlyAdvances : Obligations.FalseGuardOnlyAdvances := by
  rintro i fs s - he hs hg
  cases i
  case add | sub | mul | mulhiS | mulhiU | mad | and | or | xor | shl | shr | sar | minS | minU | maxS | maxU | bfe | bfi | add64
    | cmp | sel | fadd | fsub | fmul | ffma | fmin | fmax | fcmp | hadd2 | hmul2 | hfma2 | hmax2 | put | atomsAdd =>
    exact skips he hg rfl (guardFr_encBR ..) (issue_skips rfl)
  case addi | andi | ori | xori | shli | shri | sari | cmpi =>
    exact skips he hg rfl (guardFr_encBI ..) (issue_skips rfl)
  case clz | popc | brev | mov | pop | spawn | rein | trigger | brx | ret | exit | yield | fsfu | fcvt | fabs | fneg | fclass |
    vlane | putv | empty | fillq | ldw | stw | lds | sts | wait | wtok | await | release | send | recv | enq | deq | bra | call |
    trap | bkpt | ldp =>
    exact skips he hg rfl (guardFr_encB ..) (issue_skips rfl)
  case sext | zext | fsqrt | ffrexp | sread | swrite | grow | shrink | kmov | pmovGet | pmovSet | capmint | caprevoke | capinfo |
    emptyX | lrec | kvclose | rproduceClaim | enqX | deqX | spawnX | pdkey | pdkeyFlush | waitX | wtokX | clock |
    retired | perfrd | fidrd | eret | eretSkip | causeAddr | causeLog | causeLogn | ppoint | halt | putX | putvX | putadd | copyLd
    | copySt | copymc | gather | scatter | xform | kvappend | kvgather | kvwin | kvtrim | fcvtX | frnd =>
    exact skips he hg rfl (guardFr_encX rfl) (issue_skips rfl)
  case selX | divS | divU | remS | remU | addc | subb | mul64 | mulw | lea | cmp64 | dsh | bsel | sendX | sleep | ffmaX | faddX |
    fmulX | fdiv | fldexp | hfma2X | fdot2 =>
    exact skips he hg rfl (guardFr_encX (by simp)) (issue_skips rfl)
  case rinit | rproduceFill | rpeek | releaseX | binit | barrive | bwait | bdue | perfcfg | mstore | mread =>
    exact skips he hg rfl (guardFr_encX (by simp)) (issue_skips rfl)
  case ld | st | atom | cas | prefetch | cflush | pin | unpin =>
    exact skips he hg rfl (guardFr_encXM (h := rfl) ..) (issue_skips rfl)
  case li g d i => exact skips he hg rfl (by cases i <;> exact guardFr_encB ..) (issue_skips rfl)
  case li64 x d i => exact skips he hg rfl (guardFr_encX (by cases i <;> rfl)) (issue_skips rfl)
  case hset x m h v => exact skips he hg rfl (guardFr_encX (by simp)) (issue_skips rfl)
  case fence x k sc => exact skips he hg rfl (guardFr_encX rfl) (issue_skips rfl)
  case awaitX x d a b t => exact skips he hg rfl (guardFr_encX (by simp)) (issue_skips rfl)
  case recvX x d c t => exact skips he hg rfl (guardFr_encX (by simp)) (issue_skips rfl)
  case cinval x all m b => cases all <;> exact skips he hg rfl (guardFr_encXM (h := rfl) ..) (issue_skips rfl)
  case kvlen x d a => exact skips he hg rfl (guardFr_encX (lit := false) rfl) (issueOut_skips ((exec_kvlen x d a s).trans (by rw [execKvlen])))
  case kvopen x w d a => exact skips he hg rfl (guardFr_encX (lit := false) rfl) (issueOut_skips ((exec_kvopen x w d a s).trans (by rw [execKvopen])))
  case mcall g m a b => exact skips he hg rfl (guardFr_encB ..) (call_skips rfl)
  case mcallX x m d a b e => exact skips he hg rfl (guardFr_encX (by simp)) (call_skips rfl)
  case shflIdx | shflUp | shflDown | shflXor => exact (signs_false rfl he (signs_encBR (by decide) ..) hs).elim
  case vote | redux | hbar => exact (signs_false rfl he (signs_encB (by decide) ..) hs).elim
  case shflX | voteX | reduxX | scan | peers | hbarX | kset | hq => exact (signs_false rfl he (signs_encXC (by decide) ..) hs).elim
  case tdset | tdget | tload | tstore | tzero | split | azero | adrain | aread | awrite | ascale | reefq | mmaS | mmaB | mmaE | mmaprog =>
    exact (signs_false rfl he (signs_encXT (by decide) ..) hs).elim
  case putArrival | putAnswer | loadDataReturn | storeAck | sliceRequest | filterWindowEnd | mergeWindowEnd | pinRequestServe |
    pinFadeExpiry | pageIdleTimer | hbmRefresh | thermalCritical | thermalResume | temperatureLevelChange | walkStart |
    walkComplete | tileOpStart | tileOpRetire | engineOpStart | engineSegmentComplete | engineOpRetire | copymcLanding | kvOpStart
    | kvSegmentComplete | kvwinApply | kvtrimFree | kvOpRetire | channelEntryArrival | channelAck | channelResendTimer |
    paddockTimerExpiry | paddockLaunch | sleepExpiry | crewRelease | troopRetire | lqtailDoorbell | launchPacketCheck |
    dispatchDecision | gracePeriodExpiry | contextSave | contextRestore | linkLoss | loopPacketArrival | loopResendTimer |
    loopFailure | ualinkPortFailure | ualinkMemoryRequest | ualinkPutRequest | ualinkPutAnswer | ualinkChannelRequest |
    ualinkChannelAnswer | ualinkAtomicRequest | ualinkAtomicAnswer | hostApertureAccess | mbxdbDoorbell | pkgSet | asWrite |
    tlbInval | routeWrite | sliceWrite | hbmWrite | kvpoolInit | pinQuota | pinRelease | preempt | fwStage | fwActivate | evRing |
    vfWindow | fuseCommit | bootVerify | powerUp | functionLevelReset | doeAttestRequest | doeCertRequest | quietPoint |
    fwRevertTimeout | watchdogExpiry | xwdogWrite | xeventWrite | devqRead | devcntRead | mevqRead | placeWrite | saveWrite |
    restoreWrite | faultrespWrite | haltWrite | dmagoWrite | dmaComplete | lqadvWrite | lqerrWrite | mbxdoneWrite | pinansWrite |
    invgoWrite | invalidationComplete | freezeWrite | pkgsetWrite | doesendWrite | signgoWrite | signComplete | fusecommitWrite |
    correctedError | rasWindowEnd | registerWrite | notAnInstruction | operandAvailable | linkTraining | loopAcknowledgement |
    uncorrectableError => exact nomatch he
end Sys2Proof.Machine
end

section
namespace Sys2Proof.Machine

/-! ## Taking a trap outside the handler (R360, R361, R324) -/

theorem strand_modMe (s : State) (g : Strand → Strand) (y : Nat) :
    (s.modMe g).strand y = if y = s.x then g s.myStrand else s.strand y :=
  strand_modStrand s s.x y g
theorem scoreUnqueue_rest (s : State) (x : Nat) : { s.scoreUnqueue x with cores := s.cores } = s := by
  unfold State.scoreUnqueue
  split <;> rfl
theorem scoreUnqueue_strand (s : State) (x y : Nat) : (s.scoreUnqueue x).strand y = s.strand y := by
  unfold State.scoreUnqueue
  split <;> rfl
theorem scoreUnqueue_unit (s : State) (x u : Nat) : (s.scoreUnqueue x).unit u = s.unit u := by
  unfold State.scoreUnqueue
  split <;> rfl
theorem scoreUnqueue_cur (s : State) (x : Nat) : (s.scoreUnqueue x).cur = s.cur := by
  unfold State.scoreUnqueue
  split <;> rfl
/-- The strand waits for no scoreboard entry any more, and the cores keep everything else. -/
theorem scoreUnqueue_core (s : State) (x k : Nat) : (s.scoreUnqueue x).core k
    = { s.core k with scoreWait := if k = coreOf x then (s.core k).scoreWait.filter (· != x) else (s.core k).scoreWait } := by
  have hid (l : List Nat) (h : ¬ l.contains x = true) : l.filter (· != x) = l := by
    rw [List.filter_eq_self]
    intro y hy
    rw [bne_iff_ne]
    rintro rfl
    exact h (List.contains_iff_mem.mpr hy)
  unfold State.scoreUnqueue
  split
  · rw [core_modCore]
    split
    · rename_i hk; subst hk; rfl
    · rfl
  · rename_i h
    split
    · rename_i hk; subst hk; rw [hid _ h]
    · rfl

theorem toEligible_strand_ne (s : State) {x y : Nat} (h : y ≠ x) : (s.toEligible x).strand y = s.strand y :=
  (strand_modStrand s x y (fun t => { t with life := .eligible, stamp := (s.unit (s.unitOfCrew (crewOf x))).stampCtr, wait := .none })).trans
    (if_neg h)
theorem toEligible_unit (s : State) (x u : Nat) : ∃ n, (s.toEligible x).unit u = { s.unit u with stampCtr := n } := by
  have h := unit_modUnit s (s.unitOfCrew (crewOf x)) u (fun v => { v with stampCtr := v.stampCtr + 1 })
  split at h
  · rename_i e
    subst e
    exact ⟨_, h⟩
  · exact ⟨_, h⟩
theorem toEligible_rest (s : State) (x : Nat) (a : Sparse Strand) (b : Sparse IssueUnit) (c : Sparse Core) :
    { s.toEligible x with strands := a, units := b, cores := c } = { s with strands := a, units := b, cores := c } := rfl
/-- Where a strand goes when it traps: its record set by `g`, the strand Eligible, and the rest of the machine as it was. -/
theorem unqueued_strand (s : State) (g : Strand → Strand) : ∃ n, (((s.scoreUnqueue s.x).modMe g).toEligible s.x).strand s.x
    = { g s.myStrand with life := .eligible, stamp := n, wait := .none } := by
  have hx : (s.scoreUnqueue s.x).x = s.x := congrArg Cur.strand (scoreUnqueue_cur s s.x)
  have hme : ((s.scoreUnqueue s.x).modMe g).strand s.x = g s.myStrand := by
    rw [strand_modMe, hx, if_pos rfl, State.myStrand, hx, scoreUnqueue_strand]
    rfl
  have h := toEligible_strand ((s.scoreUnqueue s.x).modMe g) s.x
  rw [hme] at h
  exact ⟨_, h⟩
theorem unqueued_rest (s : State) (g : Strand → Strand) : let t := ((s.scoreUnqueue s.x).modMe g).toEligible s.x
    (∀ y, y ≠ s.x → t.strand y = s.strand y) ∧ (∀ u, { t.unit u with stampCtr := (s.unit u).stampCtr } = s.unit u)
    ∧ (∀ k, { t.core k with scoreWait := (s.core k).scoreWait } = s.core k)
    ∧ (t.core (coreOf s.x)).scoreWait = (s.core (coreOf s.x)).scoreWait.filter (· != s.x)
    ∧ { t with strands := s.strands, units := s.units, cores := s.cores } = s := by
  have hx : (s.scoreUnqueue s.x).x = s.x := congrArg Cur.strand (scoreUnqueue_cur s s.x)
  have hcore (k : Nat) : (((s.scoreUnqueue s.x).modMe g).toEligible s.x).core k = (s.scoreUnqueue s.x).core k := rfl
  refine ⟨fun y hy => ?_, fun u => ?_, fun k => ?_, ?_, ?_⟩
  · rw [toEligible_strand_ne _ hy, strand_modMe, hx, if_neg hy, scoreUnqueue_strand]
  · obtain ⟨n, hn⟩ := toEligible_unit ((s.scoreUnqueue s.x).modMe g) s.x u
    have hu : ((s.scoreUnqueue s.x).modMe g).unit u = s.unit u := scoreUnqueue_unit s s.x u
    rw [hn, hu]
  · rw [hcore, scoreUnqueue_core]
  · rw [hcore, scoreUnqueue_core, if_pos rfl]
  · have h := scoreUnqueue_rest s s.x
    generalize s.scoreUnqueue s.x = t at h ⊢
    rw [toEligible_rest]
    exact congrArg (fun t : State => { t with strands := s.strands, units := s.units }) h

/-- Outside its handler, what a trap writes to its strand (R360). -/
theorem trap_eq {s : State} (f : Fr) (tr : Trap) (h : s.myStrand.cause.getLsbD 31 = false) :
    ∃ g, s.trap f tr = ((s.scoreUnqueue s.x).modMe g).toEligible s.x
      ∧ g s.myStrand = { s.myStrand with
          trappc := s.myStrand.pc, tval := tr.tval, taddr := tr.taddr, pc := pcOf s.myLaunch.handler, step := 63,
          mended := s.cur.mop.map (fun m => (m.idx % 64, s.myStrand.step, m.last)),
          team := none, latch := none, refused := none, xl := [], fetched := none,
          cause := match s.cur.mop with
            | none => causeWord tr f.len s.myStrand.step s.myStrand.mindex
            | some m => causeWord tr m.len s.myStrand.step m.idx } := by
  unfold State.trap State.trapLen
  simp only [h, Bool.false_eq_true, if_false]
  refine ⟨_, rfl, ?_⟩
  cases s.cur.mop <;> rfl
/-- Outside its handler a strand takes a trap: the record, the handler's address, and no place in the scoreboard's queue. -/
theorem trap_took {s : State} (f : Fr) (tr : Trap) (h : s.myStrand.cause.getLsbD 31 = false) : TookTrap s (s.trap f tr) f tr := by
  obtain ⟨g, ht, hg⟩ := trap_eq f tr h
  rw [ht]
  refine ⟨?_, unqueued_rest s g⟩
  obtain ⟨n, hn⟩ := unqueued_strand s g
  rw [hn, hg] <;> cases s.cur.mop <;> rfl

/-! ## The waits of R146 and R171 -/

theorem perf_rest (s : State) (k e t n : Nat) : { s.perf k e t n with cores := s.cores } = s := by
  unfold State.perf
  split <;> rfl

theorem getLsbD_foldl_setBit {w : Nat} (rs : List Nat) (v : BitVec w) (r : Nat) :
    (rs.foldl setBit v).getLsbD r = (v.getLsbD r || (decide (r < w) && rs.contains r)) := by
  induction rs generalizing v with
  | nil => simp
  | cons q rs ih =>
    rw [List.foldl_cons, ih, getLsbD_setBit, List.contains_cons, BEq.comm (a := r)]
    cases v.getLsbD r <;> cases decide (r < w) <;> simp
theorem getLsbD_foldl_clrBit {w : Nat} (rs : List Nat) (v : BitVec w) (r : Nat) :
    (rs.foldl clrBit v).getLsbD r = (v.getLsbD r && !rs.contains r) := by
  induction rs generalizing v with
  | nil => simp
  | cons q rs ih =>
    rw [List.foldl_cons, ih, getLsbD_clrBit, List.contains_cons, BEq.comm (a := r), Bool.not_or, Bool.and_assoc]
theorem getLsbD_regMask (rs : List Nat) (r : Nat) : (regMask rs).getLsbD r = (decide (r < 128) && rs.contains r) := by
  rw [regMask, getLsbD_foldl_setBit]
  simp

theorem leastBy_cons {α : Type} (key : α → Nat) (x : α) (l : List α) : ∃ y, leastBy key (x :: l) = some y := by
  rw [leastBy]
  split
  · exact ⟨_, rfl⟩
  · split <;> exact ⟨_, rfl⟩
/-- The least of a list is a member that no member is below. -/
theorem leastBy_least {α : Type} {key : α → Nat} {l : List α} {y : α} (h : leastBy key l = some y) : y ∈ l ∧ ∀ q ∈ l, key y ≤ key q := by
  induction l generalizing y with
  | nil => nomatch h
  | cons x l ih =>
    rw [leastBy] at h
    split at h
    case h_1 hn =>
      obtain rfl := Option.some.inj h
      cases l with
      | nil => simp
      | cons z l =>
        obtain ⟨w, hw⟩ := leastBy_cons key z l
        nomatch hw.symm.trans hn
    case h_2 z hz =>
      obtain ⟨hm, hl⟩ := ih hz
      split at h
      · rename_i hlt
        obtain rfl := Option.some.inj h
        exact ⟨List.mem_cons_of_mem _ hm, List.forall_mem_cons.mpr ⟨Nat.le_of_lt hlt, hl⟩⟩
      · rename_i hge
        obtain rfl := Option.some.inj h
        exact ⟨List.mem_cons_self, List.forall_mem_cons.mpr ⟨Nat.le_refl _, fun q hq => Nat.le_trans (Nat.not_lt.mp hge) (hl q hq)⟩⟩
theorem leastBy_of_mem {α : Type} (key : α → Nat) {l : List α} {a : α} (h : a ∈ l) : ∃ y, leastBy key l = some y := by
  cases l with
  | nil => nomatch h
  | cons x l => exact leastBy_cons key x l
/-- Of numbers the least is the member that no member is below. -/
theorem leastBy_id_eq {l : List Nat} {r : Nat} (hr : r ∈ l) (hle : ∀ q ∈ l, r ≤ q) : leastBy id l = some r := by
  obtain ⟨y, hy⟩ := leastBy_of_mem id hr
  obtain ⟨hm, hl⟩ := leastBy_least hy
  exact hy.trans (congrArg some (Nat.le_antisymm (hl r hr) (hle y hm)))

/-! ## The order of the checks (R82) -/

section
variable {s : State} {f : Fr} {c : Chk} (hg : s.guardOk f = true)
include hg

theorem issue_role (hr : c.role = false) (body : State → State) : s.issue f c body = s.trap f { code := causeRole, tval := s.cur.word0 } := by
  rw [State.issue, if_pos hg, State.checked, hr]
  rfl

variable (hr : c.role = true)
include hr

theorem issue_operand {pre post : List (Bool × Nat)} {n : Nat} (ho : c.ops = pre ++ (false, n) :: post) (hpre : pre.all (·.1) = true)
    (body : State → State) : s.issue f c body = s.illegalOp f n := by
  have hf : c.ops.find? (fun o => !o.1) = some (false, n) := by
    rw [ho, List.find?_append, find_none_of_all (c := { ops := pre }) hpre]
    rfl
  rw [State.issue, if_pos hg, State.checked, hr, hf]
  rfl

variable (ho : c.ops.all (·.1) = true)
include ho

theorem issue_range {r : Nat} (hb : leastBy id ((c.srcs ++ c.dsts ++ c.names).filter s.regBad) = some r) (body : State → State) :
    s.issue f c body = s.trap f { code := causeRegRange, tval := w32 r } := by
  rw [State.issue, if_pos hg, State.checked, hr, find_none_of_all ho, hb]
  rfl

variable (hb : (c.srcs ++ c.dsts ++ c.names).filter s.regBad = [])
include hb

theorem issue_empty (he : c.srcs.filter (fun r => !s.myStrand.fill.getLsbD r) ≠ []) (body : State → State) : s.issue f c body
    = (s.park (.fill (regMask (c.srcs.filter (fun r => !s.myStrand.fill.getLsbD r))))).perf (coreOf s.x) 0x10 (troopOf s.x) 1 := by
  rw [State.issue, if_pos hg, State.checked, hr, find_none_of_all ho, hb]
  have hne : (!(c.srcs.filter (fun r => !s.myStrand.fill.getLsbD r)).isEmpty) = true := by rw [List.isEmpty_eq_false_iff.mpr he]; rfl
  simp only [Bool.not_true, Bool.false_eq_true, if_false, leastBy_nil, hne, if_true]

variable (he : c.srcs.filter (fun r => !s.myStrand.fill.getLsbD r) = [])
include he

theorem issue_pending (hp : (c.srcs ++ c.dsts).filter (fun r => s.myStrand.pend.getLsbD r) ≠ []) (body : State → State) :
    s.issue f c body = s.pending (regMask ((c.srcs ++ c.dsts).filter (fun r => s.myStrand.pend.getLsbD r))) := by
  rw [State.issue, if_pos hg, State.checked, hr, find_none_of_all ho, hb, he]
  have hne : (!((c.srcs ++ c.dsts).filter (fun r => s.myStrand.pend.getLsbD r)).isEmpty) = true := by
    rw [List.isEmpty_eq_false_iff.mpr hp]; rfl
  simp only [Bool.not_true, List.isEmpty_nil, Bool.false_eq_true, if_false, leastBy_nil, hne, if_true]
theorem issue_error (hp : (c.srcs ++ c.dsts).filter (fun r => s.myStrand.pend.getLsbD r) = []) {r : Nat}
    (hbad : leastBy id (c.srcs.filter (fun r => s.myStrand.bad.getLsbD r)) = some r) (body : State → State) :
    s.issue f c body = s.trap f { code := causeEcc, tval := w32 r, taddr := BitVec.ofNat 64 r } := by
  rw [State.issue, if_pos hg, State.checked, hr, find_none_of_all ho, hb, he, hp, hbad]
  rfl
end

/-- What a wait changes: the strand's life and what it waits for. -/
theorem modMe_only (s : State) (g : Strand → Strand) : (s.modMe g).strand s.x = g s.myStrand
    ∧ (∀ y, y ≠ s.x → (s.modMe g).strand y = s.strand y) ∧ SameBytes s (s.modMe g) :=
  ⟨(strand_modMe s g s.x).trans (if_pos rfl), fun y hy => (strand_modMe s g y).trans (if_neg hy), SameBytes.of_eq rfl⟩
theorem perf_strand (s : State) (k e t n x : Nat) : (s.perf k e t n).strand x = s.strand x := by
  unfold State.perf
  split <;> rfl
theorem perf_same {s u : State} (h : SameBytes s u) (k e t n : Nat) : SameBytes s (u.perf k e t n) := by
  unfold State.perf
  split
  · exact h
  · exact h
theorem filter_ne_nil {α : Type} {p : α → Bool} {l : List α} (h : ∃ r ∈ l, p r = true) : l.filter p ≠ [] := by
  obtain ⟨r, hr, hp⟩ := h
  exact List.ne_nil_of_mem (List.mem_filter.mpr ⟨hr, hp⟩)
theorem getLsbD_regMask_filter (p : Nat → Bool) (l : List Nat) {r : Nat} (h : r < 128) :
    (regMask (l.filter p)).getLsbD r = (l.contains r && p r) := by
  rw [getLsbD_regMask, decide_eq_true h, Bool.true_and, Bool.eq_iff_iff]
  simp

/-- Settles O54: each check is met with those before it passed (`issue_role` to `issue_error`). -/
theorem checksInOrder : Obligations.ChecksInOrder := by
  intro s f c body hg hc bad only
  refine ⟨fun hr => ?_, fun hr pre n post ho hpre => ?_, fun hr ho r hb hle => ?_, fun hr ho hb => ⟨fun he => ?_, fun he hp => ?_, fun he hp r hr1 hr2 hle => ?_⟩⟩
  · rw [issue_role hg hr]
    exact trap_took f _ hc
  · rw [issue_operand hg hr ho hpre]
    exact trap_took f _ hc
  · rw [issue_range hg hr ho (leastBy_id_eq hb hle)]
    exact trap_took f _ hc
  · obtain ⟨h1, h2, h3⟩ := modMe_only s (fun t => { t with life := .parked, wait := .fill (regMask (c.srcs.filter (fun r => !s.myStrand.fill.getLsbD r))) })
    refine ⟨_, ?_, fun r hr128 => getLsbD_regMask_filter (fun r => !s.myStrand.fill.getLsbD r) _ hr128⟩
    rw [issue_empty hg hr ho hb (filter_ne_nil (by simpa using he))]
    exact ⟨(perf_strand ..).trans h1, fun y hy => (perf_strand ..).trans (h2 y hy), perf_same h3 ..⟩
  · refine ⟨_, ?_, fun r hr128 => getLsbD_regMask_filter (fun r => s.myStrand.pend.getLsbD r) (c.srcs ++ c.dsts) hr128⟩
    rw [issue_pending hg hr ho hb (by simpa using he) (filter_ne_nil hp)]
    exact modMe_only s _
  · rw [issue_error hg hr ho hb (by simpa using he) (by simpa only [List.filter_eq_nil_iff, Bool.not_eq_true] using hp) (r := r)
      (leastBy_id_eq (by simp [hr1, hr2]) (fun q hq => hle q (List.mem_filter.mp hq).1 (List.mem_filter.mp hq).2))]
    exact trap_took f _ hc
end Sys2Proof.Machine
end

section
namespace Sys2Proof.Machine

/-! ## What reads of registers leave as it was -/

section
variable {s t : State} {ws : List (Nat × Word)} {ps : List (PReg × Bool)} (h : Track s t ws ps)
include h

theorem Track.myStrand : t.myStrand = t.strand s.x := congrArg t.strand h.x
theorem Track.latch : t.myStrand.latch = s.myStrand.latch := by
  rw [h.myStrand]
  have q := congrArg Strand.latch h.2.2.1
  exact q
theorem Track.pc : t.myStrand.pc = s.myStrand.pc := by
  rw [h.myStrand]
  have q := congrArg Strand.pc h.2.2.1
  exact q
theorem Track.cycle : t.myCore.cycle = s.myCore.cycle := by
  have q := congrArg Core.cycle (h.2.2.2.2.2.2.2.1 (coreOf s.x))
  rw [State.myCore, h.x]
  exact q
/-- Tables beyond the strands, crews, units and cores are untouched. -/
theorem Track.rest : { t with strands := s.strands, crews := s.crews, units := s.units, cores := s.cores } = s := h.2.2.2.2.2.2.2.2.1
theorem Track.troops : t.troops = s.troops := by
  have q := congrArg State.troops h.rest
  exact q
theorem Track.launches : t.launches = s.launches := by
  have q := congrArg State.launches h.rest
  exact q
theorem Track.myLaunch : t.myLaunch = s.myLaunch := by
  simp only [State.myLaunch, State.launchOf, State.troop, h.troops, h.launches, h.x]
end

/-! ## `sleep` (R371) -/

/-- A strand that parks, holding a number for its next attempt. -/
theorem parks_latched (s : State) (a : Nat) (w : Wait) : ((s.modMe (fun t => { t with latch := some a })).park w).strand s.x
    = { s.myStrand with latch := some a, life := .parked, wait := w } := by
  refine (strand_modMe _ _ _).trans ((if_pos rfl).trans ?_)
  have h : (s.modMe (fun t => { t with latch := some a })).myStrand = { s.myStrand with latch := some a } :=
    (strand_modMe s _ s.x).trans (if_pos rfl)
  rw [h]

theorem tickBins_strands (s : State) (t n : Nat) : (s.tickBins t n).strands = s.strands := by
  unfold State.tickBins
  split <;> rfl
theorem tickBins_cycle (s : State) (t n k : Nat) : ((s.tickBins t n).core k).cycle = (s.core k).cycle := by
  unfold State.tickBins
  split
  · rfl
  · rw [core_modCore]
    split
    · rename_i h; subst h; rfl
    · rfl
theorem foldl_tickBins (ts : List Nat) (s : State) (n k : Nat) :
    ((ts.foldl (fun s t => s.tickBins t n) s).core k).cycle = (s.core k).cycle
    ∧ (ts.foldl (fun s t => s.tickBins t n) s).strands = s.strands := by
  induction ts generalizing s with
  | nil => exact ⟨rfl, rfl⟩
  | cons t ts ih =>
    obtain ⟨h1, h2⟩ := ih (s.tickBins t n)
    exact ⟨h1.trans (tickBins_cycle ..), h2.trans (tickBins_strands ..)⟩
theorem perf_cycle (s : State) (k e t n j : Nat) : ((s.perf k e t n).core j).cycle = (s.core j).cycle := by
  unfold State.perf
  split
  · rfl
  · rw [core_modCore]
    split
    · rename_i h; subst h; rfl
    · rfl
theorem perf_strands (s : State) (k e t n : Nat) : (s.perf k e t n).strands = s.strands := by
  unfold State.perf
  split <;> rfl
/-- A tick of a core counts in its cycle counter, frozen or not, and moves no strand. -/
theorem tickCore_cycle (s : State) (k n : Nat) : ((s.tickCore k n).core k).cycle = (s.core k).cycle + n
    ∧ (s.tickCore k n).strands = s.strands := by
  have h1 : (((s.modCore k (fun c => { c with cycle := c.cycle + n })).perf k 1 0 n).core k).cycle = (s.core k).cycle + n := by
    rw [perf_cycle, core_modCore, if_pos rfl]
  have h2 : ((s.modCore k (fun c => { c with cycle := c.cycle + n })).perf k 1 0 n).strands = s.strands := perf_strands ..
  unfold State.tickCore
  dsimp only
  split
  · exact ⟨h1, h2⟩
  · obtain ⟨h3, h4⟩ := foldl_tickBins _ _ n k
    exact ⟨h3.trans h1, h4.trans h2⟩

/-- A ready `sleep`: the count is that of its first attempt. -/
theorem exec_sleep_ready {x : XG} {b : XSrc} {s : State}
    (hr : s.ready (extFr x (xsrcLit b)) { ops := [(xsrcOk b, 5)], srcs := xsrcRegs b } = true) :
    exec (.sleep x b) s = .next (
      let u := s.readAcquire (xsrcRegs b)
      let a := s.myStrand.latch.getD (s.myCore.cycle + (s.xsrc b).toNat)
      if s.myLaunch.det || decide (a ≤ s.myCore.cycle) then u.finish (extFr x (xsrcLit b)).len
      else (u.modMe (fun t => { t with latch := some a })).park (.clock a)) := by
  have ht := Track.readAcquire s (xsrcRegs b)
  have hexec : exec (.sleep x b) s = _ := congrArg Host.Outcome.next (issue_ready hr _)
  rw [hexec]
  simp only [ht.latch, ht.cycle, ht.myLaunch, ht.xsrc]
theorem sleepExpiry_due {s : State} {a : Nat} (hl : (s.strand s.ev.unit).life = .parked) (hw : (s.strand s.ev.unit).wait = .clock a) :
    exec .sleepExpiry s = .next (if a ≤ (s.core (coreOf s.ev.unit)).cycle ∧ !s.still (coreOf s.ev.unit) ∧ s.mayIssue (crewOf s.ev.unit)
      then s.toEligible s.ev.unit else s) := by
  show execSleepExpiry s = _
  simp only [execSleepExpiry, hl, hw]

/-- Settles O12: a ready `sleep` compares the cycle counter with its latch (`exec_sleep_ready`). -/
theorem sleepParksUntilTheCount : Obligations.SleepParksUntilTheCount := by
  refine ⟨fun x b s hr => ?_, fun s a => ?_, fun s k n hk => ?_⟩
  · have ht := Track.readAcquire s (xsrcRegs b)
    have he := exec_sleep_ready hr
    refine ⟨fun hl hz => ⟨_, he.trans (congrArg _ (if_pos ?_)), ht.finish _⟩, fun hl hd hz => ?_,
      fun a hl ha => ⟨_, he.trans (congrArg _ (if_pos ?_)), ht.finish _⟩⟩
    · rcases hz with hd | hz <;> simp [*]
    · have hpos : 0 < (s.xsrc b).toNat := Nat.pos_of_ne_zero (fun e => hz (BitVec.eq_of_toNat_eq e))
      have h := parks_latched (s.readAcquire (xsrcRegs b)) (s.myCore.cycle + (s.xsrc b).toNat) (.clock (s.myCore.cycle + (s.xsrc b).toNat))
      rw [hl] at he
      refine ⟨_, he.trans (congrArg _ (if_neg (by simp [hd]; omega))), ?_⟩
      rw [ht.x] at h
      exact h.symm ▸ ⟨rfl, rfl, ht.pc, rfl⟩
    · simp [hl, ha]
  · intro x hl hw
    refine ⟨fun h => ?_, fun h hst hm => ⟨s.toEligible x, ?_, toEligible_strand s x, fun y hy => toEligible_strand_ne s hy, SameBytes.of_eq rfl⟩⟩
    · rw [sleepExpiry_due hl hw, if_neg (fun q => Nat.lt_irrefl _ (Nat.lt_of_lt_of_le h q.1))]
    · rw [sleepExpiry_due hl hw, if_pos ⟨h, by rw [hst]; rfl, hm⟩]
  · unfold State.tick
    rw [if_pos hk]
    exact tickCore_cycle s k n
end Sys2Proof.Machine
end

section
namespace Sys2Proof.Machine

/-! ## What a phase, an op's entry or an allocation leaves of the strands

Where phases execute, ops enter and leave the tile queue and register blocks are given, a strand stays where it is: at its
instruction, with its trap record. Only a Signed strand wakes. -/

/-- A strand without its registers and its readiness to issue. -/
def Strand.standing (t : Strand) : Strand :=
  { t with regs := [], fill := 0, pend := 0, bad := 0, preds := 0, life := .eligible, stamp := 0, wait := .none, latch := none }
theorem mem_insertBy {α : Type} (key : α → Nat) (a b : α) (l : List α) : b ∈ insertBy key a l ↔ b = a ∨ b ∈ l := by
  induction l with
  | nil => simp [insertBy]
  | cons c l ih =>
    rw [insertBy]
    split
    · simp
    · simp [ih, or_left_comm]
theorem mem_sortBy {α : Type} (key : α → Nat) (b : α) (l : List α) : b ∈ sortBy key l ↔ b ∈ l := by
  have hall (l acc : List α) : b ∈ l.foldl (fun acc x => insertBy key x acc) acc ↔ b ∈ l ∨ b ∈ acc := by
    induction l generalizing acc with
    | nil => simp
    | cons a l ih => rw [List.foldl_cons, ih, mem_insertBy, List.mem_cons, or_left_comm, or_assoc]
  exact (hall l []).trans (by simp)
/-- Every strand stays where it stands, and none wakes but from Signed. -/
structure Stays (s t : State) : Prop where
  standing : ∀ y, (t.strand y).standing = (s.strand y).standing
  life : ∀ y, (t.strand y).life = (s.strand y).life ∨ (s.strand y).life = .signed ∧ (t.strand y).life = .eligible

theorem Stays.refl (s : State) : Stays s s := ⟨fun _ => rfl, fun _ => .inl rfl⟩
theorem Stays.trans {s t u : State} (h : Stays s t) (k : Stays t u) : Stays s u := by
  refine ⟨fun y => (k.standing y).trans (h.standing y), fun y => ?_⟩
  rcases h.life y with h | ⟨h1, h2⟩
  · exact h ▸ k.life y
  · rcases k.life y with k | ⟨-, k⟩
    · exact .inr ⟨h1, k.trans h2⟩
    · exact .inr ⟨h1, k⟩
theorem Stays.of_strands {s t : State} (h : t.strands = s.strands) : Stays s t := by
  have hy (y : Nat) : t.strand y = s.strand y := congrArg (fun m => sget m ({} : Strand) y) h
  exact ⟨fun y => congrArg _ (hy y), fun y => .inl (congrArg _ (hy y))⟩
/-- Registers and waits of one strand change. -/
theorem Stays.modStrand {s : State} {x : Nat} {g : Strand → Strand} (hg : ∀ v, (g v).standing = v.standing ∧ (g v).life = v.life) :
    Stays s (s.modStrand x g) := by
  have hy (y : Nat) : ((s.modStrand x g).strand y).standing = (s.strand y).standing ∧ ((s.modStrand x g).strand y).life = (s.strand y).life := by
    rw [strand_modStrand]
    split
    · rename_i h
      exact h ▸ hg _
    · exact ⟨rfl, rfl⟩
  exact ⟨fun y => (hy y).1, fun y => .inl (hy y).2⟩
theorem Stays.foldl {α : Type} (op : State → α → State) (h : ∀ s a, Stays s (op s a)) (l : List α) (s : State) : Stays s (l.foldl op s) := by
  induction l generalizing s with
  | nil => exact Stays.refl s
  | cons a l ih => exact (h s a).trans (ih _)
/-- A strand Signed at the start wakes. -/
theorem Stays.wake {s t : State} (h : Stays s t) {x : Nat} (hx : (s.strand x).life = .signed) : Stays s (t.toEligible x) := by
  have hy (y : Nat) : ((t.toEligible x).strand y).standing = (t.strand y).standing
      ∧ (((t.toEligible x).strand y).life = (t.strand y).life ∨ y = x ∧ ((t.toEligible x).strand y).life = .eligible) := by
    by_cases e : y = x
    · subst e
      rw [toEligible_strand]
      exact ⟨rfl, .inr ⟨rfl, rfl⟩⟩
    · rw [toEligible_strand_ne _ e]
      exact ⟨rfl, .inl rfl⟩
  refine ⟨fun y => (hy y).1.trans (h.standing y), fun y => ?_⟩
  rcases (hy y).2 with hl | ⟨rfl, hl⟩
  · exact hl ▸ h.life y
  · exact .inr ⟨hx, hl⟩
theorem Stays.wakeAll {s t : State} (h : Stays s t) {xs : List Nat} (hx : ∀ x ∈ xs, (s.strand x).life = .signed) : Stays s (t.wakeAll xs) := by
  have hall (l : List Nat) : (∀ x ∈ l, (s.strand x).life = .signed) → ∀ t, Stays s t → Stays s (l.foldl State.toEligible t) := by
    induction l with
    | nil => exact fun _ t ht => ht
    | cons x l ih =>
      intro hl t ht
      obtain ⟨h1, h2⟩ := List.forall_mem_cons.mp hl
      exact ih h2 _ (ht.wake h1)
  exact hall _ (fun x m => hx x ((mem_sortBy _ _ _).mp m)) t h

/-! ## Operations that leave the strands alone -/

@[simp] theorem modCrew_strands (s : State) (c : Nat) (g : Crew → Crew) : (s.modCrew c g).strands = s.strands := rfl
@[simp] theorem modTroop_strands (s : State) (c : Nat) (g : Troop → Troop) : (s.modTroop c g).strands = s.strands := rfl
@[simp] theorem modCore_strands (s : State) (c : Nat) (g : Core → Core) : (s.modCore c g).strands = s.strands := rfl
@[simp] theorem modPhase_strands (s : State) (c h : Nat) (g : Phase → Phase) : (s.modPhase c h g).strands = s.strands := by
  unfold State.modPhase
  split <;> rfl
@[simp] theorem endPhase_strands (s : State) (c h : Nat) : (s.endPhase c h).strands = s.strands := by
  unfold State.endPhase
  dsimp only
  split
  · exact modPhase_strands ..
  · exact modPhase_strands ..
@[simp] theorem scoreUnqueue_strands (s : State) (x : Nat) : (s.scoreUnqueue x).strands = s.strands := by
  unfold State.scoreUnqueue
  split <;> rfl
@[simp] theorem scoreQueue_strands (s : State) (x : Nat) : (s.scoreQueue x).strands = s.strands := by
  unfold State.scoreQueue
  dsimp only
  split
  · rfl
  · exact perf_strands ..
@[simp] theorem refit_strands (s : State) (t : Nat) : (s.refit t).strands = s.strands := rfl
/-- The scoreboard entry of an op that enters the tile queue. -/
def State.scoreTile (s : State) (o : TileOp) (alone : Bool) : State :=
  let iv := tileIvals (s.descAt o.troop alone) (s.shapeAt o.troop alone) (opLeader o) o.sub
  if o.scored then s.scoreAdd (scoreEntry o.troop 4 o.opid iv.1 iv.2) else s
/-- An op joins the tile queue, or the held ops of its troop. -/
def State.joinTile (s : State) (o : TileOp) (alone : Bool) : State :=
  let held := !(s.troop o.troop).tfaults.isEmpty || !(s.troop o.troop).theld.isEmpty
  let s1 := s.modTroop o.troop (fun v => { v with opseq := v.opseq + 1, theld := if held && !alone then v.theld ++ [o] else v.theld })
  if held && !alone then s1
  else
    let s2 := s1.modCore (coreOfTroop o.troop) (fun k => { k with tq := k.tq ++ [{ o with inserted := held }] })
    if held then s2.refit o.troop else s2
theorem enterTile_eq (s : State) (o : TileOp) (alone : Bool) : s.enterTile o alone = (s.scoreTile o alone).joinTile o alone := rfl
@[simp] theorem scoreTile_strands (s : State) (o : TileOp) (alone : Bool) : (s.scoreTile o alone).strands = s.strands := by
  unfold State.scoreTile
  dsimp only
  split <;> rfl
@[simp] theorem joinTile_strands (s : State) (o : TileOp) (alone : Bool) : (s.joinTile o alone).strands = s.strands := by
  unfold State.joinTile
  dsimp only
  split
  · rfl
  · split <;> rfl
@[simp] theorem enterTile_strands (s : State) (o : TileOp) (alone : Bool) : (s.enterTile o alone).strands = s.strands := by
  rw [enterTile_eq, joinTile_strands, scoreTile_strands]
@[simp] theorem plainOps_strands (s : State) (t : Nat) : (s.plainOps t).strands = s.strands := by
  unfold State.plainOps
  dsimp only
  split <;> rfl
@[simp] theorem releaseHeld_strands (s : State) (t : Nat) : (s.releaseHeld t).strands = s.strands := by
  unfold State.releaseHeld
  dsimp only
  split
  · split
    · exact plainOps_strands ..
    · exact plainOps_strands ..
  · rfl
@[simp] theorem decCls_strands (s : State) (c : Nat) (k : Cls) : (s.decCls c k).strands = s.strands := by
  unfold State.decCls
  split <;> rfl
@[simp] theorem tokDone_strands (s : State) (c : Nat) (w : Option Nat) (st : TokStatus) (b : Bool) : (s.tokDone c w st b).strands = s.strands := by
  unfold State.tokDone
  split
  · rfl
  · dsimp only
    split <;> rfl
theorem foldl_strands {α : Type} (op : State → α → State) (h : ∀ s a, (op s a).strands = s.strands) (l : List α) (s : State) :
    (l.foldl op s).strands = s.strands := by
  induction l generalizing s with
  | nil => rfl
  | cons a l ih => exact (ih _).trans (h s a)
@[simp] theorem tileDone_strands (s : State) (o : TileOp) (st : TokStatus) : (s.tileDone o st).strands = s.strands :=
  foldl_strands _ (fun s q => by simp) o.crews s
@[simp] theorem addLog_strands (s : State) (c : Nat) (r : Dword) : (s.addLog c r).strands = s.strands := rfl
@[simp] theorem devEvent_strands (s : State) (d k sl tag v : Nat) : (s.devEvent d k sl tag v).strands = s.strands := rfl
@[simp] theorem modLaunch_strands (s : State) (l : Nat) (g : Launch → Launch) : (s.modLaunch l g).strands = s.strands := by
  unfold State.modLaunch
  split <;> rfl
@[simp] theorem noteLaunch_strands (s : State) (l : Nat) : (s.noteLaunch l).strands = s.strands := by
  unfold State.noteLaunch
  split
  · rfl
  · split
    · rfl
    · simp
@[simp] theorem noteTrig_strands (s : State) (t : Nat) : (s.noteTrig t).strands = s.strands := noteLaunch_strands ..

/-! ## A phase executes -/

theorem wrP_standing (t : Strand) (p : Nat) (v : Bool) : (t.wrP p v).standing = t.standing ∧ (t.wrP p v).life = t.life := by
  obtain ⟨b, hb⟩ := wrP_rest t p v
  rw [hb]
  exact ⟨rfl, rfl⟩
theorem giveResult_stays (s : State) (x : Nat) (ds : List Nat) (pd : Nat) (r : List Word × Option Bool) : Stays s (s.giveResult x ds pd r) := by
  have hw : Stays s ((ds.zip r.1).foldl (fun s p => s.wrX x p.1 p.2) s) := by
    refine Stays.foldl _ (fun _ _ => ?_) _ s
    exact Stays.modStrand (fun _ => ⟨rfl, rfl⟩)
  unfold State.giveResult
  dsimp only
  split
  · exact hw.trans (Stays.modStrand (fun v => wrP_standing v pd _))
  · exact hw
theorem runKset_strands (s : State) (gs : List Sig) : (s.runKset gs).strands = s.strands := by
  unfold State.runKset
  split <;> rfl
theorem runResult_stays (s : State) (c h : Nat) : Stays s (s.runResult c h) := by
  unfold State.runResult
  dsimp only
  refine Stays.trans (Stays.wakeAll ?_ (fun x hx => ?_)) (Stays.of_strands (endPhase_strands ..))
  · split
    · exact Stays.of_strands (runKset_strands ..)
    · exact Stays.foldl _ (fun s g => giveResult_stays s ..) _ s
  · obtain ⟨g, hg, rfl⟩ := List.mem_map.mp hx
    have h := (List.mem_filter.mp hg).2
    simp only [Bool.and_eq_true, beq_iff_eq] at h
    exact h.2
theorem runPhase_stays (s : State) (c h : Nat) : Stays s (s.runPhase c h) := by
  unfold State.runPhase
  dsimp only
  split
  · split
    · split <;> exact Stays.of_strands (by simp)
    · exact runResult_stays ..
  · exact Stays.of_strands (by simp)
theorem tryPhase_stays (s : State) (c h : Nat) : Stays s (s.tryPhase c h) := by
  unfold State.tryPhase
  dsimp only
  split
  · exact Stays.refl s
  · split
    · exact runPhase_stays ..
    · split
      · exact Stays.of_strands (by simp)
      · exact Stays.refl s
theorem pumpPhases_stays (s : State) (t : Nat) : Stays s (s.pumpPhases t) := by
  unfold State.pumpPhases
  split
  · exact (Stays.foldl _ (fun s c => tryPhase_stays s c 0) _ s).trans (Stays.foldl _ (fun s h => tryPhase_stays s (64 * t) h) _ _)
  · exact Stays.refl s
theorem pumpCore_stays (s : State) (k : Nat) : Stays s (s.pumpCore k) :=
  Stays.foldl _ (fun s t => (Stays.of_strands (releaseHeld_strands s t)).trans (pumpPhases_stays ..)) _ s

/-! ## Faulted ops, and register blocks -/

theorem tileDiscard_stays (s : State) (f : TileFault) : Stays s (s.tileDiscard f) := by
  refine Stays.trans (Stays.foldl _ (fun _ _ => ?_) _ s) (Stays.of_strands (tileDone_strands ..))
  exact Stays.modStrand (fun _ => ⟨rfl, rfl⟩)
theorem anchorExit_stays (s : State) (x : Nat) : Stays s (s.anchorExit x) := by
  unfold State.anchorExit
  dsimp only
  split
  · exact Stays.refl s
  · exact ((Stays.of_strands (modTroop_strands ..)).trans (Stays.foldl _ tileDiscard_stays _ _)).trans (pumpCore_stays ..)
theorem endTileFault_stays (s : State) (x : Nat) (skip : Bool) : Stays s (s.endTileFault x skip) := by
  unfold State.endTileFault
  dsimp only
  split
  · exact Stays.refl s
  · refine Stays.trans ?_ (pumpCore_stays ..)
    refine Stays.trans ?_ (Stays.of_strands (refit_strands ..))
    split
    · exact (Stays.of_strands (modTroop_strands ..)).trans (tileDiscard_stays ..)
    · split <;> exact Stays.of_strands (by simp)
theorem setExt_stays (s : State) (c n : Nat) : Stays s (s.setExt c n) := by
  refine (Stays.of_strands (modCrew_strands s c _)).trans (Stays.foldl _ (fun _ _ => ?_) _ _)
  exact Stays.modStrand (fun _ => ⟨rfl, rfl⟩)
theorem grantAll_stays (s : State) (t : Nat) : Stays s (s.grantAll t) := by
  refine Stays.foldl _ (fun s r => ?_) _ s
  split
  · exact Stays.of_strands (modCrew_strands ..)
  · split
    · exact (Stays.of_strands (modCrew_strands ..)).trans (setExt_stays ..)
    · exact Stays.refl s
theorem growDeadlock_stays (s : State) (t : Nat) : Stays s (s.growDeadlock t) := by
  unfold State.growDeadlock
  dsimp only
  split
  · exact Stays.refl s
  · split
    · exact Stays.refl s
    · refine (Stays.of_strands (modCrew_strands s _ _)).trans (Stays.foldl _ (fun _ _ => ?_) _ _)
      exact Stays.modStrand (fun _ => ⟨rfl, rfl⟩)
theorem allocate_stays (s : State) (t : Nat) : Stays s (s.allocate t) := (grantAll_stays s t).trans (growDeadlock_stays ..)
end Sys2Proof.Machine
end

section
namespace Sys2Proof.Machine

/-! ## `exit` and `halt` (R42, R113, R372) -/

/-- What an exit makes of its strand, the stores `out` of its core still to be performed. -/
def Strand.exited (out : List Nat) (t : Strand) : Strand :=
  { t with life := .exited, wait := .none, faults := [], naks := [], team := none, latch := none, xl := [], fetched := none, after := out }

theorem Stays.exited {s t : State} (h : Stays s t) {x : Nat} (hx : (s.strand x).life = .exited) : (t.strand x).life = .exited := by
  rcases h.life x with h | ⟨h, -⟩
  · exact h.trans hx
  · rw [hx] at h
    nomatch h
theorem exitStrand_exited (s : State) (x : Nat) : ((s.exitStrand x).strand x).life = .exited := by
  have hx (t : State) (out : List Nat) : ((t.modStrand x (Strand.exited out)).strand x).life = .exited := by
    rw [strand_modStrand, if_pos rfl]
    rfl
  unfold State.exitStrand
  dsimp only
  refine Stays.exited (Stays.of_strands (noteTrig_strands _ (troopOf x))) (Stays.exited (pumpPhases_stays _ (troopOf x)) ?_)
  refine Stays.exited (allocate_stays _ (troopOf x)) (Stays.exited (anchorExit_stays _ x) ?_)
  refine Stays.exited (Stays.of_strands (scoreUnqueue_strands _ x)) ?_
  exact hx _ _

/-- Every listed strand exits; the stores of the core stand as they do when it does. -/
def State.exitAll (s : State) (k : Nat) (xs : List Nat) : State := xs.foldl (fun s x => s.modStrand x (Strand.exited (s.storesOf k))) s
theorem exitAll_life (k : Nat) (xs : List Nat) (s : State) (y : Nat) :
    ((s.exitAll k xs).strand y).life = if y ∈ xs then .exited else (s.strand y).life := by
  induction xs generalizing s with
  | nil => rfl
  | cons x xs ih =>
    show ((State.exitAll _ k xs).strand y).life = _
    rw [ih, strand_modStrand]
    by_cases hy : y ∈ xs <;> by_cases hx : y = x <;> simp [hy, hx, Strand.exited]

theorem alive_iff (s : State) (x : Nat) : s.alive x = true ↔ (sfind s.strands x).isSome = true ∧ (s.strand x).life ≠ .exited := by
  unfold State.alive State.strand sget
  cases sfind s.strands x <;> simp
theorem mem_liveLanes (s : State) (c y : Nat) : y ∈ s.liveLanes c ↔ crewOf y = c ∧ s.alive y = true := by
  unfold State.liveLanes
  rw [List.mem_filter, List.mem_map]
  refine and_congr_left fun _ => ⟨?_, fun h => ⟨y % 32, ?_⟩⟩
  · rintro ⟨l, hl, rfl⟩
    have := List.mem_range.mp hl
    show (32 * c + l) / 32 = c
    omega
  · have h : y / 32 = c := h
    exact ⟨List.mem_range.mpr (by omega), by omega⟩
theorem modStrand_isSome (s : State) (x y : Nat) (g : Strand → Strand) (h : (sfind s.strands y).isSome = true) :
    (sfind (s.modStrand x g).strands y).isSome = true := by
  by_cases e : x = y
  · subst e
    exact (congrArg Option.isSome (sfind_sput_self ..)).trans rfl
  · exact (congrArg Option.isSome (sfind_sput_ne _ _ e)).trans h
theorem exitAll_isSome (k : Nat) (xs : List Nat) (s : State) (y : Nat) (h : (sfind s.strands y).isSome = true) :
    (sfind (s.exitAll k xs).strands y).isSome = true := by
  induction xs generalizing s with
  | nil => exact h
  | cons x xs ih => exact ih _ (modStrand_isSome _ _ _ _ h)

/-- Crew after crew of a troop, every live strand exits. -/
def State.exitCrews (s : State) (k : Nat) (cs : List Nat) : State := cs.foldl (fun s c => s.exitAll k (s.liveLanes c)) s
theorem exitCrews_keeps_exited (k : Nat) (cs : List Nat) (s : State) (y : Nat) (h : (s.strand y).life = .exited) :
    ((s.exitCrews k cs).strand y).life = .exited := by
  induction cs generalizing s with
  | nil => exact h
  | cons c cs ih =>
    refine ih _ ?_
    rw [exitAll_life, h, ite_self]
theorem exitCrews_exited (k : Nat) (cs : List Nat) (s : State) (y : Nat) (hc : crewOf y ∈ cs) (h : s.alive y = true) :
    ((s.exitCrews k cs).strand y).life = .exited := by
  induction cs generalizing s with
  | nil => nomatch hc
  | cons c cs ih =>
    have hlife := exitAll_life k (s.liveLanes c) s y
    by_cases hm : y ∈ s.liveLanes c
    · rw [if_pos hm] at hlife
      exact exitCrews_keeps_exited k cs _ y hlife
    · rw [if_neg hm] at hlife
      obtain ⟨h1, h2⟩ := (alive_iff s y).mp h
      refine ih _ ?_ ((alive_iff _ y).mpr ⟨exitAll_isSome k _ s y h1, by rwa [hlife]⟩)
      refine (List.mem_cons.mp hc).resolve_left (fun e => hm ?_)
      exact (mem_liveLanes s c y).mpr ⟨e, h⟩
theorem foldl_modCrew_strands (cs : List Nat) (s : State) (g : Crew → Crew) : (cs.foldl (fun s q => s.modCrew q g) s).strands = s.strands :=
  foldl_strands _ (fun s c => modCrew_strands s c g) cs s
/-- R372: every live strand of the troop is Exited. -/
theorem haltTroop_exited (s : State) (t y : Nat) (hc : crewOf y ∈ s.crewsOf t) (h : s.alive y = true) :
    ((s.haltTroop t).strand y).life = .exited := by
  have hx := exitCrews_exited (coreOfTroop t) (s.crewsOf t) s y hc h
  unfold State.haltTroop
  dsimp only
  refine Stays.exited (Stays.of_strands (noteTrig_strands _ t)) (Stays.exited (pumpCore_stays _ (coreOfTroop t)) ?_)
  refine Stays.exited (Stays.of_strands (modCore_strands _ (coreOfTroop t) _)) ?_
  refine Stays.exited (Stays.of_strands (foldl_modCrew_strands _ _ _)) ?_
  exact Stays.exited (Stays.of_strands (modTroop_strands _ t _)) hx

/-! ## Retiring keeps every crew and strand -/

theorem sfind_isSome_iff {α : Type} (m : Sparse α) (k : Nat) : (sfind m k).isSome = true ↔ k ∈ m.map (·.1) := by
  induction m with
  | nil => simp [sfind]
  | cons e m ih =>
    rw [sfind]
    split
    · rename_i h
      simp [h]
    · rename_i h
      rw [ih, List.map_cons, List.mem_cons]
      exact (or_iff_right (Ne.symm h)).symm
theorem mem_crewsOf (s : State) (t c : Nat) : c ∈ s.crewsOf t ↔ s.hasCrew c = true ∧ c / 64 = t := by
  unfold State.crewsOf State.hasCrew
  rw [List.mem_filter, sfind_isSome_iff, beq_iff_eq]
theorem modCrew_hasCrew (s : State) (c q : Nat) (g : Crew → Crew) (h : s.hasCrew q = true) : (s.modCrew c g).hasCrew q = true := by
  by_cases e : c = q
  · subst e
    exact (congrArg Option.isSome (sfind_sput_self ..)).trans rfl
  · exact (congrArg Option.isSome (sfind_sput_ne _ _ e)).trans h
theorem countRetired_hasCrew (s : State) (c q : Nat) (h : s.hasCrew q = true) : (s.countRetired c).hasCrew q = true := by
  have h1 := modCrew_hasCrew s c q (fun v => { v with retired := v.retired + 1 }) h
  unfold State.countRetired State.tickBins
  dsimp only
  split
  · split <;> exact h1
  · exact h1
theorem retire_hasCrew (s : State) (q : Nat) (h : s.hasCrew q = true) : s.retire.hasCrew q = true := by
  unfold State.retire
  dsimp only
  split
  · exact countRetired_hasCrew s _ q h
  · refine modCrew_hasCrew _ _ _ _ ?_
    split
    · exact h
    · exact countRetired_hasCrew _ _ q h
theorem retire_strands_eq (s : State) : s.retire.strands = s.strands ∨ ∃ g : Strand → Strand, (∀ v, (g v).life = v.life) ∧ s.retire.strands = (s.modMe g).strands := by
  unfold State.retire
  dsimp only
  split
  · exact .inl (countRetired_strands ..)
  · refine .inr ⟨fun t => { t with team := none }, fun _ => rfl, ?_⟩
    rw [modCrew_strands]
    split
    · rfl
    · exact countRetired_strands ..
theorem retire_alive (s : State) (y : Nat) (h : s.alive y = true) : s.retire.alive y = true := by
  obtain ⟨h1, h2⟩ := (alive_iff s y).mp h
  rcases retire_strands_eq s with hs | ⟨g, hg, hs⟩
  · exact (alive_iff _ y).mpr ⟨by rwa [hs], by rwa [State.strand, hs]⟩
  · refine (alive_iff _ y).mpr ⟨by rw [hs]; exact modStrand_isSome s _ y _ h1, ?_⟩
    rw [State.strand, hs]
    show ((s.modMe g).strand y).life ≠ _
    rw [strand_modMe]
    split
    · rename_i e
      subst e
      rw [hg]
      exact h2
    · exact h2

/-! ## `eret` (R368) -/

/-- Where `eret` leaves its strand: Eligible, with the trap record, the address and the step it gives. -/
theorem eret_strand (s : State) (skip : Bool) : ((s.eret skip).strand s.x).life = .eligible
    ∧ ((s.eret skip).strand s.x).pc = (s.eretTo skip).1 ∧ ((s.eret skip).strand s.x).step = (s.eretTo skip).2
    ∧ ((s.eret skip).strand s.x).cause = clrBit s.myStrand.cause 31 := by
  obtain ⟨g, hg, he⟩ : ∃ g : Strand → Strand, g s.myStrand = { s.myStrand with
        pc := (s.eretTo skip).1, step := (s.eretTo skip).2,
        mindex := causeIndex s.myStrand.cause, cause := clrBit s.myStrand.cause 31, refused := none, latch := none, xl := [], fetched := none }
      ∧ s.eret skip = (((s.modMe g).retire).endTileFault s.x skip).toEligible s.x := ⟨_, rfl, rfl⟩
  have hr : (s.modMe g).retire.strand s.x = { g s.myStrand with team := none } := by
    have h := retire_strand (s.modMe g)
    rwa [State.myStrand, show (s.modMe g).x = s.x from rfl, strand_modMe, if_pos rfl] at h
  have hs := (endTileFault_stays (s.modMe g).retire s.x skip).standing s.x
  rw [hr, hg] at hs
  rw [he, toEligible_strand]
  have hpc := congrArg Strand.pc hs
  have hstep := congrArg Strand.step hs
  have hcause := congrArg Strand.cause hs
  exact ⟨rfl, hpc, hstep, hcause⟩
theorem clrBit_31 (v : Word) : clrBit v 31 = v &&& 0x7FFFFFFF := rfl

/-- Where `eret` without skip goes, and with skip of an instruction outside a macro. -/
theorem eretTo_same (s : State) : (s.eretTo false).1 = s.myStrand.trappc &&& ~~~3 := rfl
theorem eretTo_skip {s : State} (h : 32 ≤ bits s.myStrand.cause.toNat 29 24) : s.eretTo true
    = ((s.myStrand.trappc &&& ~~~3) + (if s.myStrand.cause.getLsbD 17 then 4
        else match s.myStrand.cause.extractLsb' 15 2 with | 0 => 4 | 1 | 2 => 12 | _ => 20), 63) := by
  have hn : ¬ causeStep s.myStrand.cause < 32 := Nat.not_lt.mpr h
  have hw : ∀ v : BitVec 2, BitVec.ofNat 64 (4 * frameWords v) = (match v with | 0 => 4 | 1 | 2 => 12 | _ => 20 : Dword) := by decide
  unfold State.eretTo
  simp only [Bool.not_true, Bool.false_eq_true, if_false, hn, causeFlen, trapPc, hw]
  split <;> rfl

/-! ## `trigger`, `ppoint` and `rein` -/

theorem issue_at {i : Instr} {s : State} {f : Fr} {c : Chk} {body : State → State} (hx : exec i s = .next (s.issue f c body))
    (hr : s.ready f c = true) (hc : c.srcs = []) : exec i s = .next (body s) := by
  rw [hx, issue_ready hr, hc]
  rfl
theorem noteLaunch_cur (s : State) (l : Nat) : (s.noteLaunch l).cur = s.cur := by
  unfold State.noteLaunch State.modLaunch
  split
  · rfl
  · split
    · rfl
    · split <;> rfl
theorem nextPc_congr {s u : State} (hc : u.cur = s.cur) (hp : (u.strand s.x).pc = s.myStrand.pc) (hs : (u.strand s.x).step = s.myStrand.step)
    {f : Fr} : u.nextPc f = s.nextPc f := by
  have hm : u.myStrand = u.strand s.x := congrArg (fun c : Cur => u.strand c.strand) hc
  unfold State.nextPc
  rw [hc, hm, hp, hs]
/-- A strand goes on from where an effect left it. -/
theorem finish_at {s u : State} (hc : u.cur = s.cur) (f : Fr) : ((u.finish f.len).strand s.x).trig = (u.strand s.x).trig
    ∧ ((u.finish f.len).strand s.x).life = .eligible ∧ (((u.finish f.len).strand s.x).pc, ((u.finish f.len).strand s.x).step) = u.nextPc f := by
  obtain ⟨n, q, h⟩ := finish_strand u f
  have hx : u.x = s.x := congrArg Cur.strand hc
  rw [State.myStrand, hx] at h
  rw [h]
  exact ⟨rfl, rfl, rfl⟩
/-- A strand that triggers goes on. -/
theorem trigger_goes (s : State) (f : Fr) : let t := ((s.modMe (fun t => { t with trig := true })).noteTrig (troopOf s.x)).finish f.len
    (t.strand s.x).trig = true ∧ (t.strand s.x).life = .eligible ∧ ((t.strand s.x).pc, (t.strand s.x).step) = s.nextPc f := by
  intro t
  have hcur : ((s.modMe (fun t => { t with trig := true })).noteTrig (troopOf s.x)).cur = s.cur := noteLaunch_cur ..
  have hme : ((s.modMe (fun t => { t with trig := true })).noteTrig (troopOf s.x)).strand s.x = { s.myStrand with trig := true } := by
    rw [State.strand, noteTrig_strands]
    exact (strand_modMe s _ s.x).trans (if_pos rfl)
  obtain ⟨h1, h2, h3⟩ := finish_at hcur f
  rw [hme] at h1
  refine ⟨h1, h2, h3.trans ?_⟩
  exact nextPc_congr hcur (by rw [hme]) (by rw [hme])
theorem modTroop_same {s : State} (p : Nat) {g : Troop → Troop} (hg : ∀ v, (g v).spm = v.spm ∧ (g v).tiles = v.tiles) :
    SameBytes s (s.modTroop p g) := by
  have h (q : Nat) : ((s.modTroop p g).troop q).spm = (s.troop q).spm ∧ ((s.modTroop p g).troop q).tiles = (s.troop q).tiles := by
    rw [troop_modTroop]
    split
    · rename_i e
      exact e ▸ hg _
    · exact ⟨rfl, rfl⟩
  exact ⟨fun _ => rfl, fun _ => rfl, fun q a => congrArg (fun m => mbyte m a) (h q).1, fun q a => congrArg (fun m => mbyte m a) (h q).2, fun _ _ => rfl⟩
theorem SameBytes.trans {s t u : State} (h : SameBytes s t) (k : SameBytes t u) : SameBytes s u := by
  obtain ⟨h1, h2, h3, h4, h5⟩ := h
  obtain ⟨k1, k2, k3, k4, k5⟩ := k
  exact ⟨fun a => (k1 a).trans (h1 a), fun a => (k2 a).trans (h2 a), fun q a => (k3 q a).trans (h3 q a),
    fun q a => (k4 q a).trans (h4 q a), fun c a => (k5 c a).trans (h5 c a)⟩

/-- An effect on the strand's own troop, its memories apart. -/
theorem modMyTroop_finish (s : State) (f : Fr) {g : Troop → Troop} (hg : ∀ v, (g v).spm = v.spm ∧ (g v).tiles = v.tiles) :
    let t := (s.modMyTroop g).finish f.len
    ((t.strand s.x).pc, (t.strand s.x).step) = s.nextPc f ∧ t.troop (troopOf s.x) = g s.myTroop ∧ RegFile s t [] [] ∧ SameBytes s t := by
  obtain ⟨hr, hpc, -, -, -, -, -, -, hrest, hb⟩ := finish_wrote (s.modMyTroop g) f
  refine ⟨hpc, ?_, hr, (modTroop_same _ hg).trans hb⟩
  have ht : ((s.modMyTroop g).finish f.len).troops = (s.modMyTroop g).troops := by
    have q := congrArg State.troops hrest
    exact q
  rw [State.troop, ht]
  exact (troop_modTroop s _ _ g).trans (if_pos rfl)

/-- R35: what `rein` of crew `me` makes of the reins. -/
def passRein (me : Nat) (t : Troop) : Troop :=
  { t with reins := t.reins.map (fun p => if p.2.2 = me then (p.1, p.2.1, if p.1 = me then p.2.1 else p.1) else p) }

/-- Settles O11: each instruction is ready and has its one effect; what phases and ops do leaves the strands where they stand (`Stays`). -/
theorem strandSuspension : Obligations.StrandSuspension := by
  refine ⟨fun g x s => ⟨fun hr => ⟨?_, ?_, fun hrel => ?_, fun hrel => ?_⟩, fun hr => ⟨?_, fun skip => ?_, fun park pd => ?_⟩⟩, fun g s hrole hpair hg => ?_⟩
  · exact computes_of rfl hr id
  · exact ⟨_, issue_at rfl hr rfl, exitStrand_exited s.retire _⟩
  · have he := issue_at (i := .trigger g) rfl hr rfl
    exact ⟨_, he.trans (congrArg _ (if_pos hrel)), trigger_goes s _⟩
  · exact (issue_at rfl hr rfl).trans (congrArg _ (if_neg (by rw [hrel]; decide)))
  · refine ⟨_, issue_at rfl hr rfl, fun c hc y hy => haltTroop_exited _ _ y ?_ ?_⟩
    · obtain ⟨rfl, -⟩ := (mem_liveLanes s c y).mp hy
      obtain ⟨h1, h2⟩ := (mem_crewsOf s _ _).mp hc
      exact (mem_crewsOf _ _ _).mpr ⟨retire_hasCrew s _ h1, h2⟩
    · exact retire_alive s y ((mem_liveLanes s c y).mp hy).2
  · refine ⟨s.eret skip, ?_, ?_⟩
    · cases skip
      · exact issue_at (i := .eret x) rfl hr rfl
      · exact issue_at (i := .eretSkip x) rfl hr rfl
    · obtain ⟨hlife, hpc, hstep, hcause⟩ := eret_strand s skip
      refine ⟨hlife, hcause, fun h => ?_, fun h hn => ?_⟩
      · rw [hpc, h]
        rfl
      · rw [hpc, hstep, h, eretTo_skip hn]
        exact ⟨rfl, rfl⟩
  · intro save
    have he := issue_at (i := .ppoint x park pd) rfl hr rfl
    refine ⟨fun h hl => ⟨_, he.trans (congrArg _ (if_neg ?_)), ?_⟩, fun hp hsv => ⟨_, he.trans (congrArg _ (if_pos ?_)), ?_⟩⟩
    · rcases h with h | h
      · simp [h]
      · simp [State.savePending, show (s.myCrew.saveReq.isSome || s.myTroop.saveReq.isSome) = false from h]
    · rw [hl, Option.isSome_none, Bool.or_false]
      exact ((Track.refl s).wrP pd _).finish _
    · rw [hp]
      exact hsv
    · rw [parks_latched]
      exact ⟨rfl, rfl⟩
  · have hme : s.ready (baseFr g false) { role := s.isMatrix && s.myTroop.reins.any (fun p => p.1 == crewIdx (crewOf s.x) || p.2.1 == crewIdx (crewOf s.x)) } = true := by
      refine (ready_iff _ _ _).mpr ⟨hg, ?_, rfl, by simp, by simp, by simp, by simp⟩
      simpa [State.isMatrix, hrole] using hpair
    obtain ⟨hpc, ht, hrf, hb⟩ := modMyTroop_finish s (baseFr g false) (g := passRein (crewIdx (crewOf s.x))) (fun _ => ⟨rfl, rfl⟩)
    exact ⟨_, does_of (i := .rein g) rfl hme, hpc, congrArg Troop.reins ht, hrf, hb⟩
end Sys2Proof.Machine
end

section
namespace Sys2Proof.Machine

/-! ## The phase a hitch number names -/

theorem phase_congr {s t : State} (hc : t.crews = s.crews) (ht : t.troops = s.troops) (c h : Nat) : t.phase c h = s.phase c h := by
  unfold State.phase State.hitch State.crew State.troop
  rw [hc, ht]
theorem phase_modPhase (s : State) (c h : Nat) (g : Phase → Phase) : (s.modPhase c h g).phase c h = g (s.phase c h) := by
  unfold State.modPhase State.phase
  by_cases h0 : h = 0
  · rw [if_pos h0, if_pos h0, if_pos h0, crew_modCrew, if_pos rfl]
  · rw [if_neg h0, if_neg h0, if_neg h0]
    unfold State.hitch State.modHitch
    rw [troop_modTroop, if_pos rfl, sget_sput_self]
/-- Changes of a hitch that keep its phase. -/
theorem phase_modHitch (s : State) (c h : Nat) {g : Hitch → Hitch} (hg : ∀ v, (g v).phase = v.phase) :
    (s.modHitch (troopOfCrew c) h g).phase c h = s.phase c h := by
  unfold State.phase
  by_cases h0 : h = 0
  · rw [if_pos h0, if_pos h0]
    rfl
  · rw [if_neg h0, if_neg h0]
    unfold State.hitch State.modHitch
    rw [troop_modTroop, if_pos rfl, sget_sput_self, hg]
/-- The end of a phase: parity flips and its signatures go (R129). -/
theorem phase_endPhase (s : State) (c h : Nat) : (s.endPhase c h).phase c h = { parity := !(s.phase c h).parity, kind := none, sigs := [] } := by
  have h1 := phase_modPhase s c h (fun p => { parity := !p.parity, kind := none, sigs := [] })
  unfold State.endPhase
  dsimp only
  split
  · exact h1
  · rw [phase_modHitch _ c h (fun v => by cases v.pend <;> rfl), h1]
theorem modHitch_same (s : State) (t h : Nat) (g : Hitch → Hitch) : SameBytes s (s.modHitch t h g) :=
  modTroop_same t (fun _ => ⟨rfl, rfl⟩)
theorem modPhase_same (s : State) (c h : Nat) (g : Phase → Phase) : SameBytes s (s.modPhase c h g) := by
  unfold State.modPhase
  split
  · exact SameBytes.of_eq rfl
  · exact modHitch_same ..
theorem endPhase_same (s : State) (c h : Nat) : SameBytes s (s.endPhase c h) := by
  unfold State.endPhase
  dsimp only
  split
  · exact modPhase_same ..
  · exact (modPhase_same ..).trans (modHitch_same ..)

/-! ## Waking -/

theorem toEligible_same (s : State) (x : Nat) : SameBytes s (s.toEligible x) := SameBytes.of_eq rfl
/-- Waking changes strands and stamps. -/
theorem wakeAll_rest (s : State) (xs : List Nat) : { s.wakeAll xs with strands := s.strands, units := s.units } = s := by
  have hall (l : List Nat) (t : State) (h : { t with strands := s.strands, units := s.units } = s) :
      { l.foldl State.toEligible t with strands := s.strands, units := s.units } = s := by
    induction l generalizing t with
    | nil => exact h
    | cons x l ih => exact ih _ h
  exact hall _ s rfl
/-- A strand that is woken is Eligible, and keeps the rest. -/
theorem wakeAll_strand (s : State) (xs : List Nat) (y : Nat) : if y ∈ xs then
      ∃ n, (s.wakeAll xs).strand y = { s.strand y with life := .eligible, stamp := n, wait := .none }
    else (s.wakeAll xs).strand y = s.strand y := by
  have hall (l : List Nat) : ∀ t : State, if y ∈ l then ∃ n, (l.foldl State.toEligible t).strand y = { t.strand y with life := .eligible, stamp := n, wait := .none }
      else (l.foldl State.toEligible t).strand y = t.strand y := by
    induction l with
    | nil => exact fun t => rfl
    | cons x l ih =>
      intro t
      have h := ih (t.toEligible x)
      by_cases hx : y = x
      · subst hx
        rw [toEligible_strand] at h
        rw [if_pos List.mem_cons_self]
        split at h
        · exact h
        · exact ⟨_, h⟩
      · rw [toEligible_strand_ne _ hx] at h
        simpa only [List.mem_cons, hx, false_or, List.foldl_cons] using h
  have h := hall (sortBy s.stampKey xs) s
  unfold State.wakeAll
  simpa only [mem_sortBy] using h

/-! ## What a contributing signer is given -/

/-- The writes of a result in a strand. -/
def Strand.given (t : Strand) (ds : List Nat) (pd : Nat) (r : List Word × Option Bool) : Strand :=
  let t1 := (ds.zip r.1).foldl (fun t p => t.wr p.1 p.2) t
  match r.2 with
  | some b => t1.wrP pd b
  | none => t1
theorem foldl_wrX (x : Nat) (l : List (Nat × Word)) (s : State) (y : Nat) : (l.foldl (fun s p => s.wrX x p.1 p.2) s).strand y
    = if y = x then l.foldl (fun t p => t.wr p.1 p.2) (s.strand x) else s.strand y := by
  induction l generalizing s with
  | nil =>
    split
    · rename_i e
      exact e ▸ rfl
    · rfl
  | cons p l ih =>
    have hx (z : Nat) : (s.wrX x p.1 p.2).strand z = if z = x then (s.strand x).wr p.1 p.2 else s.strand z := strand_modStrand ..
    rw [List.foldl_cons, ih, hx, hx, if_pos rfl]
    split <;> rfl
/-- A result goes to one strand. -/
theorem giveResult_strand (s : State) (x : Nat) (ds : List Nat) (pd : Nat) (r : List Word × Option Bool) (y : Nat) :
    (s.giveResult x ds pd r).strand y = if y = x then (s.strand x).given ds pd r else s.strand y := by
  have h (z : Nat) := foldl_wrX x (ds.zip r.1) s z
  obtain ⟨vs, b⟩ := r
  cases b with
  | none => exact h y
  | some b =>
    refine (strand_modStrand _ x y _).trans ?_
    rw [h, h, if_pos rfl]
    split <;> rfl
theorem giveResult_rest (s : State) (x : Nat) (ds : List Nat) (pd : Nat) (r : List Word × Option Bool) :
    { s.giveResult x ds pd r with strands := s.strands } = s := by
  have hall (l : List (Nat × Word)) (t : State) (h : { t with strands := s.strands } = s) :
      { l.foldl (fun s p => s.wrX x p.1 p.2) t with strands := s.strands } = s := by
    induction l generalizing t with
    | nil => exact h
    | cons p l ih => exact ih _ h
  unfold State.giveResult
  dsimp only
  split
  · exact hall _ s rfl
  · exact hall _ s rfl
/-- Each contributing signer is given its result. -/
def State.giveAll (s : State) (k : OpKind) (sigs gs : List Sig) : State :=
  gs.foldl (fun s g => s.giveResult g.x g.dsts g.pdst (collResult k sigs g)) s
theorem giveAll_rest (s : State) (k : OpKind) (sigs gs : List Sig) : { s.giveAll k sigs gs with strands := s.strands } = s := by
  have hall (l : List Sig) (t : State) (h : { t with strands := s.strands } = s) : { t.giveAll k sigs l with strands := s.strands } = s := by
    induction l generalizing t with
    | nil => exact h
    | cons g l ih =>
      refine ih _ ?_
      have hg := giveResult_rest t g.x g.dsts g.pdst (collResult k sigs g)
      exact (congrArg (fun u : State => { u with strands := s.strands }) hg).trans h
  exact hall gs s rfl
theorem giveAll_other (k : OpKind) (sigs gs : List Sig) (s : State) {y : Nat} (h : ∀ g ∈ gs, g.x ≠ y) :
    (s.giveAll k sigs gs).strand y = s.strand y := by
  induction gs generalizing s with
  | nil => rfl
  | cons g gs ih =>
    obtain ⟨h1, h2⟩ := List.forall_mem_cons.mp h
    exact (ih _ h2).trans ((giveResult_strand ..).trans (if_neg (Ne.symm h1)))
theorem giveAll_signer (k : OpKind) (sigs gs : List Sig) (s : State) (hp : gs.Pairwise (fun a b => a.x ≠ b.x)) {g : Sig} (hg : g ∈ gs) :
    (s.giveAll k sigs gs).strand g.x = (s.strand g.x).given g.dsts g.pdst (collResult k sigs g) := by
  induction gs generalizing s with
  | nil => nomatch hg
  | cons a gs ih =>
    obtain ⟨h1, h2⟩ := List.pairwise_cons.mp hp
    rcases List.mem_cons.mp hg with rfl | hm
    · exact (giveAll_other k sigs gs _ (fun b hb => (h1 b hb).symm)).trans ((giveResult_strand ..).trans (if_pos rfl))
    · refine (ih _ h2 hm).trans ?_
      rw [giveResult_strand, if_neg (h1 g hm).symm]

/-! ## The registers and predicates of a result -/

theorem wrAll_regs (l : List (Nat × Word)) (t : Strand) (q : Nat) :
    sget (l.foldl (fun t p => t.wr p.1 p.2) t).regs 0 q = regAfter l (fun q => sget t.regs 0 q) q := by
  induction l generalizing t with
  | nil => rfl
  | cons p l ih =>
    rw [List.foldl_cons, ih, regAfter]
    exact congrArg (fun f => regAfter l f q) (funext fun z => sget_sset ..)
theorem wrAll_preds (l : List (Nat × Word)) (t : Strand) : (l.foldl (fun t p => t.wr p.1 p.2) t).preds = t.preds := by
  induction l generalizing t with
  | nil => rfl
  | cons p l ih => exact ih _
theorem given_regs (t : Strand) (ds : List Nat) (pd : Nat) (r : List Word × Option Bool) (q : Nat) :
    sget (t.given ds pd r).regs 0 q = regAfter (ds.zip r.1) (fun q => sget t.regs 0 q) q := by
  unfold Strand.given
  dsimp only
  split
  · obtain ⟨b, hb⟩ := wrP_rest ((ds.zip r.1).foldl (fun t p => t.wr p.1 p.2) t) pd ‹Bool›
    rw [hb]
    exact wrAll_regs ..
  · exact wrAll_regs ..
theorem prd_congr {t u : Strand} (h : t.preds = u.preds) (p : Nat) : t.prd p = u.prd p := by
  unfold Strand.prd
  rw [h]
theorem given_prd (t : Strand) (ds : List Nat) (pd : Nat) (r : List Word × Option Bool) (p : PReg) : (t.given ds pd r).prd p.toNat
    = match r.2 with
      | some b => if p.toNat = pd ∧ p ≠ 7 then b else t.prd p.toNat
      | none => t.prd p.toNat := by
  have hold := prd_congr (wrAll_preds (ds.zip r.1) t) p.toNat
  unfold Strand.given
  dsimp only
  split
  · rename_i b hb
    by_cases hpd : pd < 8
    · have h := prd_wrP ((ds.zip r.1).foldl (fun t p => t.wr p.1 p.2) t) (BitVec.ofNat 3 pd) p b
      have hn : (BitVec.ofNat 3 pd).toNat = pd := by rw [BitVec.toNat_ofNat]; omega
      have hiff : (p = BitVec.ofNat 3 pd ∧ BitVec.ofNat 3 pd ≠ 7) ↔ (p.toNat = pd ∧ p ≠ 7) := by
        constructor
        · rintro ⟨rfl, h7⟩
          exact ⟨hn, h7⟩
        · rintro ⟨rfl, h7⟩
          rw [BitVec.ofNat_toNat, BitVec.setWidth_eq]
          exact ⟨rfl, h7⟩
      rw [hn] at h
      rw [h, hold]
      exact if_congr hiff rfl rfl
    · have hne : ¬(p.toNat = pd ∧ p ≠ 7) := by
        have := p.isLt
        omega
      rw [if_neg hne, Strand.wrP, if_neg (by omega), hold]
  · exact hold

/-! ## A complete phase of results (R30) -/

/-- A phase of no tile instruction becomes no op. -/
theorem tileOpOf_none (s : State) (c : Nat) {sigs : List Sig} (h : ∀ g ∈ sigs, g.ins = none) : s.tileOpOf c sigs = none := by
  unfold State.tileOpOf
  cases hl : leaderOf sigs with
  | none => rfl
  | some g => rw [Option.bind_some, h g (List.mem_filter.mp (leastBy_least hl).1).1, Option.map_none]
theorem tryPhase_result {s : State} {c h : Nat} {k : OpKind} (hk : (s.phase c h).kind = some k) (hc : k.coll < 9)
    (hi : ∀ g ∈ (s.phase c h).sigs, g.ins = none) (hr : s.phaseReady c h = true) : s.tryPhase c h = s.runResult c h := by
  have he : isEngineKind k = false := by
    unfold isEngineKind
    exact decide_eq_false (by omega)
  unfold State.tryPhase
  dsimp only
  rw [hr, Bool.not_true, if_neg Bool.false_ne_true, State.tileRoom, tileOpOf_none s c hi]
  dsimp only
  rw [if_pos rfl, State.runPhase]
  dsimp only
  rw [hk]
  dsimp only
  rw [he, if_neg Bool.false_ne_true]
/-- What a phase of kind `k` gives, before its signers wake. -/
def State.results (s : State) (c h : Nat) (k : OpKind) : State :=
  let sigs := (s.phase c h).sigs
  if k.coll = 7 then s.runKset sigs else s.giveAll k sigs (sigs.filter (·.contrib))
/-- The signers a phase wakes. -/
def State.woken (s : State) (c h : Nat) : List Nat :=
  ((s.phase c h).sigs.filter (fun g => g.contrib && !g.gone && (s.strand g.x).life == .signed)).map (·.x)
theorem runResult_eq {s : State} {c h : Nat} {k : OpKind} (hk : (s.phase c h).kind = some k) :
    s.runResult c h = ((s.results c h k).wakeAll (s.woken c h)).endPhase c h := by
  unfold State.runResult
  dsimp only
  rw [hk]
  rfl
theorem mem_woken (s : State) (c h y : Nat) : y ∈ s.woken c h ↔
    ∃ g ∈ (s.phase c h).sigs, g.contrib = true ∧ g.gone = false ∧ (s.strand y).life = .signed ∧ g.x = y := by
  unfold State.woken
  simp only [List.mem_map, List.mem_filter, Bool.and_eq_true, Bool.not_eq_true', beq_iff_eq]
  constructor
  · rintro ⟨g, ⟨h1, ⟨h2, h3⟩, h4⟩, rfl⟩
    exact ⟨g, h1, h2, h3, h4, rfl⟩
  · rintro ⟨g, h1, h2, h3, h4, rfl⟩
    exact ⟨g, ⟨h1, ⟨h2, h3⟩, h4⟩, rfl⟩

theorem modCrew_phase (s : State) (q : Nat) {g : Crew → Crew} (hg : ∀ v, (g v).h0 = v.h0) (c h : Nat) : (s.modCrew q g).phase c h = s.phase c h := by
  unfold State.phase
  split
  · rw [crew_modCrew]
    split
    · rename_i e
      rw [hg, e]
    · rfl
  · rfl
theorem runKset_phase (s : State) (gs : List Sig) (c h : Nat) : (s.runKset gs).phase c h = s.phase c h := by
  unfold State.runKset
  split
  · exact modCrew_phase s _ (fun _ => by exact rfl) c h
  · rfl
theorem giveAll_phase (s : State) (k : OpKind) (sigs gs : List Sig) (c h : Nat) : (s.giveAll k sigs gs).phase c h = s.phase c h := by
  have hr := giveAll_rest s k sigs gs
  have hc := congrArg State.crews hr
  have ht := congrArg State.troops hr
  exact phase_congr hc ht c h
theorem results_phase (s : State) (c h : Nat) (k : OpKind) : (s.results c h k).phase c h = s.phase c h := by
  unfold State.results
  dsimp only
  split
  · exact runKset_phase ..
  · exact giveAll_phase ..
theorem wakeAll_phase (s : State) (xs : List Nat) (c h : Nat) : (s.wakeAll xs).phase c h = s.phase c h := by
  have hr := wakeAll_rest s xs
  have hc := congrArg State.crews hr
  have ht := congrArg State.troops hr
  exact phase_congr hc ht c h
theorem runKset_same (s : State) (gs : List Sig) : SameBytes s (s.runKset gs) := by
  unfold State.runKset
  split
  · exact SameBytes.of_eq rfl
  · exact SameBytes.refl s
theorem results_same (s : State) (c h : Nat) (k : OpKind) : SameBytes s (s.results c h k) := by
  unfold State.results
  dsimp only
  split
  · exact runKset_same ..
  · have hr := giveAll_rest s k (s.phase c h).sigs ((s.phase c h).sigs.filter (·.contrib))
    exact SameBytes.of_eq (congrArg (fun u : State => { u with crews := s.crews, units := s.units, cores := s.cores }) hr)
theorem wakeAll_same (s : State) (xs : List Nat) : SameBytes s (s.wakeAll xs) :=
  SameBytes.of_eq (congrArg (fun u : State => { u with crews := s.crews, cores := s.cores }) (wakeAll_rest s xs))
theorem endPhase_k (s : State) (c h q : Nat) : ((s.endPhase c h).crew q).k = (s.crew q).k := by
  unfold State.endPhase State.modPhase
  dsimp only
  split
  · rw [crew_modCrew]
    split
    · rename_i e
      exact e ▸ rfl
    · rfl
  · rfl
theorem wakeAll_crew (s : State) (xs : List Nat) (q : Nat) : (s.wakeAll xs).crew q = s.crew q := by
  have hc := congrArg State.crews (wakeAll_rest s xs)
  exact congrArg (fun m => sget m ({} : Crew) q) hc
theorem endPhase_strand (s : State) (c h y : Nat) : (s.endPhase c h).strand y = s.strand y :=
  congrArg (fun m => sget m ({} : Strand) y) (endPhase_strands s c h)
/-- A strand after a phase of results: as the results leave it, Eligible where it was woken. -/
theorem runResult_strand {s : State} {c h : Nat} {k : OpKind} (hk : (s.phase c h).kind = some k) (y : Nat) : if y ∈ s.woken c h then
      ∃ n, (s.runResult c h).strand y = { (s.results c h k).strand y with life := .eligible, stamp := n, wait := .none }
    else (s.runResult c h).strand y = (s.results c h k).strand y := by
  rw [runResult_eq hk, endPhase_strand]
  exact wakeAll_strand _ _ y
/-- Its registers and predicates are those the results leave. -/
theorem runResult_file {s : State} {c h : Nat} {k : OpKind} (hk : (s.phase c h).kind = some k) (y : Nat) :
    ((s.runResult c h).strand y).regs = ((s.results c h k).strand y).regs ∧ ((s.runResult c h).strand y).preds = ((s.results c h k).strand y).preds := by
  have h := runResult_strand hk y
  split at h
  · obtain ⟨n, hn⟩ := h
    rw [hn]
    exact ⟨rfl, rfl⟩
  · rw [h]
    exact ⟨rfl, rfl⟩
theorem given_none (t : Strand) (ds : List Nat) (pd : Nat) : t.given ds pd ([], none) = t := by
  unfold Strand.given
  rw [List.zip_nil_right]
  rfl
theorem giveAll_barrier {k : OpKind} (h6 : k.coll = 6) (sigs gs : List Sig) (s : State) (y : Nat) : (s.giveAll k sigs gs).strand y = s.strand y := by
  have hcr (g : Sig) : collResult k sigs g = ([], none) := by
    unfold collResult
    simp only [h6]
  induction gs generalizing s with
  | nil => rfl
  | cons g gs ih =>
    refine (ih _).trans ?_
    rw [giveResult_strand, hcr, given_none]
    split
    · rename_i e
      rw [e]
    · rfl
theorem runKset_k {s : State} {gs : List Sig} (hp : gs.Pairwise (fun a b => a.x ≠ b.x)) {g : Sig} (hg : g ∈ gs) (hc : g.contrib = true)
    (hl : ∀ q ∈ gs, q.contrib = true → q.x ≠ g.x → laneOf g.x < laneOf q.x) (n : Nat) : sget ((s.runKset gs).crew (crewOf g.x)).k 0 n
      = if n = g.dsts.getD 0 0 then sigVal g else sget (s.crew (crewOf g.x)).k 0 n := by
  have hm : g ∈ gs.filter (·.contrib) := List.mem_filter.mpr ⟨hg, hc⟩
  obtain ⟨a, ha⟩ := leastBy_of_mem (fun g : Sig => laneOf g.x) hm
  obtain ⟨ham, hal⟩ := leastBy_least ha
  obtain ⟨ham, hac⟩ := List.mem_filter.mp ham
  have hx : a.x = g.x := by
    by_contra hne
    exact Nat.lt_irrefl _ (Nat.lt_of_lt_of_le (hl a ham hac hne) (hal g hm))
  obtain rfl := List.inj_on_of_nodup_map (f := Sig.x) (List.pairwise_map.mpr hp) ham hg hx
  rw [State.runKset, ha]
  dsimp only
  rw [crew_modCrew, if_pos rfl, sget_sset]

/-- Settles O16: the results go to the signers, the signers wake, and the phase ends (`runResult_eq`). -/
theorem phaseExecutes : Obligations.PhaseExecutes := by
  intro s c h k hk hcoll hins hready t
  have ht : t = s.runResult c h := tryPhase_result hk hcoll hins hready
  have hphase : t.phase c h = { parity := !(s.phase c h).parity, kind := none, sigs := [] } := by
    rw [ht, runResult_eq hk, phase_endPhase, wakeAll_phase, results_phase]
  have hfile (y : Nat) := runResult_file hk y
  rw [← ht] at hfile
  refine ⟨by rw [hphase], by rw [hphase], by rw [hphase], fun g hg hgc hgg hgl => ?_, ?_, ?_⟩
  · have hy := runResult_strand hk g.x
    rw [if_pos ((mem_woken s c h g.x).mpr ⟨g, hg, hgc, hgg, hgl, rfl⟩), ← ht] at hy
    obtain ⟨n, hn⟩ := hy
    rw [hn]
  · rw [ht, runResult_eq hk]
    exact ((results_same s c h k).trans (wakeAll_same ..)).trans (endPhase_same ..)
  · intro sigs hp
    refine ⟨fun h7 g hg hgc => ?_, fun h7 g hg hgc hl n => ?_, fun h67 y => ?_, fun y hy => ?_⟩
    · have hgm : g ∈ sigs.filter (·.contrib) := List.mem_filter.mpr ⟨hg, hgc⟩
      have hres : (s.results c h k).strand g.x = (s.strand g.x).given g.dsts g.pdst (collResult k sigs g) := by
        unfold State.results
        rw [if_neg h7]
        exact giveAll_signer k sigs _ s (hp.filter _) hgm
      obtain ⟨hregs, hpreds⟩ := hfile g.x
      rw [hres] at hregs hpreds
      refine ⟨fun q => ?_, fun p => ?_⟩
      · exact (congrArg (fun m => sget m 0 q) hregs).trans (given_regs ..)
      · exact (prd_congr hpreds _).trans (given_prd ..)
    · rw [ht, runResult_eq hk, endPhase_k, wakeAll_crew, State.results, if_pos h7]
      exact runKset_k hp hg hgc hl n
    · have hres : (s.results c h k).strand y = s.strand y := by
        unfold State.results
        dsimp only
        split
        · exact congrArg (fun m => sget m ({} : Strand) y) (runKset_strands ..)
        · exact giveAll_barrier (h67.resolve_right ‹_›) ..
      obtain ⟨hregs, hpreds⟩ := hfile y
      rw [hres] at hregs hpreds
      exact ⟨fun q => congrArg (fun m => sget m 0 q) hregs, hpreds⟩
    · have hn : y ∉ s.woken c h := by
        rintro hm
        obtain ⟨g, hg, hgc, -, -, hgx⟩ := (mem_woken s c h y).mp hm
        exact hy g hg hgc hgx
      have h := runResult_strand hk y
      rw [if_neg hn, ← ht] at h
      refine h.trans ?_
      unfold State.results
      dsimp only
      split
      · exact congrArg (fun m => sget m ({} : Strand) y) (runKset_strands ..)
      · exact giveAll_other k sigs _ s (fun g hg => hy g (List.mem_filter.mp hg).1 (List.mem_filter.mp hg).2)
end Sys2Proof.Machine
end

section
namespace Sys2Proof.Machine

/-! ## What a collective finds after its reads -/

section
variable {s t : State} {ws : List (Nat × Word)} {ps : List (PReg × Bool)} (h : Track s t ws ps)
include h

theorem Track.h0 (c : Nat) : (t.crew c).h0 = (s.crew c).h0 := by
  have q := congrArg Crew.h0 (h.2.2.2.2.1 c)
  exact q
theorem Track.phase (c n : Nat) : t.phase c n = s.phase c n := by
  unfold State.phase State.hitch State.troop
  rw [h.h0, h.troops]
theorem Track.signBad (n : Nat) (k : OpKind) : t.signBad n k = s.signBad n k := by
  unfold State.signBad
  rw [h.phase, h.x]
end
/-- Reading registers ends no strand and begins none. -/
theorem readAcquire_alive (s : State) (rs : List Nat) (y : Nat) : (s.readAcquire rs).alive y = s.alive y := by
  have hmod (g : Strand → Strand) (hg : ∀ v, (g v).life = v.life) (h : (sfind s.strands s.x).isSome = true) : (s.modMe g).alive y = s.alive y := by
    unfold State.alive
    by_cases e : s.x = y
    · subst e
      obtain ⟨v, hv⟩ := Option.isSome_iff_exists.mp h
      have hf : sfind (s.modMe g).strands s.x = some (g v) := by
        rw [← show s.myStrand = v from (congrArg (fun o => Option.getD o ({} : Strand)) hv)]
        exact sfind_sput_self ..
      rw [hf, hv]
      exact congrArg (fun l => l != Life.exited) (hg v)
    · have hf : sfind (s.modMe g).strands y = sfind s.strands y := sfind_sput_ne _ _ e
      rw [hf]
  unfold State.readAcquire
  split
  · rename_i hany
    refine hmod (fun t => { t with putAcq := rs.foldl clrBit t.putAcq }) (fun _ => rfl) ?_
    by_contra hn
    have hme : s.myStrand = {} := by
      unfold State.myStrand State.strand sget
      rw [Option.not_isSome_iff_eq_none.mp hn]
      rfl
    rw [hme] at hany
    simp at hany
  · rfl
theorem readAcquire_uniform (s : State) (rs : List Nat) (n : Nat) : (s.readAcquire rs).uniform n = s.uniform n := by
  have h := Track.readAcquire s rs
  have ha := funext (readAcquire_alive s rs)
  unfold State.uniform State.hitch State.troop State.liveLanes
  rw [h.troops, h.x, ha]

/-! ## A ready collective (R30, R31, R131) -/

theorem checked_ready {s : State} {f : Fr} {c : Chk} (h : s.ready f c = true) (body : State → State) :
    s.checked f c body = body (s.readAcquire c.srcs) := by
  obtain ⟨hg, -⟩ := (ready_iff ..).mp h
  exact (if_pos hg).symm.trans (issue_ready h body)

section
variable {i : Instr} {s : State} {f : Fr} {h : Nat} {k : OpKind} {c : Chk} {pre : State → Option Trap} {rdy : State → Bool} {mk : State → Sig}
  (hx : exec i s = .next (s.collective f h 5 k c pre rdy mk))
  (hr : s.ready f { c with ops := c.ops ++ [(s.declared h, 5)] } = true)
  (hheld : (s.readAcquire c.srcs).signHeld h = false) (hbad : s.signBad h k = none)
include hx hr hheld hbad

theorem collective_ready (hpre : pre (s.readAcquire c.srcs) = none) : exec i s = .next (if rdy (s.readAcquire c.srcs)
    then (s.readAcquire c.srcs).signResult f h k (mk (s.readAcquire c.srcs)) else (s.readAcquire c.srcs).park .retry) := by
  obtain ⟨hg, -⟩ := (ready_iff ..).mp hr
  have hb : (s.readAcquire c.srcs).signBad h k = none := ((Track.readAcquire s c.srcs).signBad h k).trans hbad
  rw [hx, State.collective, hg, Bool.not_true, if_neg Bool.false_ne_true, checked_ready hr]
  dsimp only
  rw [hpre, hheld, if_neg Bool.false_ne_true, hb]
/-- It signs, with what its registers hold. -/
theorem collective_signs (hpre : pre (s.readAcquire c.srcs) = none) (hrdy : rdy (s.readAcquire c.srcs) = true) {m : Sig}
    (hm : mk (s.readAcquire c.srcs) = m) : exec i s = .next ((s.readAcquire c.srcs).signResult f h k m) := by
  rw [collective_ready hx hr hheld hbad hpre, if_pos hrdy, hm]
/-- It waits. -/
theorem collective_waits (hpre : pre (s.readAcquire c.srcs) = none) (hrdy : rdy (s.readAcquire c.srcs) = false) :
    exec i s = .next ((s.readAcquire c.srcs).park .retry) := by
  rw [collective_ready hx hr hheld hbad hpre, hrdy, if_neg Bool.false_ne_true]
end

/-! ## Signing -/

theorem sign_phase (s : State) (h : Nat) (g : Sig) (k : OpKind) (hc : g.contrib = true) : (s.sign h g k).phase (crewOf s.x) h
    = { s.phase (crewOf s.x) h with sigs := (s.phase (crewOf s.x) h).sigs ++ [{ g with key := s.signKey }],
                                    kind := some ((s.phase (crewOf s.x) h).kind.getD k) } := by
  unfold State.sign
  rw [phase_modPhase, if_pos hc]
  cases (s.phase (crewOf s.x) h).kind <;> rfl
theorem signKey_of_not_det {s : State} (h : s.myLaunch.det = false) : s.signKey = 0 := by
  unfold State.signKey
  rw [h]
  rfl
/-- Where a signature of a result-returning collective leaves its strand, before its phase is tried. -/
def State.signed (s : State) (f : Fr) : State := ((s.advance f.len).retire).modMe (fun v => { v with life := .signed, wait := .none })
theorem signed_cur (s : State) (f : Fr) : (s.signed f).cur = s.cur := (retire_cur _).trans (advance_cur ..)
theorem signed_elsewhere (s : State) (f : Fr) : Elsewhere s (s.signed f) := by
  have hc : (s.advance f.len).retire.cur = s.cur := (retire_cur _).trans (advance_cur ..)
  have h := ((Elsewhere.refl s).advance rfl f.len).retire (advance_cur ..)
  have hx : (s.advance f.len).retire.x = s.x := congrArg Cur.strand hc
  unfold State.signed State.modMe
  rw [hx]
  exact h.strand _
theorem signed_strand (s : State) (f : Fr) : ∃ q, (s.signed f).strand s.x = { s.myStrand with
    refused := none, latch := none, xl := [], pc := (s.nextPc f).1, step := (s.nextPc f).2, fetched := q, team := none, life := .signed,
    wait := .none } := by
  have hx : (s.advance f.len).x = s.x := congrArg Cur.strand (advance_cur s f.len)
  have hx2 : (s.advance f.len).retire.x = s.x := (congrArg Cur.strand (retire_cur _)).trans hx
  obtain ⟨q, hq⟩ := advance_strand s f
  have hr := retire_strand (s.advance f.len)
  rw [State.myStrand, hx, hq] at hr
  refine ⟨q, ?_⟩
  rw [State.signed, strand_modMe, hx2, if_pos rfl, State.myStrand, hx2, hr]
theorem sign_strand (s : State) (h : Nat) (g : Sig) (k : OpKind) (y : Nat) : (s.sign h g k).strand y = s.strand y :=
  congrArg (fun m => sget m ({} : Strand) y) (modPhase_strands ..)
theorem sign_same (s : State) (h : Nat) (g : Sig) (k : OpKind) : SameBytes s (s.sign h g k) := modPhase_same ..
/-- While its phase lacks participants, a signature is all that happens. -/
theorem signResult_incomplete {s : State} {f : Fr} {h : Nat} {k : OpKind} {g : Sig}
    (hr : ((s.signed f).sign h g k).phaseReady (crewOf s.x) h = false) : s.signResult f h k g = (s.signed f).sign h g k := by
  have hx : (s.signed f).x = s.x := congrArg Cur.strand (signed_cur s f)
  show ((s.signed f).sign h g k).tryPhase (crewOf (s.signed f).x) h = _
  rw [hx, State.tryPhase, hr]
  rfl

section
variable {s t : State} (h : Elsewhere s t)
include h

theorem Elsewhere.troops : t.troops = s.troops := by
  obtain ⟨-, -, -, -, -, hr, -⟩ := h
  have q := congrArg State.troops hr
  exact q
theorem Elsewhere.launches : t.launches = s.launches := by
  obtain ⟨-, -, -, -, -, hr, -⟩ := h
  have q := congrArg State.launches hr
  exact q
theorem Elsewhere.phase (c n : Nat) : t.phase c n = s.phase c n := by
  obtain ⟨-, hc, -⟩ := id h
  have q : (t.crew c).h0 = (s.crew c).h0 := by
    have q := congrArg Crew.h0 (hc c)
    exact q
  unfold State.phase State.hitch State.troop
  rw [q, h.troops]
end

/-- A strand whose registers and predicates stand as they did. -/
theorem RegFile.of_file {s t : State} (h1 : (t.strand s.x).regs = s.myStrand.regs) (h2 : (t.strand s.x).fill = s.myStrand.fill)
    (h3 : (t.strand s.x).pend = s.myStrand.pend) (h4 : (t.strand s.x).bad = s.myStrand.bad) (h5 : (t.strand s.x).preds = s.myStrand.preds) :
    RegFile s t [] [] := by
  refine ⟨fun r => congrArg (fun m => sget m 0 r) h1, fun r => ?_, fun r => ?_, fun r => ?_, fun p => prd_congr h5 _⟩
  · simp [h2]
  · simp [h3]
  · simp [h4]

/-- Settles O15: a ready collective signs with what its registers hold (`collective_signs`). -/
theorem collectivesSign : Obligations.CollectivesSign := by
  refine ⟨fun g x w d a h s => ?_, fun s f h k g hc hgx hh => ?_⟩
  · intro signs n f fb sig
    have hnt (u : State) : noTrap u = none := rfl
    have go {i : Instr} {f : Fr} {c : Chk} {h : Nat} {k : OpKind} {mk : State → Sig} {m : Sig}
        (hx : exec i s = .next (s.collective f h 5 k c noTrap noWait mk)) (hm : ∀ u, Track s u [] [] → mk u = m) : signs i f c h k m :=
      fun hr hheld hbad => collective_signs hx hr hheld hbad rfl rfl (hm _ (Track.readAcquire s c.srcs))
    refine ⟨fun b => ?_, fun op b pv => ?_, fun m ps pd => ?_, fun op => ?_, fun b64 all pd => ?_, fun hsq hl => ?_, fun hw => ?_, fun k v hu => ?_, ?_⟩
    · have hm (u : State) (hu : Track s u [] []) : ({ x := u.x, contrib := true, vals := [u.rd a.toNat, u.bsrc b], dsts := [d.toNat] } : Sig)
          = { sig with vals := [s.rd a.toNat, s.bsrc b], dsts := [d.toNat] } := by rw [hu.x, hu.rd, hu.bsrc]
      exact ⟨go rfl hm, go rfl hm, go rfl hm, go rfl hm⟩
    · cases op <;> exact go rfl (fun u hu => by rw [hu.x, hu.rd, hu.xsrc])
    · have hm (pd : PReg) (u : State) (hu : Track s u [] []) : voteSig d ps pd u = { sig with dsts := [d.toNat], preds := [s.pr ps], pdst := pd.toNat } := by
        rw [voteSig, hu.x, hu.pr]
      exact ⟨go rfl (hm 7), go rfl (hm pd)⟩
    · have hm (u : State) (hu : Track s u [] []) : unSig d a u = { sig with vals := [s.rd a.toNat], dsts := [d.toNat] } := by
        rw [unSig, hu.x, hu.rd]
      exact ⟨go rfl hm, go rfl hm, fun ex => go rfl hm⟩
    · refine go rfl (fun u hu => ?_)
      cases b64
      · show ({ x := u.x, contrib := true, vals := [u.rd a.toNat], dsts := [d.toNat], pdst := pd.toNat } : Sig) = _
        rw [hu.x, hu.rd]
        rfl
      · show ({ x := u.x, contrib := true, vals := [u.rd a.toNat, u.rd (a.toNat + 1)], dsts := [d.toNat], pdst := pd.toNat } : Sig) = _
        rw [hu.x, hu.rd, hu.rd]
        rfl
    · have hout : s.storesOut = true := by
        unfold State.storesOut
        rw [hsq, hl]
        rfl
      exact ⟨fun hr hheld hbad => collective_signs (c := {}) (mk := barSig) rfl hr hheld hbad (hnt s) hout rfl,
        fun hr hheld hbad => collective_signs (c := {}) (mk := barSig) rfl hr hheld hbad (hnt s) hout rfl⟩
    · have hout : s.storesOut = false := by
        unfold State.storesOut
        rcases hw with hw | hw
        · rw [List.isEmpty_eq_false_iff.mpr hw]
          rfl
        · rw [hw, Bool.and_false]
      refine ⟨fun hr hbad => ?_, fun hr hheld hbad => collective_waits (c := {}) (mk := barSig) rfl hr hheld hbad (hnt s) hout⟩
      obtain ⟨h1, h2, -, h4, h5, h6, h7⟩ := (ready_iff ..).mp hr
      exact collective_waits (c := {}) (mk := barSig) rfl ((ready_iff ..).mpr ⟨h1, h2, rfl, h4, h5, h6, h7⟩) rfl hbad (hnt s) hout
    · intro hr hheld hbad
      have ht := Track.readAcquire s (xsrcRegs v)
      refine collective_signs (c := { ops := [(decide (k.toNat < 32), 1), (xsrcOk v, 5)], srcs := xsrcRegs v }) (rdy := noWait)
        (mk := fun s => { x := s.x, contrib := true, vals := [s.xsrc v], dsts := [k.toNat] }) rfl hr hheld hbad
        (if_pos ((readAcquire_uniform ..).trans hu)) rfl ?_
      dsimp only
      rw [ht.x, ht.xsrc]
    · exact go rfl (fun u hu => by rw [hu.x])
  · intro p t s1
    refine ⟨fun hr => ?_, fun hd => ?_, fun hn o ho hne => ?_, fun hn ho => ?_⟩
    · have ht : t = (s.signed f).sign h g k := signResult_incomplete hr
      have hx : (s.signed f).x = s.x := congrArg Cur.strand (signed_cur s f)
      have he := signed_elsewhere s f
      have hp := sign_phase (s.signed f) h g k hc
      rw [hx, he.phase, ← ht] at hp
      obtain ⟨q, hq⟩ := signed_strand s f
      have hst (y : Nat) : t.strand y = (s.signed f).strand y := by rw [ht, sign_strand]
      refine ⟨⟨_, by rw [hp], fun hdet => signKey_of_not_det ?_⟩, by rw [hp], by rw [hp], ?_, ?_, ?_, ?_, fun y hy => ?_⟩
      · rw [← hdet]
        simp only [State.myLaunch, State.launchOf, State.troop, he.troops, he.launches, hx]
      · rw [hst, hq]
      · rw [hst, hq]
      · exact RegFile.of_file (by rw [hst, hq]) (by rw [hst, hq]) (by rw [hst, hq]) (by rw [hst, hq]) (by rw [hst, hq])
      · rw [ht]
        obtain ⟨-, -, -, -, -, -, hb⟩ := he
        exact hb.trans (sign_same ..)
      · rw [hst]
        exact he.1 y hy
    · exact if_pos hd
    · unfold State.signBad
      rw [if_neg (by rw [hn]; decide)]
      rw [ho]
      exact if_neg hne
    · unfold State.signBad
      rw [if_neg (by rw [hn]; decide)]
      rcases ho with ho | ho
      · rw [ho]
      · rw [ho]
        exact if_pos rfl
end Sys2Proof.Machine
end

section
namespace Sys2Proof.Machine

/-! ## TL and the token of a tile signature (R171, R346) -/

theorem tokAttach_rest (s : State) (c : Nat) (w : Option (BitVec 4)) : { s.tokAttach c w with strands := s.strands, crews := s.crews } = s := by
  have hall (l : List Nat) (b : Nat) (t : State) (h : { t with strands := s.strands, crews := s.crews } = s) :
      { l.foldl (fun s x => s.modStrand x (fun t => { t with nakMarks := clrBit t.nakMarks b })) t with strands := s.strands, crews := s.crews } = s := by
    induction l generalizing t with
    | nil => exact h
    | cons x l ih => exact ih _ h
  unfold State.tokAttach
  split
  · rfl
  · dsimp only
    split
    · exact hall _ _ _ rfl
    · rfl
theorem tokAttach_strand (s : State) (c : Nat) (w : Option (BitVec 4)) (y : Nat) : ∃ m, (s.tokAttach c w).strand y = { s.strand y with nakMarks := m } := by
  have hall (l : List Nat) (b : Nat) (t : State) (h : ∃ m, t.strand y = { s.strand y with nakMarks := m }) :
      ∃ m, (l.foldl (fun s x => s.modStrand x (fun t => { t with nakMarks := clrBit t.nakMarks b })) t).strand y = { s.strand y with nakMarks := m } := by
    induction l generalizing t with
    | nil => exact h
    | cons x l ih =>
      refine ih _ ?_
      rw [strand_modStrand]
      split
      · rename_i e
        obtain ⟨m, hm⟩ := h
        rw [← e, hm]
        exact ⟨_, rfl⟩
      · exact h
  unfold State.tokAttach
  split
  · exact ⟨_, rfl⟩
  · dsimp only
    split
    · exact hall _ _ _ ⟨_, rfl⟩
    · exact ⟨_, rfl⟩
/-- An attached token is its crew's; the crew keeps the rest. -/
theorem tokAttach_crew (s : State) (c : Nat) (w : Option (BitVec 4)) (q : Nat) : ∃ m, (s.tokAttach c w).crew q = { s.crew q with toks := m } := by
  have hset (b : Nat) (v : Token) : ∃ m, (s.setToken c b v).crew q = { s.crew q with toks := m } := by
    unfold State.setToken
    rw [crew_modCrew]
    split
    · rename_i e
      exact e ▸ ⟨_, rfl⟩
    · exact ⟨_, rfl⟩
  have hall (l : List Nat) (b : Nat) (t : State) : (l.foldl (fun s x => s.modStrand x (fun t => { t with nakMarks := clrBit t.nakMarks b })) t).crew q = t.crew q := by
    induction l generalizing t with
    | nil => rfl
    | cons x l ih => exact ih _
  unfold State.tokAttach
  split
  · exact ⟨_, rfl⟩
  · dsimp only
    split
    · rw [hall]
      exact hset ..
    · exact hset ..
/-- The first contributing signature of a crew counts in TL; the crew's own phase stays. -/
theorem tileAttach_crew (s : State) (t : XT) (h q : Nat) : ((s.tileAttach t h).crew q).h0 = (s.crew q).h0
    ∧ ((s.tileAttach t h).crew (crewOf s.x)).tl
      = s.myCrew.tl + (if (s.phase (crewOf s.x) h).sigs.any (fun q => q.contrib && crewOf q.x == crewOf s.x) then 0 else 1) := by
  unfold State.tileAttach
  dsimp only
  split
  · exact ⟨rfl, rfl⟩
  · obtain ⟨m, hm⟩ := tokAttach_crew (s.incCls (crewOf s.x) .tl) (crewOf s.x) t.tok q
    obtain ⟨n, hn⟩ := tokAttach_crew (s.incCls (crewOf s.x) .tl) (crewOf s.x) t.tok (crewOf s.x)
    rw [hm, hn]
    unfold State.incCls
    refine ⟨?_, ?_⟩
    · rw [crew_modCrew]
      split
      · rename_i e
        exact e ▸ rfl
      · rfl
    · rw [crew_modCrew, if_pos rfl]
      rfl
theorem tileAttach_rest (s : State) (t : XT) (h : Nat) : { s.tileAttach t h with strands := s.strands, crews := s.crews } = s := by
  unfold State.tileAttach
  dsimp only
  split
  · rfl
  · have hr := tokAttach_rest (s.incCls (crewOf s.x) .tl) (crewOf s.x) t.tok
    exact congrArg (fun u : State => { u with strands := s.strands, crews := s.crews }) hr
theorem tileAttach_strand (s : State) (t : XT) (h y : Nat) : ∃ m, (s.tileAttach t h).strand y = { s.strand y with nakMarks := m } := by
  unfold State.tileAttach
  dsimp only
  split
  · exact ⟨_, rfl⟩
  · exact tokAttach_strand (s.incCls (crewOf s.x) .tl) (crewOf s.x) t.tok y

/-! ## The signature of a tile instruction -/

/-- What a tile signature does before its strand goes on: TL, its token, and its destinations pending. -/
def State.tilePend (s : State) (t : XT) (h : Nat) (ds : List Nat) : State :=
  (s.tileAttach t h).modMe (fun v => { v with pend := ds.foldl setBit v.pend })
theorem tilePend_rest (s : State) (t : XT) (h : Nat) (ds : List Nat) : { s.tilePend t h ds with strands := s.strands, crews := s.crews } = s :=
  tileAttach_rest s t h
theorem tilePend_cur (s : State) (t : XT) (h : Nat) (ds : List Nat) : (s.tilePend t h ds).cur = s.cur := by
  have q := congrArg State.cur (tilePend_rest s t h ds)
  exact q
theorem tilePend_strand (s : State) (t : XT) (h : Nat) (ds : List Nat) : ∃ m, (s.tilePend t h ds).strand s.x
    = { s.myStrand with nakMarks := m, pend := ds.foldl setBit s.myStrand.pend } := by
  have hx : (s.tileAttach t h).x = s.x := congrArg Cur.strand (tilePend_cur s t h ds)
  obtain ⟨m, hm⟩ := tileAttach_strand s t h s.x
  refine ⟨m, ?_⟩
  rw [State.tilePend, strand_modMe, hx, if_pos rfl, State.myStrand, hx, hm]
  rfl
theorem tilePend_same (s : State) (t : XT) (h : Nat) (ds : List Nat) : SameBytes s (s.tilePend t h ds) :=
  SameBytes.of_eq (congrArg (fun u : State => { u with units := s.units, cores := s.cores }) (tilePend_rest s t h ds))
theorem tilePend_phase (s : State) (t : XT) (h : Nat) (ds : List Nat) (c n : Nat) : (s.tilePend t h ds).phase c n = s.phase c n := by
  have ht := congrArg State.troops (tilePend_rest s t h ds)
  have ht : (s.tilePend t h ds).troops = s.troops := ht
  have hc : ((s.tilePend t h ds).crew c).h0 = (s.crew c).h0 := (tileAttach_crew s t h c).1
  unfold State.phase State.hitch State.troop
  rw [hc, ht]
theorem scoreUnqueue_crew (s : State) (x c : Nat) : (s.scoreUnqueue x).crew c = s.crew c := by
  unfold State.scoreUnqueue
  split <;> rfl
theorem scoreUnqueue_phase (s : State) (x c n : Nat) : (s.scoreUnqueue x).phase c n = s.phase c n := by
  unfold State.scoreUnqueue
  split <;> rfl
theorem scoreUnqueue_same (s : State) (x : Nat) : SameBytes s (s.scoreUnqueue x) :=
  SameBytes.of_eq (congrArg (fun u : State => { u with strands := s.strands, crews := s.crews, units := s.units }) (scoreUnqueue_rest s x))
theorem sign_tl (s : State) (h : Nat) (g : Sig) (k : OpKind) (q : Nat) : ((s.sign h g k).crew q).tl = (s.crew q).tl := by
  unfold State.sign State.modPhase
  split
  · rw [crew_modCrew]
    split
    · rename_i e
      exact e ▸ rfl
    · rfl
  · rfl

section
variable {s t : State} (h : Elsewhere s t)
include h

theorem Elsewhere.cur : t.cur = s.cur := by
  obtain ⟨-, -, -, -, -, hr, -⟩ := h
  have q := congrArg State.cur hr
  exact q
theorem Elsewhere.tl (c : Nat) : (t.crew c).tl = (s.crew c).tl := by
  obtain ⟨-, hc, -⟩ := h
  have q := congrArg Crew.tl (hc c)
  exact q
theorem Elsewhere.same : SameBytes s t := by
  obtain ⟨-, -, -, -, -, -, hb⟩ := h
  exact hb
end

/-- A tile signature that leaves its phase incomplete. -/
theorem signTile_incomplete {s : State} {t : XT} {k : OpKind} {g : Sig} (hc : g.contrib = true) (hd : ∀ r ∈ g.dsts, r < 128)
    (hr : (((((s.tilePend t t.h.toNat g.dsts).finish 2).sign t.h.toNat g k).scoreUnqueue s.x).phaseReady (crewOf s.x) t.h.toNat) = false) :
    let h := t.h.toNat
    let c := crewOf s.x
    let p := s.phase c h
    let u := s.signTile t k g
    (∃ n, (u.phase c h).sigs = p.sigs ++ [{ g with key := n }] ∧ (s.myLaunch.det = false → n = 0)) ∧ (u.phase c h).kind = some (p.kind.getD k)
      ∧ (u.crew c).tl = s.myCrew.tl + (if p.sigs.any (fun q => q.contrib && crewOf q.x == c) then 0 else 1)
      ∧ (u.strand s.x).life = .eligible ∧ ((u.strand s.x).pc, (u.strand s.x).step) = s.nextPc ⟨7, false, 2⟩
      ∧ (∀ r, u.rdX s.x r = s.rdX s.x r) ∧ (u.strand s.x).preds = s.myStrand.preds ∧ (u.strand s.x).fill = s.myStrand.fill
      ∧ (∀ r, (u.strand s.x).pend.getLsbD r = (s.myStrand.pend.getLsbD r || g.dsts.contains r)) ∧ SameBytes s u := by
  intro h c p u
  obtain ⟨v, hv⟩ : ∃ v, v = s.tilePend t h g.dsts := ⟨_, rfl⟩
  obtain ⟨w, hw⟩ : ∃ w, w = v.finish 2 := ⟨_, rfl⟩
  have hu : u = (w.sign h g k).scoreUnqueue s.x := by
    rw [hw, hv]
    exact if_neg (Bool.eq_false_iff.mp hr)
  obtain ⟨m, hvs⟩ := tilePend_strand s t h g.dsts
  rw [← hv] at hvs
  have hvc : v.cur = s.cur := hv ▸ tilePend_cur s t h g.dsts
  have hvx : v.x = s.x := congrArg Cur.strand hvc
  obtain ⟨n, q, hws⟩ := finish_strand v ⟨7, false, 2⟩
  rw [← hw, State.myStrand, hvx, hvs] at hws
  obtain ⟨-, -, -, he⟩ := finish_wrote v ⟨7, false, 2⟩
  rw [← hw] at he
  have hwx : w.x = s.x := (congrArg Cur.strand he.cur).trans hvx
  have hus : u.strand s.x = w.strand s.x := by rw [hu, scoreUnqueue_strand, sign_strand]
  have hphase : u.phase c h = { p with sigs := p.sigs ++ [{ g with key := w.signKey }], kind := some (p.kind.getD k) } := by
    have hp : w.phase c h = p := by rw [he.phase, hv, tilePend_phase]
    have h1 := sign_phase w h g k hc
    rw [hwx, hp] at h1
    rw [hu, scoreUnqueue_phase, h1]
  have hlaunch : w.myLaunch = s.myLaunch := by
    have hr := tilePend_rest s t h g.dsts
    have h1 := congrArg State.troops hr
    have h2 := congrArg State.launches hr
    rw [← hv] at h1 h2
    simp only [State.myLaunch, State.launchOf, State.troop, he.troops, he.launches, hwx]
    rw [show v.troops = s.troops from h1, show v.launches = s.launches from h2]
  refine ⟨⟨_, by rw [hphase], fun hdet => signKey_of_not_det (hlaunch ▸ hdet)⟩, by rw [hphase], ?_, ?_, ?_, fun r => ?_, ?_, ?_, fun r => ?_, ?_⟩
  · rw [hu, scoreUnqueue_crew, sign_tl, he.tl, hv]
    exact (tileAttach_crew s t h c).2
  · rw [hus, hws]
  · rw [hus, hws]
    exact nextPc_congr hvc (by rw [hvs]) (by rw [hvs])
  · show sget (u.strand s.x).regs 0 r = sget s.myStrand.regs 0 r
    rw [hus, hws]
  · rw [hus, hws]
  · rw [hus, hws]
  · rw [hus, hws]
    show (g.dsts.foldl setBit s.myStrand.pend).getLsbD r = _
    rw [getLsbD_foldl_setBit]
    by_cases hm : g.dsts.contains r
    · rw [hm, decide_eq_true (hd r (List.contains_iff_mem.mp hm)), Bool.true_and]
    · rw [Bool.eq_false_iff.mpr hm, Bool.and_false]
  · rw [hu]
    exact ((hv ▸ tilePend_same s t h g.dsts).trans he.same).trans ((sign_same ..).trans (scoreUnqueue_same ..))

/-! ## An op joins the tile queue (R169, R170) -/

theorem scoreTile_rest (s : State) (o : TileOp) (alone : Bool) : { s.scoreTile o alone with cores := s.cores } = s := by
  unfold State.scoreTile
  dsimp only
  split <;> rfl
theorem scoreTile_core (s : State) (o : TileOp) (alone : Bool) : ((s.scoreTile o alone).core (coreOfTroop o.troop)).tq = (s.core (coreOfTroop o.troop)).tq
    ∧ ((s.scoreTile o alone).core (coreOfTroop o.troop)).score.length = (s.core (coreOfTroop o.troop)).score.length + (if o.scored then 1 else 0) := by
  unfold State.scoreTile State.scoreAdd
  dsimp only
  split
  · have hcore := core_modCore s (coreOfTroop o.troop) (coreOfTroop o.troop)
    rw [show (scoreEntry o.troop 4 o.opid (tileIvals (s.descAt o.troop alone) (s.shapeAt o.troop alone) (opLeader o) o.sub).1
      (tileIvals (s.descAt o.troop alone) (s.shapeAt o.troop alone) (opLeader o) o.sub).2).troop = o.troop from rfl, hcore, if_pos rfl]
    exact ⟨rfl, List.length_append⟩
  · exact ⟨rfl, rfl⟩
theorem scoreTile_troop (s : State) (o : TileOp) (alone : Bool) (q : Nat) : (s.scoreTile o alone).troop q = s.troop q := by
  unfold State.scoreTile
  dsimp only
  split <;> rfl
theorem scoreTile_same (s : State) (o : TileOp) (alone : Bool) : SameBytes s (s.scoreTile o alone) :=
  SameBytes.of_eq (congrArg (fun u : State => { u with strands := s.strands, crews := s.crews, units := s.units }) (scoreTile_rest s o alone))
/-- No fault and no op is held: the op is queued. -/
theorem joinTile_queues {s : State} {o : TileOp} (h1 : (s.troop o.troop).tfaults = []) (h2 : (s.troop o.troop).theld = []) :
    s.joinTile o false = (s.modTroop o.troop (fun v => { v with opseq := v.opseq + 1 })).modCore (coreOfTroop o.troop)
      (fun k => { k with tq := k.tq ++ [{ o with inserted := false }] }) := by
  unfold State.joinTile
  simp only [h1, h2, List.isEmpty_nil, Bool.not_true, Bool.or_self, Bool.false_and, Bool.false_eq_true, if_false]
/-- Behind a held fault or held ops it waits with them. -/
theorem joinTile_holds {s : State} {o : TileOp} (h : (s.troop o.troop).tfaults ≠ [] ∨ (s.troop o.troop).theld ≠ []) :
    s.joinTile o false = s.modTroop o.troop (fun v => { v with opseq := v.opseq + 1, theld := v.theld ++ [o] }) := by
  have hheld : (!(s.troop o.troop).tfaults.isEmpty || !(s.troop o.troop).theld.isEmpty) = true := by
    rcases h with h | h
    · rw [List.isEmpty_eq_false_iff.mpr h]
      rfl
    · rw [List.isEmpty_eq_false_iff.mpr h, Bool.not_false, Bool.or_true]
  unfold State.joinTile
  simp only [hheld, Bool.not_false, Bool.and_self, if_true]
theorem modTroop_troop (s : State) (k : Nat) (f : Troop → Troop) : (s.modTroop k f).troop k = f (s.troop k) :=
  (troop_modTroop s k k f).trans (if_pos rfl)
theorem modCore_core (s : State) (k : Nat) (f : Core → Core) : (s.modCore k f).core k = f (s.core k) :=
  (core_modCore s k k f).trans (if_pos rfl)
theorem modCore_same (s : State) (k : Nat) (f : Core → Core) : SameBytes s (s.modCore k f) := SameBytes.of_eq rfl

/-- Settles O30: a signature that leaves its phase incomplete counts in its crew and token; the op of a complete phase joins its queue. -/
theorem tileOpsAreQueued : Obligations.TileOpsAreQueued := by
  refine ⟨fun s t k g hc hx hd => ?_, fun s o => ?_⟩
  · intro h c p u hr
    exact signTile_incomplete hc hd hr
  · intro k t
    obtain ⟨hq, hscore⟩ := scoreTile_core s o false
    have hv := scoreTile_troop s o false o.troop
    have hsame := scoreTile_same s o false
    have ht : t = (s.scoreTile o false).joinTile o false := enterTile_eq s o false
    generalize s.scoreTile o false = v at hq hscore hv hsame ht
    by_cases h : (s.troop o.troop).tfaults = [] ∧ (s.troop o.troop).theld = []
    · obtain ⟨h1, h2⟩ := h
      rw [joinTile_queues (hv ▸ h1) (hv ▸ h2)] at ht
      have htroop : t.troop o.troop = { s.troop o.troop with opseq := (s.troop o.troop).opseq + 1 } := by
        rw [ht, ← hv]
        exact modTroop_troop v o.troop (fun v => { v with opseq := v.opseq + 1 })
      have hcore : t.core k = { v.core k with tq := (v.core k).tq ++ [{ o with inserted := false }] } := by
        rw [ht]
        exact modCore_core _ _ _
      refine ⟨by rw [htroop], fun _ _ => ⟨by rw [hcore, hq], by rw [htroop]⟩, fun h => (h.elim (· h1) (· h2)).elim, by rw [hcore, hscore], ?_⟩
      rw [ht]
      refine (hsame.trans (modTroop_same o.troop ?_)).trans (modCore_same _ _ _)
      exact fun _ => ⟨rfl, rfl⟩
    · have h := not_and_or.mp h
      rw [joinTile_holds (hv ▸ h)] at ht
      have htroop : t.troop o.troop = { s.troop o.troop with opseq := (s.troop o.troop).opseq + 1, theld := (s.troop o.troop).theld ++ [o] } := by
        rw [ht, ← hv]
        exact modTroop_troop v o.troop (fun v => { v with opseq := v.opseq + 1, theld := v.theld ++ [o] })
      have hcore : t.core k = v.core k := by
        rw [ht]
        rfl
      refine ⟨by rw [htroop], fun h1 h2 => (h.elim (· h1) (· h2)).elim, fun _ => ⟨by rw [hcore, hq], by rw [htroop]⟩, by rw [hcore, hscore], ?_⟩
      rw [ht]
      refine hsame.trans (modTroop_same o.troop ?_)
      exact fun _ => ⟨rfl, rfl⟩
end Sys2Proof.Machine
end

section
namespace Sys2Proof.Machine

/-! ## What a tile instruction finds after its reads -/

section
variable {s t : State} {ws : List (Nat × Word)} {ps : List (PReg × Bool)} (h : Track s t ws ps)
include h

theorem Track.troop (q : Nat) : t.troop q = s.troop q := by
  unfold State.troop
  rw [h.troops]
theorem Track.tq (k : Nat) : (t.core k).tq = (s.core k).tq := by
  have q := congrArg Core.tq (h.2.2.2.2.2.2.2.1 k)
  exact q
theorem Track.tl : t.myCrew.tl = s.myCrew.tl := by
  have q := congrArg Crew.tl (h.2.2.2.2.1 (crewOf s.x))
  rw [State.myCrew, h.x]
  exact q
theorem Track.toks (c : Nat) : (t.crew c).toks = (s.crew c).toks := by
  have q := congrArg Crew.toks (h.2.2.2.2.1 c)
  exact q
theorem Track.dueTl (p : TileFault → Bool) : t.dueTl p = s.dueTl p := by
  unfold State.dueTl State.myTroop
  rw [h.x, h.troop]
theorem Track.firstSigner (n : Nat) : t.firstSigner n = s.firstSigner n := by
  unfold State.firstSigner
  rw [h.x, h.phase]
theorem Track.tokRoom (c : Nat) (w : Option (BitVec 4)) : t.tokRoom c w = s.tokRoom c w := by
  unfold State.tokRoom State.token
  rw [h.toks]
theorem Track.anchorAlone : t.anchorAlone = s.anchorAlone := by
  unfold State.anchorAlone State.troop
  rw [h.troops]
theorem Track.tileAddrBad (n : BitVec 5) (i : Instr) (a : Word) : t.tileAddrBad n i a = s.tileAddrBad n i a := by
  have hd : t.descAt = s.descAt := by
    unfold State.descAt State.tileAhead State.troop
    simp only [h.tq, h.troops]
  have hs : t.shapeAt = s.shapeAt := by
    unfold State.shapeAt State.tileAhead State.troop
    simp only [h.tq, h.troops]
  have hin : t.spmIn = s.spmIn := by
    unfold State.spmIn State.spmSize State.troop
    simp only [h.troops]
  unfold State.tileAddrBad
  rw [h.x, h.phase, h.anchorAlone, hd, hs, hin]
end
theorem Track.tileDescOk {s t : State} {ps : List (PReg × Bool)} (h : Track s t [] ps) (a : Reg) : t.tileDescOk a = s.tileDescOk a := by
  unfold State.tileDescOk State.tileSlot
  rw [h.x, h.troop, h.rd64]
theorem Track.tileAddr {s t : State} {ps : List (PReg × Bool)} (h : Track s t [] ps) (a : Reg) (disp : BitVec 21) : t.tileAddr a disp = s.tileAddr a disp := by
  unfold State.tileAddr
  rw [h.rd]

/-! ## A ready tile instruction signs -/

theorem ready_ops {s : State} {f : Fr} {c : Chk} (h : s.ready f c = true) {ops : List (Bool × Nat)} (ho : ops.all (·.1) = true) :
    s.ready f { c with ops := ops } = true := by
  obtain ⟨h1, h2, -, h4, h5, h6, h7⟩ := (ready_iff ..).mp h
  exact (ready_iff ..).mpr ⟨h1, h2, ho, h4, h5, h6, h7⟩
theorem ready_ops_all {s : State} {f : Fr} {c : Chk} (h : s.ready f c = true) : c.ops.all (·.1) = true := by
  obtain ⟨-, -, ho, -⟩ := (ready_iff ..).mp h
  exact ho
theorem deliverOr_nil (s : State) (f : Fr) (eff : State → State) : s.deliverOr f [] eff = eff s := rfl

theorem engineSign_signs {i j : Instr} {s : State} {t : XT} {coll : Nat} {lo lo' hi : List (Bool × Nat)} {srcs dsts : List Nat}
    {pre : State → Option Trap} {mk : State → Sig} {vals : List Word}
    (hx : exec i s = .next (s.engineSign t j coll lo' hi srcs dsts pre mk))
    (hr : s.ready (extFr t.x false) { role := s.isMatrix, ops := lo ++ [(s.declared t.h.toNat, 4)] ++ hi, srcs := srcs, dsts := dsts } = true)
    (hlo : lo.all (·.1) = true → lo'.all (·.1) = true)
    (hpre : ∀ u, Track s u [] [] → pre u = none)
    (hmk : ∀ u, Track s u [] [] → mk u = { x := s.x, contrib := true, vals := vals, dsts := dsts })
    (hdue : s.dueTl (fun _ => true) = []) (hheld : (s.readAcquire srcs).signHeld t.h.toNat = false)
    (hbad : s.signBad t.h.toNat { coll := coll } = none)
    (hroom : s.firstSigner t.h.toNat = true → s.myCrew.tl < 63 ∧ s.tokRoom (crewOf s.x) t.tok = true)
    (hlast : (s.readAcquire srcs).lastWaits t.h.toNat
      { x := s.x, contrib := true, vals := vals, dsts := dsts, tok := t.tok.map (·.toNat), ins := some j } { coll := coll } = false) :
    exec i s = .next ((s.readAcquire srcs).signTile t { coll := coll }
      { x := s.x, contrib := true, vals := vals, dsts := dsts, tok := t.tok.map (·.toNat), ins := some j }) := by
  have hu := Track.readAcquire s srcs
  have hops : (lo' ++ [(s.declared t.h.toNat, 4)] ++ hi).all (·.1) = true := by
    have h := ready_ops_all hr
    simp only [List.all_append, Bool.and_eq_true] at h ⊢
    exact ⟨⟨hlo h.1.1, h.1.2⟩, h.2⟩
  have hr' := ready_ops hr hops
  obtain ⟨hg, -⟩ := (ready_iff ..).mp hr
  have hnr : ((s.readAcquire srcs).firstSigner t.h.toNat && (decide (63 ≤ (s.readAcquire srcs).myCrew.tl)
      || !(s.readAcquire srcs).tokRoom (crewOf (s.readAcquire srcs).x) t.tok)) = false := by
    rw [hu.firstSigner, hu.tl, hu.x, hu.tokRoom]
    cases hf : s.firstSigner t.h.toNat
    · rfl
    · obtain ⟨h1, h2⟩ := hroom hf
      rw [h2, decide_eq_false (by omega)]
      rfl
  rw [hx, State.engineSign, xtFr, hg, Bool.not_true, if_neg Bool.false_ne_true, checked_ready hr']
  dsimp only
  rw [hpre _ hu, hu.dueTl, hdue, deliverOr_nil, hheld, if_neg Bool.false_ne_true, hu.signBad, hbad]
  dsimp only
  rw [hnr, hmk _ hu, hlast, if_neg Bool.false_ne_true, if_neg Bool.false_ne_true]

theorem tileAddrBad_none {s : State} {n : BitVec 5} {i : Instr} {a : Word} (h : s.tileAddrBad n i a = none) : a.toNat % 32 = 0 := by
  by_contra hne
  rw [State.tileAddrBad, if_pos hne] at h
  nomatch h
/-- The test of an address that has passed `tileAddrBad`. -/
theorem tileAddrOp_ok {s : State} {n : BitVec 5} {i : Instr} {a : Reg} {disp : BitVec 21}
    (h : s.tileAddrBad n i (s.tileAddr a disp) = none) : (s.tileAddrOp a disp).1 = true := by
  have ha : aligned (s.tileAddr a disp).toNat 32 = true := by
    rw [aligned, tileAddrBad_none h]
    rfl
  rw [State.tileAddrOp, ha, Bool.or_true]

/-- Settles O29: a ready tile instruction passes its tests and signs (`engineSign_signs`). -/
theorem tileInstructionsSign : Obligations.TileInstructionsSign := by
  intro t d a b s h signs local_ addr
  have plain {i : Instr} {coll : Nat} {lo hi : List (Bool × Nat)} {srcs dsts : List Nat} {vals : List Word} {mk : State → Sig}
      (hx : exec i s = .next (s.engineSign t i coll lo hi srcs dsts noTrap mk))
      (hm : ∀ u, Track s u [] [] → mk u = sigOf s vals dsts) : signs i coll lo hi srcs dsts none vals :=
    fun hr _ hdue hheld hbad hroom hlast => engineSign_signs hx hr id (fun _ _ => rfl) hm hdue hheld hbad hroom hlast
  have at_ {i : Instr} {coll : Nat} {lo lo' : List (Bool × Nat)} {disp : BitVec 21}
      (hx : exec i s = .next (s.engineSign t i coll lo' [] [a.toNat] [] (fun s => s.tileAddrBad t.h i (s.tileAddr a disp))
        (fun s => sigOf s [s.tileAddr a disp] [])))
      (hlo : (s.tileAddrOp a disp).1 = true → lo.all (·.1) = true → lo'.all (·.1) = true) :
      signs i coll lo [] [a.toNat] [] (local_ i (addr disp)) [addr disp] := by
    intro hr _ _ hok hdue hheld hbad hroom hlast
    refine engineSign_signs hx hr (hlo (tileAddrOp_ok hok)) (fun u hu => ?_) (fun u hu => ?_) hdue hheld hbad hroom hlast
    · rw [hu.tileAddr, hu.tileAddrBad]
      exact hok
    · rw [hu.tileAddr, sigOf, hu.x]
      rfl
  have none_ (u : State) (hu : Track s u [] []) : sigOf u [] [] = sigOf s [] [] := by rw [sigOf, sigOf, hu.x]
  have one (ds : List Nat) (u : State) (hu : Track s u [] []) : sigOf u [u.rd a.toNat] ds = sigOf s [s.rd a.toNat] ds := by
    rw [sigOf, sigOf, hu.x, hu.rd]
  have mma {i : Instr} {coll : Nat} (hx : exec i s = .next (s.mmaSign t i coll d a b)) :
      signs i coll [(s.accOk d, 1), (s.tileFullOk a, 2), (s.tileFullOk b, 3)] [] [] [] none [] := plain hx none_
  refine ⟨?_, ?_, fun cl disp => ⟨?_, ?_, fun sat => ?_, fun fmt z mon => ?_⟩, ?_, fun m n => ?_, ?_, ?_, fun k => ?_, ?_, mma rfl, mma rfl, mma rfl, fun n1 => ?_⟩
  · intro hr u g hok hdue hheld hbad hroom hlast
    have hds : s.tileDescOk a = true := by
      by_contra hne
      nomatch (if_neg hne).symm.trans hok
    refine engineSign_signs rfl hr (fun hlo => ?_) (fun u hu => ?_) (fun u hu => ?_)
      hdue hheld hbad hroom hlast
    · simpa [hds] using hlo
    · exact if_pos ((hu.tileDescOk a).trans hds)
    · show sigOf u [u.rd a.toNat, u.rd (a.toNat + 1)] [] = _
      rw [sigOf, hu.x, hu.rd, hu.rd]
  · exact plain rfl (fun u hu => by rw [sigOf, sigOf, hu.x])
  · exact at_ rfl (fun ha hlo => by simpa [ha] using hlo)
  · exact at_ rfl (fun ha hlo => by simpa [ha] using hlo)
  · exact at_ rfl (fun ha hlo => by simpa [ha] using hlo)
  · exact at_ rfl (fun ha hlo => by simpa [ha] using hlo)
  · exact plain rfl none_
  · exact plain rfl none_
  · exact plain rfl (one [d.toNat])
  · exact plain rfl (fun u hu => by rw [sigOf, sigOf, hu.x, hu.rd, hu.rd])
  · exact plain rfl none_
  · exact plain rfl (one [d.toNat])
  · exact plain rfl none_
end Sys2Proof.Machine
end

section
namespace Sys2Proof.Machine

/-! ## What the engine commands read is not moved by their reads -/

/-- A state in which the engine commands of the strand find what they find in `s`. -/
structure Sees (s u : State) : Prop where
  cur : u.cur = s.cur
  rd : ∀ r, u.rd r = s.rd r
  life : ∀ y, (u.strand y).life = (s.strand y).life
  crew : ∀ c, ∃ a b, u.crew c = { s.crew c with retired := a, counted := b }
  troop : ∀ q, ∃ m, u.troop q = { s.troop q with chans := m }
  core : ∀ k, ∃ l r b, u.core k = { s.core k with l1 := l, reqs := r, bins := b }

theorem Sees.of_track {s u : State} (h : Track s u [] []) : Sees s u := by
  obtain ⟨hcur, -, hme, hy, hcrew, -, -, hcore, hrest, -⟩ := id h
  refine ⟨hcur, h.rd, fun y => ?_, fun c => ⟨(u.crew c).retired, (u.crew c).counted, ?_⟩, fun q => ⟨(s.troop q).chans, h.troop q⟩,
    fun k => ⟨(u.core k).l1, (u.core k).reqs, (u.core k).bins, ?_⟩⟩
  · by_cases e : y = s.x
    · subst e
      have q := congrArg Strand.life hme
      exact q
    · rw [hy y e]
  · rw [← hcrew c]
  · rw [← hcore k]
/-- An access of a channel's bytes marks the channel. -/
theorem chanTouch_troop (s : State) (t a n q : Nat) : ∃ m, (s.chanTouch t a n).troop q = { s.troop q with chans := m } := by
  unfold State.chanTouch
  dsimp only
  split
  · exact ⟨_, rfl⟩
  · rw [troop_modTroop]
    split
    · rename_i e
      exact e ▸ ⟨_, rfl⟩
    · exact ⟨_, rfl⟩
theorem chanTouch_rest (s : State) (t a n : Nat) : { s.chanTouch t a n with troops := s.troops } = s := by
  unfold State.chanTouch
  dsimp only
  split <;> rfl
theorem pbyte_congr {s t : State} (h1 : t.slices = s.slices) (h2 : t.pmem = s.pmem) (a : Nat) : t.pbyte a = s.pbyte a := by
  unfold State.pbyte State.scratchLive State.slice
  rw [h1, h2]
/-- Bytes lie in these tables alone. -/
theorem SameBytes.of_tables {s t : State} (h1 : t.slices = s.slices) (h2 : t.pmem = s.pmem) (h3 : t.hostMem = s.hostMem)
    (h4 : t.troops = s.troops) (h5 : t.ctls = s.ctls) : SameBytes s t := by
  refine ⟨pbyte_congr h1 h2, fun a => ?_, fun q a => ?_, fun q a => ?_, fun c a => ?_⟩
  · rw [h3]
  · rw [State.troop, h4]
    rfl
  · rw [State.troop, h4]
    rfl
  · rw [State.ctl, h5]
    rfl
theorem chanTouch_same (s : State) (t a n : Nat) : SameBytes s (s.chanTouch t a n) := by
  have hr := chanTouch_rest s t a n
  have ht := chanTouch_troop s t a n
  generalize s.chanTouch t a n = u at hr ht
  have hslices := congrArg State.slices hr
  have hpmem := congrArg State.pmem hr
  have hhost := congrArg State.hostMem hr
  have hctls := congrArg State.ctls hr
  refine ⟨fun a => ?_, fun a => congrArg (fun m => mbyte m a) hhost, fun q a => ?_, fun q a => ?_, fun c a => ?_⟩
  · exact pbyte_congr hslices hpmem a
  · obtain ⟨m, hm⟩ := ht q
    rw [hm]
  · obtain ⟨m, hm⟩ := ht q
    rw [hm]
  · exact congrArg (fun m => mbyte (sget m ({} : Ctl) c).sram a) hctls
theorem Sees.chanTouch {s u : State} (h : Sees s u) (t a n : Nat) : Sees s (u.chanTouch t a n) := by
  have hr := chanTouch_rest u t a n
  have ht := chanTouch_troop u t a n
  generalize u.chanTouch t a n = v at hr ht
  have hcur : v.cur = u.cur := (congrArg State.cur hr :)
  have hst : v.strands = u.strands := (congrArg State.strands hr :)
  have hcr : v.crews = u.crews := (congrArg State.crews hr :)
  have hco : v.cores = u.cores := (congrArg State.cores hr :)
  have hstrand (y : Nat) : v.strand y = u.strand y := congrArg (fun m => sget m ({} : Strand) y) hst
  refine ⟨hcur.trans h.cur, fun r => ?_, fun y => ?_, fun c => ?_, fun q => ?_, fun k => ?_⟩
  · rw [← h.rd r]
    unfold State.rd State.rdX State.x
    rw [hcur, hstrand]
  · rw [hstrand]
    exact h.life y
  · rw [show v.crew c = u.crew c from congrArg (fun m => sget m ({} : Crew) c) hcr]
    exact h.crew c
  · obtain ⟨m, hm⟩ := h.troop q
    obtain ⟨n, hn⟩ := ht q
    rw [hn, hm]
    exact ⟨_, rfl⟩
  · rw [show v.core k = u.core k from congrArg (fun m => sget m ({} : Core) k) hco]
    exact h.core k

section
variable {s u : State} (h : Sees s u)
include h

theorem Sees.x : u.x = s.x := congrArg Cur.strand h.cur
theorem Sees.recs : u.myTroop.recs = s.myTroop.recs := by
  obtain ⟨m, hm⟩ := h.troop (troopOf s.x)
  rw [State.myTroop, h.x, hm]
  rfl
theorem Sees.opseq (q : Nat) : (u.troop q).opseq = (s.troop q).opseq := by
  obtain ⟨m, hm⟩ := h.troop q
  rw [hm]
theorem Sees.spm (q : Nat) : (u.troop q).spm = (s.troop q).spm := by
  obtain ⟨m, hm⟩ := h.troop q
  rw [hm]
theorem Sees.sgw (q : Nat) : (u.troop q).sgw = (s.troop q).sgw := by
  obtain ⟨m, hm⟩ := h.troop q
  rw [hm]
theorem Sees.troopRes (q : Nat) : (u.troop q).res = (s.troop q).res ∧ (u.troop q).saving = (s.troop q).saving := by
  obtain ⟨m, hm⟩ := h.troop q
  rw [hm]
  exact ⟨rfl, rfl⟩
theorem Sees.saving (c : Nat) : (u.crew c).saving = (s.crew c).saving := by
  obtain ⟨a, b, hc⟩ := h.crew c
  rw [hc]
theorem Sees.score (k : Nat) : (u.core k).score = (s.core k).score ∧ (u.core k).scoreWait = (s.core k).scoreWait := by
  obtain ⟨l, r, b, hk⟩ := h.core k
  rw [hk]
  exact ⟨rfl, rfl⟩
theorem Sees.queues (k : Nat) : (u.core k).sqe = (s.core k).sqe ∧ (u.core k).xqe = (s.core k).xqe := by
  obtain ⟨l, r, b, hk⟩ := h.core k
  rw [hk]
  exact ⟨rfl, rfl⟩
theorem Sees.en : u.myCrew.en = s.myCrew.en := by
  obtain ⟨a, b, hc⟩ := h.crew (crewOf s.x)
  rw [State.myCrew, h.x, hc]
  rfl
theorem Sees.sq : u.myCrew.sq = s.myCrew.sq := by
  obtain ⟨a, b, hc⟩ := h.crew (crewOf s.x)
  rw [State.myCrew, h.x, hc]
  rfl
theorem Sees.tokRoom (c : Nat) (w : Option (BitVec 4)) : u.tokRoom c w = s.tokRoom c w := by
  obtain ⟨a, b, hc⟩ := h.crew c
  unfold State.tokRoom State.token
  rw [hc]
theorem Sees.cmdRoom (xf : Bool) : u.cmdRoom xf = s.cmdRoom xf := by
  unfold State.cmdRoom State.myCore
  rw [h.x, (h.queues _).1, (h.queues _).2]
theorem Sees.rd64 (r : Nat) : u.rd64 r = s.rd64 r := by
  unfold State.rd64
  rw [h.rd, h.rd]
theorem Sees.coords (a : Reg) : u.coords a = s.coords a := by
  unfold State.coords
  simp only [h.rd64]
theorem Sees.spmSize : u.spmSize = s.spmSize := by
  funext q
  unfold State.spmSize
  rw [h.sgw]
theorem Sees.spmIn : u.spmIn = s.spmIn := by
  unfold State.spmIn
  rw [h.spmSize]
theorem Sees.ringAt : u.ringAt = s.ringAt := by
  funext q off
  unfold State.ringAt
  rw [h.spm]
theorem Sees.ringArea (off : Nat) : u.ringArea off = s.ringArea off := by
  unfold State.ringArea
  rw [h.x, h.ringAt, h.spmIn, h.spmSize]
theorem Sees.ringPcs (ring : Bool) (off : Nat) : u.ringPcs ring off = s.ringPcs ring off := by
  unfold State.ringPcs
  rw [h.ringArea]
theorem Sees.slotSmall (ring : Bool) (off n : Nat) : u.slotSmall ring off n = s.slotSmall ring off n := by
  unfold State.slotSmall
  rw [h.ringArea]
theorem Sees.pcsBad (ps : Pcs) : u.pcsBad ps = s.pcsBad ps := by
  unfold State.pcsBad
  rw [h.x, h.spmIn]
theorem Sees.headerAt (q a : Nat) : u.headerAt q a = s.headerAt q a := by
  unfold State.headerAt
  rw [h.spm]
theorem Sees.packDescOk (d : Dword) : u.packDescOk d = s.packDescOk d := by
  unfold State.packDescOk State.tileSlot
  rw [h.x, h.sgw]
theorem Sees.spmBlocked (q a n : Nat) (w : Bool) : u.spmBlocked q a n w = s.spmBlocked q a n w := by
  have hm (iv : Ival) (e : Score) : u.meetsWr iv e = s.meetsWr iv e := by
    unfold State.meetsWr
    rw [h.ringAt, h.spmSize]
  unfold State.spmBlocked
  simp only [hm, (h.score _).1]
theorem Sees.scoreOpen (q seq : Nat) : u.scoreOpen q seq = s.scoreOpen q seq := by
  unfold State.scoreOpen
  rw [(h.score _).1]
theorem Sees.scoreRoom (q seq x : Nat) : u.scoreRoom q seq x = s.scoreRoom q seq x := by
  have hw : u.scoreWaits = s.scoreWaits := by
    funext y
    unfold State.scoreWaits
    rw [h.life, h.saving, (h.troopRes _).1, (h.troopRes _).2, h.opseq, h.scoreOpen]
  unfold State.scoreRoom
  dsimp only
  rw [(h.score _).1, (h.score _).2, hw, h.scoreOpen]
theorem Sees.streamCheck (k : SKind) (i : Instr) (ring : Bool) (n : Nat) (d a e : Reg) (list : Nat) (mask : BitVec 64) (lw : Nat) :
    u.streamCheck k i ring n d a e list mask lw = s.streamCheck k i ring n d a e list mask lw := by
  unfold State.streamCheck
  simp only [h.recs, h.coords, h.rd, h.pcsBad, h.slotSmall, h.ringPcs, h.x]
theorem Sees.xformCheck (op : XfOp) (i : Instr) (ring : Bool) (n : Nat) (d a b e : Reg) :
    u.xformCheck op i ring n d a b e = s.xformCheck op i ring n d a b e := by
  unfold State.xformCheck
  simp only [h.recs, h.rd, h.rd64, h.pcsBad, h.slotSmall, h.ringPcs, h.x, h.spmIn, h.headerAt, h.packDescOk]
end
end Sys2Proof.Machine
end

section
namespace Sys2Proof.Machine

/-! ## No store of the strand is on its way to the bytes -/

theorem readAcquire_bankOut (s : State) (rs : List Nat) (k : Nat) (t : Target) (a n : Nat) :
    (s.readAcquire rs).bankOut k t a n = s.bankOut k t a n := by
  unfold State.readAcquire
  split
  · unfold State.bankOut State.invL1
    rw [core_modCore]
    split
    · rename_i e
      subst e
      exact (List.any_map ..).trans rfl
    · rfl
  · rfl
/-- A strand without queued stores, none of whose core's requests is on its way to these bytes, reads the bytes. -/
theorem forward_none {s : State} {q a n : Nat} (hsq : s.myCrew.sq = []) (hb : s.bankOut (coreOf s.x) (.spm q) a n = false) :
    s.forward (.spm q) a n = .none := by
  have hq : s.queued (.spm q) a n = .none := by
    unfold State.queued
    rw [hsq]
    rfl
  unfold State.forward
  rw [hq]
  dsimp only
  rw [hb]
  rfl
theorem headerWait_false {s : State} (hsq : s.myCrew.sq = []) (hb : ∀ a n, s.bankOut (coreOf s.x) (.spm (troopOf s.x)) a n = false) (ps : Pcs) :
    s.headerWait ps = false := by
  unfold State.headerWait
  rw [List.any_eq_false]
  intro p hp
  rw [forward_none hsq (hb p.1 p.2)]
  simp

/-! ## A command enters its queue -/

/-- The queue of a command. -/
def engQueue (xf : Bool) (k : Core) : List EngOp := if xf then k.xqe else k.sqe
/-- What a command that enters leaves: EN, the troop's sequence, an entry, and its op at the end of its queue. -/
structure Enters (s t : State) (f : Fr) (xf : Bool) (q : EngOp) : Prop where
  goes : GoesTok s t f
  same : SameBytes s t
  en : (t.crew (crewOf s.x)).en = s.myCrew.en + 1
  opseq : (t.troop (troopOf s.x)).opseq = s.myTroop.opseq + 1
  score : (t.core (coreOf s.x)).score.length = s.myCore.score.length + 1
  queue : engQueue xf (t.core (coreOf s.x)) = engQueue xf s.myCore ++ [q]
theorem RegFile.trans_nil {s u t : State} (h : RegFile s u [] []) (hx : u.x = s.x) (k : RegFile u t [] []) : RegFile s t [] [] := by
  obtain ⟨h1, h2, h3, h4, h5⟩ := h
  obtain ⟨k1, k2, k3, k4, k5⟩ := k
  have hm : u.myStrand = u.strand s.x := congrArg u.strand hx
  rw [hx] at k1 k2 k3 k4 k5
  rw [hm] at k2 k3 k4 k5
  refine ⟨fun r => (k1 r).trans (h1 r), fun r => ?_, fun r => ?_, fun r => ?_, fun p => (k5 p).trans (h5 p)⟩
  · rw [k2, h2]
    simp
  · rw [k3, h3]
    simp
  · rw [k4, h4]
    simp
theorem coreOfTroop_troopOf (x : Nat) : coreOfTroop (troopOf x) = coreOf x := by
  unfold coreOfTroop troopOf coreOf
  rw [Nat.div_div_eq_div_mul]

/-- The strand's crew, with one more op outstanding, and its token. -/
def State.countEngine (s : State) (tok : Option (BitVec 4)) : State :=
  ((s.newId.2.scoreUnqueue s.x).incCls (crewOf s.x) .en).tokAttach (crewOf s.x) tok
theorem countEngine_rest (s : State) (tok : Option (BitVec 4)) :
    { s.countEngine tok with strands := s.strands, crews := s.crews, cores := s.cores, nextId := s.nextId } = s := by
  have h1 := tokAttach_rest ((s.newId.2.scoreUnqueue s.x).incCls (crewOf s.x) .en) (crewOf s.x) tok
  have h2 := scoreUnqueue_rest s.newId.2 s.x
  have h3 := congrArg (fun v : State => { v with strands := s.strands, crews := s.crews, cores := s.cores, nextId := s.nextId }) h1
  exact h3.trans (congrArg (fun v : State => { v with strands := s.strands, crews := s.crews, nextId := s.nextId }) h2)
theorem countEngine_strand (s : State) (tok : Option (BitVec 4)) (y : Nat) : ∃ m, (s.countEngine tok).strand y = { s.strand y with nakMarks := m } := by
  obtain ⟨m, hm⟩ := tokAttach_strand ((s.newId.2.scoreUnqueue s.x).incCls (crewOf s.x) .en) (crewOf s.x) tok y
  have h : ((s.newId.2.scoreUnqueue s.x).incCls (crewOf s.x) .en).strand y = s.strand y := scoreUnqueue_strand s.newId.2 s.x y
  rw [h] at hm
  exact ⟨m, hm⟩
theorem countEngine_en (s : State) (tok : Option (BitVec 4)) : ((s.countEngine tok).crew (crewOf s.x)).en = s.myCrew.en + 1 := by
  obtain ⟨m, hm⟩ := tokAttach_crew ((s.newId.2.scoreUnqueue s.x).incCls (crewOf s.x) .en) (crewOf s.x) tok (crewOf s.x)
  have h : (s.newId.2.scoreUnqueue s.x).crew (crewOf s.x) = s.myCrew := scoreUnqueue_crew s.newId.2 s.x (crewOf s.x)
  rw [State.countEngine, hm, State.incCls, crew_modCrew, if_pos rfl, h]
  rfl
theorem countEngine_core (s : State) (tok : Option (BitVec 4)) (k : Nat) :
    ∃ m, (s.countEngine tok).core k = { s.core k with scoreWait := m } := by
  have h1 := tokAttach_rest ((s.newId.2.scoreUnqueue s.x).incCls (crewOf s.x) .en) (crewOf s.x) tok
  have h2 : (s.countEngine tok).cores = (s.newId.2.scoreUnqueue s.x).cores := (congrArg State.cores h1 :)
  have h3 : (s.countEngine tok).core k = (s.newId.2.scoreUnqueue s.x).core k := congrArg (fun m => sget m ({} : Core) k) h2
  rw [h3, scoreUnqueue_core]
  exact ⟨_, rfl⟩
/-- The op joins its queue, with its scoreboard entry. -/
def State.pushEngine (s : State) (c : Cmd) : State :=
  ((s.modTroop c.op.troop (fun v => { v with opseq := v.opseq + 1 })).scoreAdd (cmdEntry c)).modMyCore
    (fun k => if c.xf then { k with xqe := k.xqe ++ [c.op] } else { k with sqe := k.sqe ++ [c.op] })
/-- The op of a command as it is queued. -/
def State.numbered (s : State) (tok : Option (BitVec 4)) (c : Cmd) : Cmd :=
  { c with op := { c.op with id := s.nextId, troop := troopOf s.x, strand := s.x, opid := s.myTroop.opseq, tok := tok.map (·.toNat) } }
theorem enterEngine_room {s : State} {f : Fr} {tok : Option (BitVec 4)} {c : Cmd} (h1 : s.cmdRoom c.xf = true) (h2 : s.myCrew.en < 63)
    (h3 : s.tokRoom (crewOf s.x) tok = true) (h4 : s.scoreRoom (troopOf s.x) s.myTroop.opseq s.x = true) :
    s.enterEngine f tok c = ((s.countEngine tok).pushEngine (s.numbered tok c)).finish f.len := by
  have hno : (!s.cmdRoom c.xf || decide (63 ≤ s.myCrew.en) || !s.tokRoom (crewOf s.x) tok) = false := by
    rw [h1, h3, decide_eq_false (by omega)]
    rfl
  unfold State.enterEngine
  dsimp only
  rw [hno, h4, Bool.not_true, if_neg Bool.false_ne_true, if_neg Bool.false_ne_true]
  rfl
theorem pushEngine_strand (s : State) (c : Cmd) (y : Nat) : (s.pushEngine c).strand y = s.strand y := rfl
theorem pushEngine_cur (s : State) (c : Cmd) : (s.pushEngine c).cur = s.cur := rfl
theorem pushEngine_crew (s : State) (c : Cmd) (q : Nat) : (s.pushEngine c).crew q = s.crew q := rfl
theorem pushEngine_troop (s : State) (c : Cmd) : ((s.pushEngine c).troop c.op.troop).opseq = (s.troop c.op.troop).opseq + 1 :=
  congrArg Troop.opseq (modTroop_troop s c.op.troop (fun v => { v with opseq := v.opseq + 1 }))
theorem pushEngine_core (s : State) (c : Cmd) (h : coreOfTroop c.op.troop = coreOf s.x) :
    ((s.pushEngine c).core (coreOf s.x)).score.length = (s.core (coreOf s.x)).score.length + 1
    ∧ engQueue c.xf ((s.pushEngine c).core (coreOf s.x)) = engQueue c.xf (s.core (coreOf s.x)) ++ [c.op] := by
  have hadd : ∃ e, ((s.modTroop c.op.troop (fun v => { v with opseq := v.opseq + 1 })).scoreAdd (cmdEntry c)).core (coreOf s.x)
      = { s.core (coreOf s.x) with score := (s.core (coreOf s.x)).score ++ [e] } := by
    have hcore := modCore_core (s.modTroop c.op.troop (fun v => { v with opseq := v.opseq + 1 })) (coreOfTroop c.op.troop)
      (fun k => { k with score := k.score ++ [{ cmdEntry c with before := s.bankStores c.op.troop }] })
    rw [h] at hcore
    refine ⟨{ cmdEntry c with before := s.bankStores c.op.troop }, Eq.trans ?_ hcore⟩
    rw [← h]
    rfl
  obtain ⟨e, he⟩ := hadd
  have hk := modCore_core ((s.modTroop c.op.troop (fun v => { v with opseq := v.opseq + 1 })).scoreAdd (cmdEntry c)) (coreOf s.x)
    (fun k => if c.xf then { k with xqe := k.xqe ++ [c.op] } else { k with sqe := k.sqe ++ [c.op] })
  rw [he] at hk
  have hk : (s.pushEngine c).core (coreOf s.x) = _ := hk
  rw [hk]
  cases c.xf
  · exact ⟨List.length_append, rfl⟩
  · exact ⟨List.length_append, rfl⟩
theorem pushEngine_same (s : State) (c : Cmd) : SameBytes s (s.pushEngine c) := by
  refine (modTroop_same c.op.troop (g := fun v => { v with opseq := v.opseq + 1 }) ?_).trans ((modCore_same _ _ _).trans (modCore_same _ _ _))
  exact fun _ => ⟨rfl, rfl⟩
theorem countEngine_same (s : State) (tok : Option (BitVec 4)) : SameBytes s (s.countEngine tok) := by
  have hr := countEngine_rest s tok
  exact SameBytes.of_tables (congrArg State.slices hr :) (congrArg State.pmem hr :) (congrArg State.hostMem hr :) (congrArg State.troops hr :)
    (congrArg State.ctls hr :)

section
variable {s t : State} (h : Elsewhere s t)
include h

theorem Elsewhere.en (c : Nat) : (t.crew c).en = (s.crew c).en := by
  obtain ⟨-, hc, -⟩ := h
  exact (congrArg Crew.en (hc c) :)
theorem Elsewhere.engines (k : Nat) : (t.core k).score = (s.core k).score ∧ (t.core k).xqe = (s.core k).xqe ∧ (t.core k).sqe = (s.core k).sqe := by
  obtain ⟨-, -, -, -, hk, -, -⟩ := h
  exact ⟨(congrArg Core.score (hk k) :), (congrArg Core.xqe (hk k) :), (congrArg Core.sqe (hk k) :)⟩
end

/-- A command that finds room enters its queue (R256, R257). -/
theorem enterEngine_enters {s : State} {f : Fr} {tok : Option (BitVec 4)} {c : Cmd} (h1 : s.cmdRoom c.xf = true) (h2 : s.myCrew.en < 63)
    (h3 : s.tokRoom (crewOf s.x) tok = true) (h4 : s.scoreRoom (troopOf s.x) s.myTroop.opseq s.x = true) :
    Enters s (s.enterEngine f tok c) f c.xf (s.numbered tok c).op := by
  obtain ⟨v, hv⟩ : ∃ v, v = (s.countEngine tok).pushEngine (s.numbered tok c) := ⟨_, rfl⟩
  have ht : s.enterEngine f tok c = v.finish f.len := hv ▸ enterEngine_room h1 h2 h3 h4
  have hr := countEngine_rest s tok
  have hcur1 : (s.countEngine tok).cur = s.cur := (congrArg State.cur hr :)
  have htr : (s.countEngine tok).troops = s.troops := (congrArg State.troops hr :)
  have hx1 : (s.countEngine tok).x = s.x := congrArg Cur.strand hcur1
  have hcur : v.cur = s.cur := hv ▸ hcur1
  have hx : v.x = s.x := congrArg Cur.strand hcur
  have hst (y : Nat) : ∃ m, v.strand y = { s.strand y with nakMarks := m } := by
    rw [hv, pushEngine_strand]
    exact countEngine_strand s tok y
  obtain ⟨hreg, hpc, -, he⟩ := finish_wrote v f
  obtain ⟨n, q, hlife⟩ := finish_strand v f
  rw [← ht] at hreg hpc he hlife
  rw [hx] at hpc hlife
  obtain ⟨m, hm⟩ := hst s.x
  have hfile : RegFile s v [] [] := RegFile.of_file (by rw [hm]; rfl) (by rw [hm]; rfl) (by rw [hm]; rfl) (by rw [hm]; rfl) (by rw [hm]; rfl)
  refine ⟨⟨hfile.trans_nil hx hreg, hpc.trans (nextPc_congr hcur (by rw [hm]; rfl) (by rw [hm]; rfl)), by rw [hlife], fun y hy => ?_⟩, ?_, ?_, ?_, ?_, ?_⟩
  · obtain ⟨m, hm⟩ := hst y
    rw [he.1 y (hx ▸ hy), hm]
  · exact ((countEngine_same s tok).trans (hv ▸ pushEngine_same ..)).trans (ht ▸ he.same)
  · rw [he.en, hv, pushEngine_crew]
    exact countEngine_en s tok
  · have h := pushEngine_troop (s.countEngine tok) (s.numbered tok c)
    rw [← hv] at h
    rw [State.troop, he.troops]
    exact h.trans (by rw [State.troop, htr]; rfl)
  all_goals
    obtain ⟨w, hw⟩ := countEngine_core s tok (coreOf s.x)
    obtain ⟨hscore, hqueue⟩ := pushEngine_core (s.countEngine tok) (s.numbered tok c) (hx1 ▸ coreOfTroop_troopOf s.x)
    rw [hx1, hw, ← hv] at hscore hqueue
  · rw [(he.engines _).1]
    exact hscore
  · rw [engQueue, (he.engines _).2.1, (he.engines _).2.2]
    exact hqueue

/-! ## The tests of R256 -/

theorem pcsBad_none {s : State} {ps : Pcs} (h : ∀ p ∈ ps, s.spmIn (troopOf s.x) p.1 p.2 = true) : s.pcsBad ps = none := by
  have hf : ps.find? (fun p => p.2 != 0 && !s.spmIn (troopOf s.x) p.1 p.2) = none := by
    rw [List.find?_eq_none]
    intro p hp
    simp [h p hp]
  rw [State.pcsBad, hf]
  rfl
theorem slotSmall_false {s : State} {ring : Bool} {off n : Nat} (h : ring = true → ∀ b m z, s.ringArea off = some (b, m, z) → n ≤ z) :
    s.slotSmall ring off n = false := by
  unfold State.slotSmall
  cases ring
  · rfl
  · split
    · rename_i b m z hz
      rw [decide_eq_false (Nat.not_lt.mpr (h rfl b m z hz))]
      rfl
    · rfl
/-- The op of a streamer command holds its operands. -/
def StreamOp (q : EngOp) (i : Instr) (r : BitVec 512) (n off obj list : Nat) (co : List Int) (mask : BitVec 64) (ring : Bool) : Prop :=
  q.sub = i ∧ q.record = r ∧ q.handle = n ∧ q.dst = off ∧ q.obj = obj ∧ q.src = list ∧ q.coords = co ∧ q.mask = mask ∧ q.objRing = ring
    ∧ q.active = false
theorem streamCheck_ok {s : State} {k : SKind} {i : Instr} {ring : Bool} {n : Nat} {d a e : Reg} {list : Nat} {mask : BitVec 64} {lw : Nat}
    {r : BitVec 512} (hrec : sfind s.myTroop.recs n = some r) :
    let t := trecOf r
    let p := troopOf s.x
    let co := s.coords a
    let total := t.b0 * t.b1 * t.b2 * t.es
    let off := if ring then 0 else (s.rd d.toNat).toNat
    let obj := (s.rd e.toNat).toNat
    s.spmIn p obj (objBytes ring) = true → obj % objBytes ring = 0 →
    (ring = false → off % 32 = 0 ∧ ((k != .mc) = true → s.spmIn p off total = true)) →
    (ring = true → ∀ b m z, s.ringArea obj = some (b, m, z) → total ≤ z) →
    (k.indexed = true → list % 4 = 0 ∧ s.spmIn p list (4 * t.b1) = true) →
    (k = .mc → 1 ≤ (onesOf mask).length ∧ (onesOf mask).length ≤ 12) → (k ≠ .ld → t.cmode = false) →
    (t.cmode = true → co.getD 0 0 * t.es % 4096 = 0 ∧ (t.badlist ≠ noList → s.spmIn p t.badlist (4 + 4 * t.badcap) = true)) →
    copyAddrBad t co k.indexed = 0 →
    ∃ c, s.streamCheck k i ring n d a e list mask lw = .ok c ∧ c.xf = false ∧ StreamOp c.op i r n off obj list co mask ring := by
  intro t p co total off obj hobj hobjal hoff hring hidx hmc hld hcm haddr
  have hoff32 : off % 32 = 0 := by
    cases hr : ring
    · exact (hoff hr).1
    · show (if ring then 0 else _) % 32 = 0
      rw [hr]
      rfl
  have hbad : ([(off % 32 ≠ 0, 1), (k = .ld && t.cmode && decide (co.getD 0 0 * t.es % 4096 ≠ 0), 2), (k.indexed && decide (list % 4 ≠ 0), 3),
      (k = .mc && decide ((onesOf mask).length = 0 ∨ 12 < (onesOf mask).length), 3), (obj % objBytes ring ≠ 0, 4),
      (k ≠ .ld && t.cmode, 5)] : List (Bool × Nat)).find? (·.1) = none := by
    rw [List.find?_eq_none]
    simp only [List.mem_cons, List.not_mem_nil, or_false, forall_eq_or_imp, forall_eq, Bool.and_eq_true, decide_eq_true_eq]
    refine ⟨fun h => h hoff32, fun ⟨⟨_, h⟩, hne⟩ => hne (hcm h).1, fun ⟨h, hne⟩ => hne (hidx h).1, fun ⟨h, hne⟩ => ?_, fun h => h hobjal,
      fun ⟨hne, h⟩ => ?_⟩
    · have := hmc h
      omega
    · rw [hld hne] at h
      nomatch h
  have hpcs : s.pcsBad ((if ring || k = .mc then [] else [(off, total)]) ++ (if k.indexed then [(list, 4 * t.b1)] else []) ++ [(obj, objBytes ring)]
      ++ if k = .ld && t.cmode && t.badlist != noList then [(t.badlist, 4 + 4 * t.badcap)] else []) = none := by
    refine pcsBad_none fun q hq => ?_
    rcases List.mem_append.mp hq with hq | hq
    · rcases List.mem_append.mp hq with hq | hq
      · rcases List.mem_append.mp hq with hq | hq
        · split at hq
          · nomatch hq
          · rename_i hn
            obtain rfl := List.mem_singleton.mp hq
            simp only [Bool.or_eq_true, decide_eq_true_eq, not_or, Bool.not_eq_true] at hn
            exact (hoff hn.1).2 (bne_iff_ne.mpr hn.2)
        · split at hq
          · rename_i h
            obtain rfl := List.mem_singleton.mp hq
            exact (hidx h).2
          · nomatch hq
      · obtain rfl := List.mem_singleton.mp hq
        exact hobj
    · split at hq
      · rename_i h
        obtain rfl := List.mem_singleton.mp hq
        simp only [Bool.and_eq_true, bne_iff_ne] at h
        exact (hcm h.1.2).2 h.2
      · nomatch hq
  unfold State.streamCheck
  rw [hrec]
  dsimp only
  rw [hbad]
  dsimp only
  rw [haddr, hpcs, slotSmall_false hring]
  exact ⟨_, rfl, rfl, rfl, rfl, rfl, rfl, rfl, rfl, rfl, rfl, rfl, rfl⟩
/-- The op of a transform holds its operands. -/
def XformOp (q : EngOp) (i : Instr) (r : BitVec 512) (off obj src : Nat) (ds : Dword) (ring : Bool) : Prop :=
  q.sub = i ∧ q.record = r ∧ q.dst = off ∧ q.obj = obj ∧ q.src = src ∧ q.desc = ds ∧ q.objRing = ring ∧ q.active = false
theorem xformCheck_ok {s : State} {op : XfOp} {i : Instr} {ring : Bool} {n : Nat} {d a b e : Reg} {r : BitVec 512}
    (hrec : xfHandle op = true → sfind s.myTroop.recs n = some r) (hrec0 : xfHandle op = false → r = 0) :
    let p := troopOf s.x
    let src := (s.rd a.toNat).toNat
    let ds : Dword := if op = .pack then s.rd64 b.toNat else 0
    let off := if ring then 0 else (s.rd d.toNat).toNat
    let obj := (s.rd e.toNat).toNat
    let z := xfSizes op (trecOf r) ds (if xfReadsHeader op && s.spmIn p src 32 then s.headerAt p src else none)
    s.spmIn p obj (objBytes ring) = true → obj % objBytes ring = 0 →
    (ring = false → off % 32 = 0 ∧ s.spmIn p off z.2 = true) →
    (ring = true → ∀ b m w, s.ringArea obj = some (b, m, w) → z.2 ≤ w) →
    src % 32 = 0 → s.spmIn p src z.1 = true →
    (op = .pack → s.packDescOk ds = true ∧ s.spmIn p (dsScOff ds) (dsScaleBytes ds) = true) → (op = .tr → (trecOf r).b2 = 1) →
    (ring = false → ivalMeet (src, src + z.1) (off, off + z.2) = false ∨ (op = .zmap ∧ off = src)) →
    ∃ c, s.xformCheck op i ring n d a b e = .ok c ∧ c.xf = true ∧ XformOp c.op i r off obj src ds ring := by
  intro p src ds off obj z hobj hobjal hoff hring hsrc hsrcin hpack htr hmeet
  have hoff32 : off % 32 = 0 := by
    cases hr : ring
    · exact (hoff hr).1
    · show (if ring then 0 else _) % 32 = 0
      rw [hr]
      rfl
  have hr : (if xfHandle op then sfind s.myTroop.recs n else some 0) = some r := by
    cases hh : xfHandle op
    · rw [hrec0 hh]
      rfl
    · exact hrec hh
  have hbad : ([(decide (off % 32 ≠ 0) || (!ring && ivalMeet (src, src + z.1) (off, off + z.2) && !(op == .zmap && off == src)), 1),
      (src % 32 ≠ 0, 2), (op = .pack && !s.packDescOk ds, 3), (obj % objBytes ring ≠ 0, 4), (op = .tr && (trecOf r).b2 != 1, 5)]
      : List (Bool × Nat)).find? (·.1) = none := by
    rw [List.find?_eq_none]
    simp only [List.mem_cons, List.not_mem_nil, or_false, forall_eq_or_imp, forall_eq, Bool.and_eq_true, Bool.or_eq_true, decide_eq_true_eq,
      Bool.not_eq_true', bne_iff_ne, Bool.and_eq_false_iff, beq_eq_false_iff_ne]
    refine ⟨?_, fun h => h hsrc, fun ⟨h, hne⟩ => ?_, fun h => h hobjal, fun ⟨h, hne⟩ => hne (htr h)⟩
    · rintro (h | ⟨⟨h1, h2⟩, h3⟩)
      · exact h hoff32
      · rcases hmeet h1 with hm | ⟨hz, ho⟩
        · rw [hm] at h2
          nomatch h2
        · exact h3.elim (· hz) (· ho)
    · rw [(hpack h).1] at hne
      nomatch hne
  have hpcs : s.pcsBad ([(src, z.1)] ++ (if ring then [] else [(off, z.2)]) ++ (if op = .pack then [(dsScOff ds, dsScaleBytes ds)] else [])
      ++ [(obj, objBytes ring)]) = none := by
    refine pcsBad_none fun q hq => ?_
    rcases List.mem_append.mp hq with hq | hq
    · rcases List.mem_append.mp hq with hq | hq
      · rcases List.mem_append.mp hq with hq | hq
        · obtain rfl := List.mem_singleton.mp hq
          exact hsrcin
        · split at hq
          · nomatch hq
          · rename_i hn
            obtain rfl := List.mem_singleton.mp hq
            exact (hoff (Bool.eq_false_iff.mpr hn)).2
      · split at hq
        · rename_i h
          obtain rfl := List.mem_singleton.mp hq
          exact (hpack h).2
        · nomatch hq
    · obtain rfl := List.mem_singleton.mp hq
      exact hobj
  unfold State.xformCheck
  dsimp only
  rw [hr]
  dsimp only
  rw [hbad]
  dsimp only
  rw [hpcs, slotSmall_false hring]
  exact ⟨_, rfl, rfl, rfl, rfl, rfl, rfl, rfl, rfl, rfl, rfl⟩

/-! ## A ready command enters -/

/-- `u` is `s` after reads of registers and of the scratchpad, which leave the strand as it was. -/
structure Reads (s u : State) : Prop where
  sees : Sees s u
  file : RegFile s u [] []
  pc : (u.strand s.x).pc = s.myStrand.pc
  step : (u.strand s.x).step = s.myStrand.step
  others : ∀ y, y ≠ s.x → u.strand y = s.strand y
  same : SameBytes s u
  nextId : u.nextId = s.nextId
/-- What enters after reads has entered. -/
theorem Reads.enters {s u t : State} {f : Fr} {xf : Bool} {q : EngOp} (hu : Reads s u) (h : Enters u t f xf q) : Enters s t f xf q := by
  obtain ⟨hs, hreg, hpc, hstep, hy, hsame, -⟩ := hu
  obtain ⟨⟨hr, hp, hl, ho⟩, hb, hen, hseq, hscore, hqueue⟩ := h
  rw [hs.x] at hp hl ho hen hseq hscore hqueue
  refine ⟨⟨hreg.trans_nil hs.x hr, hp.trans (nextPc_congr hs.cur hpc hstep), hl, fun y e => (hy y e) ▸ ho y e⟩, hsame.trans hb,
    hen.trans (congrArg (· + 1) hs.en), hseq.trans (congrArg (· + 1) ?_), hscore.trans (congrArg (· + 1) ?_), hqueue.trans ?_⟩
  · rw [State.myTroop, hs.x]
    exact hs.opseq _
  · rw [State.myCore, hs.x, (hs.score _).1]
    rfl
  · rw [State.myCore, hs.x, engQueue, (hs.queues _).1, (hs.queues _).2]
    rfl
/-- The room a command needs, as it finds it (R257, R324). -/
def State.engRoom (s : State) (xf : Bool) (tok : Option (BitVec 4)) : Prop :=
  s.cmdRoom xf = true ∧ s.myCrew.en < 63 ∧ s.tokRoom (crewOf s.x) tok = true ∧ s.scoreRoom (troopOf s.x) s.myTroop.opseq s.x = true
theorem Sees.engRoom {s u : State} (h : Sees s u) {xf : Bool} {tok : Option (BitVec 4)} (hr : s.engRoom xf tok) : u.engRoom xf tok := by
  obtain ⟨h1, h2, h3, h4⟩ := hr
  refine ⟨(h.cmdRoom xf).trans h1, h.en ▸ h2, ?_, ?_⟩
  · rw [h.x, h.tokRoom]
    exact h3
  · rw [State.myTroop, h.x, h.opseq, h.scoreRoom]
    exact h4
theorem Track.step {s t : State} {ws : List (Nat × Word)} {ps : List (PReg × Bool)} (h : Track s t ws ps) : t.myStrand.step = s.myStrand.step := by
  rw [h.myStrand]
  exact (congrArg Strand.step h.2.2.1 :)
theorem Reads.of_track {s u : State} (h : Track s u [] []) : Reads s u :=
  ⟨Sees.of_track h, h.2.1, h.myStrand ▸ h.pc, h.myStrand ▸ h.step, h.2.2.2.1, h.2.2.2.same, (congrArg State.nextId h.rest :)⟩
theorem Reads.chanTouch {s u : State} (h : Reads s u) (t a n : Nat) : Reads s (u.chanTouch t a n) := by
  obtain ⟨hs, hreg, hpc, hstep, hy, hsame, hid⟩ := h
  have hr := chanTouch_rest u t a n
  have hst : (u.chanTouch t a n).strands = u.strands := (congrArg State.strands hr :)
  have hstrand (y : Nat) : (u.chanTouch t a n).strand y = u.strand y := congrArg (fun m => sget m ({} : Strand) y) hst
  have hx : (u.chanTouch t a n).x = s.x := (hs.chanTouch t a n).x
  have hm : u.myStrand = u.strand s.x := congrArg u.strand hs.x
  refine ⟨hs.chanTouch t a n, hreg.trans_nil hs.x (RegFile.of_file ?_ ?_ ?_ ?_ ?_), hstrand _ ▸ hpc, hstrand _ ▸ hstep,
    fun y e => (hstrand y).trans (hy y e), hsame.trans (chanTouch_same u t a n), (congrArg State.nextId hr :).trans hid⟩
  all_goals rw [hstrand]; rfl
/-- A command that passed its checks enters after its reads. -/
theorem Reads.enterEngine {s u : State} {f : Fr} {tok : Option (BitVec 4)} {c : Cmd} (h : Reads s u) (hr : s.engRoom c.xf tok) :
    Enters s (u.enterEngine f tok c) f c.xf (s.numbered tok c).op := by
  obtain ⟨h1, h2, h3, h4⟩ := h.sees.engRoom hr
  have hq : (u.numbered tok c).op = (s.numbered tok c).op := by
    unfold State.numbered State.myTroop
    rw [h.nextId, h.sees.x, h.sees.opseq]
  exact hq ▸ h.enters (enterEngine_enters h1 h2 h3 h4)
/-- Reads meet no store of the strand on its way to the scratchpad. -/
theorem readAcquire_headerWait {s : State} (hsq : s.myCrew.sq = []) (hb : ∀ a n, s.bankOut (coreOf s.x) (.spm (troopOf s.x)) a n = false)
    (rs : List Nat) (ps : Pcs) : (s.readAcquire rs).headerWait ps = false := by
  have hs := Sees.of_track (Track.readAcquire s rs)
  refine headerWait_false (hs.sq.trans hsq) (fun a n => ?_) _
  rw [hs.x, readAcquire_bankOut]
  exact hb a n

/-! ## The streamer's commands (R256, R258) -/

/-- The body of a streamer command goes on to its queue. -/
theorem streamBody_enters {u : State} {ring : Bool} {ps : Pcs} {r : Except Trap Cmd} {c : Cmd} {f : Fr} {tok : Option (BitVec 4)}
    (hw : u.headerWait ps = false) (hc : r = .ok c) :
    (if ring && u.headerWait ps then u.park .retry
      else match (generalizing := false) r with
      | .error t => u.trap f t
      | .ok c => u.enterEngine f tok c) = u.enterEngine f tok c := by
  subst hc
  rw [hw, Bool.and_false, if_neg Bool.false_ne_true]
/-- A ready streamer command whose checks pass enters its queue. -/
theorem stream_enters {i : Instr} {s : State} {f : Fr} {chk : Chk} {body : State → State} (hx : exec i s = .next (s.issue f chk body))
    (hr : s.ready f chk = true) (hsq : s.myCrew.sq = []) (hb : ∀ a n, s.bankOut (coreOf s.x) (.spm (troopOf s.x)) a n = false)
    {tok : Option (BitVec 4)} {c : Cmd} (hroom : s.engRoom c.xf tok) {k : SKind} {ring : Bool} {n : Nat} {d a e : Reg} {list : Nat}
    {mask : BitVec 64} {lw : Nat} (hc : s.streamCheck k i ring n d a e list mask lw = .ok c)
    (hbody : ∀ u, Track s u [] [] → (∀ ps, u.headerWait ps = false) → u.streamCheck k i ring n d a e list mask lw = .ok c →
      body u = u.enterEngine f tok c) :
    ∃ t, exec i s = .next t ∧ Enters s t f c.xf (s.numbered tok c).op := by
  have hu := Track.readAcquire s chk.srcs
  have hread := Reads.of_track hu
  refine ⟨_, hx.trans (congrArg _ ((issue_ready hr body).trans (hbody _ hu (readAcquire_headerWait hsq hb _) ?_))), hread.enterEngine hroom⟩
  exact (hread.sees.streamCheck ..).trans hc

/-! ## The transform's commands and `lrec` (R252, R263) -/

/-- Source registers of a transform. -/
def xformSrcs (ring : Bool) (op : XfOp) (d a b e : Reg) : List Nat :=
  (if ring then [] else [d.toNat]) ++ [a.toNat] ++ (if op = .pack then pairRegs b else []) ++ [e.toNat]
/-- A ready transform whose checks pass enters its queue. -/
theorem xform_enters {v : XA} {ring : Bool} {op : XfOp} {d a b e : Reg} {h : BitVec 4} {s : State}
    (hr : s.ready (extFr v.x false) { role := s.isAccess, ops := [(op != .pack || pairOk b, 3)], srcs := xformSrcs ring op d a b e } = true)
    (hsq : s.myCrew.sq = []) (hb : ∀ a n, s.bankOut (coreOf s.x) (.spm (troopOf s.x)) a n = false) {c : Cmd} (hroom : s.engRoom c.xf v.tok)
    (hblk : xfReadsHeader op = true → s.spmBlocked (troopOf s.x) (s.rd a.toNat).toNat 32 false = false)
    (hc : s.xformCheck op (.xform v ring op d a b e h) ring h.toNat d a b e = .ok c) :
    ∃ t, exec (.xform v ring op d a b e h) s = .next t ∧ Enters s t (extFr v.x false) c.xf (s.numbered v.tok c).op := by
  have hw := readAcquire_headerWait hsq hb (xformSrcs ring op d a b e)
  have hu := Reads.of_track (Track.readAcquire s (xformSrcs ring op d a b e))
  have hexec : exec (.xform v ring op d a b e h) s = _ := congrArg Host.Outcome.next (issue_ready hr _)
  refine ⟨_, hexec, ?_⟩
  dsimp only
  generalize s.readAcquire _ = u at hw hu
  have hno : (xfReadsHeader op && u.spmBlocked (troopOf u.x) (u.rd a.toNat).toNat 32 false) = false := by
    rw [hu.sees.spmBlocked, hu.sees.x, hu.sees.rd]
    cases hh : xfReadsHeader op
    · rfl
    · exact hblk hh
  rw [hno, hw, if_neg Bool.false_ne_true, if_neg Bool.false_ne_true]
  have hv : Reads s (if xfReadsHeader op then u.chanTouch (troopOf u.x) (u.rd a.toNat).toNat 32 else u) := by
    split
    · exact hu.chanTouch ..
    · exact hu
  rw [hv.sees.xformCheck, hc]
  exact hv.enterEngine hroom

/-- What follows reads and moves no strand lets the strand go on. -/
theorem Track.goes {s u w : State} (h : Track s u [] []) (hcur : w.cur = u.cur) (hst : w.strands = u.strands) (hsame : SameBytes u w) (f : Fr) :
    Goes s (w.finish f.len) f [] [] ∧ SameBytes s (w.finish f.len) := by
  have hx : w.x = s.x := (congrArg Cur.strand hcur).trans h.x
  have hstrand (y : Nat) : w.strand y = u.strand y := congrArg (fun m => sget m ({} : Strand) y) hst
  have hfile : RegFile u w [] [] := by
    refine RegFile.of_file ?_ ?_ ?_ ?_ ?_
    all_goals rw [hstrand]; rfl
  obtain ⟨hreg, hpc, -, he⟩ := finish_wrote w f
  obtain ⟨n, q, hlife⟩ := finish_strand w f
  rw [hx] at hpc hlife
  have hnext : w.nextPc f = s.nextPc f :=
    nextPc_congr (hcur.trans h.1) ((hstrand _).symm ▸ h.myStrand ▸ h.pc) ((hstrand _).symm ▸ h.myStrand ▸ h.step)
  refine ⟨⟨(h.2.1.trans_nil h.x hfile).trans_nil hx hreg, hpc.trans hnext, by rw [hlife], fun y hy => ?_⟩, h.2.2.2.same.trans (hsame.trans he.same)⟩
  rw [he.1 y (hx ▸ hy), hstrand]
  exact h.2.2.2.1 y hy
theorem Track.errRead {s u : State} {ws : List (Nat × Word)} {ps : List (PReg × Bool)} (h : Track s u ws ps) (q : Option Nat) (a n : Nat) :
    u.errRead q a n = s.errRead q a n := by
  have h1 : u.errs = s.errs := (congrArg State.errs h.rest :)
  have h2 : u.slices = s.slices := (congrArg State.slices h.rest :)
  unfold State.errRead State.slice
  rw [h1, h2]
/-- A ready `lrec` whose record can be read loads it. -/
theorem lrec_loads {x : XG} {a : Reg} {n : BitVec 4} {s : State} (hr : s.ready (extFr x false) { role := s.isAccess, srcs := [a.toNat] } = true)
    (hsq : s.myCrew.sq = []) (hb : ∀ a n, s.bankOut (coreOf s.x) (.spm (troopOf s.x)) a n = false) (ho : (s.rd a.toNat).toNat % 64 = 0)
    (hin : s.spmIn (troopOf s.x) (s.rd a.toNat).toNat 64 = true) (hblk : s.spmBlocked (troopOf s.x) (s.rd a.toNat).toNat 64 false = false)
    (herr : s.errRead (some (troopOf s.x)) (s.rd a.toNat).toNat 64 = none) :
    exec (.lrec x a n) s = .next ((s.readAcquire [a.toNat]).loadRec (extFr x false) n.toNat (s.rd a.toNat).toNat) := by
  have hu := Track.readAcquire s [a.toNat]
  have hs := Sees.of_track hu
  have hfw : (s.readAcquire [a.toNat]).forward (.spm (troopOf s.x)) (s.rd a.toNat).toNat 64 = .none := by
    refine forward_none (hs.sq.trans hsq) ?_
    rw [hs.x, readAcquire_bankOut]
    exact hb ..
  have hexec : exec (.lrec x a n) s = _ := congrArg Host.Outcome.next (issue_ready hr _)
  rw [hexec]
  dsimp only
  rw [hs.x, hs.rd, hs.spmIn, hs.spmBlocked, hu.errRead, hin, hblk, hfw, herr, if_neg (not_not.mpr ho)]
  rfl
theorem loadRec_ok {u : State} {f : Fr} {n a : Nat} (h : trecOk (BitVec.ofNat 512 (mnat (u.troop (troopOf u.x)).spm a 64)) = true) :
    u.loadRec f n a = ((u.modMyTroop (fun v => { v with recs := sput v.recs n (BitVec.ofNat 512 (mnat (u.troop (troopOf u.x)).spm a 64)) })).chanTouch
      (troopOf u.x) a 64).finish f.len := if_pos h
/-- An accepted record stands under its number. -/
theorem loadRec_goes {s u : State} (hu : Track s u [] []) (f : Fr) (n a : Nat)
    (h : trecOk (BitVec.ofNat 512 (mnat s.myTroop.spm a 64)) = true) :
    let t := u.loadRec f n a
    Goes s t f [] [] ∧ SameBytes s t ∧ (t.troop (troopOf s.x)).recs = sput s.myTroop.recs n (BitVec.ofNat 512 (mnat s.myTroop.spm a 64)) := by
  intro t
  have hspm : (u.troop (troopOf u.x)).spm = s.myTroop.spm := by
    rw [hu.x, hu.troop]
    rfl
  obtain ⟨r, hrdef⟩ : ∃ r : BitVec 512, r = BitVec.ofNat 512 (mnat s.myTroop.spm a 64) := ⟨_, rfl⟩
  have ht := loadRec_ok (f := f) (n := n) (hspm.symm ▸ h)
  rw [hspm, ← hrdef] at ht
  obtain ⟨v, hv⟩ : ∃ v, v = u.modMyTroop (fun v => { v with recs := sput v.recs n r }) := ⟨_, rfl⟩
  obtain ⟨w, hw⟩ : ∃ w, w = v.chanTouch (troopOf u.x) a 64 := ⟨_, rfl⟩
  have ht : t = w.finish f.len := ht.trans (by rw [hw, hv])
  have hrest := hw ▸ chanTouch_rest v (troopOf u.x) a 64
  have hcur : w.cur = v.cur := (congrArg State.cur hrest :)
  have hst : w.strands = v.strands := (congrArg State.strands hrest :)
  have hvu : SameBytes u v := by
    rw [hv]
    refine modTroop_same _ ?_
    exact fun _ => ⟨rfl, rfl⟩
  obtain ⟨hgoes, hsame⟩ := hu.goes (hcur.trans (hv ▸ rfl)) (hst.trans (hv ▸ rfl)) (hvu.trans (hw ▸ chanTouch_same ..)) f
  obtain ⟨m, hm⟩ := hw ▸ chanTouch_troop v (troopOf u.x) a 64 (troopOf s.x)
  obtain ⟨-, -, -, he⟩ := finish_wrote w f
  refine ⟨ht ▸ hgoes, ht ▸ hsame, ?_⟩
  rw [ht, State.troop, he.troops, ← State.troop, hm, hrdef.symm, hv]
  have hx := hu.x
  have htr := troop_modTroop u (troopOf u.x) (troopOf s.x) (fun v => { v with recs := sput v.recs n r })
  rw [if_pos (congrArg troopOf hx.symm), hx, hu.troop] at htr
  rw [State.modMyTroop, hx]
  exact congrArg Troop.recs htr

/-- Settles O37: what the commands test is not moved by their reads (`Sees`), and a command with room enters its queue (`enterEngine_enters`). -/
theorem engineCommandsEnterQueues : Obligations.EngineCommandsEnterQueues := by
  intro v ring d a b e h lw s hsq hb p f off obj fits room enters
  refine ⟨?_, fun op => ?_, fun x n => ?_⟩
  · intro streams ck
    have into {i : Instr} {k : SKind} {ch : Chk} {list : Nat} {mask : BitVec 64} (lw : Nat) {body : State → State}
        (hx : exec i s = .next (s.issue f ch body))
        (hbody : ∀ u c, Track s u [] [] → (∀ ps, u.headerWait ps = false) → u.streamCheck k i ring h.toNat d a e list mask lw = .ok c →
          body u = u.enterEngine f v.tok c) : streams i k ch list mask := by
      intro hr hroom r hrec t total co ⟨hobj, hal, hoff, hring⟩ hidx hmc hld hcm haddr
      obtain ⟨c, hc, hxf, o1, o2, o3, o4, o5, o6, o7, o8, o9, o10⟩ :=
        streamCheck_ok (lw := lw) hrec hobj hal hoff hring hidx hmc hld hcm haddr
      obtain ⟨u, hu, h1, h2, h3, h4, h5, h6⟩ := stream_enters hx hr hsq hb (tok := v.tok) (hxf ▸ hroom) hc (fun u => hbody u c)
      rw [hxf] at h6
      exact ⟨u, hu, h1, h2, h3, h4, h5, _, h6, o1, rfl, rfl, rfl, o10, o4, o5, o9, rfl, o2, o3, o7, o6, o8⟩
    refine ⟨into 0 rfl ?_, ?_, ?_, into 0 rfl ?_, ?_⟩
    · exact fun u c hu hw hc => streamBody_enters (hw _) hc
    · rintro rfl
      exact into 0 rfl fun u c hu hw hc => streamBody_enters (hw _) hc
    · rintro rfl
      refine into (8 * lw.toNat) rfl fun u c hu hw hc => ?_
      rw [← hu.rd64] at hc
      exact streamBody_enters (hw _) hc
    · refine fun u c hu hw hc => ?_
      rw [← hu.rd] at hc
      exact streamBody_enters (hw _) hc
    · rintro rfl
      refine into 0 rfl fun u c hu hw hc => ?_
      rw [← hu.rd] at hc
      exact streamBody_enters (hw _) hc
  · intro hr hroom src ds r hrec hrec0 z ⟨hobj, hal, hoff, hring⟩ hsrc hsrcin hblk hpack htr hmeet
    obtain ⟨c, hc, hxf, o1, o2, o3, o4, o5, o6, o7, o8⟩ := xformCheck_ok (i := .xform v ring op d a b e h) hrec hrec0 hobj hal
      (fun q => ⟨(hoff q).1, (hoff q).2 rfl⟩) hring hsrc hsrcin hpack htr hmeet
    obtain ⟨u, hu, h1, h2, h3, h4, h5, h6⟩ := xform_enters hr hsq hb (hxf ▸ hroom) hblk hc
    rw [hxf] at h6
    exact ⟨u, hu, h1, h2, h3, h4, h5, _, h6, o1, rfl, rfl, rfl, o8, o3, o4, o7, rfl, o2, o5, o6⟩
  · intro hr o ho hin hblk herr r
    have he := lrec_loads (n := n) hr hsq hb ho hin hblk herr
    refine ⟨fun hok => ?_, fun hno => he.trans (congrArg _ ?_)⟩
    · obtain ⟨h1, h2, h3⟩ := loadRec_goes (Track.readAcquire s [a.toNat]) (extFr x false) n.toNat o hok
      refine ⟨_, he, h1, h2, ?_, fun m hm => ?_⟩
      · rw [h3]
        exact sfind_sput_self ..
      · rw [h3]
        exact sfind_sput_ne _ _ hm.symm
    · refine if_neg ?_
      have hu := Track.readAcquire s [a.toNat]
      rw [hu.x, hu.troop]
      exact fun h => nomatch hno.symm.trans h
end Sys2Proof.Machine
end

section
namespace Sys2Proof.Machine

/-! ## Sparse tables with entries taken out -/

theorem sfind_filter_key {α : Type} (m : Sparse α) (p : Nat → Bool) (k : Nat) :
    sfind (m.filter (fun e => p e.1)) k = if p k then sfind m k else none := by
  induction m with
  | nil => simp [sfind]
  | cons e m ih =>
    obtain ⟨j, v⟩ := e
    cases hp : p j
    · rw [List.filter_cons_of_neg (by simp [hp]), ih, sfind]
      by_cases hj : j = k
      · subst hj
        simp [hp]
      · rw [if_neg hj]
    · rw [List.filter_cons_of_pos (by exact hp), sfind, sfind, ih]
      by_cases hj : j = k
      · subst hj
        simp [hp]
      · rw [if_neg hj, if_neg hj]
theorem sfind_none_of_above {α : Type} {i : Nat} {m : Sparse α} (h : above i m) : sfind m i = none := by
  induction m with
  | nil => rfl
  | cons e m ih =>
    obtain ⟨h1, h2⟩ := List.forall_mem_cons.mp h
    obtain ⟨j, v⟩ := e
    rw [sfind, if_neg (Nat.ne_of_gt h1)]
    exact ih h2
/-- The entries of a table, put into another. -/
theorem sfind_foldl_sput {α : Type} (m : Sparse α) (h : srising m = true) (n : Sparse α) (k : Nat) :
    sfind (m.foldl (fun n e => sput n e.1 e.2) n) k = (sfind m k).or (sfind n k) := by
  induction m generalizing n with
  | nil => rfl
  | cons e m ih =>
    obtain ⟨j, v⟩ := e
    obtain ⟨h1, h2⟩ := (srising_cons ..).mp h
    rw [List.foldl_cons, ih h2]
    by_cases hj : j = k
    · subst hj
      rw [sfind_none_of_above h1, sfind_sput_self, sfind, if_pos rfl]
      rfl
    · rw [sfind_sput_ne _ _ hj, sfind, if_neg hj]
theorem sget_map {α : Type} (m : Sparse α) (g : α → α) (d : α) (hd : g d = d) (k : Nat) :
    sget (m.map (fun e => (e.1, g e.2))) d k = g (sget m d k) := by
  induction m with
  | nil => exact hd.symm
  | cons e m ih =>
    obtain ⟨j, v⟩ := e
    by_cases hj : j = k
    · simp [sget, sfind, hj]
    · simp only [sget, List.map_cons, sfind, if_neg hj] at ih ⊢
      exact ih

/-! ## Strands resume (R41, R80) -/

theorem operandAvailable_due {s : State} {r : BitVec 128} (hl : (s.strand s.ev.unit).life = .pending) (hw : (s.strand s.ev.unit).wait = .result r) :
    exec .operandAvailable s = .next (if r &&& (s.strand s.ev.unit).pend = 0 ∧ !s.still (coreOf s.ev.unit) ∧ s.mayIssue (crewOf s.ev.unit)
      then s.toEligible s.ev.unit else s) := by
  show execOperandAvailable s = _
  simp only [execOperandAvailable, hl, hw]
theorem notAnInstruction_traps {s : State} {w0 : Word} {ws : List Word} {e : Reject} (hf : s.fetchFrame = .words w0 ws)
    (hd : decodeWords ws = .error e) :
    exec .notAnInstruction s = .next (s.trap ⟨7, false, w0.extractLsb' 0 2⟩ { code := 0x01, tval := w0 }) := by
  show execNotAnInstruction s = _
  unfold execNotAnInstruction
  rw [hf]
  dsimp only
  rw [hd]
  rfl

/-! ## A crew gives up its slot (R42) -/

/-- The same crews and strands are listed, and nothing else differs than what they hold. -/
structure SameKeys (s t : State) : Prop where
  crews : ∀ q, t.hasCrew q = s.hasCrew q
  strands : ∀ x, (sfind t.strands x).isSome = (sfind s.strands x).isSome
  rest : { t with strands := s.strands, crews := s.crews } = s
theorem SameKeys.refl (s : State) : SameKeys s s := ⟨fun _ => rfl, fun _ => rfl, rfl⟩
theorem SameKeys.trans {s t u : State} (h : SameKeys s t) (k : SameKeys t u) : SameKeys s u :=
  ⟨fun q => (k.crews q).trans (h.crews q), fun x => (k.strands x).trans (h.strands x),
    (congrArg (fun v : State => { v with strands := s.strands, crews := s.crews }) k.rest).trans h.rest⟩
theorem sfind_sput_isSome {α : Type} (m : Sparse α) (k j : Nat) (v : α) (h : (sfind m k).isSome = true) :
    (sfind (sput m k v) j).isSome = (sfind m j).isSome := by
  by_cases e : k = j
  · subst e
    rw [sfind_sput_self, h]
    rfl
  · rw [sfind_sput_ne _ _ e]
theorem SameKeys.modCrew {s : State} {c : Nat} (h : s.hasCrew c = true) (g : Crew → Crew) : SameKeys s (s.modCrew c g) :=
  ⟨fun q => sfind_sput_isSome _ _ q _ h, fun _ => rfl, rfl⟩
theorem SameKeys.modStrand {s : State} {x : Nat} (h : (sfind s.strands x).isSome = true) (g : Strand → Strand) : SameKeys s (s.modStrand x g) :=
  ⟨fun _ => rfl, fun y => sfind_sput_isSome _ _ y _ h, rfl⟩
theorem SameKeys.foldl {α : Type} {s t : State} {op : State → α → State} (hs : SameKeys s t) (l : List α)
    (h : ∀ u, SameKeys s u → ∀ a ∈ l, SameKeys u (op u a)) : SameKeys s (l.foldl op t) := by
  induction l generalizing t with
  | nil => exact hs
  | cons a l ih => exact ih (hs.trans (h t hs a List.mem_cons_self)) (fun u hu b hb => h u hu b (List.mem_cons_of_mem _ hb))
theorem isSome_of_liveLanes {s : State} {c y : Nat} (h : y ∈ s.liveLanes c) : (sfind s.strands y).isSome = true :=
  ((alive_iff s y).mp ((mem_liveLanes s c y).mp h).2).1
theorem setExt_keys {s : State} {c : Nat} (h : s.hasCrew c = true) (n : Nat) : SameKeys s (s.setExt c n) := by
  have hc := SameKeys.modCrew h (fun v => { v with ext := n })
  refine hc.foldl _ fun u hu y hy => SameKeys.modStrand ?_ _
  rw [hu.strands, ← hc.strands]
  exact isSome_of_liveLanes hy
theorem hasCrew_of_growReqs {s : State} {t : Nat} {r : Nat × Nat × Nat} (h : r ∈ s.growReqs t) : s.hasCrew r.1 = true := by
  obtain ⟨c, hc, hr⟩ := List.mem_filterMap.mp ((mem_sortBy _ _ _).mp h)
  obtain ⟨g, -, rfl⟩ := Option.map_eq_some_iff.mp hr
  exact ((mem_crewsOf s t c).mp hc).1
theorem grantAll_keys (s : State) (t : Nat) : SameKeys s (s.grantAll t) := by
  refine (SameKeys.refl s).foldl _ fun u hu r hr => ?_
  have hc : u.hasCrew r.1 = true := (hu.crews r.1).trans (hasCrew_of_growReqs hr)
  have hg := SameKeys.modCrew hc (fun v => { v with grow := none })
  split
  · exact hg
  · split
    · exact hg.trans (setExt_keys ((hg.crews r.1).trans hc) _)
    · exact SameKeys.refl u
theorem growDeadlock_keys (s : State) (t : Nat) : SameKeys s (s.growDeadlock t) := by
  unfold State.growDeadlock
  dsimp only
  split
  · exact SameKeys.refl s
  · split
    · exact SameKeys.refl s
    · rename_i r hr
      have hg := SameKeys.modCrew (hasCrew_of_growReqs (List.mem_of_getLast? hr)) (fun v => { v with grow := none })
      refine hg.foldl _ fun u hu y hy => SameKeys.modStrand ?_ _
      rw [hu.strands]
      exact isSome_of_liveLanes (List.mem_filter.mp hy).1
theorem allocate_keys (s : State) (t : Nat) : SameKeys s (s.allocate t) := (grantAll_keys s t).trans (growDeadlock_keys _ t)

/-- A crew without what its slot maps and its capabilities. -/
def State.unmapCrew (s : State) (c : Nat) : State :=
  (if (s.crew c).res = .resident then s.remapCrew c false else s).freeCaps (coreOfTroop (troopOfCrew c)) (fun e => e.crew == c)
/-- A table of strands without those of a crew, and with them from another table. -/
def crewStrands (c : Nat) (from_ into : Sparse Strand) : Sparse Strand :=
  (from_.filter (fun x => crewOf x.1 == c)).foldl (fun m x => sput m x.1 x.2) (into.filter (fun x => crewOf x.1 != c))
theorem removeCrew_eq (s : State) (c : Nat) : s.removeCrew c
    = { (s.unmapCrew c).severCrew c with
        crews := sdel ((s.unmapCrew c).severCrew c).crews c,
        strands := ((s.unmapCrew c).severCrew c).strands.filter (fun x => crewOf x.1 != c) }.modPast (troopOfCrew c)
          (fun p => { p with strands := crewStrands c ((s.unmapCrew c).severCrew c).strands p.strands }) := rfl
theorem unmapCrew_rest (s : State) (c : Nat) : { s.unmapCrew c with cores := s.cores } = s := by
  unfold State.unmapCrew
  split <;> rfl
/-- A capability, freed where it is the crew's (R326). -/
def Cap.freeOf (c n : Nat) (e : Cap) : Cap :=
  if e.live && e.crew == c then { e with live := false, gen := (e.gen + 1) % 2048, from_ := n } else e
theorem freeOf_live {c n : Nat} {e : Cap} (h : e.crew = c) : (e.freeOf c n).live = false := by
  unfold Cap.freeOf
  cases hl : e.live <;> simp [h, hl]
theorem freeCaps_caps (s : State) (k c e : Nat) :
    sget ((s.freeCaps k (fun e => e.crew == c)).core k).caps {} e = (sget (s.core k).caps {} e).freeOf c ((s.core k).cycle + 1) := by
  have hg : (fun e : Nat × Cap => if e.2.live && e.2.crew == c then
      (e.1, { e.2 with live := false, gen := (e.2.gen + 1) % 2048, from_ := (s.core k).cycle + 1 }) else e)
      = fun e => (e.1, e.2.freeOf c ((s.core k).cycle + 1)) := by
    funext e
    unfold Cap.freeOf
    split <;> rfl
  rw [State.freeCaps, modCore_core]
  dsimp only
  rw [hg]
  exact sget_map _ _ _ rfl e
theorem remapCrew_core (s : State) (c k : Nat) (b : Bool) : ∃ m, (s.remapCrew c b).core k = { s.core k with remap := m } := by
  unfold State.remapCrew
  dsimp only
  rw [core_modCore]
  split
  · rename_i e
    exact e ▸ ⟨_, rfl⟩
  · exact ⟨_, rfl⟩
theorem unmapCrew_caps {s : State} {c e : Nat} (h : (sget (s.core (coreOfTroop (troopOfCrew c))).caps {} e).crew = c) :
    (sget ((s.unmapCrew c).core (coreOfTroop (troopOfCrew c))).caps {} e).live = false := by
  unfold State.unmapCrew
  rw [freeCaps_caps]
  refine freeOf_live ?_
  split
  · obtain ⟨m, hm⟩ := remapCrew_core s c (coreOfTroop (troopOfCrew c)) false
    rw [hm]
    exact h
  · exact h
theorem severCrew_rest (s : State) (c : Nat) : { s.severCrew c with
    troops := s.troops, cores := s.cores, chanMsgs := s.chanMsgs, pinReqs := s.pinReqs, puts := s.puts, putAns := s.putAns } = s := rfl
theorem severCrew_troops (s : State) (c : Nat) : ∃ v, (s.severCrew c).troops = sput s.troops (troopOfCrew c) v
    ∧ v.spm = (s.troop (troopOfCrew c)).spm ∧ v.tiles = (s.troop (troopOfCrew c)).tiles := ⟨_, rfl, rfl, rfl⟩
theorem severCrew_cores (s : State) (c : Nat) : ∃ v, (s.severCrew c).cores = sput s.cores (coreOfTroop (troopOfCrew c)) v
    ∧ v.caps = (s.core (coreOfTroop (troopOfCrew c))).caps := ⟨_, rfl, rfl⟩
theorem severCrew_caps (s : State) (c : Nat) :
    ((s.severCrew c).core (coreOfTroop (troopOfCrew c))).caps = (s.core (coreOfTroop (troopOfCrew c))).caps := by
  obtain ⟨v, hv, hc⟩ := severCrew_cores s c
  rw [State.core, hv, sget_sput_self, hc]
theorem severCrew_same (s : State) (c : Nat) : SameBytes s (s.severCrew c) := by
  obtain ⟨v, hv, hspm, htiles⟩ := severCrew_troops s c
  have hu : SameBytes s (s.setTroop (troopOfCrew c) v) := by
    have h (q : Nat) : ((s.setTroop (troopOfCrew c) v).troop q).spm = (s.troop q).spm
        ∧ ((s.setTroop (troopOfCrew c) v).troop q).tiles = (s.troop q).tiles := by
      by_cases e : troopOfCrew c = q
      · subst e
        exact ⟨(congrArg Troop.spm (sget_sput_self ..)).trans hspm, (congrArg Troop.tiles (sget_sput_self ..)).trans htiles⟩
      · exact ⟨congrArg Troop.spm (sget_sput_ne _ _ _ e), congrArg Troop.tiles (sget_sput_ne _ _ _ e)⟩
    exact ⟨fun _ => rfl, fun _ => rfl, fun q a => congrArg (fun m => mbyte m a) (h q).1, fun q a => congrArg (fun m => mbyte m a) (h q).2, fun _ _ => rfl⟩
  exact hu.trans (SameBytes.of_tables rfl rfl rfl hv rfl)
/-- What a crew that gives up its slot leaves (R42, R412). -/
theorem removeCrew_strands (s : State) (c x : Nat) :
    sfind (s.removeCrew c).strands x = if crewOf x = c then none else sfind s.strands x := by
  have hst : ((s.unmapCrew c).severCrew c).strands = s.strands := (congrArg State.strands (unmapCrew_rest s c) :)
  have hrem : (s.removeCrew c).strands = s.strands.filter (fun x => crewOf x.1 != c) :=
    congrArg (List.filter (fun x : Nat × Strand => crewOf x.1 != c)) hst
  rw [hrem, sfind_filter_key _ (fun x => crewOf x != c)]
  by_cases e : crewOf x = c
  · rw [if_pos e, if_neg (by simp [e])]
  · rw [if_neg e, if_pos (by simpa using e)]
theorem removeCrew_hasCrew (s : State) (c q : Nat) : (s.removeCrew c).hasCrew q = (decide (q ≠ c) && s.hasCrew q) := by
  have hcr : ((s.unmapCrew c).severCrew c).crews = s.crews := (congrArg State.crews (unmapCrew_rest s c) :)
  have h : (s.removeCrew c).hasCrew q = (sfind (sdel ((s.unmapCrew c).severCrew c).crews c) q).isSome := rfl
  rw [h, hcr]
  by_cases e : q = c
  · subst e
    rw [sfind_sdel_self]
    simp
  · rw [sfind_sdel_ne _ (Ne.symm e), decide_eq_true e]
    rfl
theorem removeCrew_past {s : State} (h : srising s.strands = true) {c x : Nat} (hx : crewOf x = c) (hs : (sfind s.strands x).isSome = true) :
    sfind (sget (s.removeCrew c).past {} (troopOfCrew c)).strands x = sfind s.strands x := by
  have hst : ((s.unmapCrew c).severCrew c).strands = s.strands := (congrArg State.strands (unmapCrew_rest s c) :)
  obtain ⟨p, hp⟩ : ∃ p : Past, sget (s.removeCrew c).past {} (troopOfCrew c)
      = { p with strands := crewStrands c ((s.unmapCrew c).severCrew c).strands p.strands } := ⟨_, sget_sput_self ..⟩
  have hf := sfind_filter_key s.strands (fun x => crewOf x == c) x
  rw [if_pos (beq_iff_eq.mpr hx)] at hf
  rw [hp, crewStrands, hst, sfind_foldl_sput _ (srising_filter _ _ h), hf]
  obtain ⟨v, hv⟩ := Option.isSome_iff_exists.mp hs
  rw [hv]
  rfl
theorem removeCrew_caps {s : State} {c e : Nat} (h : (sget (s.core (coreOfTroop (troopOfCrew c))).caps {} e).crew = c) :
    (sget ((s.removeCrew c).core (coreOfTroop (troopOfCrew c))).caps {} e).live = false := by
  have hc : ((s.removeCrew c).core (coreOfTroop (troopOfCrew c))).caps = _ := severCrew_caps (s.unmapCrew c) c
  rw [hc]
  exact unmapCrew_caps h
theorem removeCrew_same (s : State) (c : Nat) : SameBytes s (s.removeCrew c) := by
  have hr := unmapCrew_rest s c
  have h1 : SameBytes s (s.unmapCrew c) := SameBytes.of_tables (congrArg State.slices hr :) (congrArg State.pmem hr :)
    (congrArg State.hostMem hr :) (congrArg State.troops hr :) (congrArg State.ctls hr :)
  exact (h1.trans (severCrew_same _ c)).trans (SameBytes.of_tables rfl rfl rfl rfl rfl)
theorem crewRelease_ends {s : State} (h1 : s.hasCrew s.ev.unit = true) (h2 : s.liveLanes s.ev.unit = []) (h3 : (s.crew s.ev.unit).ld = 0)
    (h4 : (s.crew s.ev.unit).st = 0) (h5 : (s.crew s.ev.unit).pt = 0) (h6 : (s.crew s.ev.unit).sq = []) (h7 : s.bankWaits s.ev.unit = false) :
    ∃ g, exec .crewRelease s = .next (((s.modDie (dieOfCore (coreOfTroop (troopOfCrew s.ev.unit))) g).removeCrew s.ev.unit).allocate
      (troopOfCrew s.ev.unit)) := by
  refine ⟨_, congrArg Host.Outcome.next (if_neg ?_)⟩
  rw [h1, h2, h3, h4, h5, h6, h7]
  decide
/-- What stands after the release: the blocks of the crew serve the others, which keep their strands. -/
theorem releaseCrew_leaves (s : State) (c : Nat) : let t := (s.removeCrew c).allocate (troopOfCrew c)
    SameBytes s t ∧ (∀ q, t.hasCrew q = (decide (q ≠ c) && s.hasCrew q)) ∧ (∀ x, crewOf x = c → sfind t.strands x = none)
    ∧ (srising s.strands = true → ∀ x, crewOf x = c → (sfind s.strands x).isSome = true →
        sfind (sget t.past {} (troopOfCrew c)).strands x = sfind s.strands x)
    ∧ ∀ e, (sget (s.core (coreOfTroop (troopOfCrew c))).caps {} e).crew = c →
        (sget (t.core (coreOfTroop (troopOfCrew c))).caps {} e).live = false := by
  have hsame := removeCrew_same s c
  have hcrew := removeCrew_hasCrew s c
  have hstrands := removeCrew_strands s c
  have hpast (h : srising s.strands = true) (x : Nat) := removeCrew_past (c := c) (x := x) h
  have hcaps (e : Nat) := removeCrew_caps (s := s) (c := c) (e := e)
  generalize s.removeCrew c = u at hsame hcrew hstrands hpast hcaps
  obtain ⟨hc, hst, hrest⟩ := allocate_keys u (troopOfCrew c)
  generalize u.allocate (troopOfCrew c) = t at hc hst hrest
  have hp : t.past = u.past := (congrArg State.past hrest :)
  have hcores : t.cores = u.cores := (congrArg State.cores hrest :)
  refine ⟨hsame.trans (SameBytes.of_eq ?_), fun q => (hc q).trans (hcrew q), fun x hx => ?_, fun hr x hx hs => ?_, fun e he => ?_⟩
  · exact congrArg (fun v : State => { v with units := u.units, cores := u.cores }) hrest
  · have hn := hst x
    rw [hstrands, if_pos hx] at hn
    exact Option.isSome_eq_false_iff.mp hn |> Option.isNone_iff_eq_none.mp
  · rw [hp]
    exact hpast hr x hx hs
  · rw [State.core, hcores]
    exact hcaps e he

/-! ## A troop retires (R42, R316) -/

theorem closeBind_free {s : State} {q h : Nat} (hk : s.kvBind q h = none) : s.closeBind q h = s := by
  unfold State.closeBind
  rw [hk]
theorem closeBinds_free {s : State} {q : Nat} (hk : (s.troop q).kv = []) (l : List Nat) : l.foldl (fun s h => s.closeBind q h) s = s := by
  induction l with
  | nil => rfl
  | cons h l ih =>
    have hb : s.kvBind q h = none := by
      rw [State.kvBind, hk]
      rfl
    rw [List.foldl_cons, closeBind_free hb]
    exact ih
/-- A troop without handles leaves its memories, and no other table than these changes. -/
theorem removeTroop_leaves {s : State} {q : Nat} (hk : (s.troop q).kv = []) :
    { s.removeTroop q with cores := s.cores, troops := s.troops, past := s.past } = s ∧ (s.removeTroop q).troops = sdel s.troops q
    ∧ (sget (s.removeTroop q).past {} q).spm = (s.troop q).spm ∧ (sget (s.removeTroop q).past {} q).tiles = (s.troop q).tiles
    ∧ (sget (s.removeTroop q).past {} q).acc = (s.troop q).acc ∧ (sget (s.removeTroop q).past {} q).hitches = (s.troop q).hitches := by
  unfold State.removeTroop
  rw [closeBinds_free hk]
  have hp (u : State) (f : Past → Past) : sget (u.modPast q f).past {} q = f (sget u.past {} q) := sget_sput_self ..
  refine ⟨rfl, rfl, ?_⟩
  dsimp only
  rw [hp]
  exact ⟨rfl, rfl, rfl, rfl⟩
theorem devEvent_devq {s : State} {d : Nat} (h : (s.die d).devq.length < 4096) (kind sl tag v : Nat) :
    ((s.devEvent d kind sl tag v).die d).devq = (s.die d).devq ++ [devRecord kind sl tag v] := by
  have hd : (s.devEvent d kind sl tag v).die d = _ := sget_sput_self ..
  rw [hd]
  exact congrArg Die.devq (if_pos h)
theorem modLaunch_launchAt {s : State} {n : Nat} {l : Launch} (h : s.launchAt n = some l) (g : Launch → Launch) :
    (s.modLaunch n g).launchAt n = some (g l) ∧ { s.modLaunch n g with launches := s.launches } = s := by
  have hm : s.modLaunch n g = { s with launches := sput s.launches n (g l) } := by
    unfold State.modLaunch
    rw [show sfind s.launches n = some l from h]
  rw [hm]
  exact ⟨sfind_sput_self .., rfl⟩
theorem settleLaunch_open {s : State} {n : Nat} {l : Launch} (h : s.launchAt n = some l) (hc : l.closing = none)
    (hr : l.retired.length ≠ l.troops) : s.settleLaunch n = .next s := by
  unfold State.settleLaunch
  rw [h]
  dsimp only
  rw [hc]
  dsimp only
  rw [if_neg hr]
/-- A launch with one more troop retired. -/
def Launch.retire (l : Launch) (index : Nat) (lost : Bool) : Launch :=
  { l with retired := index :: l.retired, tilelost := l.tilelost || lost }
/-- The report of a retired troop. -/
def State.reportRetired (s : State) (d slot lid index : Nat) (lost : Bool) : State :=
  (s.devEvent d 2 slot 0 index).modLaunch lid (fun l => l.retire index lost)
theorem reportRetired_leaves {s : State} {d slot lid index : Nat} {lost : Bool} {l : Launch} (hl : s.launchAt lid = some l)
    (hd : (s.die d).devq.length < 4096) : let t := s.reportRetired d slot lid index lost
    { t with dies := s.dies, launches := s.launches } = s ∧ (t.die d).devq = (s.die d).devq ++ [devRecord 2 slot 0 index]
    ∧ t.launchAt lid = some (l.retire index lost) := by
  have hq := devEvent_devq hd 2 slot 0 index
  obtain ⟨u, hu⟩ : ∃ u, u = s.devEvent d 2 slot 0 index := ⟨_, rfl⟩
  have hr : { u with dies := s.dies } = s := hu ▸ rfl
  have hlu : u.launchAt lid = some l := (congrArg (fun m => sfind m lid) (congrArg State.launches hr :)).trans hl
  obtain ⟨hlt, hrest⟩ := modLaunch_launchAt hlu (fun l => l.retire index lost)
  rw [State.reportRetired, ← hu]
  rw [← hu] at hq
  have hdies : (u.modLaunch lid (fun l => l.retire index lost)).dies = u.dies := (congrArg State.dies hrest :)
  refine ⟨?_, ?_, hlt⟩
  · exact (congrArg (fun v : State => { v with dies := s.dies, launches := s.launches }) hrest).trans
      ((congrArg (fun v : State => { v with launches := s.launches }) hr).trans rfl)
  · rw [State.die, hdies]
    exact hq
/-- Troop `q` retires where nothing of it is left. -/
theorem troopRetire_ends {s : State} {q : Nat} (hq : s.ev.unit = q) (h1 : (sfind s.troops q).isSome = true) (h2 : (s.troop q).res = .resident)
    (h3 : s.crewsOf q = []) (h4 : s.opsLeft q = false) (h5 : s.troopStores q = false) (h6 : s.bankDue q = false) :
    exec .troopRetire s = ((s.removeTroop q).reportRetired (dieOfCore (coreOfTroop q)) (coreOfTroop q % 64) (s.troop q).lid (s.troop q).index
      (s.troop q).tilelost).settleLaunch (s.troop q).lid := by
  subst hq
  refine if_neg ?_
  obtain ⟨v, hv⟩ := Option.isSome_iff_exists.mp h1
  rw [hv, h2, h3, h4, h5, h6]
  exact Bool.false_ne_true

/-! ## A bin becomes a crew (R306) -/

/-- The registers a request starts its strand with. -/
def startRegs (ws : List Word) : Sparse Word := ((List.range 8).zip ws).filter (fun e => e.2 != 0)
theorem sget_zip_range (ws : List Word) (j m y : Nat) : sget (((List.range' j m).zip ws).filter (fun e => e.2 != 0)) 0 y
    = if j ≤ y ∧ y < j + m then ws.getD (y - j) 0 else 0 := by
  induction ws generalizing j m with
  | nil => simp [sget, sfind]
  | cons w ws ih =>
    cases m with
    | zero => simp [sget, sfind]
    | succ m =>
      rw [List.range'_succ, List.zip_cons_cons]
      have hrest := ih (j + 1) m
      by_cases hy : y = j
      · subst hy
        rw [if_neg (by omega)] at hrest
        rw [if_pos (by omega), Nat.sub_self]
        by_cases hw : w = 0
        · rw [List.filter_cons_of_neg (by simp [hw]), hrest, hw]
          rfl
        · rw [List.filter_cons_of_pos (by simpa using hw), sget, sfind, if_pos rfl]
          rfl
      · have htail : sget (((j, w) :: (List.range' (j + 1) m).zip ws).filter (fun e => e.2 != 0)) 0 y
            = sget (((List.range' (j + 1) m).zip ws).filter (fun e => e.2 != 0)) 0 y := by
          rw [List.filter_cons]
          split
          · rw [sget, sfind, if_neg (Ne.symm hy)]
            rfl
          · rfl
        rw [htail, hrest]
        by_cases hin : j + 1 ≤ y ∧ y < j + 1 + m
        · rw [if_pos hin, if_pos (by omega), show y - j = (y - (j + 1)) + 1 by omega, List.getD_cons_succ]
        · rw [if_neg hin, if_neg (by omega)]
theorem sget_startRegs (ws : List Word) {r : Nat} (h : r < 8) : sget (startRegs ws) 0 r = ws.getD r 0 := by
  have hz := sget_zip_range ws 0 8 r
  rw [if_pos (by omega)] at hz
  rw [startRegs, List.range_eq_range', hz, Nat.sub_zero]
/-- Strands put at consecutive numbers. -/
def State.setStrands (s : State) (b : Nat) (l : List (Nat × Strand)) : State := l.foldl (fun s x => s.setStrand (b + x.1) x.2) s
theorem setStrands_strand (l : List Strand) (s : State) (b j y : Nat) : (s.setStrands b ((List.range' j l.length).zip l)).strand y
    = if b + j ≤ y ∧ y < b + j + l.length then l.getD (y - (b + j)) {} else s.strand y := by
  induction l generalizing s j with
  | nil => rw [if_neg (by simp)]; rfl
  | cons v l ih =>
    have hstep : s.setStrands b ((List.range' j (v :: l).length).zip (v :: l)) = (s.setStrand (b + j) v).setStrands b ((List.range' (j + 1) l.length).zip l) := rfl
    rw [hstep, ih, List.length_cons]
    by_cases hy : y = b + j
    · subst hy
      rw [if_neg (by omega), if_pos (by omega), Nat.sub_self]
      exact sget_sput_self ..
    · by_cases hin : b + (j + 1) ≤ y ∧ y < b + (j + 1) + l.length
      · rw [if_pos hin, if_pos (by omega), show y - (b + j) = (y - (b + (j + 1))) + 1 by omega, List.getD_cons_succ]
      · rw [if_neg hin, if_neg (by omega)]
        exact sget_sput_ne _ _ _ (Ne.symm hy)
theorem setStrands_rest (s : State) (b : Nat) (l : List (Nat × Strand)) : { s.setStrands b l with strands := s.strands } = s := by
  induction l generalizing s with
  | nil => rfl
  | cons e l ih => exact congrArg (fun v : State => { v with strands := s.strands }) (ih (s.setStrand (b + e.1) e.2))
theorem joinRot_rest (s : State) (c : Nat) : { s.joinRot c with troops := s.troops } = s := by
  unfold State.joinRot
  dsimp only
  split <;> rfl
theorem joinRot_same (s : State) (c : Nat) : SameBytes s (s.joinRot c) := by
  unfold State.joinRot
  dsimp only
  split
  · refine modTroop_same _ ?_
    exact fun _ => ⟨rfl, rfl⟩
  · exact SameBytes.refl s
/-- A crew of strands that start, one for each of `l`. -/
def State.spawnCrew (s : State) (c : Nat) (v : Crew) (l : List Strand) : State :=
  ((s.addCrew c v ((List.range l.length).zip l)).joinRot c).wakeAll ((List.range l.length).map (· + 32 * c))
theorem addCrew_eq (s : State) (c : Nat) (v : Crew) (l : List (Nat × Strand)) :
    s.addCrew c v l = ((s.setCrew c v).remapCrew c true).setStrands (32 * c) l := rfl
theorem spawnCrew_leaves (s : State) (c : Nat) (v : Crew) (l : List Strand) : let t := s.spawnCrew c v l
    SameBytes s t ∧ t.crews = sput s.crews c v ∧ (∀ k, (t.core k).bins = (s.core k).bins) ∧ (∀ n, (h : n < l.length) →
      ∃ m, t.strand (32 * c + n) = { l[n] with life := .eligible, stamp := m, wait := .none }) := by
  intro t
  obtain ⟨u, hu⟩ : ∃ u, u = s.addCrew c v ((List.range l.length).zip l) := ⟨_, rfl⟩
  have hadd : u = ((s.setCrew c v).remapCrew c true).setStrands (32 * c) ((List.range l.length).zip l) := hu
  have hset := setStrands_rest ((s.setCrew c v).remapCrew c true) (32 * c) ((List.range l.length).zip l)
  rw [← hadd] at hset
  have hjoin := joinRot_rest u c
  have hwake := wakeAll_rest (u.joinRot c) ((List.range l.length).map (· + 32 * c))
  have ht : t = (u.joinRot c).wakeAll ((List.range l.length).map (· + 32 * c)) := by rw [hu]; rfl
  rw [← ht] at hwake
  have hcores : t.cores = ((s.setCrew c v).remapCrew c true).cores :=
    (congrArg State.cores hwake :).trans ((congrArg State.cores hjoin :).trans (congrArg State.cores hset :))
  have hcrews : t.crews = ((s.setCrew c v).remapCrew c true).crews :=
    (congrArg State.crews hwake :).trans ((congrArg State.crews hjoin :).trans (congrArg State.crews hset :))
  refine ⟨?_, hcrews, fun k => ?_, fun n hn => ?_⟩
  · have h1 : SameBytes s u := SameBytes.of_tables (congrArg State.slices hset :) (congrArg State.pmem hset :) (congrArg State.hostMem hset :)
      (congrArg State.troops hset :) (congrArg State.ctls hset :)
    exact (h1.trans (joinRot_same u c)).trans (ht ▸ wakeAll_same ..)
  · obtain ⟨m, hm⟩ := remapCrew_core (s.setCrew c v) c k true
    rw [State.core, hcores, ← State.core, hm]
    rfl
  · have hw := wakeAll_strand (u.joinRot c) ((List.range l.length).map (· + 32 * c)) (32 * c + n)
    have hmem : 32 * c + n ∈ (List.range l.length).map (· + 32 * c) := List.mem_map.mpr ⟨n, List.mem_range.mpr hn, Nat.add_comm ..⟩
    rw [if_pos hmem, ← ht] at hw
    obtain ⟨m, hm⟩ := hw
    have hst : (u.joinRot c).strand (32 * c + n) = l[n] := by
      have h1 : (u.joinRot c).strands = u.strands := (congrArg State.strands hjoin :)
      rw [State.strand, h1, ← State.strand, hadd, List.range_eq_range', setStrands_strand, if_pos (by omega), Nat.add_zero, Nat.add_sub_cancel_left]
      exact List.getD_eq_getElem _ _ hn
    rw [hst] at hm
    exact ⟨m, hm⟩
/-- The strand of one request of a bin. -/
def startStrand (key : BitVec 128) (ws : List Word) : Strand := { pc := pcOf (keyEntry key), regs := startRegs ws }
theorem paddockLaunch_spawns {s : State} {b : Bin} (hb : sfind (s.core s.ev.unit).bins s.ev.item = some b) (hstill : s.still s.ev.unit = false)
    (hsv : (s.troop b.troop).saving = false) (hres : (s.troop b.troop).res = .resident) (hreq : b.reqs ≠ []) (hdue : b.due = true)
    (hfree : s.freeBlocks b.troop ≠ 0) (hsaved : ∀ c ∈ s.crewsOf b.troop, (s.crew c).res ≠ .saved) {i u : Nat} (hi : s.spawnIndex b.troop = some i)
    (hu : let us := s.unitsFor b.troop (roleOf (keyRole (sget (s.troop b.troop).keys 0 b.key)))
      (us.find? (· == s.ev.aux)).or us.head? = some u) :
    ∃ v : Crew, v.role = roleOf (keyRole (sget (s.troop b.troop).keys 0 b.key)) ∧ v.unit = u ∧ v.res = .resident
      ∧ exec .paddockLaunch s = .next ((s.modCore s.ev.unit (fun q => { q with bins := sdel q.bins s.ev.item })).spawnCrew (64 * b.troop + i) v
          (b.reqs.map (startStrand (sget (s.troop b.troop).keys 0 b.key)))) := by
  have hany : (s.crewsOf b.troop).any (fun c => (s.crew c).res == .saved) = false := by
    rw [List.any_eq_false]
    exact fun c hc => by simpa using hsaved c hc
  have hreq : b.reqs.isEmpty = false := by simpa using hreq
  have hgo : (!b.due || b.reqs.isEmpty || (s.troop b.troop).res != .resident || (s.troop b.troop).saving || s.still s.ev.unit
      || (s.crewsOf b.troop).any (fun c => (s.crew c).res == .saved) || s.freeBlocks b.troop == 0) = false := by
    rw [hdue, hreq, hres, hsv, hstill, hany, beq_eq_false_iff_ne.mpr hfree]
    rfl
  refine ⟨{ role := roleOf (keyRole (sget (s.troop b.troop).keys 0 b.key)), unit := u, slot := (s.slotsFree s.ev.unit u).headD 0,
            k := extK (s.launchOf b.troop).ext }, rfl, rfl, rfl, ?_⟩
  show execPaddockLaunch s = _
  unfold execPaddockLaunch
  dsimp only
  rw [hb]
  dsimp only
  rw [hgo, if_neg Bool.false_ne_true, hi, hu]
  dsimp only
  rw [State.spawnCrew, List.length_map]
  rfl
theorem paddockTimerExpiry_due {s : State} {b : Bin} (hb : sfind (s.core s.ev.unit).bins s.ev.item = some b) (hstill : s.still s.ev.unit = false)
    (hsv : (s.troop b.troop).saving = false) (hres : (s.troop b.troop).res = .resident) (hreq : b.reqs ≠ []) (hdue : b.due = false)
    (ht : b.timer = some 0) :
    exec .paddockTimerExpiry s = .next (s.modCore s.ev.unit (fun q => { q with bins := sput q.bins s.ev.item { b with due := true } })) := by
  have hreq : b.reqs.isEmpty = false := by simpa using hreq
  have hgo : (b.timer != some 0 || b.reqs.isEmpty || b.due || s.still s.ev.unit || (s.troop b.troop).saving
      || (s.troop b.troop).res != .resident) = false := by
    rw [ht, hreq, hdue, hstill, hsv, hres]
    rfl
  show execPaddockTimerExpiry s = _
  unfold execPaddockTimerExpiry
  dsimp only
  rw [hb]
  dsimp only
  rw [hgo, if_neg Bool.false_ne_true]

/-- Settles O45: a released crew leaves what `removeCrew` leaves, since the allocation after it lists no other crew or strand (`SameKeys`). -/
theorem strandsAndTroopsBeginAndEnd : Obligations.StrandsAndTroopsBeginAndEnd := by
  intro s
  refine ⟨?_, fun w0 ws e hf hd hc => ⟨_, notAnInstruction_traps hf hd, trap_took _ _ hc⟩, ?_, ?_, ?_⟩
  · intro x up hst hm r hl hw
    have he := operandAvailable_due hl hw
    refine ⟨fun h => ⟨s.toEligible x, he.trans (congrArg _ (if_pos ⟨h, by rw [hst]; rfl, hm⟩)), toEligible_strand s x,
      fun y hy => toEligible_strand_ne s hy, SameBytes.of_eq rfl⟩, fun h => he.trans (congrArg _ (if_neg fun q => h q.1))⟩
  · intro c h1 h2 h3 h4 h5 h6 h7
    obtain ⟨g, hg⟩ := crewRelease_ends h1 h2 h3 h4 h5 h6 h7
    obtain ⟨k1, k2, k3, k4, k5⟩ := releaseCrew_leaves (s.modDie (dieOfCore (coreOfTroop (troopOfCrew c))) g) c
    exact ⟨_, hg, (SameBytes.of_tables rfl rfl rfl rfl rfl).trans k1, (k2 c).trans (by simp), k3,
      fun q hq => (k2 q).trans (by rw [decide_eq_true hq]; rfl), k4, k5⟩
  · intro q v k h1 h2 h3 h4 h5 h6 hkv hdev l hl hcl hcount
    have he : exec .troopRetire s = _ := troopRetire_ends rfl h1 h2 h3 h4 h5 h6
    obtain ⟨hrest, htroops, hpast⟩ := removeTroop_leaves hkv
    generalize State.removeTroop _ _ = w at he hrest htroops hpast
    have hlw : w.launchAt v.lid = some l := (congrArg (fun m => sfind m v.lid) (congrArg State.launches hrest :)).trans hl
    have hd : w.die (dieOfCore k) = s.die (dieOfCore k) := congrArg (fun m => sget m ({} : Die) (dieOfCore k)) (congrArg State.dies hrest :)
    obtain ⟨hrest2, hdevq, hlaunch⟩ := reportRetired_leaves (slot := k % 64) (index := v.index) (lost := v.tilelost) hlw (hd.symm ▸ hdev)
    rw [settleLaunch_open hlaunch hcl hcount] at he
    generalize w.reportRetired _ _ _ _ _ = t at he hrest2 hdevq hlaunch
    have htr : t.troops = sdel s.troops q := (congrArg State.troops hrest2 :).trans htroops
    have hpa : t.past = w.past := (congrArg State.past hrest2 :)
    refine ⟨t, he, ?_, fun p hp => ?_, ?_, pbyte_congr ?_ ?_, ?_, hlaunch, hpa ▸ hpast⟩
    · rw [htr]
      exact sfind_sdel_self ..
    · rw [State.troop, htr, sget, sfind_sdel_ne _ (Ne.symm hp)]
      rfl
    · exact (congrArg State.strands hrest2 :).trans (congrArg State.strands hrest :)
    · exact (congrArg State.slices hrest2 :).trans (congrArg State.slices hrest :)
    · exact (congrArg State.pmem hrest2 :).trans (congrArg State.pmem hrest :)
    · exact hd ▸ hdevq
  · intro k b hb hst hsv hres hreq
    refine ⟨fun hdue ht => ⟨_, paddockTimerExpiry_due hb hst hsv hres hreq hdue ht, modCore_same _ _ _, rfl, rfl, ?_⟩, ?_⟩
    · rw [modCore_core]
      exact sfind_sput_self ..
    · intro hdue hfree hsaved key us i u hi hu c
      obtain ⟨v, hv1, hv2, hv3, he⟩ := paddockLaunch_spawns hb hst hsv hres hreq hdue hfree hsaved hi hu
      obtain ⟨hsame, hcrews, hbins, hstr⟩ := spawnCrew_leaves (s.modCore k (fun q => { q with bins := sdel q.bins s.ev.item })) c v (b.reqs.map (startStrand key))
      generalize State.spawnCrew _ _ _ _ = t at he hsame hcrews hbins hstr
      have hcrew : t.crew c = v := by
        rw [State.crew, hcrews]
        exact sget_sput_self ..
      refine ⟨t, he, (modCore_same _ _ _).trans hsame, ?_, ?_, hcrew ▸ hv1, hcrew ▸ hv2, hcrew ▸ hv3, fun n hn => ?_⟩
      · rw [hbins, modCore_core]
        exact sfind_sdel_self ..
      · rw [State.hasCrew, hcrews, sfind_sput_self]
        rfl
      · obtain ⟨m, hm⟩ := hstr n (by rw [List.length_map]; exact hn)
        rw [List.getElem_map] at hm
        refine ⟨by rw [hm]; rfl, by rw [hm], fun r hr _ => ?_⟩
        rw [State.rdX, hm, List.getD_eq_getElem _ _ hn]
        exact sget_startRegs _ hr
end Sys2Proof.Machine
end

section
namespace Sys2Proof.Machine

/-! ## NaN operands and infinities (R51, R52, R118, R126) -/

theorem isNan_eq_true {w : Word} : isNan w = true ↔ ∃ n, fval w = .nan n := by
  unfold isNan
  cases fval w <;> simp
theorem isNan_of_fin {w : Word} {neg : Bool} {m : Nat} {e : Int} (h : fval w = .fin neg m e) : isNan w = false := by
  unfold isNan
  rw [h]
theorem firstNan_cons_nan {w : Word} (h : isNan w = true) (ws : List Word) : firstNan (w :: ws) = some (w ||| 0x00400000) := if_pos h
theorem firstNan_cons_of_not_nan {w : Word} (h : isNan w = false) (ws : List Word) : firstNan (w :: ws) = firstNan ws :=
  if_neg (by simp [h])
theorem firstNan_pair {a b : Word} (ha : isNan a = false) (hb : isNan b = false) : firstNan [a, b] = none := by
  rw [firstNan_cons_of_not_nan ha, firstNan_cons_of_not_nan hb, firstNan]

/-- R52: the operations of two operands return the NaN their list gives. -/
theorem binary_firstNan {a b n : Word} (rm : Rm) (h : firstNan [a, b] = some n) : f32add rm a b = n ∧ f32sub a b = n
    ∧ f32mul rm a b = n ∧ f32div rm a b = n ∧ f32min a b = n ∧ f32max a b = n := by
  unfold f32add f32addSrc f32sub f32mul f32mulSrc f32div f32min f32max
  rw [h]
  exact ⟨rfl, rfl, rfl, rfl, rfl, rfl⟩
theorem f32fma_firstNan {a b c n : Word} (rm : Rm) (h : firstNan [a, b, c] = some n) : f32fma rm a b c = n := by
  unfold f32fma
  rw [h]
theorem unary_nan {a : Word} (rm : Rm) (h : isNan a = true) : f32sqrt a = a ||| 0x00400000 ∧ f32rnd rm a = a ||| 0x00400000 := by
  obtain ⟨n, hn⟩ := isNan_eq_true.mp h
  unfold f32sqrt f32rnd
  rw [hn]
  exact ⟨rfl, rfl⟩

theorem fval_posInf : fval 0x7F800000 = .inf false := by decide
theorem fval_negInf : fval 0xFF800000 = .inf true := by decide
theorem fval_posZero : fval 0 = .fin false 0 (-149) := by decide
theorem fval_negZero : fval 0x80000000 = .fin true 0 (-149) := by decide

/-- R51: infinity minus infinity. -/
theorem f32add_opposite_infinities (rm : Rm) : f32add rm 0x7F800000 0xFF800000 = 0x7FC00003 := by
  unfold f32add f32addSrc roundSum
  rw [firstNan_pair (by decide) (by decide), fval_posInf, fval_negInf]
  have hclash : valSum rm [.inf false, .inf true] = .clash := rfl
  rw [hclash]
  rfl
theorem f32sub_equal_infinities : f32sub 0x7F800000 0x7F800000 = 0x7FC00003 := by
  unfold f32sub
  rw [firstNan_pair (by decide) (by decide)]
  exact f32add_opposite_infinities .rne
/-- R51: zero times infinity, the sum's third operand being no NaN. -/
theorem f32mul_zero_infinity (rm : Rm) : f32mul rm 0 0x7F800000 = 0x7FC00004 := by
  unfold f32mul f32mulSrc
  rw [firstNan_pair (by decide) (by decide), fval_posZero, fval_posInf]
  rfl
theorem f32fma_infinity_zero (rm : Rm) {c : Word} (hc : isNan c = false) : f32fma rm 0x7F800000 0 c = 0x7FC00004 := by
  unfold f32fma
  rw [firstNan_cons_of_not_nan (by decide), firstNan_pair (by decide) hc, fval_posZero, fval_posInf]
  rfl
/-- R51: zero over zero, infinity over infinity and the root of a negative value. -/
theorem f32div_zero_zero (rm : Rm) : f32div rm 0 0 = 0x7FC00000 := by
  unfold f32div
  rw [firstNan_pair (by decide) (by decide), fval_posZero]
  rfl
theorem f32div_infinities (rm : Rm) : f32div rm 0x7F800000 0xFF800000 = 0x7FC00000 := by
  unfold f32div
  rw [firstNan_pair (by decide) (by decide), fval_posInf, fval_negInf]
  rfl
theorem f32sqrt_minus_one : f32sqrt 0xBF800000 = 0x7FC00000 := by decide

/-- A code that is no NaN, zero or infinity has the finite nonzero value of its sign bit. -/
theorem fval_nonzero {a : Word} (hn : isNan a = false) (h0 : a.extractLsb' 0 31 ≠ 0) (hi : a.extractLsb' 0 31 ≠ 0x7F800000) :
    ∃ m e, fval a = .fin (a.getLsbD 31) m e ∧ m ≠ 0 := by
  have h0 : a.toNat % 2 ^ 31 ≠ 0 := fun h => h0 (BitVec.eq_of_toNat_eq (by simpa using h))
  have hi : a.toNat % 2 ^ 31 ≠ 0x7F800000 := fun h => hi (BitVec.eq_of_toNat_eq (by simpa using h))
  have hexp : (a.toNat >>> 23) % 2 ^ 8 = a.toNat / 2 ^ 23 % 2 ^ 8 := by rw [Nat.shiftRight_eq_div_pow]
  unfold isNan fval fdecode fp32 at hn
  unfold fval fdecode fp32
  dsimp only at hn ⊢
  rw [hexp] at hn ⊢
  by_cases htop : a.toNat / 2 ^ 23 % 2 ^ 8 = 2 ^ 8 - 1
  · by_cases hm : a.toNat % 2 ^ 23 = 0
    · omega
    · rw [if_pos htop, if_neg hm] at hn
      cases hn
  · rw [if_neg htop]
    by_cases hz : a.toNat / 2 ^ 23 % 2 ^ 8 = 0
    · rw [if_pos hz]
      exact ⟨_, _, rfl, by omega⟩
    · rw [if_neg hz]
      exact ⟨_, _, rfl, by omega⟩
/-- R118: a finite nonzero value over a zero is the infinity of the signs' product. -/
theorem f32div_by_zero (rm : Rm) {a z : Word} {na nz : Bool} {m : Nat} {e ez : Int} (ha : fval a = .fin na m e) (hm : m ≠ 0)
    (hz : fval z = .fin nz 0 ez) : f32div rm a z = w32 (fmtInf fp32 (na != nz)) := by
  unfold f32div
  rw [firstNan_pair (isNan_of_fin ha) (isNan_of_fin hz), ha, hz]
  exact (if_pos rfl).trans (if_neg hm)

/-- Settles O5: the first NaN of the operands is what each function returns (`binary_firstNan`); without one, the operands' values
select the generated NaN or the infinity. -/
theorem floatNanAndInfinity : Obligations.FloatNanAndInfinity := by
  refine ⟨fun rm a b c ha => ?_, fun rm a b c ha hb => ?_, fun rm a b c ha hb hc => ?_, fun rm c hc => ?_, fun rm a hn h0 hi => ?_⟩
  · obtain ⟨hadd, hsub, hmul, hdiv, hmin, hmax⟩ := binary_firstNan rm (firstNan_cons_nan ha [b])
    obtain ⟨hsqrt, hrnd⟩ := unary_nan rm ha
    exact ⟨hadd, hsub, hmul, hdiv, f32fma_firstNan rm (firstNan_cons_nan ha [b, c]), hsqrt, hrnd, hmin, hmax⟩
  · obtain ⟨hadd, hsub, hmul, hdiv, hmin, hmax⟩ :=
      binary_firstNan rm ((firstNan_cons_of_not_nan ha [b]).trans (firstNan_cons_nan hb []))
    exact ⟨hadd, hsub, hmul, hdiv,
      f32fma_firstNan rm ((firstNan_cons_of_not_nan ha [b, c]).trans (firstNan_cons_nan hb [c])), hmin, hmax⟩
  · refine f32fma_firstNan rm ?_
    rw [firstNan_cons_of_not_nan ha, firstNan_cons_of_not_nan hb, firstNan_cons_nan hc]
  · exact ⟨f32add_opposite_infinities rm, f32sub_equal_infinities, f32mul_zero_infinity rm, f32fma_infinity_zero rm hc,
      f32div_zero_zero rm, f32div_infinities rm, f32sqrt_minus_one⟩
  · obtain ⟨m, e, ha, hm⟩ := fval_nonzero hn h0 hi
    rw [f32div_by_zero rm ha hm fval_posZero, f32div_by_zero rm ha hm fval_negZero]
    cases a.getLsbD 31 <;> exact ⟨by decide, by decide⟩
end Sys2Proof.Machine
end

section
namespace Sys2Proof.Machine

/-! ## Rounding a rational magnitude (R47, R125) -/

/-- A magnitude rounded to an integer by mode. -/
def roundMag (rm : Rm) (neg : Bool) (y : ℚ) : ℕ :=
  match rm with
  | .rne => if 1 / 2 < y - ⌊y⌋₊ ∨ (y - ⌊y⌋₊ = 1 / 2 ∧ ⌊y⌋₊ % 2 = 1) then ⌊y⌋₊ + 1 else ⌊y⌋₊
  | .rz => ⌊y⌋₊
  | .rd => if neg then ⌈y⌉₊ else ⌊y⌋₊
  | .ru => if neg then ⌊y⌋₊ else ⌈y⌉₊

theorem roundMag_natCast (rm : Rm) (neg : Bool) (z : ℕ) : roundMag rm neg z = z := by
  unfold roundMag
  rw [Nat.floor_natCast, Nat.ceil_natCast, sub_self]
  cases rm with
  | rne => exact if_neg (by norm_num)
  | rz => rfl
  | rd => exact ite_self z
  | ru => exact ite_self z
/-- Every mode answers the floor or the ceiling. -/
theorem floor_le_roundMag (rm : Rm) (neg : Bool) (y : ℚ) : ⌊y⌋₊ ≤ roundMag rm neg y := by
  have hfc := Nat.floor_le_ceil y
  unfold roundMag
  cases rm with
  | rz => exact le_rfl
  | rne | rd | ru => dsimp only; split <;> omega
theorem roundMag_le_floor_add_one (rm : Rm) (neg : Bool) (y : ℚ) : roundMag rm neg y ≤ ⌊y⌋₊ + 1 := by
  have hcf := Nat.ceil_le_floor_add_one y
  unfold roundMag
  cases rm with
  | rz => exact Nat.le_succ _
  | rne | rd | ru => dsimp only; split <;> omega
theorem abs_roundMag_rne_sub (neg : Bool) {y : ℚ} (hy : 0 ≤ y) : |(roundMag .rne neg y : ℚ) - y| ≤ 1 / 2 := by
  have hle := Nat.floor_le hy
  have hlt := Nat.lt_floor_add_one y
  unfold roundMag
  dsimp only
  rw [abs_le]
  split
  case isTrue h =>
    have hhalf : 1 / 2 ≤ y - ⌊y⌋₊ := h.elim le_of_lt fun h => h.1.ge
    push_cast
    constructor <;> linarith
  case isFalse h =>
    have hhalf : y - ⌊y⌋₊ ≤ 1 / 2 := not_lt.mp fun h' => h (.inl h')
    constructor <;> linarith
/-- Nearest-even rounding gives an integer that no other is nearer than. -/
theorem abs_roundMag_rne_sub_le (neg : Bool) {y : ℚ} (hy : 0 ≤ y) (z : ℤ) : |(roundMag .rne neg y : ℚ) - y| ≤ |z - y| := by
  have hq := abs_roundMag_rne_sub neg hy
  by_cases hz : z = roundMag .rne neg y
  · rw [hz, Int.cast_natCast]
  · have hone : (1 : ℚ) ≤ |(z : ℚ) - roundMag .rne neg y| := by
      exact_mod_cast Int.one_le_abs (sub_ne_zero.mpr hz)
    have htri := abs_sub_le (z : ℚ) y (roundMag .rne neg y)
    rw [abs_sub_comm y] at htri
    linarith

theorem ceil_natCast_div (n : ℕ) {d : ℕ} (hd : 0 < d) : ⌈(n : ℚ) / d⌉₊ = if n % d = 0 then n / d else n / d + 1 := by
  have hd' : (0 : ℚ) < d := by exact_mod_cast hd
  have hdm := Nat.div_add_mod n d
  have hlt := Nat.mod_lt n hd
  split
  case isTrue h =>
    rw [← Nat.cast_div (Nat.dvd_of_mod_eq_zero h) hd'.ne', Nat.ceil_natCast]
  case isFalse h =>
    rw [Nat.ceil_eq_iff (Nat.add_one_ne_zero _), Nat.add_sub_cancel, lt_div_iff₀ hd', div_le_iff₀ hd']
    have hlow : n / d * d < n := by rw [Nat.mul_comm]; omega
    have hhigh : n ≤ (n / d + 1) * d := by rw [Nat.mul_comm]; exact (Nat.lt_mul_div_succ n hd).le
    exact ⟨by exact_mod_cast hlow, by exact_mod_cast hhigh⟩
/-- The model's rounding of a quotient is that of the rational. -/
theorem roundUp_eq_roundMag (rm : Rm) (neg : Bool) (n : ℕ) {d : ℕ} (hd : 0 < d) :
    (if roundUp rm neg (n / d) (n % d) d then n / d + 1 else n / d) = roundMag rm neg ((n : ℚ) / d) := by
  have hd' : (0 : ℚ) < d := by exact_mod_cast hd
  have hfrac : (n : ℚ) / d - (n / d : ℕ) = (n % d : ℕ) / d := by
    rw [div_sub' hd'.ne', div_left_inj' hd'.ne', sub_eq_iff_eq_add]
    exact_mod_cast (Nat.mod_add_div n d).symm
  unfold roundUp roundMag
  rw [Nat.floor_div_eq_div, ceil_natCast_div n hd, hfrac]
  cases rm with
  | rne =>
    have hgt : (1 / 2 : ℚ) < (n % d : ℕ) / d ↔ 2 * (n % d) > d := by
      rw [div_lt_div_iff₀ two_pos hd', one_mul, mul_comm]
      exact_mod_cast Iff.rfl
    have heq : ((n % d : ℕ) / d : ℚ) = 1 / 2 ↔ 2 * (n % d) = d := by
      rw [div_eq_div_iff hd'.ne' two_ne_zero, one_mul, mul_comm]
      exact_mod_cast Iff.rfl
    simp only [hgt, heq, Bool.or_eq_true, Bool.and_eq_true, decide_eq_true_iff, beq_iff_eq]
  | rz => rfl
  | rd => cases neg <;> simp
  | ru => cases neg <;> simp

/-! ## The grid of a format (R46, R49) -/

/-- The exponent of one unit at the magnitude `v`. -/
def gridExp (f : Fmt) (v : ℚ) : ℤ := max (Int.log 2 v - f.mw) (fmtEmin f)
/-- `v` on the grid of a format with no upper limit. -/
def gridOf (f : Fmt) (rm : Rm) (neg : Bool) (v : ℚ) : ℕ × ℤ :=
  let q := roundMag rm neg (v / 2 ^ gridExp f v)
  if q = 2 ^ (f.mw + 1) then (2 ^ f.mw, gridExp f v + 1) else (q, gridExp f v)

theorem zpow_log2_le {n : ℕ} (h : 0 < n) : (2 : ℚ) ^ (n.log2 : ℤ) ≤ n := by
  exact_mod_cast Nat.log2_self_le h.ne'
theorem lt_zpow_log2_succ (n : ℕ) : (n : ℚ) < 2 ^ ((n.log2 : ℤ) + 1) := by
  exact_mod_cast Nat.lt_log2_self
theorem int_log_eq_of_mem {v : ℚ} {l : ℤ} (hle : 2 ^ l ≤ v) (hlt : v < 2 ^ (l + 1)) : Int.log 2 v = l := by
  have hv : 0 < v := lt_of_lt_of_le (by positivity) hle
  have h1 := (Int.zpow_le_iff_le_log (R := ℚ) one_lt_two hv).mp (by exact_mod_cast hle)
  have h2 := (Int.lt_zpow_iff_log_lt (R := ℚ) one_lt_two hv).mp (by exact_mod_cast hlt)
  omega
theorem int_log_mul_zpow {v : ℚ} (hv : 0 < v) (e : ℤ) : Int.log 2 (v * 2 ^ e) = Int.log 2 v + e := by
  have hle : (2 : ℚ) ^ Int.log 2 v ≤ v := by exact_mod_cast Int.zpow_log_le_self (R := ℚ) one_lt_two hv
  have hlt : v < 2 ^ (Int.log 2 v + 1) := by exact_mod_cast Int.lt_zpow_succ_log_self (R := ℚ) one_lt_two v
  have he : (0 : ℚ) < 2 ^ e := by positivity
  refine int_log_eq_of_mem ?_ ?_
  · rw [zpow_add₀ two_ne_zero]
    exact mul_le_mul_of_nonneg_right hle he.le
  · rw [add_right_comm, zpow_add₀ two_ne_zero _ e]
    exact mul_lt_mul_of_pos_right hlt he
/-- The model's test for the leading digit of a quotient: whether the quotient reaches 2^l. -/
theorem shifted_le_iff (n : ℕ) {d : ℕ} (hd : 0 < d) (l : ℤ) :
    (if 0 ≤ l then decide (n ≥ d <<< l.toNat) else decide (n <<< (-l).toNat ≥ d)) = true ↔ (2 : ℚ) ^ l ≤ n / d := by
  have hd' : (0 : ℚ) < d := by exact_mod_cast hd
  rw [le_div_iff₀ hd']
  split
  case isTrue h =>
    obtain ⟨j, rfl⟩ := Int.eq_ofNat_of_zero_le h
    rw [decide_eq_true_iff, Int.toNat_natCast, Nat.shiftLeft_eq, mul_comm, zpow_natCast]
    exact_mod_cast Iff.rfl
  case isFalse h =>
    obtain ⟨j, hj⟩ := Int.eq_ofNat_of_zero_le (show 0 ≤ -l by omega)
    obtain rfl : l = -(j : ℤ) := by omega
    rw [decide_eq_true_iff, neg_neg, Int.toNat_natCast, Nat.shiftLeft_eq, zpow_neg, zpow_natCast, inv_mul_le_iff₀ (by positivity), mul_comm]
    exact_mod_cast Iff.rfl
theorem int_log_div {n d : ℕ} (hn : 0 < n) (hd : 0 < d) : Int.log 2 ((n : ℚ) / d)
    = if (2 : ℚ) ^ ((n.log2 : ℤ) - d.log2) ≤ n / d then (n.log2 : ℤ) - d.log2 else (n.log2 : ℤ) - d.log2 - 1 := by
  have hd' : (0 : ℚ) < d := by exact_mod_cast hd
  have hnle := zpow_log2_le hn
  have hnlt := lt_zpow_log2_succ n
  have hdle := zpow_log2_le hd
  have hdlt := lt_zpow_log2_succ d
  split
  case isTrue h =>
    refine int_log_eq_of_mem h ?_
    rw [div_lt_iff₀ hd']
    calc (n : ℚ) < 2 ^ ((n.log2 : ℤ) + 1) := hnlt
      _ = 2 ^ ((n.log2 : ℤ) - d.log2 + 1) * 2 ^ (d.log2 : ℤ) := by rw [← zpow_add₀ two_ne_zero]; congr 1; ring
      _ ≤ 2 ^ ((n.log2 : ℤ) - d.log2 + 1) * d := mul_le_mul_of_nonneg_left hdle (by positivity)
  case isFalse h =>
    refine int_log_eq_of_mem ?_ (by rw [sub_add_cancel]; exact not_le.mp h)
    rw [le_div_iff₀ hd']
    calc (2 : ℚ) ^ ((n.log2 : ℤ) - d.log2 - 1) * d ≤ 2 ^ ((n.log2 : ℤ) - d.log2 - 1) * 2 ^ ((d.log2 : ℤ) + 1) :=
          mul_le_mul_of_nonneg_left hdlt.le (by positivity)
      _ = 2 ^ (n.log2 : ℤ) := by rw [← zpow_add₀ two_ne_zero]; congr 1; ring
      _ ≤ n := hnle
/-- The model's scaled quotient. -/
theorem shifted_quotient (n d : ℕ) (k : ℤ) :
    (((if 0 ≤ k then n <<< k.toNat else n : ℕ) : ℚ) / (if 0 ≤ k then d else d <<< (-k).toNat : ℕ))
    = n / d * 2 ^ k := by
  split
  case isTrue h =>
    obtain ⟨j, rfl⟩ := Int.eq_ofNat_of_zero_le h
    rw [Int.toNat_natCast, Nat.shiftLeft_eq, zpow_natCast]
    push_cast
    ring
  case isFalse h =>
    obtain ⟨j, hj⟩ := Int.eq_ofNat_of_zero_le (show 0 ≤ -k by omega)
    obtain rfl : k = -(j : ℤ) := by omega
    rw [neg_neg, Int.toNat_natCast, Nat.shiftLeft_eq, zpow_neg, zpow_natCast]
    push_cast
    rw [← div_eq_mul_inv, div_div]
/-- What the model rounds depends on the rational value alone. -/
theorem roundGrid_eq_gridOf (f : Fmt) (rm : Rm) (neg : Bool) {n d : ℕ} (hn : 0 < n) (hd : 0 < d) (e : ℤ) :
    roundGrid f rm neg n d e = gridOf f rm neg ((n : ℚ) / d * 2 ^ e) := by
  have hv : (0 : ℚ) < n / d := by positivity
  unfold roundGrid gridOf gridExp
  simp only [shifted_le_iff n hd, ← int_log_div hn hd, ← int_log_mul_zpow hv]
  generalize max (Int.log 2 (_ : ℚ) - _) _ = t
  have hpos : 0 < (if 0 ≤ e - t then d else d <<< (-(e - t)).toNat) := by
    split
    · exact hd
    · rw [Nat.shiftLeft_eq]
      positivity
  rw [roundUp_eq_roundMag rm neg _ hpos, shifted_quotient, zpow_sub₀ two_ne_zero, mul_div_assoc]
end Sys2Proof.Machine
end

section
namespace Sys2Proof.Machine

/-! ## The codes of a format and the points of its grid (R46) -/

/-- The code of a sign, an exponent field and a mantissa field. -/
def fcode (f : Fmt) (neg : Bool) (ex man : ℕ) : ℕ := (if neg then 2 ^ (f.ew + f.mw) else 0) + ex * 2 ^ f.mw + man
/-- What a finite value's integer and exponent may be but for the largest exponent: below 2^mw only at the smallest exponent. -/
structure GridPoint (f : Fmt) (q : ℕ) (t : ℤ) : Prop where
  lt : q < 2 ^ (f.mw + 1)
  emin_le : fmtEmin f ≤ t
  eq_emin : q < 2 ^ f.mw → t = fmtEmin f
/-- The exponent of one unit of the largest finite values. -/
def fmtEtop (f : Fmt) : ℤ := fmtEmin f + (2 ^ f.ew : ℕ) - 3

section
variable {f : Fmt} {ex man : ℕ}

theorem fcode_eq (f : Fmt) (neg : Bool) (ex man : ℕ) : fcode f neg ex man = man + 2 ^ f.mw * (ex + 2 ^ f.ew * neg.toNat) := by
  unfold fcode
  cases neg
  · rw [if_neg Bool.false_ne_true, Bool.toNat_false]
    ring
  · rw [if_pos rfl, Bool.toNat_true]
    ring
theorem fcode_mod (neg : Bool) (ex : ℕ) (hman : man < 2 ^ f.mw) : fcode f neg ex man % 2 ^ f.mw = man := by
  rw [fcode_eq, Nat.add_mul_mod_self_left, Nat.mod_eq_of_lt hman]
theorem fcode_shiftRight (neg : Bool) (ex : ℕ) (hman : man < 2 ^ f.mw) : fcode f neg ex man >>> f.mw = ex + 2 ^ f.ew * neg.toNat := by
  rw [fcode_eq, Nat.shiftRight_eq_div_pow, Nat.add_mul_div_left _ _ (by positivity), Nat.div_eq_of_lt hman, Nat.zero_add]
theorem fcode_testBit (neg : Bool) (hex : ex < 2 ^ f.ew) (hman : man < 2 ^ f.mw) : (fcode f neg ex man).testBit (f.ew + f.mw) = neg := by
  rw [Nat.add_comm, ← Nat.testBit_shiftRight, fcode_shiftRight neg ex hman, Nat.testBit_eq_decide_div_mod_eq,
    Nat.add_mul_div_left _ _ (by positivity), Nat.div_eq_of_lt hex, Nat.zero_add]
  cases neg <;> rfl
/-- Every code has a sign, an exponent field and a mantissa field. -/
theorem exists_fcode {w : ℕ} (hw : w < 2 ^ (1 + f.ew + f.mw)) :
    ∃ neg ex man, ex < 2 ^ f.ew ∧ man < 2 ^ f.mw ∧ w = fcode f neg ex man := by
  have hsign : w / 2 ^ f.mw / 2 ^ f.ew < 2 := by
    rw [Nat.div_div_eq_div_mul]
    refine Nat.div_lt_of_lt_mul ?_
    calc w < 2 ^ (1 + f.ew + f.mw) := hw
      _ = 2 ^ f.mw * 2 ^ f.ew * 2 := by ring
  have hbit : (decide (w / 2 ^ f.mw / 2 ^ f.ew = 1)).toNat = w / 2 ^ f.mw / 2 ^ f.ew := by
    generalize w / 2 ^ f.mw / 2 ^ f.ew = s at hsign
    interval_cases s <;> rfl
  refine ⟨decide (w / 2 ^ f.mw / 2 ^ f.ew = 1), w / 2 ^ f.mw % 2 ^ f.ew, w % 2 ^ f.mw, Nat.mod_lt _ (by positivity),
    Nat.mod_lt _ (by positivity), ?_⟩
  rw [fcode_eq, hbit, Nat.mod_add_div, Nat.mod_add_div]
theorem fdecode_fcode (neg : Bool) (hex : ex < 2 ^ f.ew) (hman : man < 2 ^ f.mw) : fdecode f (fcode f neg ex man) =
    if ex = 2 ^ f.ew - 1 then (if man = 0 then .inf neg else .nan (fcode f neg ex man))
    else if ex = 0 then .fin neg man (fmtEmin f) else .fin neg (man + 2 ^ f.mw) (fmtEmin f + ex - 1) := by
  unfold fdecode
  rw [fcode_mod neg ex hman, fcode_testBit neg hex hman, fcode_shiftRight neg ex hman, Nat.add_mul_mod_self_left, Nat.mod_eq_of_lt hex]

theorem fdecode_fmtInf (f : Fmt) (neg : Bool) : fdecode f (fmtInf f neg) = .inf neg := by
  have hex : 2 ^ f.ew - 1 < 2 ^ f.ew := Nat.sub_lt (by positivity) one_pos
  exact (fdecode_fcode neg hex (by positivity)).trans ((if_pos rfl).trans (if_pos rfl))
theorem fdecode_fmtMax (hew : 1 < f.ew) (neg : Bool) : fdecode f (fmtMax f neg) = .fin neg (2 ^ (f.mw + 1) - 1) (fmtEtop f) := by
  have h4 : 4 ≤ 2 ^ f.ew := Nat.pow_le_pow_right two_pos hew
  have hpos : 0 < 2 ^ f.mw := by positivity
  have hcode : fmtMax f neg = fcode f neg (2 ^ f.ew - 2) (2 ^ f.mw - 1) := by
    have hmul : (2 ^ f.ew - 1) * 2 ^ f.mw = (2 ^ f.ew - 2) * 2 ^ f.mw + 2 ^ f.mw := by
      rw [← Nat.succ_mul]
      congr 1
      omega
    unfold fmtMax fmtInf fcode
    omega
  rw [hcode, fdecode_fcode neg (by omega) (by omega), if_neg (by omega), if_neg (by omega), fmtEtop]
  congr 1
  · rw [pow_succ]
    omega
  · rw [Nat.cast_sub (by omega)]
    push_cast
    ring

/-- Below the overflow, the code of a grid point has its fields. -/
theorem packGrid_eq_fcode (rm : Rm) (neg : Bool) {q : ℕ} {t : ℤ} (h : GridPoint f q t) (htop : t ≤ fmtEtop f) :
    packGrid f rm neg q t = if q < 2 ^ f.mw then fcode f neg 0 q else fcode f neg (t - fmtEmin f + 1).toNat (q - 2 ^ f.mw) := by
  have hemin := h.emin_le
  unfold packGrid
  dsimp only
  split
  case isTrue => rw [fcode, Nat.zero_mul, Nat.add_zero]
  case isFalse =>
    unfold fmtEtop at htop
    rw [if_neg (by omega), fcode]
theorem fdecode_packGrid (rm : Rm) (neg : Bool) {q : ℕ} {t : ℤ} (h : GridPoint f q t) (htop : t ≤ fmtEtop f) (hew : 1 < f.ew) :
    fdecode f (packGrid f rm neg q t) = .fin neg q t := by
  obtain ⟨hlt, hemin, hsub⟩ := h
  have h4 : 4 ≤ 2 ^ f.ew := Nat.pow_le_pow_right two_pos hew
  rw [packGrid_eq_fcode rm neg ⟨hlt, hemin, hsub⟩ htop]
  rw [pow_succ] at hlt
  split
  case isTrue hq => rw [fdecode_fcode neg (by omega) hq, if_neg (by omega), if_pos rfl, hsub hq]
  case isFalse hq =>
    unfold fmtEtop at htop
    rw [fdecode_fcode neg (by omega) (by omega), if_neg (by omega), if_neg (by omega)]
    congr 1 <;> omega
/-- A finite code holds a grid point, whose code it is. -/
theorem packGrid_fdecode (rm : Rm) {w m : ℕ} {neg : Bool} {e : ℤ} (h : fdecode f w = .fin neg m e) (hw : w < 2 ^ (1 + f.ew + f.mw))
    (hew : 1 < f.ew) : GridPoint f m e ∧ e ≤ fmtEtop f ∧ packGrid f rm neg m e = w := by
  have h4 : 4 ≤ 2 ^ f.ew := Nat.pow_le_pow_right two_pos hew
  have hpow := pow_succ 2 f.mw
  obtain ⟨s, ex, man, hex, hman, rfl⟩ := exists_fcode hw
  rw [fdecode_fcode s hex hman] at h
  split at h
  case isTrue => split at h <;> cases h
  case isFalse hinf =>
    split at h
    case isTrue hz =>
      cases h
      have hgrid : GridPoint f m (fmtEmin f) := ⟨by omega, le_rfl, fun _ => rfl⟩
      have htop : fmtEmin f ≤ fmtEtop f := by unfold fmtEtop; omega
      exact ⟨hgrid, htop, by rw [packGrid_eq_fcode rm neg hgrid htop, if_pos hman, hz]⟩
    case isFalse hz =>
      cases h
      have hgrid : GridPoint f (man + 2 ^ f.mw) (fmtEmin f + ex - 1) := ⟨by omega, by omega, by omega⟩
      have htop : fmtEmin f + ex - 1 ≤ fmtEtop f := by unfold fmtEtop; omega
      refine ⟨hgrid, htop, ?_⟩
      rw [packGrid_eq_fcode rm neg hgrid htop, if_neg (by omega), Nat.add_sub_cancel]
      congr 1
      omega
end
end Sys2Proof.Machine
end

section
namespace Sys2Proof.Machine

/-! ## Where a magnitude lies on the grid (R46, R47) -/

section
variable {f : Fmt} {v : ℚ}

theorem fmtEmin_le_gridExp (f : Fmt) (v : ℚ) : fmtEmin f ≤ gridExp f v := le_max_right _ _
theorem div_gridExp_lt (f : Fmt) (v : ℚ) : v / 2 ^ gridExp f v < 2 ^ (f.mw + 1) := by
  have hle : Int.log 2 v + 1 ≤ (f.mw + 1 : ℕ) + gridExp f v := by
    have hmax := le_max_left (Int.log 2 v - f.mw) (fmtEmin f)
    rw [gridExp]
    push_cast
    omega
  rw [div_lt_iff₀ (by positivity), ← zpow_natCast, ← zpow_add₀ two_ne_zero]
  exact lt_of_lt_of_le (by exact_mod_cast Int.lt_zpow_succ_log_self (R := ℚ) one_lt_two v) (zpow_le_zpow_right₀ one_le_two hle)
/-- Above the smallest exponent the grid holds the leading digit. -/
theorem le_div_gridExp (hv : 0 < v) (h : gridExp f v ≠ fmtEmin f) : 2 ^ f.mw ≤ v / 2 ^ gridExp f v := by
  have hlog : (f.mw : ℤ) + gridExp f v = Int.log 2 v := by
    unfold gridExp at h ⊢
    omega
  rw [le_div_iff₀ (by positivity), ← zpow_natCast, ← zpow_add₀ two_ne_zero, hlog]
  exact_mod_cast Int.zpow_log_le_self (R := ℚ) one_lt_two hv
theorem abs_mul_gridExp_sub (f : Fmt) (v y : ℚ) : |y * 2 ^ gridExp f v - v| = |y - v / 2 ^ gridExp f v| * 2 ^ gridExp f v := by
  have hpos : (0 : ℚ) < 2 ^ gridExp f v := by positivity
  rw [← abs_of_pos hpos, ← abs_mul, abs_of_pos hpos, sub_mul, div_mul_cancel₀ _ hpos.ne']

theorem gridOf_gridPoint (f : Fmt) (rm : Rm) (neg : Bool) (hv : 0 < v) :
    GridPoint f (gridOf f rm neg v).1 (gridOf f rm neg v).2 := by
  have hpow := pow_succ 2 f.mw
  have hpos : 0 < 2 ^ f.mw := by positivity
  have hemin := fmtEmin_le_gridExp f v
  have hfloor : ⌊v / 2 ^ gridExp f v⌋₊ < 2 ^ (f.mw + 1) :=
    (Nat.floor_lt (by positivity)).mpr (by exact_mod_cast div_gridExp_lt f v)
  have hle := roundMag_le_floor_add_one rm neg (v / 2 ^ gridExp f v)
  have hge := floor_le_roundMag rm neg (v / 2 ^ gridExp f v)
  unfold gridOf
  dsimp only
  split
  · exact ⟨by omega, by omega, by omega⟩
  · refine ⟨by omega, hemin, fun hsub => ?_⟩
    by_contra hne
    have hlead : 2 ^ f.mw ≤ ⌊v / 2 ^ gridExp f v⌋₊ := Nat.le_floor (by exact_mod_cast le_div_gridExp hv hne)
    omega
theorem gridOf_value (f : Fmt) (rm : Rm) (neg : Bool) (v : ℚ) : ((gridOf f rm neg v).1 : ℚ) * 2 ^ (gridOf f rm neg v).2
    = roundMag rm neg (v / 2 ^ gridExp f v) * 2 ^ gridExp f v := by
  unfold gridOf
  dsimp only
  split
  case isTrue h =>
    rw [h, zpow_add_one₀ two_ne_zero]
    push_cast
    ring
  case isFalse => rfl
/-- A grid point is its own rounding. -/
theorem gridOf_of_gridPoint (rm : Rm) (neg : Bool) {m : ℕ} {e : ℤ} (h : GridPoint f m e) (hm : 0 < m) :
    gridOf f rm neg (m * 2 ^ e) = (m, e) := by
  have hexp : gridExp f (m * 2 ^ e) = e := by
    obtain ⟨hlt, hemin, hsub⟩ := h
    have hlog : Int.log 2 (m * 2 ^ e : ℚ) = Nat.log 2 m + e := by
      rw [int_log_mul_zpow (by exact_mod_cast hm), Int.log_natCast]
    have hupper : Nat.log 2 m < f.mw + 1 := Nat.log_lt_of_lt_pow hm.ne' hlt
    rw [gridExp, hlog]
    by_cases hq : m < 2 ^ f.mw
    · have he := hsub hq
      omega
    · have hlower : f.mw ≤ Nat.log 2 m := Nat.le_log_of_pow_le one_lt_two (not_lt.mp hq)
      omega
  unfold gridOf
  rw [hexp, mul_div_assoc, div_self (by positivity), mul_one, roundMag_natCast]
  exact if_neg h.lt.ne
end

/-! ## Rounding depends on the value, and keeps what the format holds -/

theorem roundQ_eq_packGrid (f : Fmt) (rm : Rm) (neg : Bool) {n d : ℕ} (hn : 0 < n) (hd : 0 < d) (e : ℤ) : roundQ f rm neg n d e
    = packGrid f rm neg (gridOf f rm neg (n / d * 2 ^ e)).1 (gridOf f rm neg (n / d * 2 ^ e)).2 := by
  unfold roundQ
  rw [if_neg hn.ne', roundGrid_eq_gridOf f rm neg hn hd]
theorem roundQ_zero (f : Fmt) (rm : Rm) (neg : Bool) (d : ℕ) (e : ℤ) : roundQ f rm neg 0 d e = fcode f neg 0 0 := by
  rw [roundQ, if_pos rfl, fcode, Nat.zero_mul, Nat.add_zero]
theorem roundQ_congr (f : Fmt) (rm : Rm) (neg : Bool) {n d n' d' : ℕ} {e e' : ℤ} (hd : 0 < d) (hd' : 0 < d')
    (h : (n : ℚ) / d * 2 ^ e = n' / d' * 2 ^ e') : roundQ f rm neg n d e = roundQ f rm neg n' d' e' := by
  have hzero : n = 0 ↔ n' = 0 := by
    have hpos : (d : ℚ) ≠ 0 ∧ (d' : ℚ) ≠ 0 := by constructor <;> positivity
    have h0 : (n : ℚ) / d * 2 ^ e = 0 ↔ (n' : ℚ) / d' * 2 ^ e' = 0 := by rw [h]
    simpa [hpos.1, hpos.2, zpow_ne_zero] using h0
  by_cases hn : n = 0
  · rw [hn, hzero.mp hn, roundQ_zero, roundQ_zero]
  · have hn' : n' ≠ 0 := fun h => hn (hzero.mpr h)
    rw [roundQ_eq_packGrid f rm neg (Nat.pos_of_ne_zero hn) hd, roundQ_eq_packGrid f rm neg (Nat.pos_of_ne_zero hn') hd', h]
/-- R46, R47: a value the format holds rounds to its code in every mode. -/
theorem roundQ_fdecode {f : Fmt} (rm : Rm) {w m : ℕ} {neg : Bool} {e : ℤ} (h : fdecode f w = .fin neg m e)
    (hw : w < 2 ^ (1 + f.ew + f.mw)) (hew : 1 < f.ew) : roundQ f rm neg m 1 e = w := by
  obtain ⟨hgrid, htop, hpack⟩ := packGrid_fdecode rm h hw hew
  by_cases hm : m = 0
  · subst hm
    rw [packGrid_eq_fcode rm neg hgrid htop, if_pos (by positivity)] at hpack
    rw [roundQ_zero, hpack]
  · have hm := Nat.pos_of_ne_zero hm
    rw [roundQ_eq_packGrid f rm neg hm one_pos, Nat.cast_one, div_one, gridOf_of_gridPoint rm neg hgrid hm, hpack]

theorem w32_roundQ_fval (rm : Rm) {a : Word} {neg : Bool} {m : ℕ} {e : ℤ} (h : fval a = .fin neg m e) :
    w32 (roundQ fp32 rm neg m 1 e) = a := by
  rw [roundQ_fdecode rm h a.isLt (by decide), w32, BitVec.ofNat_toNat, BitVec.setWidth_eq]

/-! ## Sums of equal exact values -/

theorem foldl_min_replicate (x : Exact) (k : ℕ) : (List.replicate k x).foldl (fun a x => min a x.e) x.e = x.e := by
  induction k with
  | zero => rfl
  | succ k ih => rw [List.replicate_succ, List.foldl_cons, min_self, ih]
theorem foldl_exactInt_replicate (x : Exact) (e : ℤ) (k : ℕ) (z : ℤ) :
    (List.replicate k x).foldl (fun a x => a + exactInt x e) z = z + k * exactInt x e := by
  induction k generalizing z with
  | zero => simp
  | succ k ih =>
    rw [List.replicate_succ, List.foldl_cons, ih]
    push_cast
    ring
theorem exactInt_self (x : Exact) : exactInt x x.e = if x.neg then -(x.m : ℤ) else x.m := by
  unfold exactInt
  rw [sub_self]
  rfl
/-- A sum of one value with itself keeps its sign, a zero's too. -/
theorem exactSum_replicate (rm : Rm) (x : Exact) (k : ℕ) : exactSum rm (List.replicate (k + 1) x) = { x with m := (k + 1) * x.m } := by
  have hmin : (x :: List.replicate k x).foldl (fun a x => min a x.e) x.e = x.e := foldl_min_replicate x (k + 1)
  have hsum := foldl_exactInt_replicate x x.e (k + 1) 0
  rw [exactInt_self, zero_add, List.replicate_succ] at hsum
  unfold exactSum
  rw [List.replicate_succ]
  dsimp only
  rw [hmin, hsum]
  obtain ⟨neg, m, e⟩ := x
  by_cases hm : m = 0
  · subst hm
    cases neg <;> simp
  · have hpos : 0 < (k + 1) * m := Nat.mul_pos k.succ_pos (Nat.pos_of_ne_zero hm)
    have hcast : ((k + 1 : ℕ) : ℤ) * m = ((k + 1) * m : ℕ) := by push_cast; rfl
    cases neg with
    | true =>
      rw [if_pos rfl, mul_neg, hcast, if_neg (by omega), decide_eq_true (by omega), Int.natAbs_neg, Int.natAbs_natCast]
    | false =>
      rw [if_neg Bool.false_ne_true, hcast, if_neg (by omega), decide_eq_false (by omega), Int.natAbs_natCast]
theorem roundSum_fin (f : Fmt) (rm : Rm) (clash : ℕ) (neg : Bool) (m : ℕ) (e : ℤ) :
    roundSum f rm clash [.fin neg m e] = roundQ f rm neg m 1 e := by
  have hsum : valSum rm [.fin neg m e] = .exact (exactSum rm (List.replicate 1 ⟨neg, m, e⟩)) := rfl
  rw [roundSum, hsum, exactSum_replicate, zero_add, one_mul]
  rfl
theorem roundSum_fin_twice (f : Fmt) (rm : Rm) (clash : ℕ) (neg : Bool) (m : ℕ) (e : ℤ) :
    roundSum f rm clash [.fin neg m e, .fin neg m e] = roundQ f rm neg (2 * m) 1 e := by
  have hsum : valSum rm [.fin neg m e, .fin neg m e] = .exact (exactSum rm (List.replicate 2 ⟨neg, m, e⟩)) := by
    cases neg <;> rfl
  rw [roundSum, hsum, exactSum_replicate]
  rfl

theorem fval_one : fval 0x3F800000 = .fin false (2 ^ 23) (-23) := by decide

section
variable {a : Word} {neg : Bool} {m : ℕ} {e : ℤ} (h : fval a = .fin neg m e) (rm : Rm)
include h

theorem f32mul_one : f32mul rm a 0x3F800000 = a := by
  unfold f32mul f32mulSrc
  rw [firstNan_pair (isNan_of_fin h) (isNan_of_fin fval_one), h, fval_one]
  refine (congrArg w32 (roundSum_fin fp32 rm 0 (neg != false) (m * 2 ^ 23) (e + -23))).trans ?_
  rw [Bool.bne_false, roundQ_congr fp32 rm neg one_pos one_pos (n' := m) (e' := e), w32_roundQ_fval rm h]
  rw [zpow_add₀ two_ne_zero]
  norm_num
  ring
theorem f32div_one : f32div rm a 0x3F800000 = a := by
  unfold f32div
  rw [firstNan_pair (isNan_of_fin h) (isNan_of_fin fval_one), h, fval_one]
  refine (if_neg (by decide)).trans ?_
  rw [Bool.bne_false, roundQ_congr fp32 rm neg (by decide) one_pos (n' := m) (e' := e), w32_roundQ_fval rm h]
  rw [sub_neg_eq_add, zpow_add₀ two_ne_zero]
  norm_num
  ring
theorem f32ldexp_zero : f32ldexp rm a 0 = a := by
  unfold f32ldexp
  rw [h]
  refine Eq.trans ?_ (w32_roundQ_fval rm h)
  exact congrArg (fun k => w32 (roundQ fp32 rm neg m 1 k)) (add_zero e)
theorem f32add_self : f32add rm a a = f32ldexp rm a 1 := by
  unfold f32add f32addSrc f32ldexp
  rw [firstNan_pair (isNan_of_fin h) (isNan_of_fin h), h]
  refine congrArg w32 ((roundSum_fin_twice fp32 rm _ neg m e).trans (roundQ_congr fp32 rm neg one_pos one_pos ?_))
  have hone : max (-1000) (min 1000 (1 : ℤ)) = 1 := rfl
  rw [hone, zpow_add_one₀ two_ne_zero]
  push_cast
  ring
end

/-- Settles O6: a value the format holds is a point of its grid (`packGrid_fdecode`), and the grid's points round to themselves. -/
theorem roundingKeepsRepresentable : Obligations.RoundingKeepsRepresentable :=
  ⟨fun _ rm _ _ _ _ _ hew hw h => roundQ_fdecode rm h hw hew,
    fun rm _ _ _ _ h => ⟨f32mul_one h rm, f32div_one h rm, f32ldexp_zero h rm, f32add_self h rm⟩⟩
end Sys2Proof.Machine
end

section
namespace Sys2Proof.Machine

/-! ## No code lies closer than the rounded one (R47, R125) -/

section
variable {f : Fmt} {v : ℚ} {mc : ℕ} {kc : ℤ}

/-- A code's value lies on the grid at `v`, or below the leading digit of `v`, which is on it. -/
theorem GridPoint.mem_grid_or_le (h : GridPoint f mc kc) (hv : 0 < v) : (∃ z : ℤ, (mc : ℚ) * 2 ^ kc = z * 2 ^ gridExp f v)
    ∨ (mc : ℚ) * 2 ^ kc ≤ (2 ^ f.mw : ℕ) * 2 ^ gridExp f v ∧ (2 ^ f.mw : ℕ) * 2 ^ gridExp f v ≤ v := by
  obtain ⟨hlt, hemin, -⟩ := h
  by_cases hk : gridExp f v ≤ kc
  · left
    obtain ⟨j, hj⟩ := Int.le.dest hk
    refine ⟨mc * 2 ^ j, ?_⟩
    rw [← hj, zpow_add₀ two_ne_zero, zpow_natCast]
    push_cast
    ring
  · right
    have hlead := le_div_gridExp hv (show gridExp f v ≠ fmtEmin f by omega)
    rw [le_div_iff₀ (by positivity)] at hlead
    refine ⟨?_, by exact_mod_cast hlead⟩
    calc (mc : ℚ) * 2 ^ kc ≤ (2 ^ (f.mw + 1) : ℕ) * 2 ^ kc := mul_le_mul_of_nonneg_right (by exact_mod_cast hlt.le) (by positivity)
      _ = (2 ^ f.mw : ℕ) * 2 ^ (kc + 1) := by
        rw [zpow_add_one₀ two_ne_zero]
        push_cast
        ring
      _ ≤ (2 ^ f.mw : ℕ) * 2 ^ gridExp f v :=
        mul_le_mul_of_nonneg_left (zpow_le_zpow_right₀ one_le_two (by omega)) (by positivity)
theorem gridOf_rne_nearest (h : GridPoint f mc kc) (hv : 0 < v) (neg : Bool) :
    |((gridOf f .rne neg v).1 : ℚ) * 2 ^ (gridOf f .rne neg v).2 - v| ≤ |mc * 2 ^ kc - v| := by
  have hnear (z : ℤ) : |(roundMag .rne neg (v / 2 ^ gridExp f v) : ℚ) * 2 ^ gridExp f v - v| ≤ |z * 2 ^ gridExp f v - v| := by
    rw [abs_mul_gridExp_sub, abs_mul_gridExp_sub]
    exact mul_le_mul_of_nonneg_right (abs_roundMag_rne_sub_le neg (by positivity) z) (by positivity)
  rw [gridOf_value]
  obtain ⟨z, hz⟩ | ⟨hcode, hlead⟩ := h.mem_grid_or_le hv
  · exact hz ▸ hnear z
  · refine (hnear (2 ^ f.mw : ℕ)).trans ?_
    rw [Int.cast_natCast, abs_sub_comm, abs_sub_comm _ v, abs_of_nonneg (sub_nonneg.mpr hlead), abs_of_nonneg (by linarith)]
    linarith
theorem gridOf_rz_le (f : Fmt) (hv : 0 < v) (neg : Bool) : ((gridOf f .rz neg v).1 : ℚ) * 2 ^ (gridOf f .rz neg v).2 ≤ v := by
  rw [gridOf_value, ← le_div_iff₀ (by positivity)]
  exact Nat.floor_le (by positivity)
theorem le_gridOf_rz (h : GridPoint f mc kc) (hv : 0 < v) (neg : Bool) (hle : (mc : ℚ) * 2 ^ kc ≤ v) :
    (mc : ℚ) * 2 ^ kc ≤ (gridOf f .rz neg v).1 * 2 ^ (gridOf f .rz neg v).2 := by
  have hgreatest (z : ℤ) (hz : (z : ℚ) * 2 ^ gridExp f v ≤ v) :
      (z : ℚ) * 2 ^ gridExp f v ≤ roundMag .rz neg (v / 2 ^ gridExp f v) * 2 ^ gridExp f v := by
    rw [← le_div_iff₀ (by positivity)] at hz
    refine mul_le_mul_of_nonneg_right ?_ (by positivity)
    have hfloor : ((⌊v / 2 ^ gridExp f v⌋ : ℤ) : ℚ) = (⌊v / 2 ^ gridExp f v⌋₊ : ℕ) :=
      (natCast_floor_eq_intCast_floor (by positivity)).symm
    have hzf : (z : ℚ) ≤ (⌊v / 2 ^ gridExp f v⌋ : ℤ) := by exact_mod_cast Int.le_floor.mpr hz
    exact hzf.trans hfloor.le
  rw [gridOf_value]
  obtain ⟨z, hz⟩ | ⟨hcode, hlead⟩ := h.mem_grid_or_le hv
  · exact hz ▸ hgreatest z (hz ▸ hle)
  · exact hcode.trans (by exact_mod_cast hgreatest (2 ^ f.mw : ℕ) (by exact_mod_cast hlead))
end

/-! ## Beyond the largest finite value (R47, R125) -/

section
variable {f : Fmt} {q : ℕ} {t : ℤ} (h : GridPoint f q t)
include h

theorem packGrid_overflow (rm : Rm) (neg : Bool) (hew : 1 < f.ew) (htop : fmtEtop f < t) : packGrid f rm neg q t = overflowTo f rm neg := by
  have h4 : 4 ≤ 2 ^ f.ew := Nat.pow_le_pow_right two_pos hew
  have hsub := h.eq_emin
  unfold fmtEtop at htop
  unfold packGrid
  dsimp only
  rw [if_neg fun hq => by have he := hsub hq; omega, if_pos (by omega)]
/-- The largest finite value is above every finite code's and below every point past it. -/
theorem GridPoint.le_max (htop : t ≤ fmtEtop f) : (q : ℚ) * 2 ^ t ≤ (2 ^ (f.mw + 1) - 1 : ℕ) * 2 ^ fmtEtop f :=
  mul_le_mul (by exact_mod_cast Nat.le_sub_one_of_lt h.lt) (zpow_le_zpow_right₀ one_le_two htop) (by positivity) (by positivity)
theorem GridPoint.max_le (hew : 1 < f.ew) (htop : fmtEtop f < t) : ((2 ^ (f.mw + 1) - 1 : ℕ) : ℚ) * 2 ^ fmtEtop f ≤ q * 2 ^ t := by
  have h4 : 4 ≤ 2 ^ f.ew := Nat.pow_le_pow_right two_pos hew
  have hq : 2 ^ f.mw ≤ q := not_lt.mp fun hq => by
    have he := h.eq_emin hq
    unfold fmtEtop at htop
    omega
  calc ((2 ^ (f.mw + 1) - 1 : ℕ) : ℚ) * 2 ^ fmtEtop f ≤ (2 ^ (f.mw + 1) : ℕ) * 2 ^ fmtEtop f :=
        mul_le_mul_of_nonneg_right (by exact_mod_cast Nat.sub_le _ _) (by positivity)
    _ = (2 ^ f.mw : ℕ) * 2 ^ (fmtEtop f + 1) := by
      rw [zpow_add_one₀ two_ne_zero]
      push_cast
      ring
    _ ≤ q * 2 ^ t := mul_le_mul (by exact_mod_cast hq) (zpow_le_zpow_right₀ one_le_two (by omega)) (by positivity) (by positivity)
end

section
variable {f : Fmt} {neg : Bool} {n d m mc c : ℕ} {e k kc : ℤ} (hew : 1 < f.ew) (hn : 0 < n) (hd : 0 < d)
  (hc : fdecode f c = .fin neg mc kc) (hw : c < 2 ^ (1 + f.ew + f.mw))
include hew hn hd hc hw

theorem roundQ_rne_nearest (h : fdecode f (roundQ f .rne neg n d e) = .fin neg m k) :
    |(m : ℚ) * 2 ^ k - n / d * 2 ^ e| ≤ |(mc : ℚ) * 2 ^ kc - n / d * 2 ^ e| := by
  have hv : (0 : ℚ) < n / d * 2 ^ e := by positivity
  have hgrid := gridOf_gridPoint f .rne neg hv
  obtain ⟨hcode, -, -⟩ := packGrid_fdecode .rne hc hw hew
  have hnear := gridOf_rne_nearest hcode hv neg
  rw [roundQ_eq_packGrid f .rne neg hn hd] at h
  by_cases htop : (gridOf f .rne neg (n / d * 2 ^ e)).2 ≤ fmtEtop f
  · rw [fdecode_packGrid .rne neg hgrid htop hew] at h
    cases h
    exact hnear
  · rw [packGrid_overflow hgrid .rne neg hew (not_le.mp htop), overflowTo, fdecode_fmtInf] at h
    cases h
theorem roundQ_rz_greatest (h : fdecode f (roundQ f .rz neg n d e) = .fin neg m k) : (m : ℚ) * 2 ^ k ≤ n / d * 2 ^ e
    ∧ ((mc : ℚ) * 2 ^ kc ≤ n / d * 2 ^ e → (mc : ℚ) * 2 ^ kc ≤ m * 2 ^ k) := by
  have hv : (0 : ℚ) < n / d * 2 ^ e := by positivity
  have hgrid := gridOf_gridPoint f .rz neg hv
  have hle := gridOf_rz_le f hv neg
  obtain ⟨hcode, hcodetop, -⟩ := packGrid_fdecode .rz hc hw hew
  rw [roundQ_eq_packGrid f .rz neg hn hd] at h
  by_cases htop : (gridOf f .rz neg (n / d * 2 ^ e)).2 ≤ fmtEtop f
  · rw [fdecode_packGrid .rz neg hgrid htop hew] at h
    cases h
    exact ⟨hle, le_gridOf_rz hcode hv neg⟩
  · have htop := not_le.mp htop
    rw [packGrid_overflow hgrid .rz neg hew htop, overflowTo, fdecode_fmtMax hew] at h
    cases h
    exact ⟨(hgrid.max_le hew htop).trans hle, fun _ => hcode.le_max hcodetop⟩
end

/-- Settles O7: every code of the format lies on the grid at the value or below its leading digit (`GridPoint.mem_grid_or_le`), and the
rounded integer is the nearest on the grid, or the greatest not above. -/
theorem roundingIsNearest : Obligations.RoundingIsNearest := by
  intro neg n d e m k c mc kc hn hd v vc hw hc
  exact ⟨roundQ_rne_nearest (by decide) hn hd hc hw, roundQ_rz_greatest (by decide) hn hd hc hw⟩
end Sys2Proof.Machine
end

section
namespace Sys2Proof.Laws

/-! ## The words of a frame (R64, R68, R73) -/

/-- A field that the frame lacks is zero. -/
structure Framed (f : Fields) : Prop where
  base : f.len.getLsbD 1 = false → f = { len := f.len, op7 := f.op7, g := f.g, d := f.d, a := f.a, b := f.b, lit := f.lit }
  noLit : f.len.getLsbD 0 = false → f.lit = 0

theorem fieldsOfWord0_fieldsWord0 (f : Fields) :
    fieldsOfWord0 (fieldsWord0 f) = { len := f.len, op7 := f.op7, g := f.g, d := f.d, a := f.a, b := f.b } := by
  simp (disch := omega) only [fieldsOfWord0, fieldsWord0, BitVec.extractLsb'_append_eq_of_le, Nat.sub_self, Nat.reduceSub,
    BitVec.extractLsb'_append_eq_of_add_le, BitVec.extractLsb'_eq_self]
theorem fieldsWord0_fieldsOfWord0 (w : Word) : fieldsWord0 (fieldsOfWord0 w) = w := by
  simp (disch := rfl) only [fieldsWord0, fieldsOfWord0, BitVec.extractLsb'_append_extractLsb'_eq_extractLsb']
  exact BitVec.extractLsb'_eq_self
theorem fieldsAddExt_fieldsWord1 (f0 f : Fields) : fieldsAddExt f0 (fieldsWord1 f) f.imm
    = { f0 with subop := f.subop, gp := f.gp, gs := f.gs, e := f.e, mods := f.mods, fmt8 := f.fmt8, imm := f.imm } := by
  have hgs : (fieldsWord1 f).getLsbD 11 = f.gs := by
    simp only [fieldsWord1, BitVec.getLsbD_append]
    simp
  rw [fieldsAddExt, hgs]
  simp (disch := omega) only [fieldsWord1, BitVec.extractLsb'_append_eq_of_le, Nat.sub_self, Nat.reduceSub,
    BitVec.extractLsb'_append_eq_of_add_le, BitVec.extractLsb'_eq_self]
theorem ofBool_getLsbD {n : Nat} (w : BitVec n) (k : Nat) : BitVec.ofBool (w.getLsbD k) = w.extractLsb' k 1 := by
  ext i hi
  obtain rfl : i = 0 := by omega
  simp
theorem fieldsWord1_fieldsAddExt (f : Fields) (w1 w2 : Word) : fieldsWord1 (fieldsAddExt f w1 w2) = w1 := by
  simp (disch := rfl) only [fieldsWord1, fieldsAddExt, ofBool_getLsbD, BitVec.extractLsb'_append_extractLsb'_eq_extractLsb']
  exact BitVec.extractLsb'_eq_self
/-- Bit 1 of a frame's length tells an extended one, bit 0 one with a literal (R64). -/
theorem len_bits (l : BitVec 2) : l.getLsbD 1 = decide (2 ≤ l.toNat) ∧ l.getLsbD 0 = decide (l.toNat % 2 = 1) := by
  revert l
  decide

/-- The words of a frame are read back as its fields. -/
theorem fieldsOfWords_wordsOfFields {f : Fields} (h : Framed f) (rest : List Word) :
    fieldsOfWords (wordsOfFields f ++ rest) = .ok (f, rest) := by
  obtain ⟨hbase, hlit⟩ := h
  obtain ⟨h1, h0⟩ := len_bits f.len
  have hl : f.lit.extractLsb' 32 32 ++ f.lit.extractLsb' 0 32 = f.lit := BitVec.extractLsb'_append_extractLsb'
  have hlt := f.len.isLt
  obtain hn | hn | hn | hn : f.len.toNat = 0 ∨ f.len.toNat = 1 ∨ f.len.toNat = 2 ∨ f.len.toNat = 3 := by omega
  all_goals
    simp only [hn, Nat.reduceLeDiff, Nat.reduceMod, Nat.reduceEqDiff, decide_true, decide_false] at h1 h0
    simp only [fieldsOfWords, wordsOfFields, fieldsOfWord0_fieldsWord0, fieldsAddExt_fieldsWord1, hn, h1, h0, hl, List.cons_append,
      List.nil_append, if_true, Bool.false_eq_true, if_false]
  · rw [hbase h1, hlit h0]
  · rw [hbase h1]
  · rw [← hlit h0]
/-- Words that are read as the fields of a frame are that frame's words. -/
theorem eq_wordsOfFields {ws rest : List Word} {f : Fields} (h : fieldsOfWords ws = .ok (f, rest)) : ws = wordsOfFields f ++ rest := by
  cases ws with
  | nil => nomatch h
  | cons w0 ws =>
    have hw0 := (fieldsWord0_fieldsOfWord0 w0).symm
    obtain ⟨h1, h0⟩ := len_bits (fieldsOfWord0 w0).len
    unfold fieldsOfWords at h
    dsimp only at h
    split at h <;> rename_i hn
    case h_5 => nomatch h
    all_goals
      cases h
      simp only [hn, Nat.reduceLeDiff, Nat.reduceMod, Nat.reduceEqDiff, decide_true, decide_false] at h1 h0
      simp [wordsOfFields, h1, h0, fieldsAddExt, -BitVec.getLsbD_eq_getElem]
    · exact hw0
    · exact ⟨hw0, BitVec.extractLsb'_append_eq_right.symm, BitVec.extractLsb'_append_eq_left.symm⟩
    · exact ⟨hw0, (fieldsWord1_fieldsAddExt ..).symm⟩
    · rename_i w1 w2 l h
      exact ⟨hw0, (fieldsWord1_fieldsAddExt (fieldsOfWord0 w0) w1 w2).symm, BitVec.extractLsb'_append_eq_right.symm,
        BitVec.extractLsb'_append_eq_left.symm⟩

/-! ## The frame of an encoded instruction -/

theorem framed_encB (g : Guard) (op : Nat) (d a b : BitVec 7) (lit : Option Dword) : Framed (encB g op d a b lit) := by
  cases g <;> cases lit <;> constructor <;> simp [encB]
theorem framed_encBR (g : Guard) (op : Nat) (d a : BitVec 7) (b : BSrc) : Framed (encBR g op d a b) := by
  cases b <;> exact framed_encB ..
theorem framed_encBI (g : Guard) (op : Nat) (d a : BitVec 7) (i : BImm) : Framed (encBI g op d a i) := by
  cases i <;> exact framed_encB ..
theorem framed_encX (op sub : Nat) (x : XG) (w : XW) : Framed (encX op sub x w) := by
  obtain ⟨d, a, b, e, hi, sel, fmt8, imm, lit⟩ := w
  cases lit <;> constructor <;> simp [encX]
/-- Every instruction of a strand is written in a frame. -/
theorem framed_of_encodeFields {i : Instr} {f : Fields} (h : encodeFields i = some f) : Framed f := by
  cases i <;> cases h
  case add | sub | mul | mulhiS | mulhiU | mad | and | or | xor | shl | shr | sar | minS | minU | maxS | maxU | bfe | bfi | add64
    | cmp | sel | fadd | fsub | fmul | ffma | fmin | fmax | fcmp | hadd2 | hmul2 | hfma2 | hmax2 | put | atomsAdd | shflIdx | shflUp
    | shflDown | shflXor =>
    exact framed_encBR ..
  case addi | andi | ori | xori | shli | shri | sari | cmpi => exact framed_encBI ..
  case li g d i => cases i <;> exact framed_encB ..
  case clz | popc | brev | mov | pop | spawn | rein | trigger | brx | ret | exit | yield | fsfu | fcvt | fabs | fneg | fclass
    | vlane | putv | empty | fillq | ldw | stw | lds | sts | wait | wtok | await | release | send | recv | enq | deq | bra | call
    | trap | bkpt | ldp | mcall | vote | redux | hbar =>
    exact framed_encB ..
  all_goals exact framed_encX ..

/-! ## Decoding and encoding (R78-R80) -/

theorem decodeFields_ok {i : Instr} {f : Fields} (h : decodeFields f = .ok i) : wellFormed i = true ∧ encodeFields i = some f := by
  unfold decodeFields at h
  split at h
  · nomatch h
  · split at h
    · nomatch h
    · split at h
      · cases h
        obtain ⟨hw, he⟩ := Bool.and_eq_true_iff.mp ‹_›
        exact ⟨hw, eq_of_beq he⟩
      · nomatch h
theorem decodeWords_eq_ok {ws rest : List Word} {i : Instr} :
    decodeWords ws = .ok (i, rest) ↔ ∃ f, fieldsOfWords ws = .ok (f, rest) ∧ decodeFields f = .ok i := by
  unfold decodeWords
  constructor
  · intro h
    split at h
    · nomatch h
    · split at h
      · nomatch h
      · cases h
        exact ⟨_, ‹_›, ‹_›⟩
  · rintro ⟨f, hf, hi⟩
    simp only [hf, hi]
/-- The fields of every well-formed instruction name it. -/
theorem roundTrip (i : Instr) : RoundTrip.Statement i := by
  cases i with
  | add => apply RoundTrip.add | addi => apply RoundTrip.addi | sub => apply RoundTrip.sub | mul => apply RoundTrip.mul
  | mulhiS => apply RoundTrip.mulhiS | mulhiU => apply RoundTrip.mulhiU | mad => apply RoundTrip.mad | and => apply RoundTrip.and
  | andi => apply RoundTrip.andi | or => apply RoundTrip.or | ori => apply RoundTrip.ori | xor => apply RoundTrip.xor
  | xori => apply RoundTrip.xori | shl => apply RoundTrip.shl | shli => apply RoundTrip.shli | shr => apply RoundTrip.shr
  | shri => apply RoundTrip.shri | sar => apply RoundTrip.sar | sari => apply RoundTrip.sari | minS => apply RoundTrip.minS
  | minU => apply RoundTrip.minU | maxS => apply RoundTrip.maxS | maxU => apply RoundTrip.maxU | clz => apply RoundTrip.clz
  | popc => apply RoundTrip.popc | brev => apply RoundTrip.brev | bfe => apply RoundTrip.bfe | bfi => apply RoundTrip.bfi
  | mov => apply RoundTrip.mov | li => apply RoundTrip.li | add64 => apply RoundTrip.add64 | cmp => apply RoundTrip.cmp
  | cmpi => apply RoundTrip.cmpi | pop => apply RoundTrip.pop | sel => apply RoundTrip.sel | mcall => apply RoundTrip.mcall
  | spawn => apply RoundTrip.spawn | rein => apply RoundTrip.rein | trigger => apply RoundTrip.trigger
  | bra => apply RoundTrip.bra | call => apply RoundTrip.call | brx => apply RoundTrip.brx | ret => apply RoundTrip.ret
  | exit => apply RoundTrip.exit | yield => apply RoundTrip.yield | trap => apply RoundTrip.trap | bkpt => apply RoundTrip.bkpt
  | fadd => apply RoundTrip.fadd | fsub => apply RoundTrip.fsub | fmul => apply RoundTrip.fmul | ffma => apply RoundTrip.ffma
  | fmin => apply RoundTrip.fmin | fmax => apply RoundTrip.fmax | fcmp => apply RoundTrip.fcmp | fsfu => apply RoundTrip.fsfu
  | fcvt => apply RoundTrip.fcvt | fabs => apply RoundTrip.fabs | fneg => apply RoundTrip.fneg | hadd2 => apply RoundTrip.hadd2
  | hmul2 => apply RoundTrip.hmul2 | hfma2 => apply RoundTrip.hfma2 | hmax2 => apply RoundTrip.hmax2
  | fclass => apply RoundTrip.fclass | shflIdx => apply RoundTrip.shflIdx | shflUp => apply RoundTrip.shflUp
  | shflDown => apply RoundTrip.shflDown | shflXor => apply RoundTrip.shflXor | vote => apply RoundTrip.vote
  | redux => apply RoundTrip.redux | hbar => apply RoundTrip.hbar | vlane => apply RoundTrip.vlane | put => apply RoundTrip.put
  | putv => apply RoundTrip.putv | empty => apply RoundTrip.empty | fillq => apply RoundTrip.fillq | ldw => apply RoundTrip.ldw
  | stw => apply RoundTrip.stw | lds => apply RoundTrip.lds | sts => apply RoundTrip.sts | ldp => apply RoundTrip.ldp
  | atomsAdd => apply RoundTrip.atomsAdd | wait => apply RoundTrip.wait | wtok => apply RoundTrip.wtok
  | await => apply RoundTrip.await | release => apply RoundTrip.release | send => apply RoundTrip.send
  | recv => apply RoundTrip.recv | enq => apply RoundTrip.enq | deq => apply RoundTrip.deq | selX => apply RoundTrip.selX
  | divS => apply RoundTrip.divS | divU => apply RoundTrip.divU | remS => apply RoundTrip.remS | remU => apply RoundTrip.remU
  | addc => apply RoundTrip.addc | subb => apply RoundTrip.subb | mul64 => apply RoundTrip.mul64 | mulw => apply RoundTrip.mulw
  | lea => apply RoundTrip.lea | li64 => apply RoundTrip.li64 | sext => apply RoundTrip.sext | zext => apply RoundTrip.zext
  | cmp64 => apply RoundTrip.cmp64 | dsh => apply RoundTrip.dsh | bsel => apply RoundTrip.bsel | ffmaX => apply RoundTrip.ffmaX
  | faddX => apply RoundTrip.faddX | fmulX => apply RoundTrip.fmulX | fdiv => apply RoundTrip.fdiv
  | fsqrt => apply RoundTrip.fsqrt | fcvtX => apply RoundTrip.fcvtX | frnd => apply RoundTrip.frnd
  | fldexp => apply RoundTrip.fldexp | ffrexp => apply RoundTrip.ffrexp | hfma2X => apply RoundTrip.hfma2X
  | fdot2 => apply RoundTrip.fdot2 | shflX => apply RoundTrip.shflX | voteX => apply RoundTrip.voteX
  | reduxX => apply RoundTrip.reduxX | scan => apply RoundTrip.scan | peers => apply RoundTrip.peers
  | hset => apply RoundTrip.hset | hbarX => apply RoundTrip.hbarX | kset => apply RoundTrip.kset | hq => apply RoundTrip.hq
  | sread => apply RoundTrip.sread | swrite => apply RoundTrip.swrite | grow => apply RoundTrip.grow
  | shrink => apply RoundTrip.shrink | kmov => apply RoundTrip.kmov | pmovGet => apply RoundTrip.pmovGet
  | pmovSet => apply RoundTrip.pmovSet | capmint => apply RoundTrip.capmint | caprevoke => apply RoundTrip.caprevoke
  | capinfo => apply RoundTrip.capinfo | putX => apply RoundTrip.putX | putvX => apply RoundTrip.putvX
  | putadd => apply RoundTrip.putadd | emptyX => apply RoundTrip.emptyX | ld => apply RoundTrip.ld | st => apply RoundTrip.st
  | atom => apply RoundTrip.atom | cas => apply RoundTrip.cas | prefetch => apply RoundTrip.prefetch
  | cflush => apply RoundTrip.cflush | cinval => apply RoundTrip.cinval | pin => apply RoundTrip.pin
  | unpin => apply RoundTrip.unpin | fence => apply RoundTrip.fence | tdset => apply RoundTrip.tdset
  | tdget => apply RoundTrip.tdget | tload => apply RoundTrip.tload | tstore => apply RoundTrip.tstore
  | tzero => apply RoundTrip.tzero | split => apply RoundTrip.split | azero => apply RoundTrip.azero
  | adrain => apply RoundTrip.adrain | aread => apply RoundTrip.aread | awrite => apply RoundTrip.awrite
  | ascale => apply RoundTrip.ascale | reefq => apply RoundTrip.reefq | mmaS => apply RoundTrip.mmaS
  | mmaB => apply RoundTrip.mmaB | mmaE => apply RoundTrip.mmaE | mmaprog => apply RoundTrip.mmaprog
  | copyLd => apply RoundTrip.copyLd | copySt => apply RoundTrip.copySt | copymc => apply RoundTrip.copymc
  | gather => apply RoundTrip.gather | scatter => apply RoundTrip.scatter | xform => apply RoundTrip.xform
  | lrec => apply RoundTrip.lrec | kvappend => apply RoundTrip.kvappend | kvgather => apply RoundTrip.kvgather
  | kvlen => apply RoundTrip.kvlen | kvwin => apply RoundTrip.kvwin | kvtrim => apply RoundTrip.kvtrim
  | kvopen => apply RoundTrip.kvopen | kvclose => apply RoundTrip.kvclose | rinit => apply RoundTrip.rinit
  | rproduceClaim => apply RoundTrip.rproduceClaim | rproduceFill => apply RoundTrip.rproduceFill | rpeek => apply RoundTrip.rpeek
  | awaitX => apply RoundTrip.awaitX | releaseX => apply RoundTrip.releaseX | sendX => apply RoundTrip.sendX
  | recvX => apply RoundTrip.recvX | enqX => apply RoundTrip.enqX | deqX => apply RoundTrip.deqX
  | spawnX => apply RoundTrip.spawnX | pdkey => apply RoundTrip.pdkey | pdkeyFlush => apply RoundTrip.pdkeyFlush
  | waitX => apply RoundTrip.waitX | wtokX => apply RoundTrip.wtokX | binit => apply RoundTrip.binit
  | barrive => apply RoundTrip.barrive | bwait => apply RoundTrip.bwait | bdue => apply RoundTrip.bdue
  | clock => apply RoundTrip.clock | retired => apply RoundTrip.retired | perfcfg => apply RoundTrip.perfcfg
  | perfrd => apply RoundTrip.perfrd | fidrd => apply RoundTrip.fidrd | eret => apply RoundTrip.eret
  | eretSkip => apply RoundTrip.eretSkip | causeAddr => apply RoundTrip.causeAddr | causeLog => apply RoundTrip.causeLog
  | causeLogn => apply RoundTrip.causeLogn | ppoint => apply RoundTrip.ppoint | sleep => apply RoundTrip.sleep
  | halt => apply RoundTrip.halt | mstore => apply RoundTrip.mstore | mread => apply RoundTrip.mread
  | mcallX => apply RoundTrip.mcallX
  -- An event row writes no fields.
  | _ => intro _ _ h; nomatch h

/-- Settles O59: an instruction's frame is read back from its words (`fieldsOfWords_wordsOfFields`), and its fields name it
(`roundTrip`). -/
theorem everyInstructionRoundTrips : Obligations.EveryInstructionRoundTrips := by
  intro i ws rest hw he
  obtain ⟨f, hf, rfl⟩ := Option.map_eq_some_iff.mp he
  exact decodeWords_eq_ok.mpr ⟨f, fieldsOfWords_wordsOfFields (framed_of_encodeFields hf) rest, roundTrip i f hw hf⟩

/-- Settles O60: the decoder accepts only an instruction's own fields (`decodeFields_ok`), and no bit of a frame is outside its
fields (`eq_wordsOfFields`). -/
theorem everyWordHasOneMeaning : Obligations.EveryWordHasOneMeaning := by
  intro i ws rest h
  obtain ⟨f, hf, hi⟩ := decodeWords_eq_ok.mp h
  obtain ⟨hw, he⟩ := decodeFields_ok hi
  exact ⟨hw, wordsOfFields f, by rw [encodeWords, he, Option.map_some], eq_wordsOfFields hf⟩

/-- Settles O58: each word sequence is decoded. -/
theorem wordsDecode : Obligations.WordsDecode := by
  and_intros <;> decide +kernel

end Sys2Proof.Laws
end

section
namespace Sys2Proof.Machine

/-! ## Compares, predicate functions and selects (R71, R102, R103) -/

/-- A condition code is its relation of the operands as integers (R71 Table 5). -/
theorem icond_eq_condHolds {w : Nat} (cc : ICond) (x y : BitVec w) : icond cc x y = condHolds cc x y := by
  cases cc
  case ne => exact (decide_not (p := x = y)).symm
  all_goals rfl
theorem computes_compare {i : Instr} {s : State} {f : Fr} {c : Chk} {pd : PReg} {w : Nat} {cc : ICond} {x y : State → BitVec w}
    (hx : exec i s = .next (s.issueSimple f c (fun s => s.wrP pd (icond cc (x s) (y s))))) (hr : s.ready f c = true)
    (hv : ∀ t, Track s t [] [] → x t = x s ∧ y t = y s) : Computes i s f [] [(pd, condHolds cc (x s) (y s))] := by
  rw [← icond_eq_condHolds]
  refine computes_wrP (v := fun s => icond cc (x s) (y s)) hx hr (fun t h => ?_)
  obtain ⟨hx, hy⟩ := hv t h
  rw [hx, hy]
theorem computes_pop {s : State} {g : Guard} (hr : s.ready (baseFr g false) {} = true) (fn : PopFn) (pd pa pb : PReg) :
    Computes (.pop g fn pd pa pb) s (baseFr g false) [] [(pd, popVal fn (s.pr pa) (s.pr pb))] :=
  computes_wrP (v := fun s => popVal fn (s.pr pa) (s.pr pb)) rfl hr (fun t h => by rw [h.pr, h.pr])
theorem popVal_xnor (p q : Bool) : popVal .xnor p q = !(p ^^ q) := by cases p <;> cases q <;> rfl

/-- Settles O2: a compare writes the relation of its operands (`computes_compare`), `pop` its function (`computes_pop`), a
select the operand its predicate chooses. -/
theorem comparePredicateSelect : Obligations.ComparePredicateSelect := by
  intro g x d a pd s
  refine ⟨fun cc b hr => ?_, fun cc i hr => ?_, fun cc b hr => ?_, fun pa pb hr => ?_, fun b hr => ?_, fun p b hr => ?_⟩
  · exact computes_compare (x := fun s => s.rd a.toNat) (y := fun s => s.bsrc b) rfl hr (fun t h => ⟨h.rd _, h.bsrc b⟩)
  · exact computes_compare (x := fun s => s.rd a.toNat) (y := fun _ => bimmVal i) rfl hr (fun t h => ⟨h.rd _, rfl⟩)
  · exact computes_compare (x := fun s => s.rd64 a.toNat) (y := fun s => s.xsrc64 b) rfl hr (fun t h => ⟨h.rd64 _, h.xsrc64 b⟩)
  · have hpop := fun fn => computes_pop hr fn pd pa pb
    exact ⟨hpop .and, hpop .or, hpop .xor, hpop .andn, hpop .orn, hpop .nand, hpop .nor,
      popVal_xnor .. ▸ hpop .xnor, hpop .mov, hpop .not, hpop .clr, hpop .set⟩
  · exact computes_wr (v := fun s => if s.pr 0 then s.rd a.toNat else s.bsrc b) rfl hr (fun t h => by rw [h.pr, h.rd, h.bsrc])
  · exact computes_wr (v := fun s => if s.pr p then s.rd a.toNat else s.xsrc b) rfl hr (fun t h => by rw [h.pr, h.rd, h.xsrc])

end Sys2Proof.Machine
end

section
namespace Sys2Proof.Machine

/-! ## An address that is not a multiple (R81, R82) -/

theorem aligned_eq_false {v n : Nat} (h : v % n ≠ 0) : aligned v n = false := beq_eq_false_iff_ne.mpr h

section
variable {s : State} {f : Fr} {c : Chk} (hr : s.ready f c = true)
include hr

/-- A ready instruction's source registers can be read. -/
theorem readable_of_ready {rs : List Nat} (hrs : ∀ r ∈ rs, r ∈ c.srcs) : s.readable rs = true := by
  obtain ⟨-, -, -, hrange, hfill, hpend, hbad⟩ := (ready_iff s f c).mp hr
  rw [State.readable, List.all_eq_true]
  intro r h
  have hmem := hrs r h
  simp [hrange r (by simp [hmem]), hfill r hmem, hpend r (by simp [hmem]), hbad r hmem]

/-- An instruction whose checks test the address of operand 2 traps where that is not a multiple. -/
theorem misaligned_traps {i : Instr} {rs : List Nat} {v n : Nat} {body : State → State} (hm : v % n ≠ 0)
    (hx : exec i s = .next (s.issue f (s.withVal c rs 2 (aligned v n)) body)) (hrs : ∀ r ∈ rs, r ∈ c.srcs) :
    exec i s = .next (s.illegalOp f 2) := by
  rw [hx, issue_withVal_false hr hrs 2 (aligned_eq_false hm)]
end

/-- The offset of `rinit` is tested before its base and its geometry. -/
theorem rinit_misaligned_traps {x : XG} {a e : Reg} {b : RSrc} {s : State}
    (hr : s.ready (extFr x false) { srcs := a.toNat :: e.toNat :: rsrcRegs b } = true) (hm : (s.rd a.toNat).toNat % 32 ≠ 0) :
    exec (.rinit x a b e) s = .next (s.illegalOp (extFr x false) 2) := by
  have hok : (!s.readable [a.toNat] || aligned (s.rd a.toNat).toNat 32) = false := by
    rw [readable_of_ready hr (by simp), aligned_eq_false hm]
    rfl
  have hg := ((ready_iff ..).mp hr).1
  exact congrArg _ (issue_operand hg rfl (pre := []) (by rw [← hok]; rfl) rfl _)
/-- The address of a tile instruction is tested between the operands before it and those after it. -/
theorem tile_misaligned_traps {i j : Instr} {s : State} {t : XT} {coll : Nat} {pre post : List (Bool × Nat)} {a : Reg} {disp : BitVec 21}
    {bad : State → Option Trap} {mk : State → Sig}
    (hr : s.ready (xtFr t) { role := s.isMatrix, ops := pre ++ post ++ [(s.declared t.h.toNat, 4)], srcs := [a.toNat] } = true)
    (hm : (s.tileAddr a disp).toNat % 32 ≠ 0)
    (hx : exec i s = .next (s.engineSign t j coll (pre ++ s.tileAddrOp a disp :: post) [] [a.toNat] [] bad mk)) :
    exec i s = .next (s.illegalOp (xtFr t) 2) := by
  obtain ⟨hg, (hrole : s.isMatrix = true), hops, -⟩ := (ready_iff ..).mp hr
  have hok : s.tileAddrOp a disp = (false, 2) := by
    rw [State.tileAddrOp, readable_of_ready hr (by simp), aligned_eq_false hm]
    rfl
  simp only [List.all_append, Bool.and_eq_true] at hops
  obtain ⟨⟨hpre, -⟩, -⟩ := hops
  refine hx.trans (congrArg _ ?_)
  rw [State.engineSign, hok, if_neg (by rw [hg]; decide)]
  exact (if_pos hg).symm.trans (issue_operand hg hrole (pre := pre) (post := post ++ [(s.declared t.h.toNat, 4)]) (by simp) hpre _)

/-- Settles O28: the address is tested with operand 2 at the checks (`misaligned_traps`, `tile_misaligned_traps`). -/
theorem misalignedAccessTraps : Obligations.MisalignedAccessTraps := by
  intro g x xt sz sx zx cl acq rel pol op o sc fmt mon d a b e i y q w p tr esz sp m disp s mis fb fx fo off based global place n srcs
    object reads tile
  refine ⟨?base, ?xmem, ?buoys, ⟨?_, ?_, ?_, ?_, ?_, ?_, ?_, ?rinit⟩, ?queues, ?tload, ?tstore, ?split, ?adrain⟩
  case base => and_intros <;> exact fun hr hm => misaligned_traps hr hm rfl (by simp +contextual [chkUn, chkBR])
  case xmem => and_intros <;> exact fun hr hm => misaligned_traps hr hm rfl (by simp +contextual [srcs])
  case buoys => and_intros <;> exact fun hr hm => misaligned_traps hr hm rfl (by simp [object, reads])
  case queues => and_intros <;> exact fun hr hm => misaligned_traps hr hm rfl (by simp +contextual [chkUn])
  case rinit => exact fun _ hr hm => rinit_misaligned_traps hr hm
  case tload | split => exact fun hr hm => tile_misaligned_traps (pre := [_]) (post := []) hr hm rfl
  case tstore => exact fun hr hm => tile_misaligned_traps (pre := []) (post := [_]) hr hm rfl
  case adrain => exact fun hr hm => tile_misaligned_traps (pre := [_]) (post := [_]) hr hm rfl
  all_goals exact fun hr hm => misaligned_traps hr hm rfl (by simp [object, reads, chkUn])

end Sys2Proof.Machine
end

section
namespace Sys2Proof.Machine

/-! ## Values of the integer instructions (R99, R100) -/

theorem shiftLeft_eq_ofNat (x : Word) (n : Nat) : x <<< n = BitVec.ofNat 32 (x.toNat * 2 ^ n) := by
  rw [← Nat.shiftLeft_eq]
  rfl
theorem ushiftRight_eq_ofNat (x : Word) (n : Nat) : x >>> n = BitVec.ofNat 32 (x.toNat / 2 ^ n) := by
  rw [← Nat.shiftRight_eq_div_pow, ← BitVec.toNat_ushiftRight, BitVec.ofNat_toNat, BitVec.setWidth_eq]
theorem sshiftRight_eq_ofInt (x : Word) (n : Nat) : x.sshiftRight n = BitVec.ofInt 32 (x.toInt / 2 ^ n) := by
  rw [BitVec.sshiftRight_eq, Int.shiftRight_eq_div_pow]
  norm_cast
/-- What is taken where a comparison is true is what is left where its converse is false. -/
theorem slt_pick (x y u v : Word) : (if x.slt y then u else v) = if y.toInt ≤ x.toInt then v else u := by
  simp only [BitVec.slt, decide_eq_true_iff, ← Int.not_le, ite_not]
theorem ult_pick (x y u v : Word) : (if x.ult y then u else v) = if y.toNat ≤ x.toNat then v else u := by
  simp only [BitVec.ult, decide_eq_true_iff, ← Nat.not_le, ite_not]
theorem bfeV_eq (x y : Word) : bfeV x y = BitVec.ofNat 32 (x.toNat / 2 ^ (y.toNat % 32) % 2 ^ (y.toNat / 256 % 32)) := by
  have hlen : 2 ^ (y.toNat / 256 % 32) ≤ 2 ^ 31 := Nat.pow_le_pow_right (by decide) (by omega)
  apply BitVec.eq_of_toNat_eq
  rw [bfeV, BitVec.toNat_and, w32, BitVec.toNat_ofNat, BitVec.toNat_ofNat, Nat.mod_eq_of_lt (by rw [bfLen]; omega), BitVec.toNat_ushiftRight,
    Nat.and_two_pow_sub_one_eq_mod, Nat.shiftRight_eq_div_pow, Nat.mod_eq_of_lt (Nat.lt_of_lt_of_le (Nat.mod_lt _ (by positivity)) (by omega))]
  rfl
/-- The mask of a field of `len` bits at `n`. -/
theorem getLsbD_fieldMask (n len i : Nat) (hi : i < 32) :
    (w32 ((2 ^ len - 1) * 2 ^ n)).getLsbD i = decide (n ≤ i ∧ i < n + len) := by
  rw [w32, BitVec.getLsbD_ofNat, Nat.testBit_mul_two_pow, Nat.testBit_two_pow_sub_one]
  by_cases h : n ≤ i
  · simp only [hi, h, decide_true, Bool.true_and, true_and, decide_eq_decide]
    omega
  · simp [h]
theorem getLsbD_bfiV (x y z : Word) (i : Nat) (hi : i < 32) : (bfiV x y z).getLsbD i
    = if y.toNat % 32 ≤ i ∧ i < y.toNat % 32 + y.toNat / 256 % 32 then x.getLsbD (i - y.toNat % 32) else z.getLsbD i := by
  show _ = if sh5 y ≤ i ∧ i < sh5 y + bfLen y then x.getLsbD (i - sh5 y) else z.getLsbD i
  simp only [bfiV, BitVec.getLsbD_or, BitVec.getLsbD_and, BitVec.getLsbD_not, BitVec.getLsbD_shiftLeft, getLsbD_fieldMask _ _ i hi]
  by_cases h : sh5 y ≤ i ∧ i < sh5 y + bfLen y
  · simp [h, hi]
  · simp [h, hi]
theorem clzV_counts (x : Word) : (clzV x).toNat ≤ 32 ∧ (∀ i, 32 - (clzV x).toNat ≤ i → x.getLsbD i = false)
    ∧ ((clzV x).toNat < 32 → x.getLsbD (31 - (clzV x).toNat) = true) := by
  by_cases h0 : x = 0
  · subst h0
    simp [clzV]
  · have hn : x.toNat ≠ 0 := fun h => h0 (BitVec.eq_of_toNat_eq h)
    have hlt : x.toNat.log2 < 32 := (Nat.log2_lt hn).mpr x.isLt
    have hc : (clzV x).toNat = 31 - x.toNat.log2 := by
      rw [clzV, if_neg h0, w32, BitVec.toNat_ofNat]
      omega
    rw [hc]
    refine ⟨by omega, fun i hi => ?_, fun _ => ?_⟩
    · exact Nat.testBit_lt_two_pow (Nat.lt_of_lt_of_le Nat.lt_log2_self (Nat.pow_le_pow_right (by decide) (by omega)))
    · rw [show 31 - (31 - x.toNat.log2) = x.toNat.log2 by omega]
      exact Nat.testBit_log2 hn
theorem popcV_eq (x : Word) : popcV x = BitVec.ofNat 32 ((List.range 32).filter x.getLsbD).length := by
  rw [popcV, List.countP_eq_length_filter]
  rfl
theorem testBit_natOfBits (l : List Bool) (i : Nat) : (natOfBits l).testBit i = l.getD i false := by
  induction l generalizing i with
  | nil => simp [natOfBits]
  | cons b l ih =>
    have hb : natOfBits (b :: l) = Nat.bit b (natOfBits l) := by cases b <;> simp [natOfBits, Nat.bit, Nat.add_comm]
    rw [hb]
    cases i with
    | zero => simp
    | succ i => rw [Nat.testBit_bit_succ, ih]; rfl
theorem getLsbD_brevV (x : Word) (i : Nat) (hi : i < 32) : (brevV x).getLsbD i = x.getLsbD (31 - i) := by
  rw [brevV, w32, BitVec.getLsbD_ofNat, testBit_natOfBits]
  simp [hi, List.getD]
/-- A value written, known by another name. -/
theorem Computes.of_eq {i : Instr} {s : State} {f : Fr} {d : Nat} {v w : Word} {ps} (h : Computes i s f [(d, v)] ps) (hv : v = w) :
    Computes i s f [(d, w)] ps := hv ▸ h
/-- An immediate shift by more than 31 takes ILLEGAL_OPERAND with the number of its immediate. -/
theorem shiftImm_traps {j : Instr} {g : Guard} {d a : Reg} {n : BImm} {op : Word → Nat → Word} {s : State} (hx : exec j s = aluShI g d a n op s)
    (hg : s.guardOk (baseFr g (bimmLit n)) = true) (hc : s.myStrand.cause.getLsbD 31 = false) (hn : 32 ≤ shiftImm n) :
    ∃ t, exec j s = .next t ∧ TookTrap s t (baseFr g (bimmLit n)) { code := 0x02, tval := w32 (bimmNo n) } := by
  have hok : shiftImmOk n = false := by rw [shiftImmOk, decide_eq_false (by omega), Bool.and_false]
  have ho : (chkSh d a n).ops = [] ++ (false, bimmNo n) :: [] := by rw [← hok]; rfl
  exact ⟨_, hx.trans (congrArg Host.Outcome.next (issue_operand hg rfl ho rfl _)), trap_took _ _ hc⟩

/-- Settles O1: each instruction writes the function its meaning names (`computes_aluBR` and its like); the values of those
functions are the lemmas above. -/
theorem integerRegisterResults : Obligations.IntegerRegisterResults := by
  refine ⟨fun g d a b s hr => ?three, fun g d a b s hr => ?old, fun g d a s => ⟨fun i hr => ?imm, fun i hr => ?shift,
    fun i hg hc hn => ?traps, fun hr => ?un, fun i hr => ?li, fun b hr => ?add64⟩⟩
  case three =>
    refine ⟨computes_aluBR rfl hr, computes_aluBR rfl hr, computes_aluBR rfl hr, computes_aluBR (op := mulhiSV) rfl hr,
      computes_aluBR (op := mulhiUV) rfl hr, computes_aluBR rfl hr, computes_aluBR rfl hr, computes_aluBR rfl hr,
      ?_, ?_, ?_, ?_, ?_, ?_, ?_, ?_⟩
    · exact Computes.of_eq (computes_aluBR (op := fun x y => x <<< sh5 y) rfl hr) (shiftLeft_eq_ofNat ..)
    · exact Computes.of_eq (computes_aluBR (op := fun x y => x >>> sh5 y) rfl hr) (ushiftRight_eq_ofNat ..)
    · exact Computes.of_eq (computes_aluBR (op := fun x y => x.sshiftRight (sh5 y)) rfl hr) (sshiftRight_eq_ofInt ..)
    · exact Computes.of_eq (computes_aluBR (op := minSV) rfl hr) (slt_pick ..)
    · exact Computes.of_eq (computes_aluBR (op := minUV) rfl hr) (ult_pick ..)
    · exact Computes.of_eq (computes_aluBR (op := maxSV) rfl hr) (slt_pick ..)
    · exact Computes.of_eq (computes_aluBR (op := maxUV) rfl hr) (ult_pick ..)
    · exact Computes.of_eq (computes_aluBR (op := bfeV) rfl hr) (bfeV_eq ..)
  case old =>
    exact ⟨computes_aluBRd (op := fun x y z => x * y + z) rfl hr, _, computes_aluBRd (op := bfiV) rfl hr, getLsbD_bfiV _ _ _⟩
  case imm => cases i <;> exact ⟨computes_aluBI rfl hr, computes_aluBI rfl hr, computes_aluBI rfl hr, computes_aluBI rfl hr⟩
  case shift =>
    intro f x n
    have hn : shiftImm i = n := by cases i <;> rfl
    rw [← hn]
    refine ⟨?_, ?_, ?_⟩
    · exact Computes.of_eq (computes_aluShI (op := fun x n => x <<< n) rfl hr) (shiftLeft_eq_ofNat ..)
    · exact Computes.of_eq (computes_aluShI (op := fun x n => x >>> n) rfl hr) (ushiftRight_eq_ofNat ..)
    · exact Computes.of_eq (computes_aluShI (op := fun x n => x.sshiftRight n) rfl hr) (sshiftRight_eq_ofInt ..)
  case traps =>
    have hn : 32 ≤ shiftImm i := by cases i <;> exact hn
    have htrap {j : Instr} {op : Word → Nat → Word} (hx : exec j s = aluShI g d a i op s) := shiftImm_traps hx hg hc hn
    simp only [List.forall_mem_cons]
    cases i <;> exact ⟨htrap rfl, htrap rfl, htrap rfl, fun _ h => nomatch h⟩
  case un =>
    exact ⟨computes_aluUn (op := id) rfl hr, ⟨_, computes_aluUn (op := clzV) rfl hr, clzV_counts _⟩,
      Computes.of_eq (computes_aluUn (op := popcV) rfl hr) (popcV_eq _), ⟨_, computes_aluUn (op := brevV) rfl hr, getLsbD_brevV _⟩⟩
  case li => cases i <;> exact computes_wr (i := .li g d _) (v := fun _ => wimmVal _) rfl hr (fun _ _ => rfl)
  case add64 => exact computes_wr64 (v := fun s => s.rd64 a.toNat + s.bsrc64 b) rfl hr (fun t h => by rw [h.rd64, h.bsrc64])

end Sys2Proof.Machine
end

section
namespace Sys2Proof.Machine

/-! ## Values of the extended integer instructions (R105-R110) -/

theorem computes_aluCarry {i : Instr} {s : State} {x : XG} {d a : Reg} {b : XSrc} {pin pout : PReg} {op : Word → Word → Bool → Word × Bool}
    (hx : exec i s = aluCarry x d a b pin pout op s) (hr : s.ready (extFr x (xsrcLit b)) (chkXR d a b) = true) :
    Computes i s (extFr x (xsrcLit b)) [(d.toNat, (op (s.rd a.toNat) (s.xsrc b) (s.pr pin)).1)]
      [(pout, (op (s.rd a.toNat) (s.xsrc b) (s.pr pin)).2)] := by
  refine computes_of hx hr (fun h => ?_)
  rw [h.rd, h.xsrc, h.pr]
  exact (h.wr d.toNat _).wrP pout _
theorem subBorrow_fst (x y : Word) (c : Bool) : (subBorrow x y c).1 = BitVec.ofInt 32 (x.toNat - y.toNat - (if c then 1 else 0 : Nat)) := by
  apply BitVec.eq_of_toNat_eq
  simp only [subBorrow, BitVec.toNat_sub, BitVec.toNat_ofInt, BitVec.toNat_ofNat]
  split <;> omega
theorem shiftLeft_eq_mul (v : Dword) (n : Nat) : v <<< n = v * BitVec.ofNat 64 (2 ^ n) := by
  rw [BitVec.shiftLeft_eq_mul_twoPow]
  exact congrArg _ (BitVec.eq_of_toNat_eq (by simp [BitVec.toNat_twoPow]))
/-- R109: the sign of a field is its highest bit. -/
theorem sextV_eq (x : Word) (w : BitVec 5) : let n := x.toNat % 2 ^ (w.toNat + 1)
    sextV x w = if n < 2 ^ w.toNat then BitVec.ofNat 32 n else BitVec.ofInt 32 (n - 2 ^ (w.toNat + 1)) := by
  intro n
  have hn : n < 2 ^ (w.toNat + 1) := Nat.mod_lt _ (by positivity)
  have hcast : ((x.toNat : Int) % 2 ^ (w.toNat + 1)) = (n : Int) := by norm_cast
  rw [sextV, sextInt, Nat.add_sub_cancel, hcast]
  split
  next h => rw [if_neg (fun hlt => by rw [Nat.testBit_lt_two_pow hlt] at h; nomatch h)]
  next h =>
    rw [if_pos (Nat.lt_of_not_le fun hle => h (Nat.testBit_of_two_pow_le_and_two_pow_add_one_gt hle hn)), BitVec.ofInt_natCast]
theorem bselByte_lt (v b i : Nat) : bselByte v b i < 256 := by
  rw [bselByte]
  split_ifs <;> omega
/-- Each byte of a word made of four. -/
theorem byte_of_four {b0 b1 b2 b3 : Nat} (h0 : b0 < 256) (h1 : b1 < 256) (h2 : b2 < 256) (h3 : b3 < 256) :
    let w := (w32 (b0 + 2 ^ 8 * b1 + 2 ^ 16 * b2 + 2 ^ 24 * b3)).toNat
    w / 2 ^ (8 * 0) % 256 = b0 ∧ w / 2 ^ (8 * 1) % 256 = b1 ∧ w / 2 ^ (8 * 2) % 256 = b2 ∧ w / 2 ^ (8 * 3) % 256 = b3 := by
  rw [w32, BitVec.toNat_ofNat]
  omega
theorem byte_bselV (x y z : Word) (i : Nat) (hi : i < 4) :
    (bselV x y z).toNat / 2 ^ (8 * i) % 256 = bselByte (z.toNat * 2 ^ 32 + x.toNat) y.toNat i := by
  have hlt := bselByte_lt (z.toNat * 2 ^ 32 + x.toNat) y.toNat
  obtain ⟨h0, h1, h2, h3⟩ := byte_of_four (hlt 0) (hlt 1) (hlt 2) (hlt 3)
  interval_cases i
  · exact h0
  · exact h1
  · exact h2
  · exact h3
theorem bselByte_eq (v : Nat) (y : Word) (i : Nat) : let src := v / 2 ^ (8 * (y.toNat / 2 ^ (3 * i) % 8)) % 256
    bselByte v y.toNat i = if y.getLsbD (12 + i) then 0 else if y.getLsbD (16 + i) then (if 128 ≤ src then 255 else 0) else src := by
  have hbits : bits y.toNat (3 * i + 2) (3 * i) = y.toNat / 2 ^ (3 * i) % 8 := by
    rw [bits, Nat.shiftRight_eq_div_pow, show 3 * i + 2 + 1 - 3 * i = 3 by omega]
    rfl
  rw [bselByte, hbits, Nat.shiftRight_eq_div_pow]
  rfl

/-- Settles O3: each instruction writes the function its meaning names (`computes_aluXR` and its like); the values of those
functions are the lemmas above. -/
theorem extendedIntegerResults : Obligations.ExtendedIntegerResults := by
  refine ⟨fun x d a b s hr => ⟨?divS, ?divU, ?remS, ?remU, fun pin pout => ⟨?addc, ?subb⟩⟩, fun x d a s => ⟨fun b hr => ?mul64,
    fun b hr => ⟨?mulwS, ?mulwU⟩, fun zx sh b hr => ?lea, fun i hr => ?li64, fun w hr => ⟨?zext, ?sext⟩⟩,
    fun x d a e b s hr => ⟨fun clamp => ⟨?right, ?left⟩, ?bsel⟩⟩
  case divS => exact computes_aluXR (op := divSV) rfl hr
  case divU => exact computes_aluXR (op := divUV) rfl hr
  case remS => exact computes_aluXR (op := remSV) rfl hr
  case remU => exact computes_aluXR (op := remUV) rfl hr
  case addc => exact computes_aluCarry (op := addCarry) rfl hr
  case subb => exact Computes.of_eq (computes_aluCarry (op := subBorrow) rfl hr) (subBorrow_fst ..)
  case mul64 => exact computes_wr64 (v := fun s => s.rd64 a.toNat * s.xsrc64 b) rfl hr (fun t h => by rw [h.rd64, h.xsrc64])
  case mulwS => exact computes_wr64 (v := fun s => mulwV true (s.rd a.toNat) (s.xsrc b)) rfl hr (fun t h => by rw [h.rd, h.xsrc])
  case mulwU => exact computes_wr64 (v := fun s => mulwV false (s.rd a.toNat) (s.xsrc b)) rfl hr (fun t h => by rw [h.rd, h.xsrc])
  case lea =>
    have hlea := computes_wr64 (i := .lea x zx sh d a b) (v := fun s => s.rd64 a.toNat + s.xsrcExt zx b <<< sh.toNat) rfl hr
      (fun t h => by rw [h.rd64, h.xsrcExt])
    simp only [shiftLeft_eq_mul] at hlea
    cases b <;> exact hlea
  case li64 =>
    have hli := computes_wr64 (i := .li64 x d i) (v := fun _ => ximmVal i) rfl hr (fun _ _ => rfl)
    cases i <;> exact hli
  case zext => exact computes_aluXUn (op := fun v => zextV v w) rfl hr
  case sext => exact Computes.of_eq (computes_aluXUn (op := fun v => sextV v w) rfl hr) (sextV_eq ..)
  case right => exact computes_aluXRe (op := dshV false clamp) rfl hr
  case left => exact computes_aluXRe (op := dshV true clamp) rfl hr
  case bsel => exact ⟨_, computes_aluXRe (op := bselV) rfl hr, fun i hi => (byte_bselV _ _ _ i hi).trans (bselByte_eq _ _ i)⟩

end Sys2Proof.Machine
end

section
namespace Sys2Proof.Machine

/-! ## Jumps (R111, R112) -/

theorem Elsewhere.modMe {s t : State} (h : Elsewhere s t) (hc : t.cur = s.cur) (g : Strand → Strand) : Elsewhere s (t.modMe g) := by
  rw [State.modMe, State.x, hc]
  exact h.strand g
/-- Where a jump leaves its strand: Eligible at the target, with what it held. -/
theorem jump_strand (s : State) (target : Dword) : ∃ n, (s.jump target).strand s.x
    = { s.myStrand with pc := target, step := 63, refused := none, latch := none, xl := [], fetched := none, team := none,
                        life := .eligible, stamp := n, wait := .none } := by
  obtain ⟨g, hg, hj⟩ : ∃ g : Strand → Strand, g s.myStrand = { s.myStrand with
        pc := target, step := 63, refused := none, latch := none, xl := [], fetched := none }
      ∧ s.jump target = (s.modMe g).retire.toEligible s.x := ⟨_, rfl, rfl⟩
  have hr := retire_strand (s.modMe g)
  have hme : (s.modMe g).myStrand = g s.myStrand := (strand_modMe s g s.x).trans (if_pos rfl)
  rw [hme, hg] at hr
  have he := toEligible_strand (s.modMe g).retire s.x
  rw [show (s.modMe g).retire.strand s.x = _ from hr] at he
  exact ⟨_, hj ▸ he⟩
/-- The writes made, a jump moves the strand to its target and changes nothing else. -/
theorem Track.jump {s t : State} {ws ps} (h : Track s t ws ps) (target : Dword) : WroteAt s (t.jump target) (target, 63) ws ps := by
  have hx := h.x
  have hmy := h.myStrand
  obtain ⟨hc, ⟨hregs, hfill, hpend, hbad, hpreds⟩, hm, he⟩ := h
  obtain ⟨n, hn⟩ := jump_strand t target
  rw [hx, hmy] at hn
  refine ⟨⟨fun q => ?_, fun q => ?_, fun q => ?_, fun q => ?_, fun p => ?_⟩, ?_, ?_, ?_⟩
  · exact (congrArg (fun v : Strand => sget v.regs 0 q) hn).trans (hregs q)
  · exact (congrArg (fun v : Strand => v.fill.getLsbD q) hn).trans (hfill q)
  · exact (congrArg (fun v : Strand => v.pend.getLsbD q) hn).trans (hpend q)
  · exact (congrArg (fun v : Strand => v.bad.getLsbD q) hn).trans (hbad q)
  · exact (congrArg (fun v : Strand => v.prd p.toNat) hn).trans (hpreds p)
  · rw [hn]
  · rw [hn]
    have q := congrArg (fun v : Strand => { v with
      life := .eligible, wait := .none, refused := none, latch := none, xl := [], pc := s.myStrand.pc, step := s.myStrand.step,
      stamp := s.myStrand.stamp, team := s.myStrand.team, fetched := s.myStrand.fetched }) hm
    exact q
  · rw [State.jump, hx]
    exact ((he.modMe hc _).retire hc).toEligible
/-- A ready jump through a pair goes to the pair's address, or takes ILLEGAL_OPERAND where its low bits are not zero. -/
theorem jumpsThroughPair {i : Instr} {s : State} {f : Fr} {c : Chk} {r : Nat}
    (hx : exec i s = .next (s.issue f c (fun s => s.jumpTo f (s.rd64 r)))) (hr : s.ready f c = true) :
    if (s.rd64 r).extractLsb' 0 2 = 0 then ∃ t, exec i s = .next t ∧ WroteAt s t (s.rd64 r, 63) [] []
    else exec i s = .next ((s.readAcquire c.srcs).illegalOp f 2) := by
  have ht := Track.readAcquire s c.srcs
  have he := answers_of hx hr
  rw [ht.rd64, State.jumpTo] at he
  split
  next h0 => exact ⟨_, he.trans (congrArg _ (if_neg (by rw [h0]; decide))), ht.jump _⟩
  next h0 => exact he.trans (congrArg _ (if_pos (bne_iff_ne.mpr h0)))
/-- R111: the address after a call. -/
theorem linkAddr_baseFr (s : State) (g : Guard) : s.linkAddr (baseFr g false).len
    = ((s.myStrand.pc + 4 * (match g with | .ext _ _ => 3 | .always | .p0 | .notP0 | .p1 => 1)).extractLsb' 0 57).signExtend 64 := by
  cases g <;> rfl

/-- Settles O8: a jump keeps what its instruction wrote (`Track.jump`); one through a pair tests the pair (`jumpsThroughPair`). -/
theorem branchCallReturn : Obligations.BranchCallReturn := by
  intro g off a s f target words link
  refine ⟨fun hg => ⟨issue_skips rfl hg, issue_skips rfl hg⟩, fun hr => ?bra, fun hr => ?call, fun hr => ?brx, fun hr => ?ret⟩
  case bra => exact ⟨_, issue_at rfl hr rfl, (Track.refl s).jump target⟩
  case call =>
    have hlink : s.linkAddr f.len = link := linkAddr_baseFr s g
    exact ⟨_, answers_of rfl hr, hlink ▸ ((Track.refl s).wr64 126 _).jump target⟩
  case brx => exact (jumpsThroughPair (i := .brx g a) rfl hr :)
  case ret => exact (jumpsThroughPair (i := .ret g) rfl hr :)

/-! ## `trap` and `bkpt` (R115) -/

/-- Settles O10: a ready `trap` or `bkpt` takes its trap (`trap_took`). -/
theorem softwareTraps : Obligations.SoftwareTraps := by
  intro g code s hr hc
  exact ⟨⟨_, issue_at rfl hr rfl, trap_took _ _ hc⟩, ⟨_, issue_at rfl hr rfl, trap_took _ _ hc⟩⟩

end Sys2Proof.Machine
end

section
namespace Sys2Proof.Machine

/-! ## `capinfo` of an entry with too wide a rights field (R325, R326)

The `rights` of a capability is a number without a bound in the model. `capinfo` adds it at bit 27 to a word whose bits 31 and
30 are set, so from 8 on it carries into them. `capmint` gives an entry 1, 2 or 4 and no reachable state holds more; but the
statement speaks of every state, and bounds the rights only for the fields below bit 30. -/

/-- A strand whose core holds a live capability with 8 in its rights field; its registers are zero, and so name that entry. -/
def capOfEightRights : State := { strands := [(0, {})], cores := [(0, { caps := [(0, { live := true, rights := 8 })] })] }
theorem capOfEightRights_ready : capOfEightRights.ready (extFr ⟨7, false⟩ false)
    { ops := [(pairOk 2, 1), (pairOk 0, 2)], srcs := pairRegs 0, dsts := pairRegs 2 } = true := by decide
theorem capOfEightRights_valid : capOfEightRights.capValid (capOfEightRights.rd64 0) = true := by decide
/-- The carry clears bit 31 of the word that `capinfo` writes. -/
theorem capinfo_capOfEightRights : ∃ t, exec (.capinfo ⟨7, false⟩ 2 0) capOfEightRights = .next t ∧ (t.rdX 0 3).getLsbD 31 = false :=
  ⟨_, rfl, by decide +kernel⟩

/-- Refutes O13: the bit 31 it claims of `capinfo` is cleared by the carry of a rights field of 8. -/
theorem not_specialRegisters : ¬ Obligations.SpecialRegisters := by
  intro h
  obtain ⟨hreads, -⟩ := h
  obtain ⟨-, -, -, -, -, hcapinfo⟩ := hreads .always ⟨7, false⟩ 2 0 capOfEightRights
  obtain ⟨lo, hi, ⟨t, ht, ⟨hregs, -⟩, -⟩, hvalid, -⟩ := hcapinfo capOfEightRights_ready
  obtain ⟨u, hu, hbit⟩ := capinfo_capOfEightRights
  obtain rfl : t = u := Host.Outcome.next.inj (ht.symm.trans hu)
  have hword : t.rdX 0 3 = hi := hregs 3
  rw [hword, hvalid] at hbit
  exact absurd (capOfEightRights_valid.symm.trans hbit) (by decide)

/-! ## `grow` where the table of crews is not in rising order (R91)

The request of a crew is entered in the table where the crew's number belongs. In a table out of order the crew can then be
listed a second time, and its blocks count twice: fewer are free than before the request. The model keeps its tables in
order; but the statement speaks of every state. -/

/-- Two crews of a troop of four blocks, the higher number first; the strand is of crew 0. -/
def crewsOutOfOrder : State := { strands := [(0, {})], crews := [(1, {}), (0, {})], troops := [(0, { sgw := 1 })] }
theorem crewsOutOfOrder_ready : crewsOutOfOrder.ready (extFr ⟨7, false⟩ false) {} = true := by decide
theorem crewsOutOfOrder_free : crewsOutOfOrder.freeBlocks 0 = 2 := by decide
/-- The two blocks free are not granted. -/
theorem grow_crewsOutOfOrder : ∃ t, exec (.grow ⟨7, false⟩ 0 2 false) crewsOutOfOrder = .next t ∧ (t.crew 0).ext = 0 :=
  ⟨_, rfl, by decide⟩

/-- Refutes O14: a `grow` to two blocks of two that are free is not granted where the table of crews is out of order. -/
theorem not_blocksAndMacros : ¬ Obligations.BlocksAndMacros := by
  intro h
  obtain ⟨hblocks, -⟩ := h
  obtain ⟨-, hgrow, -⟩ := hblocks ⟨7, false⟩ 0 2 false crewsOutOfOrder crewsOutOfOrder_ready
  obtain ⟨hgrant, -⟩ := hgrow (by decide) rfl (by decide) (by decide)
  obtain ⟨t, ht, hext, -⟩ := hgrant crewsOutOfOrder_free.ge (by decide)
  obtain ⟨u, hu, hstays⟩ := grow_crewsOutOfOrder
  obtain rfl : t = u := Host.Outcome.next.inj (ht.symm.trans hu)
  exact absurd (hext.symm.trans hstays) (by decide)

end Sys2Proof.Machine
end

section
namespace Sys2Proof.Machine

/-! ## `hset` (R130) -/

theorem hitch_congr {s t : State} (h : t.troops = s.troops) (q n : Nat) : t.hitch q n = s.hitch q n := by
  unfold State.hitch State.troop
  rw [h]
theorem hitch_modHitch_same (s : State) (q n : Nat) (g : Hitch → Hitch) : (s.modHitch q n g).hitch q n = g (s.hitch q n) := by
  unfold State.hitch State.modHitch
  rw [troop_modTroop, if_pos rfl, sget_sput_self]
theorem hitch_modHitch_ne (s : State) (q : Nat) {n i : Nat} (hi : i ≠ n) (g : Hitch → Hitch) :
    (s.modHitch q n g).hitch q i = s.hitch q i := by
  unfold State.hitch State.modHitch
  rw [troop_modTroop, if_pos rfl, sget_sput_ne _ _ _ hi.symm]

/-- Which values declare a hitch. -/
def hsetGood (mask : Bool) (n : Nat) : Bool := if mask then n ≠ 0 else 1 ≤ n ∧ n ≤ 2048
/-- The operand number of the value. -/
def hsetNo (v : XSrc) : Nat := match v with | .reg _ => 2 | .imm _ | .lit _ => 5
/-- A declaration applies at once where the phase has no signature. -/
def declare (d : Decl) (v : Hitch) : Hitch := if v.phase.sigs.isEmpty then { v with decl := d } else { v with pend := some d }
/-- What a ready `hset` does once its value is read. -/
def State.runHset (s : State) (f : Fr) (mask : Bool) (h : BitVec 5) (v : XSrc) : State :=
  if !hsetGood mask (s.xsrc v).toNat then s.illegalOp f (hsetNo v) else if h = 0 then s.illegalOp f 5
  else (s.modHitch (troopOf s.x) h.toNat
    (declare (if mask then .mask (s.xsrc v) (crewOf s.x) else .count (s.xsrc v).toNat))).finish f.len

section
variable {x : XG} {mask : Bool} {h : BitVec 5} {v : XSrc} {s : State}
  (hr : s.ready (extFr x (xsrcLit v)) { ops := [(xsrcOk v, 5)], srcs := xsrcRegs v } = true)
include hr

/-- The hitch is tested after the value, unless the value is immediate. -/
theorem exec_hset_ready (hh : (h != 0 || (xsrcRegs v).any (fun r => !s.regBad r)) = true) :
    exec (.hset x mask h v) s = .next ((s.readAcquire (xsrcRegs v)).runHset (extFr x (xsrcLit v)) mask h v) := by
  obtain ⟨hg, hrole, hops, hrange, hfill, hpend, hbad⟩ := (ready_iff ..).mp hr
  have hr2 : s.ready (extFr x (xsrcLit v))
      { ops := [(xsrcOk v, 5), (h != 0 || (xsrcRegs v).any (fun r => !s.regBad r), 5)], srcs := xsrcRegs v } = true :=
    (ready_iff ..).mpr ⟨hg, hrole, by rw [hh]; simpa using hops, hrange, hfill, hpend, hbad⟩
  exact answers_of (i := .hset x mask h v) rfl hr2
theorem exec_hset_h0_immediate (hv : xsrcRegs v = []) : exec (.hset x mask 0 v) s = .next (s.illegalOp (extFr x (xsrcLit v)) 5) := by
  obtain ⟨hg, hrole, hops, -⟩ := (ready_iff ..).mp hr
  exact congrArg _ (issue_operand hg rfl (pre := [(xsrcOk v, 5)]) (post := []) (by rw [hv]; rfl) hops _)
end

/-- Settles O18: a ready `hset` declares or is refused by its value and its hitch (`exec_hset_ready`), `h0` with an immediate at
the checks. -/
theorem hitchDeclaration : Obligations.HitchDeclaration := by
  intro x mask h v s f hr n good old d
  have ht := Track.readAcquire s (xsrcRegs v)
  have hval (b : Bool) (hb : good = b) : hsetGood mask ((s.readAcquire (xsrcRegs v)).xsrc v).toNat = b := by rwa [ht.xsrc]
  refine ⟨fun hgood hh => ?declares, fun hgood hh => ?h0, fun hgood hh => ?refused⟩
  case declares =>
    have he := exec_hset_ready (mask := mask) (h := h) hr (by rw [bne_iff_ne.mpr hh]; rfl)
    rw [State.runHset, hval _ hgood, if_neg (by decide), if_neg hh, ht.xsrc, ht.x] at he
    refine ⟨_, he, ?_⟩
    obtain ⟨⟨hreg, hpc, -, -⟩, hsame⟩ := ht.goes (w := (s.readAcquire (xsrcRegs v)).modHitch (troopOf s.x) h.toNat (declare d)) rfl rfl
      (modHitch_same ..) f
    obtain ⟨-, -, -, helse⟩ := finish_wrote ((s.readAcquire (xsrcRegs v)).modHitch (troopOf s.x) h.toNat (declare d)) f
    refine ⟨hpc, ?_, fun i hi => ?_, hreg, hsame⟩
    · rw [hitch_congr helse.troops, hitch_modHitch_same, hitch_congr ht.troops]
      simp only [declare, List.isEmpty_iff]
      rfl
    · rw [hitch_congr helse.troops, hitch_modHitch_ne _ _ hi, hitch_congr ht.troops]
  case h0 =>
    subst hh
    cases v with
    | reg r =>
      obtain ⟨-, -, -, hrange, -⟩ := (ready_iff ..).mp hr
      have hr0 : s.regBad r.toNat = false := hrange r.toNat (by simp [xsrcRegs])
      have he := exec_hset_ready (mask := mask) (h := 0) hr (by simp [xsrcRegs, hr0])
      rw [State.runHset, hval _ hgood] at he
      exact he
    | imm i => exact exec_hset_h0_immediate hr rfl
    | lit i => exact exec_hset_h0_immediate hr rfl
  case refused =>
    have he := exec_hset_ready (mask := mask) (h := h) hr (by rw [bne_iff_ne.mpr hh]; rfl)
    rw [State.runHset, hval _ hgood] at he
    exact he
end Sys2Proof.Machine
end

section
namespace Sys2Proof.Machine

/-! ## Sorted lists -/

theorem insertBy_perm {α : Type} (key : α → Nat) (a : α) (l : List α) : (insertBy key a l).Perm (a :: l) := by
  induction l with
  | nil => exact .refl _
  | cons c l ih =>
    rw [insertBy]
    split
    · exact .refl _
    · exact (ih.cons c).trans (.swap a c l)
theorem insertBy_sorted {α : Type} (key : α → Nat) (a : α) {l : List α} (h : l.Pairwise (key · ≤ key ·)) :
    (insertBy key a l).Pairwise (key · ≤ key ·) := by
  induction l with
  | nil => exact List.pairwise_singleton ..
  | cons c l ih =>
    obtain ⟨hc, hl⟩ := List.pairwise_cons.mp h
    rw [insertBy]
    split
    case isTrue hlt =>
      refine List.pairwise_cons.mpr ⟨fun b hb => ?_, h⟩
      rcases List.mem_cons.mp hb with rfl | hb
      · exact hlt.le
      · exact hlt.le.trans (hc b hb)
    case isFalse hle =>
      refine List.pairwise_cons.mpr ⟨fun b hb => ?_, ih hl⟩
      rcases (mem_insertBy ..).mp hb with rfl | hb
      · exact not_lt.mp hle
      · exact hc b hb
theorem sortBy_perm {α : Type} (key : α → Nat) (l : List α) : (sortBy key l).Perm l := by
  have hall (l acc : List α) : (l.foldl (fun acc x => insertBy key x acc) acc).Perm (l ++ acc) := by
    induction l generalizing acc with
    | nil => exact .refl _
    | cons a l ih => exact (ih _).trans (((insertBy_perm key a acc).append_left l).trans List.perm_middle)
  exact (hall l []).trans (by rw [List.append_nil])
theorem sortBy_sorted {α : Type} (key : α → Nat) (l : List α) : (sortBy key l).Pairwise (key · ≤ key ·) := by
  have hall (l acc : List α) (h : acc.Pairwise (key · ≤ key ·)) :
      (l.foldl (fun acc x => insertBy key x acc) acc).Pairwise (key · ≤ key ·) := by
    induction l generalizing acc with
    | nil => exact h
    | cons a l ih => exact ih _ (insertBy_sorted key a h)
  exact hall l [] List.Pairwise.nil

/-! ## The group of a signer (R132-R137) -/

/-- The contributing signers of one crew that stand in the subgroup of `w` lanes of `me`. -/
def inGroup (w : Nat) (me g : Sig) : Bool := g.contrib && crewOf g.x == crewOf me.x && laneOf g.x / w == laneOf me.x / w
/-- Them in ascending lane. -/
def sigGroup (w : Nat) (sigs : List Sig) (me : Sig) : List Sig := sortBy (fun g => laneOf g.x) (sigs.filter (inGroup w me))

theorem inGroup_iff {w : Nat} {me g : Sig} :
    inGroup w me g = true ↔ g.contrib = true ∧ crewOf g.x = crewOf me.x ∧ laneOf g.x / w = laneOf me.x / w := by
  simp only [inGroup, Bool.and_eq_true, beq_iff_eq, and_assoc]
theorem strand_eq_of_crew_of_lane {x y : Nat} (hc : crewOf x = crewOf y) (hl : laneOf x = laneOf y) : x = y := by
  unfold crewOf at hc
  unfold laneOf at hl
  omega
theorem sigGroup_perm (w : Nat) (sigs : List Sig) (me : Sig) : (sigGroup w sigs me).Perm (sigs.filter (inGroup w me)) :=
  sortBy_perm ..
theorem mem_sigGroup {w : Nat} {sigs : List Sig} {me g : Sig} : g ∈ sigGroup w sigs me ↔ g ∈ sigs ∧ inGroup w me g = true :=
  (mem_sortBy ..).trans List.mem_filter
theorem all_sigGroup (w : Nat) (sigs : List Sig) (me : Sig) (p : Sig → Bool) :
    (sigGroup w sigs me).all p = sigs.all (fun g => !inGroup w me g || p g) :=
  (sigGroup_perm w sigs me).all_eq.trans List.all_filter
theorem any_sigGroup (w : Nat) (sigs : List Sig) (me : Sig) (p : Sig → Bool) :
    (sigGroup w sigs me).any p = sigs.any (fun g => inGroup w me g && p g) :=
  (sigGroup_perm w sigs me).any_eq.trans List.any_filter

/-! ## Lanes as bits of a word (R136, R138) -/

/-- The word with the bit of each signer's lane. -/
def lanesWord (l : List Sig) : Word := w32 (l.foldl (fun a g => a + 2 ^ laneOf g.x) 0)

/-- Added in ascending order, powers of two do not carry. -/
theorem testBit_foldl_two_pow {l : List Sig} (h : l.Pairwise (fun a b => laneOf a.x < laneOf b.x)) (i : Nat) :
    (l.foldl (fun a (g : Sig) => a + 2 ^ laneOf g.x) 0).testBit i = l.any (fun g => laneOf g.x == i) := by
  have hall (l : List Sig) (h : l.Pairwise (fun a b => laneOf a.x < laneOf b.x)) (acc : Nat) (hacc : ∀ g ∈ l, acc < 2 ^ laneOf g.x) :
      (l.foldl (fun a g => a + 2 ^ laneOf g.x) acc).testBit i = (acc.testBit i || l.any (fun g => laneOf g.x == i)) := by
    induction l generalizing acc with
    | nil => simp
    | cons a l ih =>
      obtain ⟨ha, hl⟩ := List.pairwise_cons.mp h
      have hlt := hacc a List.mem_cons_self
      have hor : acc + 2 ^ laneOf a.x = 2 ^ laneOf a.x ||| acc := by
        have h := Nat.two_pow_add_eq_or_of_lt hlt 1
        rwa [Nat.mul_one, Nat.add_comm] at h
      rw [List.foldl_cons, ih hl _ ?_, hor, Nat.testBit_or, Nat.testBit_two_pow, List.any_cons, ← Bool.or_assoc,
        Bool.or_comm (acc.testBit i)]
      · rfl
      · intro g hg
        calc acc + 2 ^ laneOf a.x < 2 ^ laneOf a.x + 2 ^ laneOf a.x := by omega
          _ = 2 ^ (laneOf a.x + 1) := by ring
          _ ≤ 2 ^ laneOf g.x := Nat.pow_le_pow_right two_pos (ha g hg)
  rw [hall l h 0 fun g _ => by positivity, Nat.zero_testBit, Bool.false_or]
theorem getLsbD_lanesWord {l : List Sig} (h : l.Pairwise (fun a b => laneOf a.x < laneOf b.x)) {i : Nat} (hi : i < 32) :
    (lanesWord l).getLsbD i = l.any (fun g => laneOf g.x == i) := by
  rw [lanesWord, w32, BitVec.getLsbD_ofNat, testBit_foldl_two_pow h, decide_eq_true hi, Bool.true_and]
/-- As many bits as signers. -/
theorem lanesWord_count {l : List Sig} (h : l.Pairwise (fun a b => laneOf a.x < laneOf b.x)) :
    ((List.range 32).filter (lanesWord l).getLsbD).length = l.length := by
  have hnodup : (l.map (fun g => laneOf g.x)).Nodup := List.pairwise_map.mpr (h.imp fun h => h.ne)
  have hperm : ((List.range 32).filter (lanesWord l).getLsbD).Perm (l.map (fun g => laneOf g.x)) := by
    refine (List.perm_ext_iff_of_nodup (List.nodup_range.filter _) hnodup).mpr fun i => ?_
    rw [List.mem_filter, List.mem_range, List.mem_map]
    constructor
    · rintro ⟨hi, hbit⟩
      rw [getLsbD_lanesWord h hi, List.any_eq_true] at hbit
      obtain ⟨g, hg, hgi⟩ := hbit
      exact ⟨g, hg, beq_iff_eq.mp hgi⟩
    · rintro ⟨g, hg, rfl⟩
      have hi : laneOf g.x < 32 := Nat.mod_lt _ (by decide)
      exact ⟨hi, by rw [getLsbD_lanesWord h hi, List.any_eq_true]; exact ⟨g, hg, beq_self_eq_true _⟩⟩
  rw [hperm.length_eq, List.length_map]

/-! ## Which lane a shuffle reads, and what a fold applies (R135, R137) -/

/-- Lane `j` is the one that lane `l` reads, with `b` in its second operand. -/
def shflReads (op w l b j : Nat) : Prop := match op with
  | 0 => j % w = b % w | 1 => b ≤ l % w ∧ j = l - b | 2 => l % w + b < w ∧ j = l + b
  | _ => j % w = (l % w) ^^^ (b % w)

theorem lane_eq_iff {w l j : Nat} (hj : j / w = l / w) (r : Nat) : l - l % w + r = j ↔ j % w = r := by
  have hl := Nat.div_add_mod l w
  have hjm := Nat.div_add_mod j w
  rw [hj] at hjm
  omega
theorem shflSrc_eq_some_iff {op w l b j : Nat} (hj : j / w = l / w) : shflSrc op w l b = some j ↔ shflReads op w l b j := by
  match op with
  | 0 => exact Option.some_inj.trans (lane_eq_iff hj _)
  | 1 => rw [shflSrc, shflReads, Option.ite_none_right_eq_some, Option.some_inj, eq_comm (a := j)]
  | 2 => rw [shflSrc, shflReads, Option.ite_none_right_eq_some, Option.some_inj, eq_comm (a := j)]
  | _ + 3 => exact Option.some_inj.trans (lane_eq_iff hj _)

/-- The operations of a fold by their numbers. -/
def foldStep (op : Nat) (p q : Word) : Word := match op with
  | 0 => f32add .rne p q | 1 => f32min p q | 2 => f32max p q | 3 => p + q | 4 => p * q
  | 5 => if q.toInt < p.toInt then q else p | 6 => if p.toInt < q.toInt then q else p
  | 7 => if q.toNat < p.toNat then q else p | 8 => if p.toNat < q.toNat then q else p
  | 9 => p &&& q | 10 => p ||| q | _ => p ^^^ q
/-- Their identities. -/
def foldIdentities : List Word := [0x80000000, 0x7F800000, 0xFF800000, 0, 1, 0x7FFFFFFF, 0x80000000, 0xFFFFFFFF, 0, 0xFFFFFFFF, 0, 0]

theorem redApply_eq_foldStep (op : Nat) : redApply op = foldStep op := by
  funext p q
  unfold redApply foldStep
  split <;> simp only [BitVec.slt, BitVec.ult, decide_eq_true_iff]
theorem redIdentity_eq {op : Nat} (h : op < 12) : redIdentity op = foldIdentities.getD op 0 := by
  interval_cases op <;> rfl

/-! ## The results of one signer -/

section
variable {sigs : List Sig} {me : Sig} {w : Nat} (hme : me ∈ sigs) (hcontrib : me.contrib = true)
  (hdistinct : sigs.Pairwise (fun a b => a.x ≠ b.x))

include hme hcontrib in
theorem self_mem_sigGroup : me ∈ sigGroup w sigs me := mem_sigGroup.mpr ⟨hme, inGroup_iff.mpr ⟨hcontrib, rfl, rfl⟩⟩

section
include hdistinct

/-- No two signers of a group share a lane. -/
theorem sigGroup_ascending : (sigGroup w sigs me).Pairwise (fun a b => laneOf a.x < laneOf b.x) := by
  have hx : (sigGroup w sigs me).Pairwise (fun a b => a.x ≠ b.x) :=
    ((sigGroup_perm w sigs me).pairwise_iff fun h => h.symm).mpr (hdistinct.filter _)
  refine ((sortBy_sorted ..).and hx).imp_of_mem fun {a b} ha hb ⟨hle, hne⟩ => lt_of_le_of_ne hle fun hlane => ?_
  obtain ⟨-, ha⟩ := mem_sigGroup.mp ha
  obtain ⟨-, hb⟩ := mem_sigGroup.mp hb
  obtain ⟨-, hca, -⟩ := inGroup_iff.mp ha
  obtain ⟨-, hcb, -⟩ := inGroup_iff.mp hb
  exact hne (strand_eq_of_crew_of_lane (hca.trans hcb.symm) hlane)
theorem sig_eq_of_strand {g : Sig} (hg : g ∈ sigs) (hme : me ∈ sigs) (hx : g.x = me.x) : g = me :=
  List.inj_on_of_nodup_map (List.pairwise_map.mpr hdistinct) hg hme hx
/-- A list of the group in ascending lane is the model's. -/
theorem eq_sigGroup {ord : List Sig} (hord : ord.Pairwise (fun p q => laneOf p.x < laneOf q.x))
    (hmem : ∀ g, g ∈ ord ↔ g ∈ sigs ∧ inGroup w me g = true) : sigGroup w sigs me = ord := by
  have hasc := sigGroup_ascending (w := w) (me := me) hdistinct
  have hnodup {l : List Sig} (h : l.Pairwise (fun p q => laneOf p.x < laneOf q.x)) : l.Nodup := h.imp fun hlt heq => hlt.ne (congrArg (fun g => laneOf g.x) heq)
  have hperm := (List.perm_ext_iff_of_nodup (hnodup hasc) (hnodup hord)).mpr fun g => mem_sigGroup.trans (hmem g).symm
  exact hperm.eq_of_pairwise (fun a b _ _ hab hba => absurd hab hba.not_gt) hasc hord
end

/-- R135. -/
theorem collResult_shfl (op : Nat) : collResult { coll := 0, width := w, fn := op } sigs me =
    match (shflSrc op w (laneOf me.x) (me.vals.getD 1 0).toNat).bind
      (fun j => (sigGroup w sigs me).find? (fun g => laneOf g.x == j)) with
    | some g => ([g.vals.getD 0 0], some true)
    | none => ([me.vals.getD 0 0], some false) := rfl
include hdistinct in
theorem collResult_shfl_reads {op : Nat} {src : Sig} (hsrc : src ∈ sigs) (hgroup : inGroup w me src = true)
    (hreads : shflReads op w (laneOf me.x) (me.vals.getD 1 0).toNat (laneOf src.x)) :
    collResult { coll := 0, width := w, fn := op } sigs me = ([src.vals.getD 0 0], some true) := by
  obtain ⟨-, hcrew, hsub⟩ := inGroup_iff.mp hgroup
  have hfind : (sigGroup w sigs me).find? (fun g => laneOf g.x == laneOf src.x) = some src := by
    cases hf : (sigGroup w sigs me).find? (fun g => laneOf g.x == laneOf src.x) with
    | none => exact absurd (beq_self_eq_true _) (List.find?_eq_none.mp hf src (mem_sigGroup.mpr ⟨hsrc, hgroup⟩))
    | some g =>
      obtain ⟨hg, hgg⟩ := mem_sigGroup.mp (List.mem_of_find?_eq_some hf)
      obtain ⟨-, hgcrew, -⟩ := inGroup_iff.mp hgg
      have hlane : laneOf g.x = laneOf src.x := beq_iff_eq.mp (List.find?_some hf :)
      rw [sig_eq_of_strand hdistinct hg hsrc (strand_eq_of_crew_of_lane (hgcrew.trans hcrew.symm) hlane)]
  rw [collResult_shfl, (shflSrc_eq_some_iff hsub).mpr hreads, Option.bind_some, hfind]
theorem collResult_shfl_none {op : Nat} (hnone : ∀ src ∈ sigs, inGroup w me src = true →
    ¬ shflReads op w (laneOf me.x) (me.vals.getD 1 0).toNat (laneOf src.x)) :
    collResult { coll := 0, width := w, fn := op } sigs me = ([me.vals.getD 0 0], some false) := by
  have hfind : (shflSrc op w (laneOf me.x) (me.vals.getD 1 0).toNat).bind
      (fun j => (sigGroup w sigs me).find? (fun g => laneOf g.x == j)) = none := by
    rw [Option.bind_eq_none_iff]
    refine fun j hj => List.find?_eq_none.mpr fun g hg hlane => ?_
    obtain ⟨hg, hgroup⟩ := mem_sigGroup.mp hg
    obtain ⟨-, -, hsub⟩ := inGroup_iff.mp hgroup
    exact hnone g hg hgroup ((shflSrc_eq_some_iff hsub).mp (hj.trans (congrArg some (beq_iff_eq.mp hlane).symm)))
  rw [collResult_shfl, hfind]

/-- The signers of a group whose predicate is true. -/
def trues (w : Nat) (sigs : List Sig) (me : Sig) : List Sig := (sigGroup w sigs me).filter (fun g => g.preds.getD 0 false)

theorem trues_length_eq_iff : (trues w sigs me).length = (sigGroup w sigs me).length
    ↔ sigs.all (fun g => !inGroup w me g || g.preds.getD 0 false) = true := by
  rw [trues, List.length_filter_eq_length_iff, ← all_sigGroup w sigs me (fun g => g.preds.getD 0 false), List.all_eq_true]
theorem trues_isEmpty : (trues w sigs me).isEmpty = !sigs.any (fun g => inGroup w me g && g.preds.getD 0 false) := by
  rw [← any_sigGroup w sigs me (fun g => g.preds.getD 0 false), trues, Bool.eq_iff_iff, List.isEmpty_iff, List.filter_eq_nil_iff,
    Bool.not_eq_true', List.any_eq_false]
/-- R136: the votes. -/
theorem collResult_vote_all : (collResult { coll := 1, width := w, fn := 0 } sigs me).1
    = [if sigs.all (fun g => !inGroup w me g || g.preds.getD 0 false) then 1 else 0] := by
  have h : (collResult { coll := 1, width := w, fn := 0 } sigs me).1
      = [if (trues w sigs me).length = (sigGroup w sigs me).length then 1 else 0] := rfl
  rw [h]
  simp only [trues_length_eq_iff]
theorem collResult_vote_any : (collResult { coll := 1, width := w, fn := 1 } sigs me).1
    = [if sigs.any (fun g => inGroup w me g && g.preds.getD 0 false) then 1 else 0] := by
  have h : (collResult { coll := 1, width := w, fn := 1 } sigs me).1 = [if (trues w sigs me).isEmpty then 0 else 1] := rfl
  rw [h, trues_isEmpty]
  cases sigs.any _ <;> rfl
include hme hcontrib in
theorem collResult_vote_uniform : (collResult { coll := 1, width := w, fn := 2 } sigs me).1
    = [if sigs.all (fun g => !inGroup w me g || g.preds.getD 0 false == me.preds.getD 0 false) then 1 else 0] := by
  have h : (collResult { coll := 1, width := w, fn := 2 } sigs me).1
      = [if (trues w sigs me).isEmpty || (trues w sigs me).length == (sigGroup w sigs me).length then 1 else 0] := rfl
  have hself := self_mem_sigGroup (w := w) hme hcontrib
  have huniform : ((trues w sigs me).isEmpty || (trues w sigs me).length == (sigGroup w sigs me).length)
      = (sigGroup w sigs me).all (fun g => g.preds.getD 0 false == me.preds.getD 0 false) := by
    rw [Bool.eq_iff_iff, Bool.or_eq_true, List.all_eq_true, beq_iff_eq, trues, List.length_filter_eq_length_iff, List.isEmpty_iff,
      List.filter_eq_nil_iff]
    cases hp : me.preds.getD 0 false with
    | true =>
      have hnot : ¬ ∀ g ∈ sigGroup w sigs me, ¬ g.preds.getD 0 false = true := fun h => h me hself hp
      simp only [hnot, false_or, beq_true]
    | false =>
      have hnot : ¬ ∀ g ∈ sigGroup w sigs me, g.preds.getD 0 false = true := fun h => Bool.false_ne_true (hp.symm.trans (h me hself))
      simp only [hnot, or_false, Bool.not_eq_true, beq_false, Bool.not_eq_true']
  rw [h, huniform, all_sigGroup]
theorem collResult_ballot : (collResult { coll := 1, width := w, fn := 3 } sigs me).1 = [lanesWord (trues w sigs me)] := rfl
theorem collResult_count : (collResult { coll := 1, width := w, fn := 4 } sigs me).1 = [w32 (trues w sigs me).length] := rfl
include hdistinct in
theorem trues_ascending : (trues w sigs me).Pairwise (fun a b => laneOf a.x < laneOf b.x) := (sigGroup_ascending hdistinct).filter _
include hdistinct in
theorem count_eq_ballot_bits :
    (w32 (trues w sigs me).length).toNat = ((List.range 32).filter (lanesWord (trues w sigs me)).getLsbD).length := by
  have hcount := lanesWord_count (trues_ascending (w := w) (me := me) hdistinct)
  have hle := List.length_filter_le (lanesWord (trues w sigs me)).getLsbD (List.range 32)
  rw [List.length_range] at hle
  rw [hcount, w32, BitVec.toNat_ofNat]
  exact Nat.mod_eq_of_lt (by omega)
include hdistinct in
theorem getLsbD_ballot {i : Nat} (hi : i < 32) : (lanesWord (trues w sigs me)).getLsbD i
    = sigs.any (fun g => inGroup w me g && laneOf g.x == i && g.preds.getD 0 false) := by
  rw [getLsbD_lanesWord (trues_ascending hdistinct) hi, trues, List.any_filter, any_sigGroup]
  exact congrArg sigs.any (funext fun g => by rw [Bool.and_comm (g.preds.getD 0 false), Bool.and_assoc])

/-- R137. -/
theorem redFold_eq {op : Nat} (h : op < 12) (l : List Sig) :
    redFold op (l.map sigVal) = (l.map (fun g => g.vals.getD 0 0)).foldl (foldStep op) (foldIdentities.getD op 0) := by
  rw [redFold, redApply_eq_foldStep, redIdentity_eq h]
  rfl
theorem collResult_redux (op : Nat) :
    collResult { coll := 2, width := w, fn := op } sigs me = ([redFold op ((sigGroup w sigs me).map sigVal)], none) := rfl
theorem collResult_scan (fn : Nat) : collResult { coll := 3, width := w, fn := fn } sigs me = ([redFold (fn / 2)
    (((sigGroup w sigs me).filter (fun g => if fn % 2 = 1 then decide (laneOf g.x < laneOf me.x) else decide (laneOf g.x ≤ laneOf me.x))).map
      sigVal)], none) := rfl
theorem collResult_scan_inclusive (op : Nat) : collResult { coll := 3, width := w, fn := 2 * op } sigs me
    = ([redFold op (((sigGroup w sigs me).filter (fun g => decide (laneOf g.x ≤ laneOf me.x))).map sigVal)], none) := by
  rw [collResult_scan, Nat.mul_div_cancel_left _ two_pos, Nat.mul_mod_right]
  rfl
theorem collResult_scan_exclusive (op : Nat) : collResult { coll := 3, width := w, fn := 2 * op + 1 } sigs me
    = ([redFold op (((sigGroup w sigs me).filter (fun g => decide (laneOf g.x < laneOf me.x))).map sigVal)], none) := by
  rw [collResult_scan, show (2 * op + 1) / 2 = op by omega, show (2 * op + 1) % 2 = 1 by omega]
  rfl

/-- The signers of a group with the values of `me`. -/
def peersOf (w : Nat) (sigs : List Sig) (me : Sig) : List Sig := (sigGroup w sigs me).filter (fun g => g.vals == me.vals)
include hdistinct in
theorem peersOf_ascending : (peersOf w sigs me).Pairwise (fun a b => laneOf a.x < laneOf b.x) := (sigGroup_ascending hdistinct).filter _
include hme hcontrib in
theorem self_mem_peersOf : me ∈ peersOf w sigs me :=
  List.mem_filter.mpr ⟨self_mem_sigGroup hme hcontrib, beq_self_eq_true _⟩
/-- R138. -/
theorem collResult_peers (fn : Nat) : collResult { coll := 4, width := w, fn := fn } sigs me = ([lanesWord (peersOf w sigs me)],
    some (if fn / 2 = 1 then (peersOf w sigs me).length == (sigGroup w sigs me).length
      else match peersOf w sigs me with | g :: _ => laneOf g.x == laneOf me.x | [] => true)) := rfl
theorem peersOf_length_eq : ((peersOf w sigs me).length == (sigGroup w sigs me).length)
    = sigs.all (fun g => !inGroup w me g || g.vals == me.vals) := by
  rw [Bool.eq_iff_iff, beq_iff_eq, peersOf, List.length_filter_eq_length_iff, ← all_sigGroup w sigs me (fun g => g.vals == me.vals),
    List.all_eq_true]
include hme hcontrib hdistinct in
/-- The first of the peers is the one whose lane is least. -/
theorem peersOf_lead : (match peersOf w sigs me with | g :: _ => laneOf g.x == laneOf me.x | [] => true)
    = sigs.all (fun g => !(inGroup w me g && g.vals == me.vals) || decide (laneOf me.x ≤ laneOf g.x)) := by
  have hleast : sigs.all (fun g => !(inGroup w me g && g.vals == me.vals) || decide (laneOf me.x ≤ laneOf g.x))
      = (peersOf w sigs me).all (fun g => decide (laneOf me.x ≤ laneOf g.x)) := by
    rw [peersOf, List.all_filter, all_sigGroup]
    simp only [Bool.not_and, Bool.or_assoc]
  have hself := self_mem_peersOf (w := w) hme hcontrib
  have hasc := peersOf_ascending (w := w) (me := me) hdistinct
  rw [hleast]
  cases hp : peersOf w sigs me with
  | nil => rfl
  | cons g l =>
    rw [hp] at hself hasc
    obtain ⟨hg, -⟩ := List.pairwise_cons.mp hasc
    have hle : laneOf g.x ≤ laneOf me.x := by
      rcases List.mem_cons.mp hself with rfl | hmem
      · exact le_rfl
      · exact (hg me hmem).le
    have hrest : laneOf me.x ≤ laneOf g.x → ∀ b ∈ l, laneOf me.x ≤ laneOf b.x := fun h b hb => h.trans (hg b hb).le
    rw [Bool.eq_iff_iff, beq_iff_eq, List.all_cons, Bool.and_eq_true, decide_eq_true_iff, List.all_eq_true]
    simp only [decide_eq_true_iff]
    exact ⟨fun h => ⟨h.ge, hrest h.ge⟩, fun h => le_antisymm hle h.1⟩
include hdistinct in
theorem getLsbD_peers {i : Nat} (hi : i < 32) : (lanesWord (peersOf w sigs me)).getLsbD i
    = sigs.any (fun g => inGroup w me g && laneOf g.x == i && g.vals == me.vals) := by
  rw [getLsbD_lanesWord (peersOf_ascending hdistinct) hi, peersOf, List.any_filter, any_sigGroup]
  exact congrArg sigs.any (funext fun g => by rw [Bool.and_comm (g.vals == me.vals), Bool.and_assoc])

/-- The contributors in order. -/
def ranked (sigs : List Sig) : List Sig := sortBy (·.key) (sigs.filter (·.contrib))
/-- R141. -/
theorem collResult_hq : (collResult { coll := 8 } sigs me).1
    = [w32 ((ranked sigs).findIdx (fun g => g.x == me.x) + 65536 * (ranked sigs).length)] := rfl
theorem ranked_length : (ranked sigs).length = (sigs.filter (·.contrib)).length := (sortBy_perm ..).length_eq
include hme hcontrib hdistinct in
theorem ranked_findIdx : (ranked sigs).findIdx (fun g => g.x == me.x) < (ranked sigs).length
    ∧ (ranked sigs)[(ranked sigs).findIdx (fun g => g.x == me.x)]? = some me := by
  have hmem : me ∈ ranked sigs := (mem_sortBy ..).mpr (List.mem_filter.mpr ⟨hme, hcontrib⟩)
  have hlt := List.findIdx_lt_length_of_exists (p := fun g => g.x == me.x) ⟨me, hmem, beq_self_eq_true _⟩
  refine ⟨hlt, ?_⟩
  have hx := beq_iff_eq.mp (List.findIdx_getElem (w := hlt))
  have hin : (ranked sigs)[(ranked sigs).findIdx (fun g => g.x == me.x)] ∈ sigs :=
    (List.mem_filter.mp ((mem_sortBy ..).mp (List.getElem_mem hlt))).1
  rw [List.getElem?_eq_getElem hlt, sig_eq_of_strand hdistinct hin hme hx]
end

/-- Settles O17: a signer's results are those of its group (`sigGroup`), whose lanes ascend (`sigGroup_ascending`). -/
theorem collectiveResults : Obligations.CollectiveResults := by
  intro sigs me w hme hcontrib _ hdistinct l mine b reads pred vote step ident
  refine ⟨fun op src hsrc hmine _ hreads => collResult_shfl_reads hdistinct hsrc hmine hreads,
    fun op _ hnone => collResult_shfl_none hnone, fun fn _ => ⟨_, rfl⟩, collResult_vote_all, collResult_vote_any,
    collResult_vote_uniform hme hcontrib,
    ⟨_, _, collResult_ballot, collResult_count, count_eq_ballot_bits hdistinct, fun i hi => getLsbD_ballot hdistinct hi⟩,
    fun op ord hop hord hmem => ?fold, fun fn hfn => ?peers, _, collResult_hq, fun hlen => ?rank⟩
  case fold =>
    have hgroup := eq_sigGroup hdistinct hord hmem
    rw [collResult_redux, collResult_scan_inclusive, collResult_scan_exclusive, hgroup, redFold_eq hop, redFold_eq hop, redFold_eq hop]
    exact ⟨rfl, rfl, rfl⟩
  case peers =>
    have hl : l < 32 := Nat.mod_lt _ (by decide)
    have hself : inGroup w me me = true := inGroup_iff.mpr ⟨hcontrib, rfl, rfl⟩
    refine ⟨lanesWord (peersOf w sigs me), ?_, ?_, fun i hi => getLsbD_peers hdistinct hi⟩
    · rw [collResult_peers, peersOf_length_eq, peersOf_lead hme hcontrib hdistinct]
      by_cases h2 : fn < 2
      · rw [if_neg (by omega), if_pos h2]
        rfl
      · rw [if_pos (by omega), if_neg h2]
        rfl
    · rw [getLsbD_peers hdistinct hl, List.any_eq_true]
      exact ⟨me, hme, by rw [hself, beq_self_eq_true, beq_self_eq_true]; rfl⟩
  case rank =>
    obtain ⟨hlt, hget⟩ := ranked_findIdx hme hcontrib hdistinct
    have hle := List.length_filter_le (fun g : Sig => g.contrib) sigs
    rw [ranked_length] at hlt
    rw [ranked_length]
    constructor
    · apply BitVec.eq_of_toNat_eq
      simp only [w32, BitVec.extractLsb'_toNat, BitVec.toNat_ofNat, Nat.shiftRight_eq_div_pow]
      omega
    · have hrank : ((w32 ((ranked sigs).findIdx (fun g => g.x == me.x) + 65536 * (sigs.filter (·.contrib)).length)).extractLsb' 0 16).toNat
          = (ranked sigs).findIdx (fun g => g.x == me.x) := by
        simp only [w32, BitVec.extractLsb'_toNat, BitVec.toNat_ofNat, Nat.shiftRight_eq_div_pow]
        omega
      rw [hrank]
      exact hget
end Sys2Proof.Machine
end

section
namespace Sys2Proof.Machine

/-! ## What a rounding can give (R46, R47) -/

section
variable {f : Fmt}

theorem fcode_lt (neg : Bool) {ex man : ℕ} (hex : ex < 2 ^ f.ew) (hman : man < 2 ^ f.mw) : fcode f neg ex man < 2 ^ (1 + f.ew + f.mw) := by
  have hle : (ex + 1) * 2 ^ f.mw ≤ 2 ^ (f.ew + f.mw) := by
    rw [pow_add]
    exact Nat.mul_le_mul_right _ hex
  have hpow : 2 ^ (1 + f.ew + f.mw) = 2 ^ (f.ew + f.mw) + 2 ^ (f.ew + f.mw) := by ring
  rw [add_mul, one_mul] at hle
  unfold fcode
  split <;> omega
theorem fmtInf_lt (neg : Bool) : fmtInf f neg < 2 ^ (1 + f.ew + f.mw) := fcode_lt neg (man := 0) (by simp) (by positivity)
theorem overflowTo_lt (rm : Rm) (neg : Bool) : overflowTo f rm neg < 2 ^ (1 + f.ew + f.mw) := by
  have hinf := fmtInf_lt (f := f) neg
  have hmax : fmtMax f neg < 2 ^ (1 + f.ew + f.mw) := (Nat.sub_le _ _).trans_lt hinf
  cases rm with
  | rne => exact hinf
  | rz => exact hmax
  | rd | ru => cases neg <;> assumption
theorem packGrid_lt (rm : Rm) (neg : Bool) {q : ℕ} {t : ℤ} (hq : q < 2 ^ (f.mw + 1)) : packGrid f rm neg q t < 2 ^ (1 + f.ew + f.mw) := by
  unfold packGrid
  dsimp only
  split
  case isTrue hlt =>
    have h := fcode_lt neg (ex := 0) (by positivity) hlt
    rwa [fcode, Nat.zero_mul, Nat.add_zero] at h
  case isFalse =>
    split
    case isTrue => exact overflowTo_lt rm neg
    case isFalse => exact fcode_lt neg (by omega) (by rw [pow_succ] at hq; omega)
theorem roundQ_lt (rm : Rm) (neg : Bool) (n : ℕ) {d : ℕ} (hd : 0 < d) (e : ℤ) : roundQ f rm neg n d e < 2 ^ (1 + f.ew + f.mw) := by
  by_cases hn : n = 0
  · rw [hn, roundQ_zero]
    exact fcode_lt neg (by positivity) (by positivity)
  · have hn := Nat.pos_of_ne_zero hn
    rw [roundQ_eq_packGrid f rm neg hn hd]
    exact packGrid_lt rm neg (gridOf_gridPoint f rm neg (by positivity)).lt
theorem roundSum_lt (rm : Rm) {clash : ℕ} (hclash : clash < 2 ^ (1 + f.ew + f.mw)) (vs : List FVal) :
    roundSum f rm clash vs < 2 ^ (1 + f.ew + f.mw) := by
  unfold roundSum
  split
  · exact fmtInf_lt _
  · exact hclash
  · exact roundQ_lt rm _ _ one_pos _
end

/-! ## Halves of a word (R123) -/

theorem loH_lt (w : Word) : loH w < 65536 := Nat.mod_lt _ (by decide)
theorem hiH_lt (w : Word) : hiH w < 65536 := Nat.div_lt_of_lt_mul w.isLt
theorem loH_packH (hi lo : ℕ) : loH (packH hi lo) = lo % 65536 := by
  rw [loH, packH, w32, BitVec.toNat_ofNat]
  omega
theorem hiH_packH (hi : ℕ) {lo : ℕ} (hlo : lo < 65536) : hiH (packH hi lo) = hi % 65536 := by
  rw [hiH, packH, w32, BitVec.toNat_ofNat]
  omega
/-- Each half of a packed result comes from that half of the operands, where the low result fits its half. -/
theorem map2_halves (op : ℕ → ℕ → ℕ) (x y : Word) (hlt : ∀ a b, a < 65536 → b < 65536 → op a b < 65536) :
    loH (map2 op x y) = op (loH x) (loH y) % 65536 ∧ hiH (map2 op x y) = op (hiH x) (hiH y) % 65536 :=
  ⟨loH_packH .., hiH_packH _ (hlt _ _ (loH_lt x) (loH_lt y))⟩
theorem map3_halves (op : ℕ → ℕ → ℕ → ℕ) (x y z : Word) (hlt : ∀ a b c, a < 65536 → b < 65536 → c < 65536 → op a b c < 65536) :
    loH (map3 op x y z) = op (loH x) (loH y) (loH z) % 65536 ∧ hiH (map3 op x y z) = op (hiH x) (hiH y) (hiH z) % 65536 :=
  ⟨loH_packH .., hiH_packH _ (hlt _ _ _ (loH_lt x) (loH_lt y) (loH_lt z))⟩

theorem bfFirstNan_lt {hs : List ℕ} (hlt : ∀ h ∈ hs, h < 65536) {n : ℕ} (hn : bfFirstNan hs = some n) : n < 65536 := by
  induction hs with
  | nil => cases hn
  | cons h hs ih =>
    rw [bfFirstNan] at hn
    split at hn
    · cases hn
      exact Nat.or_lt_two_pow (n := 16) (hlt h List.mem_cons_self) (by decide)
    · exact ih (fun x hx => hlt x (List.mem_cons_of_mem _ hx)) hn
theorem bfAdd_lt (rm : Rm) (a b : ℕ) (ha : a < 65536) (hb : b < 65536) : bfAdd rm a b < 65536 := by
  unfold bfAdd
  split
  · exact bfFirstNan_lt (hs := [a, b]) (by simpa using ⟨ha, hb⟩) ‹_›
  · exact roundSum_lt (f := fpBf16) rm (by decide) _
theorem bfMul_lt (rm : Rm) (a b : ℕ) (ha : a < 65536) (hb : b < 65536) : bfMul rm a b < 65536 := by
  unfold bfMul
  split
  · exact bfFirstNan_lt (hs := [a, b]) (by simpa using ⟨ha, hb⟩) ‹_›
  · split
    · decide
    · exact roundSum_lt (f := fpBf16) rm (by decide) _
theorem bfFma_lt (rm : Rm) (a b c : ℕ) (ha : a < 65536) (hb : b < 65536) (hc : c < 65536) : bfFma rm a b c < 65536 := by
  unfold bfFma
  split
  · exact bfFirstNan_lt (hs := [a, b, c]) (by simpa using ⟨ha, hb, hc⟩) ‹_›
  · split
    · decide
    · exact roundSum_lt (f := fpBf16) rm (by decide) _
theorem bfMax_lt (a b : ℕ) (ha : a < 65536) (hb : b < 65536) : bfMax a b < 65536 := by
  unfold bfMax
  split
  · exact bfFirstNan_lt (hs := [a, b]) (by simpa using ⟨ha, hb⟩) ‹_›
  · split <;> assumption

theorem map2_bfMax (x y : Word) : loH (map2 bfMax x y) = bfMax (loH x) (loH y) ∧ hiH (map2 bfMax x y) = bfMax (hiH x) (hiH y) := by
  obtain ⟨hlo, hhi⟩ := map2_halves bfMax x y bfMax_lt
  rw [Nat.mod_eq_of_lt (bfMax_lt _ _ (loH_lt x) (loH_lt y))] at hlo
  rw [Nat.mod_eq_of_lt (bfMax_lt _ _ (hiH_lt x) (hiH_lt y))] at hhi
  exact ⟨hlo, hhi⟩

/-! ## Bits and classes (R117, R120) -/

theorem getLsbD_and_max (x : Word) (i : ℕ) : (x &&& 0x7FFFFFFF).getLsbD i = (x.getLsbD i && i != 31) := by
  have hmask : (0x7FFFFFFF : Word) = BitVec.ofNat 32 (2 ^ 31 - 1) := rfl
  rw [BitVec.getLsbD_and, hmask, BitVec.getLsbD_ofNat, Nat.testBit_two_pow_sub_one]
  by_cases hi : i < 32
  · congr 1
    rw [decide_eq_true hi, Bool.true_and, Bool.eq_iff_iff, decide_eq_true_iff, bne_iff_ne]
    omega
  · rw [BitVec.getLsbD_of_ge _ _ (not_lt.mp hi), Bool.false_and, Bool.false_and]
theorem getLsbD_negBits (x : Word) (i : ℕ) : (negBits x).getLsbD i = (x.getLsbD i != (i == 31)) := by
  have hbit : (0x80000000 : Word) = BitVec.twoPow 32 31 := rfl
  rw [negBits, BitVec.getLsbD_xor, hbit, BitVec.getLsbD_twoPow, Bool.bne_eq_xor]
  congr 1
  rw [Bool.eq_iff_iff, Bool.and_eq_true, decide_eq_true_iff, decide_eq_true_iff, beq_iff_eq]
  omega
/-- The class is one bit, a NaN's one of the two highest. -/
theorem f32class_eq (a : Word) : ∃ k, k < 10 ∧ f32class a = BitVec.ofNat 32 (2 ^ k) ∧ isNan a = decide (8 ≤ k) := by
  unfold f32class isNan
  cases fval a with
  | nan w =>
    dsimp only
    split
    · exact ⟨8, by decide, rfl, rfl⟩
    · exact ⟨9, by decide, rfl, rfl⟩
  | inf n => cases n; exacts [⟨7, by decide, rfl, rfl⟩, ⟨0, by decide, rfl, rfl⟩]
  | fin n m e =>
    dsimp only
    split
    · cases n; exacts [⟨4, by decide, rfl, rfl⟩, ⟨3, by decide, rfl, rfl⟩]
    · split
      · cases n; exacts [⟨5, by decide, rfl, rfl⟩, ⟨2, by decide, rfl, rfl⟩]
      · cases n; exacts [⟨6, by decide, rfl, rfl⟩, ⟨1, by decide, rfl, rfl⟩]

/-! ## What the instructions write (R117-R126) -/

section
variable {s : State} {g : Guard} {x : XG} {d a e : Reg}

theorem computes_fcmp {cc : FCond} {pd : PReg} {b : BSrc}
    (hr : s.ready (baseFr g (bsrcLit b)) { ops := [(bsrcOk b, 5)], srcs := a.toNat :: bsrcRegs b } = true) :
    Computes (.fcmp g cc pd a b) s (baseFr g (bsrcLit b)) [] [(pd, fcmpRel cc (s.rd a.toNat) (s.bsrc b))] :=
  computes_wrP (v := fun s => fcmpRel cc (s.rd a.toNat) (s.bsrc b)) rfl hr (fun t h => by rw [h.rd, h.bsrc])
theorem computes_fclass (hr : s.ready (baseFr g false) (chkUn d a) = true) : Computes (.fclass g d a) s (baseFr g false)
    [(d.toNat, f32class (s.rd a.toNat))] [(0, isNan (s.rd a.toNat))] := by
  refine computes_of rfl hr (fun h => ?_)
  rw [h.rd]
  exact (h.wr d.toNat _).wrP 0 _
theorem computes_ffrexp (hr : s.ready (extFr x false) { srcs := [a.toNat], dsts := [d.toNat, e.toNat] } = true) :
    Computes (.ffrexp x d a e) s (extFr x false)
      [(d.toNat, (f32frexp (s.rd a.toNat)).1), (e.toNat, (f32frexp (s.rd a.toNat)).2)] [] := by
  refine computes_of rfl hr (fun h => ?_)
  rw [h.rd]
  exact (h.wr d.toNat _).wr e.toNat _
end
end Sys2Proof.Machine
end

section
namespace Sys2Proof.Machine

/-! ## Values as real numbers (R46) -/

/-- A sign. -/
noncomputable def sgn (n : Bool) : ℝ := if n then -1 else 1
/-- The value of a finite code. -/
noncomputable def realVal (n : Bool) (m : ℕ) (e : ℤ) : ℝ := sgn n * m * 2 ^ e

theorem abs_sgn (n : Bool) : |sgn n| = 1 := by cases n <;> simp [sgn]
theorem sgn_bne (n n' : Bool) : sgn (n != n') = sgn n * sgn n' := by cases n <;> cases n' <;> simp [sgn]
theorem sgn_not (n : Bool) : sgn (!n) = -sgn n := by cases n <;> simp [sgn]
theorem realVal_eq (n : Bool) (m : ℕ) (e : ℤ) : realVal n m e = sgn n * (((m : ℚ) * 2 ^ e : ℚ) : ℝ) := by
  unfold realVal
  push_cast
  ring
theorem realVal_congr (n : Bool) {m m' : ℕ} {e e' : ℤ} (h : (m : ℚ) * 2 ^ e = m' * 2 ^ e') : realVal n m e = realVal n m' e' := by
  rw [realVal_eq, realVal_eq, h]
theorem realVal_false (m : ℕ) (e : ℤ) : realVal false m e = m * 2 ^ e := by rw [realVal, sgn, if_neg Bool.false_ne_true, one_mul]
theorem realVal_true (m : ℕ) (e : ℤ) : realVal true m e = -(m * 2 ^ e) := by rw [realVal, sgn, if_pos rfl, neg_one_mul, neg_mul]
theorem realVal_zero (n : Bool) (e : ℤ) : realVal n 0 e = 0 := by simp [realVal]
theorem abs_realVal (n : Bool) (m : ℕ) (e : ℤ) : |realVal n m e| = (((m : ℚ) * 2 ^ e : ℚ) : ℝ) := by
  have hpos : (0 : ℚ) ≤ m * 2 ^ e := by positivity
  rw [realVal_eq, abs_mul, abs_sgn, one_mul, abs_of_nonneg (by exact_mod_cast hpos)]

/-- No finite code of the format is nearer to `x` than `r`. -/
def IsNearest (dec : ℕ → FVal) (w r : ℕ) (x : ℝ) : Prop := ∀ n m k, dec r = .fin n m k →
  ∀ c nc mc kc, c < w → dec c = .fin nc mc kc → |realVal n m k - x| ≤ |realVal nc mc kc - x|
/-- A code of the value's sign is nearest where its magnitude is. -/
theorem isNearest_of_magnitude {dec : ℕ → FVal} {w r m : ℕ} {n : Bool} {k : ℤ} {v : ℝ} (hv : 0 ≤ v) (hr : dec r = .fin n m k)
    (h : ∀ c nc mc kc, c < w → dec c = .fin nc mc kc → |(((m : ℚ) * 2 ^ k : ℚ) : ℝ) - v| ≤ |(((mc : ℚ) * 2 ^ kc : ℚ) : ℝ) - v|) :
    IsNearest dec w r (sgn n * v) := by
  intro n' m' k' hr' c nc mc kc hc hdec
  obtain ⟨rfl, rfl, rfl⟩ := FVal.fin.inj (hr.symm.trans hr')
  calc |realVal n m k - sgn n * v| = |(((m : ℚ) * 2 ^ k : ℚ) : ℝ) - v| := by rw [realVal_eq, ← mul_sub, abs_mul, abs_sgn, one_mul]
    _ ≤ |(((mc : ℚ) * 2 ^ kc : ℚ) : ℝ) - v| := h c nc mc kc hc hdec
    _ = |(|realVal nc mc kc| - |sgn n * v|)| := by rw [abs_realVal, abs_mul, abs_sgn, one_mul, abs_of_nonneg hv]
    _ ≤ |realVal nc mc kc - sgn n * v| := abs_abs_sub_abs_le _ _

/-- Of two points the greater is the nearer only from their middle on. -/
theorem add_le_two_mul_of_abs_sub_le {a b v : ℚ} (hab : a < b) (h : |b - v| ≤ |a - v|) : b + a ≤ 2 * v := by
  have hsq := sq_le_sq.mpr h
  nlinarith

theorem isNearest_zero {dec : ℕ → FVal} {w r : ℕ} {n : Bool} {k : ℤ} (h : dec r = .fin n 0 k) : IsNearest dec w r 0 := by
  intro n' m' k' h' c nc mc kc _ _
  rw [h] at h'
  cases h'
  rw [realVal_zero, sub_self, abs_zero]
  exact abs_nonneg _

/-! ## Where nearest-even rounding overflows (R47) -/

/-- Half a unit above the largest finite value. -/
def overflowAt (f : Fmt) : ℚ := (2 ^ (f.mw + 2) - 1) * 2 ^ (fmtEtop f - 1)
theorem overflowAt_fp32 : overflowAt fp32 = 2 ^ 128 - 2 ^ 103 := by norm_num [overflowAt, fmtEtop, fmtEmin, fp32]
theorem overflowAt_bf16 : overflowAt fpBf16 = 2 ^ 128 - 2 ^ 119 := by norm_num [overflowAt, fmtEtop, fmtEmin, fpBf16]
theorem overflowAt_e5m2 : overflowAt fpE5m2 = 61440 := by norm_num [overflowAt, fmtEtop, fmtEmin, fpE5m2]

section
variable {f : Fmt} {v : ℚ}

theorem overflowAt_mul_two (f : Fmt) : overflowAt f * 2 = (2 ^ (f.mw + 2) - 1) * 2 ^ fmtEtop f := by
  rw [overflowAt, mul_assoc, ← zpow_add_one₀ two_ne_zero, sub_add_cancel]
theorem maxPoint_gridPoint (f : Fmt) (hew : 1 < f.ew) : GridPoint f (2 ^ (f.mw + 1) - 1) (fmtEtop f) := by
  obtain ⟨hgrid, -, -⟩ := packGrid_fdecode .rne (fdecode_fmtMax hew false) ((Nat.sub_le _ _).trans_lt (fmtInf_lt false)) hew
  exact hgrid
/-- Past the largest exponent a grid value exceeds every finite one by its whole unit. -/
theorem GridPoint.pow_le {q : ℕ} {t : ℤ} (h : GridPoint f q t) (hew : 1 < f.ew) (htop : fmtEtop f < t) :
    (2 ^ (f.mw + 1) : ℚ) * 2 ^ fmtEtop f ≤ q * 2 ^ t := by
  have h4 : 4 ≤ 2 ^ f.ew := Nat.pow_le_pow_right two_pos hew
  have hq : 2 ^ f.mw ≤ q := not_lt.mp fun hq => by
    have he := h.eq_emin hq
    unfold fmtEtop at htop
    omega
  calc (2 ^ (f.mw + 1) : ℚ) * 2 ^ fmtEtop f = (2 ^ f.mw : ℕ) * 2 ^ (fmtEtop f + 1) := by
        rw [zpow_add_one₀ two_ne_zero]
        push_cast
        ring
    _ ≤ q * 2 ^ t := mul_le_mul (by exact_mod_cast hq) (zpow_le_zpow_right₀ one_le_two htop) (by positivity) (by positivity)
/-- Nearest-even rounding overflows from half a unit above the largest finite value, and not below. -/
theorem gridOf_le_etop (hew : 1 < f.ew) (hv : 0 < v) (neg : Bool) (h : v < overflowAt f) : (gridOf f .rne neg v).2 ≤ fmtEtop f := by
  by_contra htop
  have hbig := (gridOf_gridPoint f .rne neg hv).pow_le hew (not_le.mp htop)
  have hnear := gridOf_rne_nearest (maxPoint_gridPoint f hew) hv neg
  have htwo := overflowAt_mul_two f
  have hp : (0 : ℚ) < 2 ^ fmtEtop f := by positivity
  rw [Nat.cast_sub Nat.one_le_two_pow] at hnear
  push_cast at hnear
  rw [pow_succ] at htwo
  have hsum := add_le_two_mul_of_abs_sub_le (by linarith) hnear
  linarith
theorem gridExp_le_gridOf (f : Fmt) (rm : Rm) (neg : Bool) (v : ℚ) : gridExp f v ≤ (gridOf f rm neg v).2 := by
  unfold gridOf
  dsimp only
  split
  · exact (lt_add_one _).le
  · exact le_rfl
theorem etop_lt_gridOf (hew : 1 < f.ew) (neg : Bool) (h : overflowAt f ≤ v) : fmtEtop f < (gridOf f .rne neg v).2 := by
  have h4 : 4 ≤ 2 ^ f.ew := Nat.pow_le_pow_right two_pos hew
  have hE : (0 : ℚ) < 2 ^ fmtEtop f := by positivity
  have hP : (1 : ℚ) ≤ 2 ^ f.mw := one_le_pow₀ one_le_two
  have htwo := overflowAt_mul_two f
  have hpow : (2 : ℚ) ^ (f.mw + 2) = 4 * 2 ^ f.mw := by ring
  rw [hpow] at htwo
  have hlow : (2 : ℚ) ^ ((f.mw : ℤ) + fmtEtop f) ≤ v := by
    rw [zpow_add₀ two_ne_zero, zpow_natCast]
    nlinarith
  have hv : 0 < v := lt_of_lt_of_le (by positivity) hlow
  by_cases hbig : (2 : ℚ) ^ ((f.mw : ℤ) + fmtEtop f + 1) ≤ v
  · have hlog := (Int.zpow_le_iff_le_log (R := ℚ) one_lt_two hv).mp (by exact_mod_cast hbig)
    have hexp : Int.log 2 v - f.mw ≤ gridExp f v := le_max_left _ _
    have hle := gridExp_le_gridOf f .rne neg v
    omega
  · have hlog := int_log_eq_of_mem hlow (not_le.mp hbig)
    have hexp : gridExp f v = fmtEtop f := by
      unfold gridExp fmtEtop at *
      omega
    rw [zpow_add_one₀ two_ne_zero, zpow_add₀ two_ne_zero, zpow_natCast, not_le] at hbig
    have hupper : v / 2 ^ fmtEtop f < 2 ^ f.mw * 2 := (div_lt_iff₀ hE).mpr (by linarith)
    have hlower : 2 ^ f.mw * 2 - 1 / 2 ≤ v / 2 ^ fmtEtop f := (le_div_iff₀ hE).mpr (by linarith)
    have hfloor : ⌊v / 2 ^ fmtEtop f⌋₊ = 2 ^ (f.mw + 1) - 1 := by
      rw [Nat.floor_eq_iff (by positivity), Nat.cast_sub Nat.one_le_two_pow]
      push_cast
      rw [pow_succ]
      constructor <;> linarith
    have hround : roundMag .rne neg (v / 2 ^ gridExp f v) = 2 ^ (f.mw + 1) := by
      have hpos : 1 ≤ 2 ^ (f.mw + 1) := Nat.one_le_two_pow
      unfold roundMag
      dsimp only
      rw [hexp, hfloor, if_pos, Nat.sub_add_cancel hpos]
      rw [Nat.cast_sub hpos]
      push_cast
      rw [pow_succ]
      rcases hlower.lt_or_eq with hlt | heq
      · exact .inl (by linarith)
      · exact .inr ⟨by linarith, by rw [pow_succ]; omega⟩
    unfold gridOf
    dsimp only
    rw [if_pos hround, hexp]
    exact lt_add_one _
theorem gridOf_of_tiny (neg : Bool) (hv : 0 < v) (h : v < 2 ^ (fmtEmin f - 1)) : gridOf f .rne neg v = (0, fmtEmin f) := by
  have hlog := (Int.lt_zpow_iff_log_lt (R := ℚ) one_lt_two hv).mp (by exact_mod_cast h)
  have hexp : gridExp f v = fmtEmin f := max_eq_right (by omega)
  have hE : (0 : ℚ) < 2 ^ fmtEmin f := by positivity
  have hhalf : v / 2 ^ fmtEmin f < 1 / 2 := by
    rw [zpow_sub_one₀ two_ne_zero] at h
    rw [div_lt_iff₀ hE]
    linarith
  have hround : roundMag .rne neg (v / 2 ^ fmtEmin f) = 0 := by
    have hfloor : ⌊v / 2 ^ fmtEmin f⌋₊ = 0 := Nat.floor_eq_zero.mpr (by linarith)
    unfold roundMag
    dsimp only
    rw [hfloor]
    exact if_neg (by rintro (h | ⟨-, h⟩); exacts [by push_cast at h; linarith, by omega])
  unfold gridOf
  dsimp only
  rw [hexp, hround, if_neg (by positivity)]
end

/-! ## Nearest codes (R118, R123) -/

/-- Nearest-even rounding of `x`: no finite code is nearer, and the code is finite unless `x` overflows. -/
def RoundsNear (f : Fmt) (x : ℝ) (r : ℕ) : Prop :=
  IsNearest (fdecode f) (2 ^ (1 + f.ew + f.mw)) r x ∧ (|x| < overflowAt f → ∃ n m k, fdecode f r = .fin n m k)

section
variable {f : Fmt} (hew : 1 < f.ew)
include hew

theorem fdecode_zero (n : Bool) : fdecode f (fcode f n 0 0) = .fin n 0 (fmtEmin f) := by
  have h4 : 4 ≤ 2 ^ f.ew := Nat.pow_le_pow_right two_pos hew
  rw [fdecode_fcode n (by positivity) (by positivity), if_neg (by omega), if_pos rfl]
theorem roundsNear_zero (n : Bool) : RoundsNear f 0 (fcode f n 0 0) :=
  ⟨isNearest_zero (fdecode_zero hew n), fun _ => ⟨_, _, _, fdecode_zero hew n⟩⟩
theorem roundQ_rne_of_lt {neg : Bool} {n d : ℕ} {e : ℤ} (hn : 0 < n) (hd : 0 < d) (h : (n : ℚ) / d * 2 ^ e < overflowAt f) :
    fdecode f (roundQ f .rne neg n d e) = .fin neg (gridOf f .rne neg (n / d * 2 ^ e)).1 (gridOf f .rne neg (n / d * 2 ^ e)).2 := by
  have hv : (0 : ℚ) < n / d * 2 ^ e := by positivity
  rw [roundQ_eq_packGrid f .rne neg hn hd]
  exact fdecode_packGrid .rne neg (gridOf_gridPoint f .rne neg hv) (gridOf_le_etop hew hv neg h) hew
theorem roundQ_rne_of_ge {neg : Bool} {n d : ℕ} {e : ℤ} (hn : 0 < n) (hd : 0 < d) (h : overflowAt f ≤ (n : ℚ) / d * 2 ^ e) :
    roundQ f .rne neg n d e = fmtInf f neg := by
  rw [roundQ_eq_packGrid f .rne neg hn hd]
  exact packGrid_overflow (gridOf_gridPoint f .rne neg (by positivity)) .rne neg hew (etop_lt_gridOf hew neg h)
/-- Rounding a quotient gives a nearest code. -/
theorem roundQ_roundsNear (neg : Bool) (n : ℕ) {d : ℕ} (hd : 0 < d) (e : ℤ) :
    RoundsNear f (sgn neg * (((n : ℚ) / d * 2 ^ e : ℚ) : ℝ)) (roundQ f .rne neg n d e) := by
  by_cases hn : n = 0
  · subst hn
    rw [roundQ_zero]
    simpa using roundsNear_zero hew neg
  have hn := Nat.pos_of_ne_zero hn
  have hv : (0 : ℚ) < n / d * 2 ^ e := by positivity
  have habs : |sgn neg * (((n : ℚ) / d * 2 ^ e : ℚ) : ℝ)| = (((n : ℚ) / d * 2 ^ e : ℚ) : ℝ) := by
    rw [abs_mul, abs_sgn, one_mul, abs_of_pos (by exact_mod_cast hv)]
  rw [RoundsNear, habs]
  by_cases hlt : (n : ℚ) / d * 2 ^ e < overflowAt f
  · have hr := roundQ_rne_of_lt hew hn hd (neg := neg) hlt
    refine ⟨isNearest_of_magnitude (by exact_mod_cast hv.le) hr fun c nc mc kc hc hdec => ?_, fun _ => ⟨_, _, _, hr⟩⟩
    obtain ⟨hgrid, -, -⟩ := packGrid_fdecode .rne hdec hc hew
    exact_mod_cast gridOf_rne_nearest hgrid hv neg
  · have hr := roundQ_rne_of_ge hew hn hd (neg := neg) (not_lt.mp hlt)
    refine ⟨fun n' m k h => ?_, fun h => absurd (by exact_mod_cast h) hlt⟩
    rw [hr, fdecode_fmtInf] at h
    cases h
/-- A value that the format holds rounds to itself. -/
theorem roundQ_exact (rm : Rm) (neg : Bool) {n d m : ℕ} {e k : ℤ} (hd : 0 < d) (h : (n : ℚ) / d * 2 ^ e = m * 2 ^ k)
    (hm : m < 2 ^ (f.mw + 1)) (hk : fmtEmin f ≤ k) (htop : k ≤ fmtEtop f) :
    ∃ m' e', fdecode f (roundQ f rm neg n d e) = .fin neg m' e' ∧ (m' : ℚ) * 2 ^ e' = m * 2 ^ k := by
  have hone : (n : ℚ) / d * 2 ^ e = (m : ℕ) / (1 : ℕ) * 2 ^ k := by rw [h, Nat.cast_one, div_one]
  rw [roundQ_congr f rm neg hd one_pos hone]
  by_cases hm0 : m = 0
  · subst hm0
    rw [roundQ_zero]
    exact ⟨0, _, fdecode_zero hew neg, by simp⟩
  have hmpos := Nat.pos_of_ne_zero hm0
  have hv : (0 : ℚ) < m * 2 ^ k := by positivity
  rw [roundQ_eq_packGrid f rm neg hmpos one_pos, Nat.cast_one, div_one]
  have hexp : gridExp f (m * 2 ^ k) ≤ k := by
    have hlog : Int.log 2 (m * 2 ^ k : ℚ) = Nat.log 2 m + k := by
      rw [int_log_mul_zpow (by exact_mod_cast hmpos), Int.log_natCast]
    have hupper : Nat.log 2 m < f.mw + 1 := Nat.log_lt_of_lt_pow hm0 hm
    rw [gridExp, hlog]
    omega
  obtain ⟨j, hj⟩ := Int.le.dest hexp
  have hscaled : (m * 2 ^ k : ℚ) / 2 ^ gridExp f (m * 2 ^ k) = (m * 2 ^ j : ℕ) := by
    rw [div_eq_iff (by positivity)]
    push_cast
    rw [mul_assoc, ← zpow_natCast, ← zpow_add₀ two_ne_zero, add_comm, hj]
  have hval := gridOf_value f rm neg (m * 2 ^ k)
  rw [hscaled, roundMag_natCast, ← hscaled, div_mul_cancel₀ _ (by positivity)] at hval
  have hgrid := gridOf_gridPoint f rm neg hv
  refine ⟨_, _, fdecode_packGrid rm neg hgrid (not_lt.mp fun hlt => ?_) hew, hval⟩
  have hbig := hgrid.pow_le hew hlt
  rw [hval] at hbig
  have hsmall : (m : ℚ) * 2 ^ k < 2 ^ (f.mw + 1) * 2 ^ fmtEtop f := by
    calc (m : ℚ) * 2 ^ k < 2 ^ (f.mw + 1) * 2 ^ k := mul_lt_mul_of_pos_right (by exact_mod_cast hm) (by positivity)
      _ ≤ 2 ^ (f.mw + 1) * 2 ^ fmtEtop f := mul_le_mul_of_nonneg_left (zpow_le_zpow_right₀ one_le_two htop) (by positivity)
  linarith
end
end Sys2Proof.Machine
end

section
namespace Sys2Proof.Machine

/-! ## Exact sums (R118, R126) -/

/-- The value of an exact number. -/
noncomputable def Exact.val (x : Exact) : ℝ := realVal x.neg x.m x.e

theorem sgn_mul_natAbs (z : ℤ) : sgn (decide (z < 0)) * (z.natAbs : ℝ) = z := by
  rw [Nat.cast_natAbs, Int.cast_abs]
  unfold sgn
  by_cases hz : z < 0
  · rw [if_pos (decide_eq_true hz), abs_of_neg (by exact_mod_cast hz)]
    ring
  · rw [if_neg (by simp [hz]), abs_of_nonneg (by exact_mod_cast not_lt.mp hz), one_mul]
theorem exactInt_mul_zpow {x : Exact} {e : ℤ} (h : e ≤ x.e) : (exactInt x e : ℝ) * 2 ^ e = x.val := by
  obtain ⟨j, hj⟩ := Int.le.dest h
  have hto : (x.e - e).toNat = j := by omega
  have hpow : (2 : ℝ) ^ x.e = 2 ^ j * 2 ^ e := by rw [← hj, zpow_add₀ two_ne_zero, zpow_natCast, mul_comm]
  unfold exactInt Exact.val realVal sgn
  rw [hto, Nat.shiftLeft_eq, hpow]
  cases x.neg <;> push_cast <;> simp <;> ring
theorem foldl_min_le (xs : List Exact) (z : ℤ) : xs.foldl (fun a x => min a x.e) z ≤ z
    ∧ ∀ x ∈ xs, xs.foldl (fun a x => min a x.e) z ≤ x.e := by
  induction xs generalizing z with
  | nil => exact ⟨le_rfl, fun _ h => nomatch h⟩
  | cons y ys ih =>
    obtain ⟨hz, hys⟩ := ih (min z y.e)
    rw [List.foldl_cons]
    refine ⟨hz.trans (min_le_left _ _), fun x hx => ?_⟩
    rcases List.mem_cons.mp hx with rfl | hx
    · exact hz.trans (min_le_right _ _)
    · exact hys x hx
theorem foldl_exactInt_mul_zpow {xs : List Exact} {e : ℤ} (h : ∀ x ∈ xs, e ≤ x.e) (z : ℤ) :
    ((xs.foldl (fun a x => a + exactInt x e) z : ℤ) : ℝ) * 2 ^ e = z * 2 ^ e + (xs.map Exact.val).sum := by
  induction xs generalizing z with
  | nil => simp
  | cons y ys ih =>
    rw [List.foldl_cons, ih (fun x hx => h x (List.mem_cons_of_mem _ hx)), List.map_cons, List.sum_cons,
      ← exactInt_mul_zpow (h y List.mem_cons_self)]
    push_cast
    ring
/-- A sum of exact values is exact. -/
theorem exactSum_val (rm : Rm) (xs : List Exact) : (exactSum rm xs).val = (xs.map Exact.val).sum := by
  unfold exactSum
  dsimp only
  generalize hmin : xs.foldl (fun a x => min a x.e) _ = e
  have hsum := foldl_exactInt_mul_zpow (hmin ▸ (foldl_min_le xs _).2) 0
  rw [Int.cast_zero, zero_mul, zero_add] at hsum
  rw [← hsum]
  generalize xs.foldl (fun a x => a + exactInt x e) 0 = s
  split
  case isTrue h => rw [Exact.val, realVal_zero, h, Int.cast_zero, zero_mul]
  case isFalse h =>
    rw [Exact.val, realVal, sgn_mul_natAbs]

/-- An exact number as the value of a code. -/
def Exact.toFVal (x : Exact) : FVal := .fin x.neg x.m x.e

theorem valSum_fin (rm : Rm) (xs : List Exact) : valSum rm (xs.map Exact.toFVal) = .exact (exactSum rm xs) := by
  have hinf (n : Bool) : (xs.map Exact.toFVal).any (fun v => v == .inf n) = false := by
    rw [List.any_map, List.any_eq_false]
    exact fun x _ => by simp [Exact.toFVal]
  have hfin : (xs.map Exact.toFVal).filterMap (fun v => match v with | .fin n m e => some (⟨n, m, e⟩ : Exact) | _ => none) = xs := by
    rw [List.filterMap_map]
    exact List.filterMap_some
  unfold valSum
  simp only [hinf]
  exact congrArg (fun l => SumVal.exact (exactSum rm l)) hfin

section
variable {f : Fmt} (hew : 1 < f.ew)
include hew

theorem roundQ_roundsNear_int (neg : Bool) (m : ℕ) (e : ℤ) : RoundsNear f (realVal neg m e) (roundQ f .rne neg m 1 e) := by
  have h := roundQ_roundsNear hew neg m one_pos e
  rwa [Nat.cast_one, div_one, ← realVal_eq] at h
/-- A rounded sum of finite values is a nearest code to their sum. -/
theorem roundSum_roundsNear (clash : ℕ) (xs : List Exact) :
    RoundsNear f (xs.map Exact.val).sum (roundSum f .rne clash (xs.map Exact.toFVal)) := by
  rw [roundSum, valSum_fin, ← exactSum_val .rne]
  exact roundQ_roundsNear_int hew ..
end

theorem realVal_mul (n n' : Bool) (m m' : ℕ) (e e' : ℤ) : realVal (n != n') (m * m') (e + e') = realVal n m e * realVal n' m' e' := by
  unfold realVal
  rw [sgn_bne, zpow_add₀ two_ne_zero]
  push_cast
  ring
theorem realVal_not (n : Bool) (m : ℕ) (e : ℤ) : realVal (!n) m e = -realVal n m e := by
  unfold realVal
  rw [sgn_not]
  ring

/-! ## Order of values (R118, R119) -/

theorem valLt_fin (n n' : Bool) (m m' : ℕ) (e e' : ℤ) : valLt (.fin n m e) (.fin n' m' e') = decide (realVal n m e < realVal n' m' e') := by
  have h := exactInt_mul_zpow (x := ⟨n, m, e⟩) (min_le_left e e')
  have h' := exactInt_mul_zpow (x := ⟨n', m', e'⟩) (min_le_right e e')
  have hpos : (0 : ℝ) < 2 ^ min e e' := by positivity
  show decide (exactInt ⟨n, m, e⟩ (min e e') < exactInt ⟨n', m', e'⟩ (min e e'))
    = decide ((⟨n, m, e⟩ : Exact).val < (⟨n', m', e'⟩ : Exact).val)
  rw [← h, ← h', decide_eq_decide, mul_lt_mul_iff_left₀ hpos, Int.cast_lt]

/-! ## FP32 arithmetic of finite operands (R118, R126) -/

/-- A word is a nearest FP32 code. -/
def Near (x : ℝ) (r : Word) : Prop := RoundsNear fp32 x r.toNat

theorem toNat_w32 {r : ℕ} (hr : r < 2 ^ 32) : (w32 r).toNat = r := by rw [w32, BitVec.toNat_ofNat, Nat.mod_eq_of_lt hr]
theorem near_w32 {x : ℝ} {r : ℕ} (hr : r < 2 ^ 32) (h : RoundsNear fp32 x r) : Near x (w32 r) := by
  rwa [Near, toNat_w32 hr]
theorem near_roundSum {clash : ℕ} (hclash : clash < 2 ^ 32) (xs : List Exact) :
    Near (xs.map Exact.val).sum (w32 (roundSum fp32 .rne clash (xs.map Exact.toFVal))) :=
  near_w32 (roundSum_lt (f := fp32) .rne hclash _) (roundSum_roundsNear (by decide) clash xs)
theorem near_roundQ (neg : Bool) (m : ℕ) (e : ℤ) : Near (realVal neg m e) (w32 (roundQ fp32 .rne neg m 1 e)) :=
  near_w32 (roundQ_lt (f := fp32) .rne neg m one_pos e) (roundQ_roundsNear_int (by decide) neg m e)

theorem fval_negBits {b : Word} {n : Bool} {m : ℕ} {e : ℤ} (h : fval b = .fin n m e) : fval (negBits b) = .fin (!n) m e := by
  have hto : (negBits b).toNat = b.toNat ^^^ 2 ^ 31 := BitVec.toNat_xor ..
  have hman : (negBits b).toNat % 2 ^ 23 = b.toNat % 2 ^ 23 := by
    rw [hto, Nat.xor_mod_two_pow]
    exact Nat.xor_zero _
  have hexp : ((negBits b).toNat >>> 23) % 2 ^ 8 = (b.toNat >>> 23) % 2 ^ 8 := by
    rw [hto, Nat.shiftRight_xor_distrib, Nat.xor_mod_two_pow]
    exact Nat.xor_zero _
  have hsign : (negBits b).toNat.testBit 31 = !b.toNat.testBit 31 := by
    rw [hto, Nat.testBit_xor, Nat.testBit_two_pow_self, Bool.xor_true]
  unfold fval fdecode fp32 at h ⊢
  dsimp only at h ⊢
  rw [hman, hexp, hsign]
  split_ifs at h ⊢ <;> cases h <;> rfl

section
variable {a b c : Word} {na nb nc : Bool} {ma mb mc : ℕ} {ea eb ec : ℤ} (ha : fval a = .fin na ma ea) (hb : fval b = .fin nb mb eb)

section
include ha hb

theorem firstNan_fin : firstNan [a, b] = none := firstNan_pair (isNan_of_fin ha) (isNan_of_fin hb)
theorem near_f32add : Near (realVal na ma ea + realVal nb mb eb) (f32add .rne a b) := by
  unfold f32add f32addSrc
  rw [firstNan_fin ha hb, ha, hb]
  have h := near_roundSum (nan32 0 3).isLt [⟨na, ma, ea⟩, ⟨nb, mb, eb⟩]
  rwa [List.map_cons, List.map_cons, List.map_nil, List.sum_pair] at h
theorem near_f32sub : Near (realVal na ma ea - realVal nb mb eb) (f32sub a b) := by
  unfold f32sub
  rw [firstNan_fin ha hb, sub_eq_add_neg, ← realVal_not]
  exact near_f32add ha (fval_negBits hb)
theorem near_f32mul : Near (realVal na ma ea * realVal nb mb eb) (f32mul .rne a b) := by
  unfold f32mul f32mulSrc
  rw [firstNan_fin ha hb, ha, hb, ← realVal_mul]
  have h := near_roundSum (clash := 0) (by decide) [⟨na != nb, ma * mb, ea + eb⟩]
  rwa [List.map_singleton, List.sum_singleton] at h
theorem near_f32fma (hc : fval c = .fin nc mc ec) :
    Near (realVal na ma ea * realVal nb mb eb + realVal nc mc ec) (f32fma .rne a b c) := by
  unfold f32fma
  rw [firstNan_cons_of_not_nan (isNan_of_fin ha), firstNan_fin hb hc, ha, hb, hc, ← realVal_mul]
  have h := near_roundSum (nan32 0 3).isLt [⟨na != nb, ma * mb, ea + eb⟩, ⟨nc, mc, ec⟩]
  rwa [List.map_cons, List.map_cons, List.map_nil, List.sum_pair] at h
theorem near_f32div (hmb : mb ≠ 0) : Near (realVal na ma ea / realVal nb mb eb) (f32div .rne a b) := by
  have hval : realVal na ma ea / realVal nb mb eb = sgn (na != nb) * (((ma : ℚ) / mb * 2 ^ (ea - eb) : ℚ) : ℝ) := by
    have hsq : sgn na * sgn nb = sgn na / sgn nb := by cases nb <;> simp [sgn, div_neg]
    unfold realVal
    rw [sgn_bne, hsq, zpow_sub₀ two_ne_zero]
    push_cast
    field_simp
  unfold f32div
  rw [firstNan_fin ha hb, ha, hb, hval]
  have hd : 0 < mb := Nat.pos_of_ne_zero hmb
  dsimp only
  rw [if_neg hmb]
  exact near_w32 (roundQ_lt (f := fp32) .rne _ _ hd _) (roundQ_roundsNear (by decide) _ _ hd _)
end

theorem fmtEmin_fp32 : fmtEmin fp32 = -149 := rfl
theorem fmtEtop_fp32 : fmtEtop fp32 = 104 := by norm_num [fmtEtop, fmtEmin, fp32]
include ha in
/-- The bounds of a finite FP32 value. -/
theorem fval_fin_bounds : ma < 2 ^ 24 ∧ -149 ≤ ea ∧ ea ≤ 104 ∧ (ma < 2 ^ 23 → ea = -149) := by
  obtain ⟨⟨hlt, hemin, hsub⟩, htop, -⟩ := packGrid_fdecode .rne ha a.isLt (by decide)
  rw [fmtEmin_fp32] at hemin hsub
  rw [fmtEtop_fp32] at htop
  exact ⟨hlt, hemin, htop, hsub⟩

/-! ## Scaling (R126) -/

/-- Rounding far below the least code, or at any value that overflows, gives one result. -/
theorem roundQ_congr_tiny {f : Fmt} {neg : Bool} {m : ℕ} {e e' : ℤ} (hm : 0 < m) (h : (m : ℚ) * 2 ^ e < 2 ^ (fmtEmin f - 1))
    (h' : (m : ℚ) * 2 ^ e' < 2 ^ (fmtEmin f - 1)) : roundQ f .rne neg m 1 e = roundQ f .rne neg m 1 e' := by
  rw [roundQ_eq_packGrid f .rne neg hm one_pos, roundQ_eq_packGrid f .rne neg hm one_pos, Nat.cast_one, div_one,
    gridOf_of_tiny neg (by positivity) h, gridOf_of_tiny neg (by positivity) h']
theorem roundQ_congr_overflow {f : Fmt} (hew : 1 < f.ew) {neg : Bool} {m : ℕ} {e e' : ℤ} (hm : 0 < m) (h : overflowAt f ≤ (m : ℚ) * 2 ^ e)
    (h' : overflowAt f ≤ (m : ℚ) * 2 ^ e') : roundQ f .rne neg m 1 e = roundQ f .rne neg m 1 e' := by
  rw [roundQ_rne_of_ge hew hm one_pos (by simpa using h), roundQ_rne_of_ge hew hm one_pos (by simpa using h')]

theorem mul_zpow_lt {m i : ℕ} {e j : ℤ} (hm : m < 2 ^ i) (h : i + e ≤ j) : (m : ℚ) * 2 ^ e < 2 ^ j := by
  calc (m : ℚ) * 2 ^ e < 2 ^ i * 2 ^ e := mul_lt_mul_of_pos_right (by exact_mod_cast hm) (by positivity)
    _ = 2 ^ (i + e) := by rw [zpow_add₀ two_ne_zero, zpow_natCast]
    _ ≤ 2 ^ j := zpow_le_zpow_right₀ one_le_two h
theorem zpow_le_mul_zpow {m : ℕ} {e j : ℤ} (hm : 0 < m) (h : j ≤ e) : (2 : ℚ) ^ j ≤ m * 2 ^ e := by
  calc (2 : ℚ) ^ j ≤ 2 ^ e := zpow_le_zpow_right₀ one_le_two h
    _ ≤ m * 2 ^ e := le_mul_of_one_le_left (by positivity) (by exact_mod_cast hm)
theorem overflowAt_fp32_le : overflowAt fp32 ≤ 2 ^ (128 : ℤ) := by
  rw [overflowAt_fp32]
  norm_num

include ha in
/-- The limit of the exponent changes no result. -/
theorem f32ldexp_rne (k : ℤ) : f32ldexp .rne a k = w32 (roundQ fp32 .rne na ma 1 (ea + k)) := by
  obtain ⟨hma, hea, hea', -⟩ := fval_fin_bounds ha
  unfold f32ldexp
  rw [ha]
  refine congrArg w32 ?_
  by_cases hm : ma = 0
  · rw [hm, roundQ_zero, roundQ_zero]
  have hm := Nat.pos_of_ne_zero hm
  rcases lt_or_ge k (-1000) with hk | hk
  · refine roundQ_congr_tiny hm ?_ ?_
    · exact mul_zpow_lt hma (by rw [fmtEmin_fp32]; push_cast; omega)
    · exact mul_zpow_lt hma (by rw [fmtEmin_fp32]; push_cast; omega)
  rcases lt_or_ge 1000 k with hk' | hk'
  · refine roundQ_congr_overflow (by decide) hm ?_ ?_
    · exact overflowAt_fp32_le.trans (zpow_le_mul_zpow hm (by omega))
    · exact overflowAt_fp32_le.trans (zpow_le_mul_zpow hm (by omega))
  · congr 1
    omega
include ha in
theorem near_f32ldexp (k : ℤ) : Near (realVal na ma ea * 2 ^ k) (f32ldexp .rne a k) := by
  rw [f32ldexp_rne ha k, realVal, mul_assoc, ← zpow_add₀ two_ne_zero]
  exact near_roundQ na ma (ea + k)
end
end Sys2Proof.Machine
end

section
namespace Sys2Proof.Machine

/-! ## Rounding between two neighbouring multiples of a small unit -/

/-- Strictly between two integers, nearest-even rounding of a fraction sees only the lower one. -/
theorem roundMag_between {z : ℚ} {r : ℕ} (neg : Bool) (j : ℕ) (hlo : r < z) (hhi : z < r + 1) :
    roundMag .rne neg (z / 2 ^ (j + 1)) = if 2 ^ j ≤ r % 2 ^ (j + 1) then r / 2 ^ (j + 1) + 1 else r / 2 ^ (j + 1) := by
  have hr : (0 : ℚ) ≤ r := by positivity
  have hfloor : ⌊z / 2 ^ (j + 1)⌋₊ = r / 2 ^ (j + 1) := by
    have hz : ⌊z⌋₊ = r := (Nat.floor_eq_iff (by linarith)).mpr ⟨hlo.le, hhi⟩
    have h := Nat.floor_div_natCast z (2 ^ (j + 1))
    rw [hz] at h
    exact_mod_cast h
  have hint (k : ℕ) : (k : ℚ) < z ↔ k ≤ r := by
    constructor
    · intro h
      have hlt : (k : ℚ) < (r + 1 : ℕ) := by push_cast; linarith
      exact Nat.lt_succ_iff.mp (by exact_mod_cast hlt)
    · exact fun h => lt_of_le_of_lt (by exact_mod_cast h) hlo
  have hne (k : ℕ) : z ≠ k := fun h => by
    have h1 : r < k := by exact_mod_cast h ▸ hlo
    have h2 : k < r + 1 := by exact_mod_cast h ▸ hhi
    omega
  have hD : (0 : ℚ) < 2 ^ (j + 1) := by positivity
  have hpow : (2 : ℚ) ^ (j + 1) = 2 * 2 ^ j := pow_succ' 2 j
  have hdm := Nat.div_add_mod r (2 ^ (j + 1))
  have hgt : 1 / 2 < z / 2 ^ (j + 1) - (r / 2 ^ (j + 1) : ℕ) ↔ 2 ^ j ≤ r % 2 ^ (j + 1) := by
    have h := hint (2 ^ (j + 1) * (r / 2 ^ (j + 1)) + 2 ^ j)
    rw [lt_sub_iff_add_lt, lt_div_iff₀ hD]
    refine Iff.trans ?_ (h.trans (by omega))
    push_cast
    rw [hpow]
    ring_nf
  have heq : z / 2 ^ (j + 1) - (r / 2 ^ (j + 1) : ℕ) ≠ 1 / 2 := fun h => by
    refine hne (2 ^ (j + 1) * (r / 2 ^ (j + 1)) + 2 ^ j) ?_
    rw [sub_eq_iff_eq_add, div_eq_iff hD.ne'] at h
    rw [h]
    push_cast
    rw [hpow]
    ring
  unfold roundMag
  dsimp only
  rw [hfloor]
  simp only [hgt, heq, false_and, or_false]
/-- So values between two neighbouring multiples of a unit below the grid's have one rounding. -/
theorem gridOf_between (f : Fmt) (neg : Bool) {q q' : ℚ} {r : ℕ} {t : ℤ} (hr : 2 ^ (f.mw + 1) ≤ r) (hlo : r * 2 ^ t < q)
    (hhi : q < (r + 1) * 2 ^ t) (hlo' : r * 2 ^ t < q') (hhi' : q' < (r + 1) * 2 ^ t) : gridOf f .rne neg q = gridOf f .rne neg q' := by
  have hrpos : 0 < r := lt_of_lt_of_le (by positivity) hr
  have hT : (0 : ℚ) < 2 ^ t := by positivity
  have hlog {q : ℚ} (hlo : r * 2 ^ t < q) (hhi : q < (r + 1) * 2 ^ t) : Int.log 2 q = Nat.log 2 r + t := by
    refine int_log_eq_of_mem ?_ ?_
    · refine le_trans ?_ hlo.le
      rw [zpow_add₀ two_ne_zero, zpow_natCast]
      exact mul_le_mul_of_nonneg_right (by exact_mod_cast Nat.pow_log_le_self 2 hrpos.ne') hT.le
    · refine hhi.trans_le ?_
      rw [add_right_comm, zpow_add₀ two_ne_zero]
      refine mul_le_mul_of_nonneg_right ?_ hT.le
      exact_mod_cast Nat.lt_pow_succ_log_self one_lt_two r
  have hexp : gridExp f q = gridExp f q' := by rw [gridExp, gridExp, hlog hlo hhi, hlog hlo' hhi']
  have hlogr : f.mw + 1 ≤ Nat.log 2 r := Nat.le_log_of_pow_le one_lt_two hr
  obtain ⟨j, hj⟩ : ∃ j : ℕ, gridExp f q' = t + (j + 1 : ℕ) := by
    have hle : Int.log 2 q' - f.mw ≤ gridExp f q' := le_max_left _ _
    rw [hlog hlo' hhi'] at hle
    exact ⟨(gridExp f q' - t - 1).toNat, by omega⟩
  have hround {q : ℚ} (hlo : r * 2 ^ t < q) (hhi : q < (r + 1) * 2 ^ t) : roundMag .rne neg (q / 2 ^ gridExp f q')
      = if 2 ^ j ≤ r % 2 ^ (j + 1) then r / 2 ^ (j + 1) + 1 else r / 2 ^ (j + 1) := by
    rw [hj, zpow_add₀ two_ne_zero, zpow_natCast, ← div_div]
    exact roundMag_between neg j ((lt_div_iff₀ hT).mpr hlo) ((div_lt_iff₀ hT).mpr hhi)
  unfold gridOf
  rw [hexp, hround hlo hhi, hround hlo' hhi']

/-- What holds of the rationals around a real number holds of it. -/
theorem abs_sub_le_of_rat {a b l h : ℚ} {x : ℝ} (hlo : (l : ℝ) < x) (hhi : x < h)
    (hq : ∀ q : ℚ, l < q → q < h → |a - q| ≤ |b - q|) : |(a : ℝ) - x| ≤ |(b : ℝ) - x| := by
  by_contra hcon
  rw [not_le] at hcon
  obtain ⟨q, hxq, hqd⟩ := exists_rat_btwn (show x < min (h : ℝ) (x + (|(a : ℝ) - x| - |(b : ℝ) - x|) / 2) from
    lt_min hhi (by linarith))
  obtain ⟨hqh, hqd⟩ := lt_min_iff.mp hqd
  have hle : |(a : ℝ) - q| ≤ |(b : ℝ) - q| := by
    exact_mod_cast hq q (by exact_mod_cast hlo.trans hxq) (by exact_mod_cast hqh)
  have hdist : |(q : ℝ) - x| = q - x := abs_of_pos (by linarith)
  have h1 := abs_sub_le (a : ℝ) q x
  have h2 := abs_sub_le (b : ℝ) x q
  rw [abs_sub_comm x, hdist] at h2
  rw [hdist] at h1
  linarith

/-! ## Square roots (R126) -/

theorem isqrtGo_eq_sqrt (n : ℕ) {k r : ℕ} (hlo : r * r ≤ n) (hhi : n < (r + 2 ^ k) * (r + 2 ^ k)) : isqrtGo n k r = Nat.sqrt n := by
  induction k generalizing r with
  | zero => exact Nat.eq_sqrt.mpr ⟨hlo, hhi⟩
  | succ k ih =>
    rw [isqrtGo]
    split
    case isTrue hle => exact ih hle (by rwa [add_assoc, ← two_mul, ← pow_succ'])
    case isFalse hlt => exact ih hlo (not_le.mp hlt)
theorem isqrt_eq_sqrt (n : ℕ) : isqrt n = Nat.sqrt n := by
  refine isqrtGo_eq_sqrt n (Nat.zero_le _) ?_
  rw [Nat.zero_add, ← pow_add]
  exact Nat.lt_log2_self.trans_le (Nat.pow_le_pow_right two_pos (by omega))

/-- The integer root at 80 or more binary places, and whether digits follow it. -/
theorem sqrtSticky_spec {m : ℕ} (hm : 0 < m) (e : ℤ) : ∃ (r : ℕ) (t : ℤ), 2 ^ 40 ≤ r
    ∧ (sqrtSticky m e = (2 * r, t - 1) ∧ Real.sqrt (m * 2 ^ e) = r * 2 ^ t
      ∨ sqrtSticky m e = (2 * r + 1, t - 1) ∧ r * 2 ^ t < Real.sqrt (m * 2 ^ e) ∧ Real.sqrt (m * 2 ^ e) < (r + 1) * 2 ^ t) := by
  obtain ⟨k, hk, hkl, heven⟩ : ∃ k : ℕ, (if (e - 80) % 2 = 0 then 80 else 81 : ℤ) = k ∧ 80 ≤ k ∧ (e - k) % 2 = 0 := by
    split
    · exact ⟨80, rfl, le_rfl, by omega⟩
    · exact ⟨81, rfl, by omega, by omega⟩
  have hn : 2 ^ 80 ≤ m * 2 ^ k := le_trans (Nat.pow_le_pow_right two_pos hkl) (Nat.le_mul_of_pos_left _ hm)
  have hT : (0 : ℝ) < 2 ^ ((e - k) / 2) := by positivity
  have hroot : Real.sqrt (m * 2 ^ e) = Real.sqrt (m * 2 ^ k : ℕ) * 2 ^ ((e - k) / 2) := by
    have hsplit : (m : ℝ) * 2 ^ e = (m * 2 ^ k : ℕ) * (2 ^ ((e - k) / 2)) ^ 2 := by
      rw [← zpow_natCast, ← zpow_mul, Nat.cast_mul, Nat.cast_pow, Nat.cast_ofNat, mul_assoc, ← zpow_natCast, ← zpow_add₀ two_ne_zero]
      congr 2
      push_cast
      omega
    rw [hsplit, Real.sqrt_mul (by positivity), Real.sqrt_sq hT.le]
  have hsticky : sqrtSticky m e = (2 * Nat.sqrt (m * 2 ^ k) + (if Nat.sqrt (m * 2 ^ k) * Nat.sqrt (m * 2 ^ k) = m * 2 ^ k then 0 else 1),
      (e - k) / 2 - 1) := by
    unfold sqrtSticky
    dsimp only
    rw [hk, Int.toNat_natCast, Nat.shiftLeft_eq, isqrt_eq_sqrt]
  refine ⟨Nat.sqrt (m * 2 ^ k), (e - k) / 2, Nat.le_sqrt.mpr (le_trans (by norm_num) hn), ?_⟩
  rw [hsticky, hroot]
  by_cases hsq : Nat.sqrt (m * 2 ^ k) * Nat.sqrt (m * 2 ^ k) = m * 2 ^ k
  · left
    rw [if_pos hsq]
    refine ⟨rfl, ?_⟩
    rw [← hsq, Nat.cast_mul, Real.sqrt_mul_self (by positivity), hsq]
  · right
    have hlt : Nat.sqrt (m * 2 ^ k) * Nat.sqrt (m * 2 ^ k) < m * 2 ^ k := lt_of_le_of_ne (Nat.sqrt_le _) hsq
    have hup := Nat.lt_succ_sqrt (m * 2 ^ k)
    rw [if_neg hsq]
    refine ⟨rfl, mul_lt_mul_of_pos_right ?_ hT, mul_lt_mul_of_pos_right ?_ hT⟩
    · exact Real.lt_sqrt_of_sq_lt (by rw [sq]; exact_mod_cast hlt)
    · refine (Real.sqrt_lt' (by positivity)).mpr ?_
      rw [sq]
      exact_mod_cast hup

/-- A value held between two multiples of a small unit rounds as their middle does. -/
theorem roundQ_roundsNear_between {f : Fmt} (hew : 1 < f.ew) {r : ℕ} {t : ℤ} {x : ℝ} (hr : 2 ^ (f.mw + 1) ≤ r) (hlo : r * 2 ^ t < x)
    (hhi : x < (r + 1) * 2 ^ t) (hsmall : (r + 1 : ℚ) * 2 ^ t ≤ overflowAt f) :
    RoundsNear f x (roundQ f .rne false (2 * r + 1) 1 (t - 1)) := by
  have hT : (0 : ℚ) < 2 ^ t := by positivity
  have hmid : (((2 * r + 1 : ℕ) : ℚ) / (1 : ℕ)) * 2 ^ (t - 1) = (r + 1 / 2) * 2 ^ t := by
    rw [zpow_sub_one₀ two_ne_zero]
    push_cast
    ring
  have hdec := roundQ_rne_of_lt (neg := false) hew (n := 2 * r + 1) (d := 1) (e := t - 1) (by omega) one_pos
    (by rw [hmid]; nlinarith)
  rw [hmid] at hdec
  have hxpos : 0 ≤ x := le_trans (by positivity) hlo.le
  refine ⟨?_, fun _ => ⟨_, _, _, hdec⟩⟩
  have hnear := isNearest_of_magnitude (w := 2 ^ (1 + f.ew + f.mw)) hxpos hdec fun c nc mc kc hc hcode => ?_
  · rwa [sgn, if_neg Bool.false_ne_true, one_mul] at hnear
  · obtain ⟨hgrid, -, -⟩ := packGrid_fdecode .rne hcode hc hew
    refine abs_sub_le_of_rat (l := r * 2 ^ t) (h := (r + 1) * 2 ^ t) (by push_cast; exact hlo) (by push_cast; exact hhi) fun q hq hq' => ?_
    rw [gridOf_between f false hr (q' := q) (by nlinarith) (by nlinarith) hq hq']
    exact gridOf_rne_nearest hgrid (lt_of_le_of_lt (by positivity) hq) false

section
variable {a : Word} {m : ℕ} {e : ℤ}

theorem near_f32sqrt (ha : fval a = .fin false m e) : Near (Real.sqrt (realVal false m e)) (f32sqrt a) := by
  obtain ⟨hm24, -, he, -⟩ := fval_fin_bounds ha
  unfold f32sqrt
  rw [ha, realVal_false]
  by_cases hm : m = 0
  · subst hm
    have hzero : a.toNat = fcode fp32 false 0 0 := by
      rw [← roundQ_zero fp32 .rne false 1 e]
      exact (roundQ_fdecode .rne ha a.isLt (by decide)).symm
    dsimp only
    rw [if_pos rfl, Nat.cast_zero, zero_mul, Real.sqrt_zero, Near, hzero]
    exact roundsNear_zero (by decide) false
  have hmpos := Nat.pos_of_ne_zero hm
  obtain ⟨r, t, hr, ⟨hs, hroot⟩ | ⟨hs, hlo, hhi⟩⟩ := sqrtSticky_spec hmpos e
  · have h := near_roundQ false (2 * r) (t - 1)
    dsimp only
    rw [if_neg hm, if_neg Bool.false_ne_true, hs, hroot]
    have hxy : realVal false (2 * r) (t - 1) = r * 2 ^ t := by
      rw [realVal_false, zpow_sub_one₀ two_ne_zero]
      push_cast
      ring
    rwa [hxy] at h
  · dsimp only
    rw [if_neg hm, if_neg Bool.false_ne_true, hs]
    refine near_w32 (roundQ_lt (f := fp32) .rne _ _ one_pos _) (roundQ_roundsNear_between (by decide) (le_trans (by norm_num [fp32]) hr) hlo hhi ?_)
    have hbig : Real.sqrt (m * 2 ^ e) < 2 ^ 64 := by
      refine (Real.sqrt_lt' (by positivity)).mpr ?_
      have h := mul_zpow_lt hm24 (e := e) (j := 128) (by push_cast; omega)
      have h' : ((m * 2 ^ e : ℚ) : ℝ) < ((2 ^ (128 : ℤ) : ℚ) : ℝ) := by exact_mod_cast h
      push_cast at h'
      exact h'.trans_le (by norm_num)
    have hr1 : (1 : ℝ) ≤ r := by exact_mod_cast le_trans Nat.one_le_two_pow hr
    have hunit : (r + 1 : ℝ) * 2 ^ t ≤ 2 * 2 ^ 64 := by
      have hT : (0 : ℝ) < 2 ^ t := by positivity
      nlinarith
    have hq : (r + 1 : ℚ) * 2 ^ t ≤ 2 * 2 ^ 64 := (Rat.cast_le (K := ℝ)).mp (by push_cast; exact hunit)
    rw [overflowAt_fp32]
    exact hq.trans (by norm_num)
theorem f32sqrt_negative (ha : fval a = .fin true m e) (hm : m ≠ 0) : f32sqrt a = 0x7FC00000 := by
  unfold f32sqrt
  rw [ha]
  exact (if_neg hm).trans (if_pos rfl)
theorem f32sqrt_negZero : f32sqrt 0x80000000 = 0x80000000 := by
  unfold f32sqrt
  rw [fval_negZero]
  rfl
end

/-! ## Packed BF16 and the two-way dot product (R123, R126) -/

theorem bfIsNan_of_fin {h : ℕ} {n : Bool} {m : ℕ} {e : ℤ} (hd : fdecode fpBf16 h = .fin n m e) : bfIsNan h = false := by
  unfold bfIsNan
  rw [hd]
theorem bfFirstNan_cons_of_fin {h : ℕ} {n : Bool} {m : ℕ} {e : ℤ} (hd : fdecode fpBf16 h = .fin n m e) (hs : List ℕ) :
    bfFirstNan (h :: hs) = bfFirstNan hs := if_neg (by simp [bfIsNan_of_fin hd])

section
variable {a b c : ℕ} {na nb nc : Bool} {ma mb mc : ℕ} {ea eb ec : ℤ} (ha : fdecode fpBf16 a = .fin na ma ea)
  (hb : fdecode fpBf16 b = .fin nb mb eb)
include ha hb

theorem bfFirstNan_fin : bfFirstNan [a, b] = none := (bfFirstNan_cons_of_fin ha _).trans (bfFirstNan_cons_of_fin hb _)
theorem roundsNear_bfAdd : RoundsNear fpBf16 (realVal na ma ea + realVal nb mb eb) (bfAdd .rne a b) := by
  unfold bfAdd
  rw [bfFirstNan_fin ha hb, ha, hb]
  have h := roundSum_roundsNear (f := fpBf16) (by decide) 0x7FC3 [⟨na, ma, ea⟩, ⟨nb, mb, eb⟩]
  rwa [List.map_cons, List.map_cons, List.map_nil, List.sum_pair] at h
theorem roundsNear_bfMul : RoundsNear fpBf16 (realVal na ma ea * realVal nb mb eb) (bfMul .rne a b) := by
  unfold bfMul
  rw [bfFirstNan_fin ha hb, ha, hb, ← realVal_mul]
  have h := roundSum_roundsNear (f := fpBf16) (by decide) 0 [⟨na != nb, ma * mb, ea + eb⟩]
  rwa [List.map_singleton, List.sum_singleton] at h
theorem roundsNear_bfFma (hc : fdecode fpBf16 c = .fin nc mc ec) :
    RoundsNear fpBf16 (realVal na ma ea * realVal nb mb eb + realVal nc mc ec) (bfFma .rne a b c) := by
  unfold bfFma
  rw [bfFirstNan_cons_of_fin ha, bfFirstNan_fin hb hc, ha, hb, hc, ← realVal_mul]
  have h := roundSum_roundsNear (f := fpBf16) (by decide) 0x7FC3 [⟨na != nb, ma * mb, ea + eb⟩, ⟨nc, mc, ec⟩]
  rwa [List.map_cons, List.map_cons, List.map_nil, List.sum_pair] at h
/-- The greater; of equal values +0 before -0. -/
theorem bfMax_fin : bfMax a b = if realVal na ma ea < realVal nb mb eb ∨ (realVal na ma ea = realVal nb mb eb ∧ na = true ∧ nb = false)
    then b else a := by
  have hlt : valLtZ (.fin na ma ea) (.fin nb mb eb) = true
      ↔ realVal na ma ea < realVal nb mb eb ∨ (realVal na ma ea = realVal nb mb eb ∧ na = true ∧ nb = false) := by
    rw [valLtZ, valLt_fin, valLt_fin, valNeg, valNeg]
    simp only [Bool.or_eq_true, Bool.and_eq_true, Bool.not_eq_true', decide_eq_true_iff, decide_eq_false_iff_not, not_lt, and_assoc]
    constructor
    · rintro (h | ⟨hle, hneg⟩)
      · exact .inl h
      · exact hle.lt_or_eq.imp id fun heq => ⟨heq, hneg⟩
    · rintro (h | ⟨heq, hneg⟩)
      · exact .inl h
      · exact .inr ⟨heq.le, hneg⟩
  unfold bfMax
  rw [bfFirstNan_fin ha hb, ha, hb]
  simp only [hlt]
end

theorem near_f32dot2 {a b c : Word} {n0 n1 n2 n3 nc : Bool} {m0 m1 m2 m3 mc : ℕ} {e0 e1 e2 e3 ec : ℤ}
    (h0 : fdecode fpBf16 (loH a) = .fin n0 m0 e0) (h1 : fdecode fpBf16 (hiH a) = .fin n1 m1 e1)
    (h2 : fdecode fpBf16 (loH b) = .fin n2 m2 e2) (h3 : fdecode fpBf16 (hiH b) = .fin n3 m3 e3) (hc : fval c = .fin nc mc ec) :
    Near (realVal nc mc ec + realVal n0 m0 e0 * realVal n2 m2 e2 + realVal n1 m1 e1 * realVal n3 m3 e3) (f32dot2 .rne a b c) := by
  have hnone : [loH a, hiH a, loH b, hiH b].find? bfIsNan = none := by
    simp [bfIsNan_of_fin h0, bfIsNan_of_fin h1, bfIsNan_of_fin h2, bfIsNan_of_fin h3]
  unfold f32dot2
  dsimp only
  rw [hnone, isNan_of_fin hc, h0, h1, h2, h3, hc, ← realVal_mul, ← realVal_mul, add_assoc]
  have h := near_roundSum (nan32 0 3).isLt [⟨nc, mc, ec⟩, ⟨n0 != n2, m0 * m2, e0 + e2⟩, ⟨n1 != n3, m1 * m3, e1 + e3⟩]
  rwa [List.map_cons, List.map_cons, List.map_cons, List.map_nil, List.sum_cons, List.sum_pair] at h
end Sys2Proof.Machine
end

section
namespace Sys2Proof.Machine

/-! ## Codes by their magnitude (R46, R71) -/

/-- A code without its sign. -/
def codeMag (f : Fmt) (w : ℕ) : ℕ := w % 2 ^ (f.ew + f.mw)
/-- The value of a magnitude in units of the smallest subnormal; an infinity's is that of the next exponent. -/
def magUnits (f : Fmt) (c : ℕ) : ℕ := if c / 2 ^ f.mw = 0 then c else (c % 2 ^ f.mw + 2 ^ f.mw) * 2 ^ (c / 2 ^ f.mw - 1)

theorem magUnits_strictMono (f : Fmt) : StrictMono (magUnits f) := by
  refine strictMono_nat_of_lt_succ fun c => ?_
  have hM : 0 < 2 ^ f.mw := by positivity
  have hdm := Nat.div_add_mod c (2 ^ f.mw)
  have hlt := Nat.mod_lt c hM
  unfold magUnits
  generalize 2 ^ f.mw = M at *
  generalize hq : c / M = q at *
  generalize hr : c % M = r at *
  by_cases hstay : r + 1 < M
  · have hsplit : c + 1 = r + 1 + M * q := by omega
    have hq' : (c + 1) / M = q := by rw [hsplit, Nat.add_mul_div_left _ _ hM, Nat.div_eq_of_lt hstay, Nat.zero_add]
    have hr' : (c + 1) % M = r + 1 := by rw [hsplit, Nat.add_mul_mod_self_left, Nat.mod_eq_of_lt hstay]
    rw [hq', hr']
    split
    · exact Nat.lt_succ_self c
    · exact Nat.mul_lt_mul_of_pos_right (by omega) (by positivity)
  · have hsplit : c + 1 = M * (q + 1) := by rw [Nat.mul_succ]; omega
    have hq' : (c + 1) / M = q + 1 := by rw [hsplit, Nat.mul_div_cancel_left _ hM]
    have hr' : (c + 1) % M = 0 := by rw [hsplit, Nat.mul_mod_right]
    rw [hq', hr', if_neg (Nat.succ_ne_zero q), Nat.zero_add, Nat.add_sub_cancel]
    split
    case isTrue h0 =>
      subst h0
      rw [pow_zero, Nat.mul_one]
      omega
    case isFalse h0 =>
      obtain ⟨p, rfl⟩ := Nat.exists_eq_succ_of_ne_zero h0
      rw [Nat.succ_sub_one, pow_succ', ← Nat.mul_assoc]
      exact Nat.mul_lt_mul_of_pos_right (by omega) (by positivity)
theorem codeMag_fcode {f : Fmt} {ex man : ℕ} (neg : Bool) (hex : ex < 2 ^ f.ew) (hman : man < 2 ^ f.mw) :
    codeMag f (fcode f neg ex man) = man + 2 ^ f.mw * ex := by
  have hlt : man + 2 ^ f.mw * ex < 2 ^ (f.ew + f.mw) := by
    calc man + 2 ^ f.mw * ex < 2 ^ f.mw * (ex + 1) := by rw [Nat.mul_succ]; omega
      _ ≤ 2 ^ f.mw * 2 ^ f.ew := Nat.mul_le_mul_left _ hex
      _ = 2 ^ (f.ew + f.mw) := by ring
  have hsplit : fcode f neg ex man = man + 2 ^ f.mw * ex + 2 ^ (f.ew + f.mw) * neg.toNat := by
    rw [fcode_eq, pow_add]
    ring
  rw [codeMag, hsplit, Nat.add_mul_mod_self_left, Nat.mod_eq_of_lt hlt]
/-- What a code is by its magnitude, and the value of a finite one. -/
theorem fdecode_by_magnitude {f : Fmt} {w : ℕ} (hw : w < 2 ^ (1 + f.ew + f.mw)) : match fdecode f w with
    | .nan w' => w' = w ∧ fmtInf f false < codeMag f w
    | .inf neg => w.testBit (f.ew + f.mw) = neg ∧ codeMag f w = fmtInf f false
    | .fin neg m e => w.testBit (f.ew + f.mw) = neg ∧ codeMag f w < fmtInf f false
        ∧ realVal neg m e = sgn neg * magUnits f (codeMag f w) * 2 ^ fmtEmin f := by
  obtain ⟨neg, ex, man, hex, hman, rfl⟩ := exists_fcode hw
  have hinf : fmtInf f false = 2 ^ f.mw * (2 ^ f.ew - 1) := by
    rw [fmtInf, if_neg Bool.false_ne_true, Nat.zero_add, Nat.mul_comm]
  have hq : (man + 2 ^ f.mw * ex) / 2 ^ f.mw = ex := by
    rw [Nat.add_mul_div_left _ _ (by positivity), Nat.div_eq_of_lt hman, Nat.zero_add]
  have hr : (man + 2 ^ f.mw * ex) % 2 ^ f.mw = man := by rw [Nat.add_mul_mod_self_left, Nat.mod_eq_of_lt hman]
  rw [fdecode_fcode neg hex hman, fcode_testBit neg hex hman, codeMag_fcode neg hex hman, hinf]
  by_cases htop : ex = 2 ^ f.ew - 1
  · rw [if_pos htop, htop]
    by_cases hm : man = 0
    · rw [if_pos hm, hm]
      exact ⟨rfl, Nat.zero_add _⟩
    · rw [if_neg hm]
      exact ⟨rfl, by omega⟩
  · have hlt : man + 2 ^ f.mw * ex < 2 ^ f.mw * (2 ^ f.ew - 1) := by
      calc man + 2 ^ f.mw * ex < 2 ^ f.mw * (ex + 1) := by rw [Nat.mul_succ]; omega
        _ ≤ 2 ^ f.mw * (2 ^ f.ew - 1) := Nat.mul_le_mul_left _ (by omega)
    rw [if_neg htop]
    by_cases hz : ex = 0
    · rw [if_pos hz]
      refine ⟨rfl, hlt, ?_⟩
      rw [magUnits, hq, if_pos hz, hz, Nat.mul_zero, Nat.add_zero, realVal]
    · rw [if_neg hz]
      refine ⟨rfl, hlt, ?_⟩
      obtain ⟨p, rfl⟩ := Nat.exists_eq_succ_of_ne_zero hz
      rw [magUnits, hq, hr, if_neg hz, Nat.succ_sub_one, realVal, show fmtEmin f + (p.succ : ℕ) - 1 = p + fmtEmin f by push_cast; ring,
        zpow_add₀ two_ne_zero, zpow_natCast]
      push_cast
      ring

/-! ## `fcmp` (R71, R119) -/

/-- The signed magnitude of an FP32 code. -/
def signedMag (w : Word) : ℤ := if w.getLsbD 31 then -((w.toNat : ℤ) - 2 ^ 31) else w.toNat

theorem signedMag_eq (w : Word) : signedMag w = if w.toNat.testBit 31 then -(codeMag fp32 w.toNat : ℤ) else codeMag fp32 w.toNat := by
  have hw := w.isLt
  have hbit : w.toNat.testBit 31 = decide (2 ^ 31 ≤ w.toNat) := by
    rw [Nat.testBit_eq_decide_div_mod_eq, decide_eq_decide]
    omega
  have hmag : codeMag fp32 w.toNat = w.toNat % 2 ^ 31 := rfl
  rw [signedMag, BitVec.getLsbD, hbit, hmag]
  split <;> rename_i h <;> rw [decide_eq_true_iff] at h <;> omega
theorem isNan_eq_decide (a : Word) : isNan a = decide (0x7F800000 < a.toNat % 2 ^ 31) := by
  have hinf : fmtInf fp32 false = 0x7F800000 := rfl
  have h := fdecode_by_magnitude (f := fp32) (w := a.toNat) a.isLt
  rw [hinf, show codeMag fp32 a.toNat = a.toNat % 2 ^ 31 from rfl] at h
  unfold isNan fval
  cases hd : fdecode fp32 a.toNat <;> rw [hd] at h <;> dsimp only at h ⊢ <;> symm
  · exact decide_eq_true h.2
  · exact decide_eq_false (by omega)
  · exact decide_eq_false (by omega)
theorem fval_of_isNan {a : Word} (h : isNan a = true) : fval a = .nan a.toNat := by
  obtain ⟨w, hw⟩ := isNan_eq_true.mp h
  have hmag := fdecode_by_magnitude (f := fp32) (w := a.toNat) a.isLt
  rw [show fdecode fp32 a.toNat = .nan w from hw] at hmag
  rw [hw, hmag.1]
/-- Signed units are ordered as signed magnitudes. -/
theorem sgn_mul_magUnits_lt_iff (f : Fmt) (n n' : Bool) (c c' : ℕ) : sgn n * magUnits f c < sgn n' * magUnits f c'
    ↔ (if n then -(c : ℤ) else c) < if n' then -(c' : ℤ) else c' := by
  have hmono := magUnits_strictMono f
  have hzero : magUnits f 0 = 0 := by simp [magUnits]
  have hcast (c : ℕ) : (0 : ℝ) ≤ magUnits f c := by positivity
  have hposc : 0 < magUnits f c ↔ 0 < c := by rw [← hmono.lt_iff_lt (a := 0) (b := c), hzero]
  have hposc' : 0 < magUnits f c' ↔ 0 < c' := by rw [← hmono.lt_iff_lt (a := 0) (b := c'), hzero]
  cases n <;> cases n' <;> simp only [sgn, if_true, if_false, Bool.false_eq_true, one_mul, neg_one_mul, neg_lt_neg_iff, Nat.cast_lt,
    hmono.lt_iff_lt]
  · have h := hcast c
    have h' := hcast c'
    exact ⟨fun hlt => by linarith, fun hlt => by omega⟩
  · have hsum : -(magUnits f c : ℝ) < magUnits f c' ↔ 0 < magUnits f c ∨ 0 < magUnits f c' := by
      rw [neg_lt_iff_pos_add']
      norm_cast
      omega
    rw [hsum, hposc, hposc']
    omega
/-- Numbers are ordered as their signed magnitudes. -/
theorem valLt_fval {a b : Word} (ha : isNan a = false) (hb : isNan b = false) :
    valLt (fval a) (fval b) = decide (signedMag a < signedMag b) := by
  have hA := fdecode_by_magnitude (f := fp32) (w := a.toNat) a.isLt
  have hB := fdecode_by_magnitude (f := fp32) (w := b.toNat) b.isLt
  rw [signedMag_eq, signedMag_eq]
  unfold isNan at ha hb
  unfold fval at ha hb ⊢
  have hbit (w : ℕ) : w.testBit (fp32.ew + fp32.mw) = w.testBit 31 := rfl
  rw [hbit] at hA hB
  cases hda : fdecode fp32 a.toNat with
  | nan => rw [hda] at ha; cases ha
  | inf na =>
    rw [hda] at hA
    obtain ⟨hna, hca⟩ := hA
    cases hdb : fdecode fp32 b.toNat with
    | nan => rw [hdb] at hb; cases hb
    | inf nb =>
      rw [hdb] at hB
      obtain ⟨hnb, hcb⟩ := hB
      rw [hna, hca, hnb, hcb]
      cases na <;> cases nb <;> decide
    | fin nb mb eb =>
      rw [hdb] at hB
      obtain ⟨hnb, hcb, -⟩ := hB
      rw [hna, hca, hnb]
      show na = _
      cases na <;> cases nb <;> symm <;> simp only [if_true, if_false, Bool.false_eq_true, decide_eq_true_iff, decide_eq_false_iff_not] <;> omega
  | fin na ma ea =>
    rw [hda] at hA
    obtain ⟨hna, hca, hva⟩ := hA
    cases hdb : fdecode fp32 b.toNat with
    | nan => rw [hdb] at hb; cases hb
    | inf nb =>
      rw [hdb] at hB
      obtain ⟨hnb, hcb⟩ := hB
      rw [hna, hnb, hcb]
      show (!nb) = _
      cases na <;> cases nb <;> symm <;> simp only [if_true, if_false, Bool.false_eq_true, decide_eq_true_iff, decide_eq_false_iff_not,
        Bool.not_true, Bool.not_false] <;> omega
    | fin nb mb eb =>
      rw [hdb] at hB
      obtain ⟨hnb, hcb, hvb⟩ := hB
      rw [valLt_fin, hva, hvb, decide_eq_decide, mul_lt_mul_iff_left₀ (by positivity), sgn_mul_magUnits_lt_iff, hna, hnb]
/-- A relation with a NaN holds if it is an unordered one. -/
theorem fcmpRel_nan {a b : Word} (h : isNan a = true ∨ isNan b = true) (cc : FCond) :
    fcmpRel cc a b = [FCond.uno, .ueq, .une, .ult, .ule, .ugt, .uge].contains cc := by
  have huno : (isNan a || isNan b) = true := by rcases h with h | h <;> simp [h]
  unfold fcmpRel
  rw [huno]
  cases cc <;> rfl
theorem fcmpRel_numbers {a b : Word} (ha : isNan a = false) (hb : isNan b = false) (cc : FCond) : fcmpRel cc a b = (match cc with
    | .eq | .ueq => decide (signedMag a = signedMag b) | .ne | .une => decide (signedMag a ≠ signedMag b)
    | .lt | .ult => decide (signedMag a < signedMag b) | .le | .ule => decide (signedMag a ≤ signedMag b)
    | .gt | .ugt => decide (signedMag b < signedMag a) | .ge | .uge => decide (signedMag b ≤ signedMag a)
    | .ord => true | .uno => false) := by
  unfold fcmpRel
  rw [valLt_fval ha hb, valLt_fval hb ha, ha, hb]
  rcases lt_trichotomy (signedMag a) (signedMag b) with h | h | h
  · have h1 := h.not_gt
    have h2 := h.ne
    cases cc <;> simp [h, h1, h2, h.le]
  · cases cc <;> simp [h]
  · have h1 := h.not_gt
    have h2 := h.ne'
    cases cc <;> simp [h, h1, h2, h.le]
end Sys2Proof.Machine
end

section
namespace Sys2Proof.Machine

/-! ## Rounding to an integer (R122, R125, R126) -/

/-- The integer a mode gives for a value. -/
def RoundsTo (rm : Rm) (z : ℤ) (v : ℝ) : Prop := match rm with
  | .rne => |(z : ℝ) - v| ≤ 1 / 2 ∧ (|(z : ℝ) - v| = 1 / 2 → z % 2 = 0)
  | .rz => |(z : ℝ)| ≤ |v| ∧ |v| < |(z : ℝ)| + 1
  | .rd => z = ⌊v⌋
  | .ru => z = ⌈v⌉
/-- What a saturating conversion of `v` to the integers from `lo` to `hi` gives. -/
def Saturates (lo hi : ℤ) (rm : Rm) (v : ℝ) (r : ℤ) : Prop :=
  (v ≤ lo → r = lo) ∧ ((hi : ℝ) ≤ v → r = hi) ∧ ((lo : ℝ) ≤ v → v ≤ hi → RoundsTo rm r v)
/-- A magnitude rounded to an integer, with its sign. -/
def signedRound (rm : Rm) (n : Bool) (y : ℚ) : ℤ := if n then -roundMag rm n y else roundMag rm n y

theorem roundMag_le_ceil (rm : Rm) (neg : Bool) (y : ℚ) : roundMag rm neg y ≤ ⌈y⌉₊ := by
  have hfc := Nat.floor_le_ceil y
  unfold roundMag
  cases rm with
  | rne =>
    dsimp only
    split
    case isTrue h =>
      refine Nat.lt_ceil.mpr (lt_of_sub_pos ?_)
      rcases h with h | ⟨h, -⟩ <;> linarith
    case isFalse => exact hfc
  | rz => exact hfc
  | rd | ru => dsimp only; split <;> omega
theorem signedRound_cast (rm : Rm) (n : Bool) (y : ℚ) : (signedRound rm n y : ℝ) = sgn n * roundMag rm n y := by
  unfold signedRound sgn
  cases n <;> simp
theorem abs_sgn_mul_sub (n : Bool) (a b : ℝ) : |sgn n * a - sgn n * b| = |a - b| := by rw [← mul_sub, abs_mul, abs_sgn, one_mul]
theorem natFloor_eq_floor {y : ℚ} (hy : 0 ≤ y) : (⌊y⌋₊ : ℤ) = ⌊(y : ℝ)⌋ := by rw [Rat.floor_cast, Int.natCast_floor_eq_floor hy]
theorem natCeil_eq_ceil {y : ℚ} (hy : 0 ≤ y) : (⌈y⌉₊ : ℤ) = ⌈(y : ℝ)⌉ := by rw [Rat.ceil_cast, Int.natCast_ceil_eq_ceil hy]
/-- A tie goes to the even integer. -/
theorem roundMag_rne_even {n : Bool} {y : ℚ} (hy : 0 ≤ y) (h : |(roundMag .rne n y : ℚ) - y| = 1 / 2) : roundMag .rne n y % 2 = 0 := by
  have hle := Nat.floor_le hy
  have hlt := Nat.lt_floor_add_one y
  unfold roundMag at h ⊢
  dsimp only at h ⊢
  split at h
  case isTrue hup =>
    rw [if_pos hup]
    push_cast at h
    rw [abs_of_pos (by linarith)] at h
    rcases hup with hup | ⟨-, hodd⟩
    · linarith
    · omega
  case isFalse hdown =>
    rw [if_neg hdown]
    rw [abs_of_nonpos (by linarith)] at h
    by_contra hodd
    exact hdown (.inr ⟨by linarith, by omega⟩)
theorem signedRound_roundsTo (rm : Rm) (n : Bool) {y : ℚ} (hy : 0 ≤ y) : RoundsTo rm (signedRound rm n y) (sgn n * (y : ℝ)) := by
  have hyR : (0 : ℝ) ≤ y := by exact_mod_cast hy
  have hfl := natFloor_eq_floor hy
  have hce := natCeil_eq_ceil hy
  cases rm with
  | rne =>
    rw [RoundsTo, signedRound_cast, abs_sgn_mul_sub]
    have hhalf := (Rat.cast_le (K := ℝ)).mpr (abs_roundMag_rne_sub n hy)
    push_cast at hhalf
    refine ⟨hhalf, fun h => ?_⟩
    have heven := roundMag_rne_even (n := n) hy (Rat.cast_injective (α := ℝ) (by push_cast; exact h))
    unfold signedRound
    split <;> omega
  | rz =>
    rw [RoundsTo, signedRound_cast, abs_mul, abs_mul, abs_sgn, one_mul, one_mul, abs_of_nonneg hyR, abs_of_nonneg (by positivity)]
    exact ⟨by exact_mod_cast Nat.floor_le hy, by exact_mod_cast Nat.lt_floor_add_one y⟩
  | rd =>
    rw [RoundsTo, signedRound]
    cases n with
    | true => rw [if_pos rfl, roundMag, if_pos rfl, sgn, if_pos rfl, neg_one_mul, Int.floor_neg, hce]
    | false => rw [if_neg Bool.false_ne_true, roundMag, if_neg Bool.false_ne_true, sgn, if_neg Bool.false_ne_true, one_mul, hfl]
  | ru =>
    rw [RoundsTo, signedRound]
    cases n with
    | true => rw [if_pos rfl, roundMag, if_pos rfl, sgn, if_pos rfl, neg_one_mul, Int.ceil_neg, hfl]
    | false => rw [if_neg Bool.false_ne_true, roundMag, if_neg Bool.false_ne_true, sgn, if_neg Bool.false_ne_true, one_mul, hce]
/-- Rounding to an integer passes over no integer. -/
theorem signedRound_mem (rm : Rm) (n : Bool) {y : ℚ} (hy : 0 ≤ y) (k : ℤ) :
    (sgn n * (y : ℝ) ≤ k → signedRound rm n y ≤ k) ∧ ((k : ℝ) ≤ sgn n * (y : ℝ) → k ≤ signedRound rm n y) := by
  have hlow := floor_le_roundMag rm n y
  have hhigh := roundMag_le_ceil rm n y
  have hfl := natFloor_eq_floor hy
  have hce := natCeil_eq_ceil hy
  unfold signedRound sgn
  cases n with
  | true =>
    rw [if_pos rfl, if_pos rfl, neg_one_mul]
    refine ⟨fun h => ?_, fun h => ?_⟩
    · have hk : -k ≤ ⌊(y : ℝ)⌋ := Int.le_floor.mpr (by push_cast; linarith)
      omega
    · have hk : ⌈(y : ℝ)⌉ ≤ -k := Int.ceil_le.mpr (by push_cast; linarith)
      omega
  | false =>
    rw [if_neg Bool.false_ne_true, if_neg Bool.false_ne_true, one_mul]
    refine ⟨fun h => ?_, fun h => ?_⟩
    · have hk : ⌈(y : ℝ)⌉ ≤ k := Int.ceil_le.mpr h
      omega
    · have hk : k ≤ ⌊(y : ℝ)⌋ := Int.le_floor.mpr h
      omega
/-- The model's rounding to an integer is that of the rational. -/
theorem roundInt_eq_roundMag (rm : Rm) (n : Bool) (m : ℕ) (e : ℤ) : roundInt rm n m e = roundMag rm n (m * 2 ^ e) := by
  unfold roundInt
  split
  case isTrue he =>
    obtain ⟨j, rfl⟩ := Int.eq_ofNat_of_zero_le he
    have hint : (m : ℚ) * 2 ^ (j : ℤ) = (m * 2 ^ j : ℕ) := by push_cast; rw [zpow_natCast]
    rw [hint, roundMag_natCast, Int.toNat_natCast, Nat.shiftLeft_eq]
  case isFalse he =>
    obtain ⟨j, hj⟩ := Int.eq_ofNat_of_zero_le (show 0 ≤ -e by omega)
    obtain rfl : e = -(j : ℤ) := by omega
    have hquot : (m : ℚ) * 2 ^ (-(j : ℤ)) = m / (2 ^ j : ℕ) := by
      rw [zpow_neg, zpow_natCast]
      push_cast
      rfl
    rw [hquot, ← roundUp_eq_roundMag rm n m (by positivity), neg_neg, Int.toNat_natCast]

/-- A value that FP32 holds goes over exactly. -/
theorem fval_w32_roundQ (rm : Rm) (n : Bool) {m m1 : ℕ} {e e1 : ℤ} (h : (m : ℚ) * 2 ^ e = m1 * 2 ^ e1) (hm : m1 < 2 ^ 24) (he : -149 ≤ e1)
    (he' : e1 ≤ 104) : ∃ m' e', fval (w32 (roundQ fp32 rm n m 1 e)) = .fin n m' e' ∧ realVal n m' e' = realVal n m e := by
  obtain ⟨m', e', hdec, hval⟩ := roundQ_exact (f := fp32) (by decide) rm n (n := m) (d := 1) (e := e) one_pos
    (by rw [Nat.cast_one, div_one, h]) hm (by rwa [fmtEmin_fp32]) (by rwa [fmtEtop_fp32])
  exact ⟨m', e', (congrArg (fdecode fp32) (toNat_w32 (roundQ_lt (f := fp32) rm n m one_pos e))).trans hdec,
    realVal_congr n (hval.trans h.symm)⟩

section
variable {a : Word} {n : Bool} {m : ℕ} {e : ℤ} (ha : fval a = .fin n m e)
include ha

/-- R126: `frnd` gives the integer of its mode, with the operand's sign. -/
theorem fval_f32rnd (rm : Rm) : ∃ m' e', fval (f32rnd rm a) = .fin n m' e'
    ∧ ∃ z : ℤ, realVal n m' e' = z ∧ RoundsTo rm z (realVal n m e) := by
  obtain ⟨hm, hemin, hetop, -⟩ := fval_fin_bounds ha
  have hy : (0 : ℚ) ≤ m * 2 ^ e := by positivity
  obtain ⟨m1, k1, hm1, hk1, hk1', hrep⟩ : ∃ (m1 : ℕ) (k1 : ℤ), m1 < 2 ^ 24 ∧ -149 ≤ k1 ∧ k1 ≤ 104
      ∧ (roundInt rm n m e : ℚ) * 2 ^ (0 : ℤ) = m1 * 2 ^ k1 := by
    rw [zpow_zero, mul_one, roundInt_eq_roundMag]
    by_cases he : 0 ≤ e
    · obtain ⟨j, rfl⟩ := Int.eq_ofNat_of_zero_le he
      have hint : (m : ℚ) * 2 ^ (j : ℤ) = (m * 2 ^ j : ℕ) := by push_cast; rw [zpow_natCast]
      exact ⟨m, j, hm, hemin, hetop, by rw [hint, roundMag_natCast]⟩
    · have hle : roundMag rm n (m * 2 ^ e) ≤ 2 ^ 24 := by
        have hfloor : ⌊(m * 2 ^ e : ℚ)⌋₊ < 2 ^ 24 := by
          refine (Nat.floor_lt hy).mpr ?_
          have h := mul_zpow_lt hm (e := e) (j := 24) (by push_cast; omega)
          exact_mod_cast h
        exact (roundMag_le_floor_add_one rm n _).trans hfloor
      rcases hle.lt_or_eq with hlt | heq
      · exact ⟨_, 0, hlt, by decide, by decide, by rw [zpow_zero, mul_one]⟩
      · exact ⟨2 ^ 23, 1, by decide, by decide, by decide, by rw [heq]; norm_num⟩
  obtain ⟨m', e', hdec, hval⟩ := fval_w32_roundQ .rne n hrep hm1 hk1 hk1'
  refine ⟨m', e', ?_, signedRound rm n (m * 2 ^ e), ?_, ?_⟩
  · unfold f32rnd
    rwa [ha]
  · rw [hval, realVal, zpow_zero, mul_one, signedRound_cast, roundInt_eq_roundMag]
  · rw [realVal_eq]
    exact signedRound_roundsTo rm n hy
/-- R126: `ffrexp` splits a value into a significand in [1/2, 1) and a power of two. -/
theorem fval_f32frexp (hm : m ≠ 0) : ∃ m' e', fval (f32frexp a).1 = .fin n m' e' ∧ 1 / 2 ≤ (m' : ℝ) * 2 ^ e' ∧ (m' : ℝ) * 2 ^ e' < 1
    ∧ realVal n m e = realVal n m' e' * (2 : ℝ) ^ (f32frexp a).2.toInt := by
  obtain ⟨hm24, hemin, hetop, -⟩ := fval_fin_bounds ha
  have hlog : m.log2 < 24 := (Nat.log2_lt hm).mpr hm24
  have hf : f32frexp a = (w32 (roundQ fp32 .rne n m 1 (-((m.log2 : ℤ) + 1))), BitVec.ofInt 32 (e + ((m.log2 : ℤ) + 1))) := by
    unfold f32frexp
    rw [ha]
    exact if_neg hm
  have hexp : (BitVec.ofInt 32 (e + ((m.log2 : ℤ) + 1))).toInt = e + ((m.log2 : ℤ) + 1) := by
    rw [BitVec.toInt_ofInt]
    exact Int.bmod_eq_of_le (by omega) (by omega)
  obtain ⟨m', e', hdec, hval⟩ := fval_w32_roundQ .rne n (e := -((m.log2 : ℤ) + 1)) rfl hm24 (by omega) (by omega)
  have hsig : (m' : ℝ) * 2 ^ e' = m * 2 ^ (-((m.log2 : ℤ) + 1)) := by
    have h := congrArg (|·|) hval
    rw [abs_realVal, abs_realVal] at h
    push_cast at h
    exact h
  have hL : (0 : ℝ) < 2 ^ (m.log2 + 1) := by positivity
  rw [hf]
  refine ⟨m', e', hdec, ?_, ?_, ?_⟩
  · rw [hsig, zpow_neg, ← div_eq_mul_inv, ← Nat.cast_succ, zpow_natCast, le_div_iff₀ hL, pow_succ]
    have h : ((2 ^ m.log2 : ℕ) : ℝ) ≤ m := by exact_mod_cast Nat.log2_self_le hm
    push_cast at h
    linarith
  · rw [hsig, zpow_neg, ← div_eq_mul_inv, ← Nat.cast_succ, zpow_natCast, div_lt_one hL]
    exact_mod_cast Nat.lt_log2_self
  · rw [hexp, realVal, realVal, mul_assoc (sgn n) (m' : ℝ), hsig, mul_assoc, mul_assoc, mul_assoc, ← zpow_add₀ two_ne_zero]
    congr 3
    omega
omit ha in
theorem f32frexp_zero (ha : fval a = .fin n 0 e) : f32frexp a = (a, 0) := by
  unfold f32frexp
  rw [ha]
  exact if_pos rfl

/-! ## Conversions to integers (R49, R122) -/

/-- A conversion to a range of integers saturates, and within the range gives the integer of its mode. -/
theorem toInt32_fin (rm : Rm) {lo hi : ℤ} (hlo : -2 ^ 40 ≤ lo) (hlohi : lo ≤ hi) (hhi : hi ≤ 2 ^ 40) :
    ∃ r : ℤ, toInt32 rm lo hi a = BitVec.ofInt 32 r ∧ lo ≤ r ∧ r ≤ hi ∧ Saturates lo hi rm (realVal n m e) r := by
  obtain ⟨-, -, -, hsub⟩ := fval_fin_bounds ha
  have hy (e : ℤ) : (0 : ℚ) ≤ m * 2 ^ e := by positivity
  have hto : toInt32 rm lo hi a = BitVec.ofInt 32 (max lo (min hi (signedRound rm n (m * 2 ^ (min e 40))))) := by
    unfold toInt32
    rw [ha]
    dsimp only
    rw [roundInt_eq_roundMag]
    rfl
  have hmem (e : ℤ) (k : ℤ) := signedRound_mem rm n (hy e) k
  simp only [← realVal_eq] at hmem
  refine ⟨_, hto, le_max_left _ _, max_le hlohi (min_le_left _ _), ?_⟩
  by_cases he : e ≤ 40
  · rw [min_eq_left he]
    refine ⟨fun h => ?_, fun h => ?_, fun h h' => ?_⟩
    · have hz := (hmem e lo).1 h
      omega
    · have hz := (hmem e hi).2 h
      omega
    · have hz := (hmem e lo).2 h
      have hz' := (hmem e hi).1 h'
      rw [min_eq_right hz', max_eq_right hz, realVal_eq]
      exact signedRound_roundsTo rm n (hy e)
  · have hm : 2 ^ 23 ≤ m := not_lt.mp fun hlt => by have h := hsub hlt; omega
    have hbig {e : ℤ} (he : 40 ≤ e) : (2 : ℝ) ^ 40 < (m : ℝ) * 2 ^ e := by
      have h := zpow_le_mul_zpow (m := m) (e := e) (j := 40) (by omega) he
      have h2 : (2 : ℝ) ^ (40 : ℤ) ≤ 2 ^ e := zpow_le_zpow_right₀ one_le_two he
      have hmR : (2 : ℝ) ^ 23 ≤ m := by exact_mod_cast hm
      have hp : (0 : ℝ) < 2 ^ e := by positivity
      have h3 : (2 : ℝ) ^ (40 : ℤ) = 2 ^ 40 := zpow_natCast 2 40
      nlinarith
    have hloR : -(2 : ℝ) ^ 40 ≤ lo := by exact_mod_cast hlo
    have hhiR : (hi : ℝ) ≤ 2 ^ 40 := by exact_mod_cast hhi
    have hlohiR : (lo : ℝ) ≤ hi := by exact_mod_cast hlohi
    have h1 := hbig (e := e) (by omega)
    have h2 := hbig (e := 40) le_rfl
    rw [min_eq_right (show (40 : ℤ) ≤ e by omega)]
    cases n with
    | false =>
      have hz := (hmem 40 hi).2 (by rw [realVal_false]; linarith)
      rw [realVal_false]
      exact ⟨fun h => by linarith, fun _ => by omega, fun _ h => by linarith⟩
    | true =>
      have hz := (hmem 40 lo).1 (by rw [realVal_true]; linarith)
      rw [realVal_true]
      exact ⟨fun _ => by omega, fun h => by linarith, fun h _ => by linarith⟩
end
end Sys2Proof.Machine
end

section
namespace Sys2Proof.Machine

/-! ## Conversions to the two ranges of integers (R122) -/

section
variable {a : Word} {n : Bool} {m : ℕ} {e : ℤ} (ha : fval a = .fin n m e)
include ha

theorem toInt32_signed (rm : Rm) :
    Saturates (-2 ^ 31) (2 ^ 31 - 1) rm (realVal n m e) (toInt32 rm (-2147483648) 2147483647 a).toInt := by
  obtain ⟨r, hr, hlo, hhi, hsat⟩ := toInt32_fin ha rm (lo := -2147483648) (hi := 2147483647) (by norm_num) (by norm_num) (by norm_num)
  have hrange : (toInt32 rm (-2147483648) 2147483647 a).toInt = r := by
    rw [hr, BitVec.toInt_ofInt]
    exact Int.bmod_eq_of_le (by omega) (by omega)
  rw [hrange]
  exact hsat
theorem toInt32_unsigned (rm : Rm) : Saturates 0 (2 ^ 32 - 1) rm (realVal n m e) ((toInt32 rm 0 4294967295 a).toNat : ℤ) := by
  obtain ⟨r, hr, hlo, hhi, hsat⟩ := toInt32_fin ha rm (lo := 0) (hi := 4294967295) (by norm_num) (by norm_num) (by norm_num)
  have hrange : ((toInt32 rm 0 4294967295 a).toNat : ℤ) = r := by
    rw [hr, BitVec.toNat_ofInt]
    omega
  rw [hrange]
  exact hsat
end

/-- R49: an integer becomes a nearest code. -/
theorem near_ofInt (z : ℤ) : Near z (ofInt .rne z) := by
  have h := near_roundQ (decide (z < 0)) z.natAbs 0
  rwa [realVal, sgn_mul_natAbs, zpow_zero, mul_one] at h

/-! ## Narrow formats (R49, R50) -/

/-- Below the overflow a rounded magnitude stays below an infinity's. -/
theorem codeMag_packGrid_lt {f : Fmt} (hew : 1 < f.ew) (rm : Rm) (neg : Bool) {q : ℕ} {t : ℤ} (h : GridPoint f q t)
    (htop : t ≤ fmtEtop f) : codeMag f (packGrid f rm neg q t) < fmtInf f false := by
  have hmag := fdecode_by_magnitude (packGrid_lt rm neg (t := t) h.lt)
  rw [fdecode_packGrid rm neg h htop hew] at hmag
  obtain ⟨-, hlt, -⟩ := hmag
  exact hlt
/-- Saturated at its greatest magnitude, a value beyond it has no nearer code. -/
theorem isNearest_saturated {dec : ℕ → FVal} {w r q : ℕ} {n : Bool} {t : ℤ} {v : ℚ} (hr : dec r = .fin n q t)
    (hmax : (q : ℚ) * 2 ^ t ≤ v) (hle : ∀ c nc mc kc, c < w → dec c = .fin nc mc kc → (mc : ℚ) * 2 ^ kc ≤ q * 2 ^ t) :
    IsNearest dec w r (sgn n * (v : ℝ)) := by
  have hv : 0 ≤ v := le_trans (by positivity) hmax
  refine isNearest_of_magnitude (by exact_mod_cast hv) hr fun c nc mc kc hc hcode => ?_
  have hcq := hle c nc mc kc hc hcode
  have h : |(q : ℚ) * 2 ^ t - v| ≤ |(mc : ℚ) * 2 ^ kc - v| := by
    rw [abs_of_nonpos (by linarith), abs_of_nonpos (by linarith)]
    linarith
  exact_mod_cast h

section
variable {a : Word} {n : Bool} {m : ℕ} {e : ℤ} (ha : fval a = .fin n m e)
include ha

theorem roundsNear_toBf16 : RoundsNear fpBf16 (realVal n m e) (fconvert .f32bf16 .rne a).toNat := by
  have hto : fconvert .f32bf16 .rne a = w32 (roundQ fpBf16 .rne n m 1 e) := by
    unfold fconvert toBf16
    rw [ha]
  rw [hto, toNat_w32 ((roundQ_lt (f := fpBf16) .rne n m one_pos e).trans (by decide))]
  exact roundQ_roundsNear_int (by decide) n m e

/-! ### E5M2 -/

/-- Past the largest exponent E5M2 takes its overflow, or saturates. -/
theorem toE5m2_eq (rm : Rm) (sat : Bool) (hm : 0 < m) : toE5m2 rm sat a = if fmtEtop fpE5m2 < (gridOf fpE5m2 rm n (m * 2 ^ e)).2
    then (if sat then fmtMax fpE5m2 n else overflowTo fpE5m2 rm n)
    else packGrid fpE5m2 rm n (gridOf fpE5m2 rm n (m * 2 ^ e)).1 (gridOf fpE5m2 rm n (m * 2 ^ e)).2 := by
  have hgrid := gridOf_gridPoint fpE5m2 rm n (v := m * 2 ^ e) (by positivity)
  have hg : roundGrid fpE5m2 rm n m 1 e = gridOf fpE5m2 rm n (m * 2 ^ e) := by
    rw [roundGrid_eq_gridOf fpE5m2 rm n hm one_pos, Nat.cast_one, div_one]
  have hmax : (if n then 0x80 else 0) + 0x7B = fmtMax fpE5m2 n := by cases n <;> rfl
  unfold toE5m2
  rw [ha]
  dsimp only
  rw [if_neg hm.ne', hg, hmax]
  by_cases htop : fmtEtop fpE5m2 < (gridOf fpE5m2 rm n (m * 2 ^ e)).2
  · have hover : packGrid fpE5m2 .rne n (gridOf fpE5m2 rm n (m * 2 ^ e)).1 (gridOf fpE5m2 rm n (m * 2 ^ e)).2 % 128 ≥ 0x7C := by
      rw [packGrid_overflow hgrid .rne n (by decide) htop]
      cases n <;> decide
    rw [if_pos htop, packGrid_overflow hgrid rm n (by decide) htop]
    cases sat
    · rfl
    · exact if_pos ⟨rfl, hover⟩
  · have hlt : packGrid fpE5m2 .rne n (gridOf fpE5m2 rm n (m * 2 ^ e)).1 (gridOf fpE5m2 rm n (m * 2 ^ e)).2 % 128 < 0x7C :=
      codeMag_packGrid_lt (by decide) .rne n hgrid (not_lt.mp htop)
    rw [if_neg htop]
    exact if_neg fun h => hlt.not_ge h.2
omit ha in
theorem toE5m2_zero (ha : fval a = .fin n 0 e) (rm : Rm) (sat : Bool) : toE5m2 rm sat a = fcode fpE5m2 n 0 0 := by
  unfold toE5m2
  rw [ha]
  rfl
theorem toE5m2_lt (rm : Rm) (sat : Bool) : toE5m2 rm sat a < 256 := by
  by_cases hm : m = 0
  · subst hm
    rw [toE5m2_zero ha]
    exact fcode_lt (f := fpE5m2) n (by decide) (by decide)
  rw [toE5m2_eq ha rm sat (Nat.pos_of_ne_zero hm)]
  have hgrid := gridOf_gridPoint fpE5m2 rm n (v := m * 2 ^ e) (by have := Nat.pos_of_ne_zero hm; positivity)
  split
  · split
    · exact (Nat.sub_le _ _).trans_lt (fmtInf_lt (f := fpE5m2) n)
    · exact overflowTo_lt (f := fpE5m2) rm n
  · exact packGrid_lt (f := fpE5m2) rm n hgrid.lt
/-- Saturating, E5M2 gives no infinity and no NaN. -/
theorem toE5m2_sat_le (rm : Rm) : toE5m2 rm true a % 128 ≤ 0x7B := by
  by_cases hm : m = 0
  · subst hm
    rw [toE5m2_zero ha]
    cases n <;> decide
  have hm := Nat.pos_of_ne_zero hm
  have hgrid := gridOf_gridPoint fpE5m2 rm n (v := m * 2 ^ e) (by positivity)
  rw [toE5m2_eq ha rm true hm]
  split
  case isTrue =>
    show fmtMax fpE5m2 n % 128 ≤ 0x7B
    cases n <;> decide
  case isFalse htop => exact Nat.lt_succ_iff.mp (codeMag_packGrid_lt (by decide) rm n hgrid (not_lt.mp htop))
theorem isNearest_toE5m2_sat : IsNearest (fdecode fpE5m2) 256 (toE5m2 .rne true a) (realVal n m e) := by
  by_cases hm : m = 0
  · subst hm
    rw [toE5m2_zero ha, realVal_zero]
    exact isNearest_zero (fdecode_zero (by decide) n)
  have hm := Nat.pos_of_ne_zero hm
  have hv : (0 : ℚ) < m * 2 ^ e := by positivity
  have hgrid := gridOf_gridPoint fpE5m2 .rne n hv
  have hcode {c nc mc kc} (hc : c < 256) (h : fdecode fpE5m2 c = .fin nc mc kc) := packGrid_fdecode .rne h hc (by decide)
  rw [toE5m2_eq ha .rne true hm, realVal_eq]
  split
  case isTrue htop =>
    have hover := not_lt.mp fun h => (gridOf_le_etop (by decide) hv n h).not_gt htop
    have hetop : fmtEtop fpE5m2 = 13 := by norm_num [fmtEtop, fmtEmin, fpE5m2]
    rw [overflowAt_e5m2] at hover
    refine isNearest_saturated (fdecode_fmtMax (by decide) n) ?_ fun c nc mc kc hc h => ?_
    · rw [hetop]
      exact le_trans (by norm_num [fpE5m2]) hover
    · obtain ⟨hcgrid, hctop, -⟩ := hcode hc h
      exact hcgrid.le_max hctop
  case isFalse htop =>
    refine isNearest_of_magnitude (by exact_mod_cast hv.le) (fdecode_packGrid .rne n hgrid (not_lt.mp htop) (by decide)) fun c nc mc kc hc h => ?_
    obtain ⟨hcgrid, -, -⟩ := hcode hc h
    exact_mod_cast gridOf_rne_nearest hcgrid hv n
/-- Below its overflow E5M2 rounds as it does saturating. -/
theorem toE5m2_of_lt (h : |realVal n m e| < 61440) : toE5m2 .rne false a = toE5m2 .rne true a := by
  by_cases hm : m = 0
  · subst hm
    rw [toE5m2_zero ha, toE5m2_zero ha]
  have hm := Nat.pos_of_ne_zero hm
  rw [abs_realVal] at h
  have hlt : (m : ℚ) * 2 ^ e < overflowAt fpE5m2 := by
    rw [overflowAt_e5m2]
    exact_mod_cast h
  have htop := (gridOf_le_etop (by decide) (by positivity) n hlt).not_gt
  rw [toE5m2_eq ha .rne false hm, toE5m2_eq ha .rne true hm, if_neg htop, if_neg htop]
theorem toE5m2_of_ge (h : 61440 ≤ |realVal n m e|) : toE5m2 .rne false a = fmtInf fpE5m2 n := by
  rw [abs_realVal] at h
  have hge : overflowAt fpE5m2 ≤ (m : ℚ) * 2 ^ e := by
    rw [overflowAt_e5m2]
    exact_mod_cast h
  have hm : 0 < m := Nat.pos_of_ne_zero fun h0 => by
    rw [h0, Nat.cast_zero, zero_mul, overflowAt_e5m2] at hge
    norm_num at hge
  rw [toE5m2_eq ha .rne false hm, if_pos (etop_lt_gridOf (by decide) n hge)]
  rfl

end

/-! ### E4M3 -/

section
variable {n : Bool} {m : ℕ} {e : ℤ}

/-- A grid point past 448. -/
def e4m3Over (q : ℕ) (t : ℤ) : Prop := 5 < t ∨ (t = 5 ∧ q = 15)
theorem e4m3decode_fcode {ex man : ℕ} (hex : ex < 16) (hman : man < 8) : e4m3decode (fcode fpE4m3 n ex man) =
    if ex = 15 ∧ man = 7 then .nan (fcode fpE4m3 n ex man) else if ex = 0 then .fin n man (-9) else .fin n (man + 8) (ex - 10) := by
  have hmod : fcode fpE4m3 n ex man % 8 = man := fcode_mod (f := fpE4m3) n ex hman
  have hdiv : fcode fpE4m3 n ex man / 8 % 16 = ex := by
    have h : fcode fpE4m3 n ex man / 8 = ex + 16 * n.toNat := by
      have h := fcode_shiftRight (f := fpE4m3) n ex hman
      rwa [Nat.shiftRight_eq_div_pow] at h
    rw [h, Nat.add_mul_mod_self_left, Nat.mod_eq_of_lt hex]
  have hbit : (fcode fpE4m3 n ex man).testBit 7 = n := fcode_testBit (f := fpE4m3) n hex hman
  unfold e4m3decode
  rw [hmod, hdiv, hbit]
/-- A finite E4M3 code holds a grid point that is not past 448. -/
theorem e4m3decode_gridPoint {c : ℕ} (hc : c < 256) (h : e4m3decode c = .fin n m e) : GridPoint fpE4m3 m e ∧ ¬ e4m3Over m e := by
  have hemin : fmtEmin fpE4m3 = -9 := rfl
  obtain ⟨s, ex, man, hex, hman, rfl⟩ := exists_fcode (f := fpE4m3) hc
  have hex : ex < 16 := hex
  have hman : man < 8 := hman
  rw [e4m3decode_fcode hex hman] at h
  unfold e4m3Over
  split at h
  case isTrue => cases h
  case isFalse htop =>
    split at h
    case isTrue =>
      cases h
      exact ⟨⟨by show m < 16; omega, hemin.le, fun _ => rfl⟩, by omega⟩
    case isFalse hz =>
      cases h
      refine ⟨⟨by show man + 8 < 16; omega, by rw [hemin]; omega, fun hlt => ?_⟩, by omega⟩
      have hlt : man + 8 < 8 := hlt
      omega
theorem e4m3_le_max {q : ℕ} {t : ℤ} (h : GridPoint fpE4m3 q t) (hover : ¬ e4m3Over q t) : (q : ℚ) * 2 ^ t ≤ (14 : ℕ) * 2 ^ (5 : ℤ) := by
  have hq : q < 16 := h.lt
  unfold e4m3Over at hover
  by_cases ht : t ≤ 4
  · calc (q : ℚ) * 2 ^ t ≤ 16 * 2 ^ (4 : ℤ) :=
          mul_le_mul (by exact_mod_cast hq.le) (zpow_le_zpow_right₀ one_le_two ht) (by positivity) (by positivity)
      _ ≤ (14 : ℕ) * 2 ^ (5 : ℤ) := by norm_num
  · obtain rfl : t = 5 := by omega
    exact mul_le_mul_of_nonneg_right (by exact_mod_cast (by omega : q ≤ 14)) (by positivity)
theorem e4m3_max_lt {q : ℕ} {t : ℤ} (h : GridPoint fpE4m3 q t) (hover : e4m3Over q t) : ((14 : ℕ) : ℚ) * 2 ^ (5 : ℤ) < q * 2 ^ t := by
  rcases hover with ht | ⟨rfl, rfl⟩
  · have hemin : fmtEmin fpE4m3 = -9 := rfl
    have hq : 8 ≤ q := not_lt.mp fun hlt => by
      have he := h.eq_emin hlt
      omega
    calc ((14 : ℕ) : ℚ) * 2 ^ (5 : ℤ) < 8 * 2 ^ (6 : ℤ) := by norm_num
      _ ≤ q * 2 ^ t := mul_le_mul (by exact_mod_cast hq) (zpow_le_zpow_right₀ one_le_two ht) (by positivity) (by positivity)
  · norm_num
end

section
variable {a : Word} {n : Bool} {m : ℕ} {e : ℤ} (ha : fval a = .fin n m e)
include ha

theorem toE4m3_eq (rm : Rm) (hm : 0 < m) : let g := gridOf fpE4m3 rm n (m * 2 ^ e)
    (e4m3Over g.1 g.2 ∧ toE4m3 rm a = fcode fpE4m3 n 15 6)
    ∨ (¬ e4m3Over g.1 g.2 ∧ ∃ ex man, ex < 16 ∧ man < 8 ∧ toE4m3 rm a = fcode fpE4m3 n ex man
      ∧ e4m3decode (toE4m3 rm a) = .fin n g.1 g.2) := by
  have hgrid := gridOf_gridPoint fpE4m3 rm n (v := m * 2 ^ e) (by positivity)
  have hg : roundGrid fpE4m3 rm n m 1 e = gridOf fpE4m3 rm n (m * 2 ^ e) := by
    rw [roundGrid_eq_gridOf fpE4m3 rm n hm one_pos, Nat.cast_one, div_one]
  unfold toE4m3 e4m3Over
  rw [ha]
  dsimp only
  rw [if_neg hm.ne', hg]
  generalize gridOf fpE4m3 rm n (m * 2 ^ e) = g at hgrid
  obtain ⟨hlt, hemin, hsub⟩ := hgrid
  have hlt : g.1 < 16 := hlt
  have hemin : -9 ≤ g.2 := hemin
  have hsub : g.1 < 8 → g.2 = -9 := hsub
  by_cases hq : g.1 < 8
  · rw [if_pos hq]
    have ht := hsub hq
    refine .inr ⟨by omega, 0, g.1, by decide, hq, ?_, ?_⟩
    · rw [fcode, Nat.zero_mul, Nat.add_zero]
      rfl
    · have hcode := e4m3decode_fcode (n := n) (ex := 0) (by decide) hq
      rw [if_neg (by omega), if_pos rfl, fcode, Nat.zero_mul, Nat.add_zero] at hcode
      rw [ht]
      exact hcode
  · rw [if_neg hq]
    by_cases hover : 5 < g.2 ∨ (g.2 = 5 ∧ g.1 = 15)
    · rw [if_pos (by omega)]
      refine .inl ⟨hover, ?_⟩
      cases n <;> rfl
    · rw [if_neg (by omega)]
      have hcode := e4m3decode_fcode (n := n) (ex := (g.2 + 10).toNat) (man := g.1 - 8) (by omega) (by omega)
      rw [if_neg (by omega), if_neg (by omega), Nat.sub_add_cancel (not_lt.mp hq), show ((g.2 + 10).toNat : ℤ) - 10 = g.2 by omega] at hcode
      exact .inr ⟨hover, (g.2 + 10).toNat, g.1 - 8, by omega, by omega, rfl, hcode⟩
omit ha in
theorem toE4m3_zero (ha : fval a = .fin n 0 e) (rm : Rm) : toE4m3 rm a = fcode fpE4m3 n 0 0 := by
  unfold toE4m3
  rw [ha]
  rfl
/-- E4M3 saturates in every mode. -/
theorem toE4m3_le (rm : Rm) : toE4m3 rm a % 128 ≤ 0x7E ∧ toE4m3 rm a < 256 := by
  by_cases hm : m = 0
  · subst hm
    rw [toE4m3_zero ha]
    cases n <;> decide
  obtain ⟨-, h⟩ | ⟨hover, ex, man, hex, hman, h, hdec⟩ := toE4m3_eq ha rm (Nat.pos_of_ne_zero hm)
  · rw [h]
    cases n <;> decide
  · have hfin : ¬ (ex = 15 ∧ man = 7) := fun htop => by
      rw [h, e4m3decode_fcode hex hman, if_pos htop] at hdec
      cases hdec
    rw [h, fcode_eq]
    have hsign := n.toNat_lt
    show (man + 8 * (ex + 16 * n.toNat)) % 128 ≤ _ ∧ man + 8 * (ex + 16 * n.toNat) < 256
    omega
theorem isNearest_toE4m3 : IsNearest e4m3decode 256 (toE4m3 .rne a) (realVal n m e) := by
  by_cases hm : m = 0
  · subst hm
    rw [toE4m3_zero ha, realVal_zero]
    exact isNearest_zero (e4m3decode_fcode (by decide) (by decide))
  have hm := Nat.pos_of_ne_zero hm
  have hv : (0 : ℚ) < m * 2 ^ e := by positivity
  have hgrid := gridOf_gridPoint fpE4m3 .rne n hv
  rw [realVal_eq]
  obtain ⟨hover, h⟩ | ⟨hover, ex, man, hex, hman, h, hdec⟩ := toE4m3_eq ha .rne hm
  · have hmax : GridPoint fpE4m3 14 5 := (e4m3decode_gridPoint (n := false) (c := 0x7E) (by decide) (by decide)).1
    have hhalf := add_le_two_mul_of_abs_sub_le (e4m3_max_lt hgrid hover) (gridOf_rne_nearest hmax hv n)
    have hlt := e4m3_max_lt hgrid hover
    rw [h]
    refine isNearest_saturated (e4m3decode_fcode (ex := 15) (man := 6) (by decide) (by decide)) ?_ fun c nc mc kc hc hcode => ?_
    · have h448 : ((6 + 8 : ℕ) : ℚ) * 2 ^ (((15 : ℕ) : ℤ) - 10) = (14 : ℕ) * 2 ^ (5 : ℤ) := by norm_num
      rw [h448]
      linarith
    · obtain ⟨hcgrid, hcover⟩ := e4m3decode_gridPoint hc hcode
      exact e4m3_le_max hcgrid hcover
  · refine isNearest_of_magnitude (by exact_mod_cast hv.le) hdec fun c nc mc kc hc hcode => ?_
    obtain ⟨hcgrid, -⟩ := e4m3decode_gridPoint hc hcode
    exact_mod_cast gridOf_rne_nearest hcgrid hv n
end
end Sys2Proof.Machine
end

section
namespace Sys2Proof.Machine

/-! ## The words of the narrow conversions (R49) -/

section
variable {a : Word} {n : Bool} {m : ℕ} {e : ℤ} (ha : fval a = .fin n m e)
include ha

theorem toNat_fconvert_e4m3 (rm : Rm) : (fconvert .f32e4m3 rm a).toNat = toE4m3 rm a :=
  toNat_w32 ((toE4m3_le ha rm).2.trans (by decide))
theorem toNat_fconvert_e5m2s (rm : Rm) : (fconvert .f32e5m2s rm a).toNat = toE5m2 rm true a :=
  toNat_w32 ((toE5m2_lt ha rm true).trans (by decide))
end

/-! ## NaN and infinities in conversions (R49, R50) -/

section
variable {a : Word} (h : isNan a = true) (rm : Rm)
include h

theorem f32frexp_nan : f32frexp a = (a ||| 0x00400000, 0) := by
  unfold f32frexp
  rw [fval_of_isNan h]
  rfl
theorem toInt32_nan (lo hi : ℤ) : toInt32 rm lo hi a = 0 := by
  unfold toInt32
  rw [fval_of_isNan h]
theorem fconvert_e4m3_nan : fconvert .f32e4m3 rm a = if a.getLsbD 31 then 0xFF else 0x7F := by
  unfold fconvert toE4m3
  rw [fval_of_isNan h]
  exact apply_ite w32 (a.toNat.testBit 31 = true) 0xFF 0x7F
theorem toE5m2_nan (sat : Bool) : w32 (toE5m2 rm sat a) = if a.getLsbD 31 then 0xFE else 0x7E := by
  unfold toE5m2
  rw [fval_of_isNan h, BitVec.getLsbD]
  dsimp only
  cases a.toNat.testBit 31 <;> rfl
theorem fconvert_bf16_nan : fconvert .f32bf16 rm a = (if a.getLsbD 31 then 0xFFC0 else 0x7FC0) + (a &&& 31) := by
  have hand : (a &&& 31).toNat = a.toNat % 32 := by
    rw [BitVec.toNat_and]
    exact Nat.and_two_pow_sub_one_eq_mod a.toNat 5
  unfold fconvert toBf16
  rw [fval_of_isNan h, BitVec.getLsbD]
  dsimp only
  apply BitVec.eq_of_toNat_eq
  rw [w32, BitVec.toNat_ofNat, BitVec.toNat_add, hand]
  cases a.toNat.testBit 31 <;> rfl
end

/-- What the conversions give of the infinities. -/
theorem fconvert_infinities (rm : Rm) :
    ∀ q ∈ [(Cvt.f32i32, (0x7FFFFFFF : Word), (0x80000000 : Word)), (.f32u32, 0xFFFFFFFF, 0), (.f32e4m3, 0x7F, 0xFF), (.f32e5m2, 0x7C, 0xFC),
        (.f32e5m2s, 0x7C, 0xFC), (.f32bf16, 0x7F80, 0xFF80)],
      fconvert q.1 rm 0x7F800000 = q.2.1 ∧ fconvert q.1 rm 0xFF800000 = q.2.2 := by
  simp only [List.forall_mem_cons, fconvert, toInt32, toE4m3, toE5m2, toBf16, fval_posInf, fval_negInf]
  exact ⟨⟨rfl, rfl⟩, ⟨rfl, rfl⟩, ⟨rfl, rfl⟩, ⟨rfl, rfl⟩, ⟨rfl, rfl⟩, ⟨rfl, rfl⟩, fun _ h => nomatch h⟩

/-! ## Widening (R49, R50) -/

/-- BF16 stands in the upper half of an FP32 code, but for a NaN, which keeps its low five bits. -/
theorem ofBf16_eq (w : ℕ) : let h := w % 65536
    ofBf16 w = if 0x7F80 < h % 32768 then (if 32768 ≤ h then 0xFFC00000 else 0x7FC00000) + BitVec.ofNat 32 (h % 32)
      else BitVec.ofNat 32 (h * 65536) := by
  intro h
  have hlt : h < 65536 := Nat.mod_lt _ (by decide)
  have hinf : fmtInf fpBf16 false = 0x7F80 := rfl
  have hmag := fdecode_by_magnitude (f := fpBf16) (w := h) hlt
  rw [hinf, show codeMag fpBf16 h = h % 32768 from rfl] at hmag
  have hbit : h.testBit 15 = decide (32768 ≤ h) := by
    rw [Nat.testBit_eq_decide_div_mod_eq, decide_eq_decide]
    omega
  unfold ofBf16
  cases hd : fdecode fpBf16 (w % 65536) with
  | nan v =>
    rw [show fdecode fpBf16 h = .nan v from hd] at hmag
    obtain ⟨rfl, hnan⟩ := hmag
    rw [if_pos hnan]
    dsimp only
    rw [hbit]
    apply BitVec.eq_of_toNat_eq
    by_cases hs : 32768 ≤ h
    · rw [if_pos (decide_eq_true hs), if_pos hs, w32, BitVec.toNat_ofNat, BitVec.toNat_add, BitVec.toNat_ofNat, Nat.add_mod_mod]
      rfl
    · rw [if_neg (by simp [hs]), if_neg hs, w32, BitVec.toNat_ofNat, BitVec.toNat_add, BitVec.toNat_ofNat, Nat.add_mod_mod, Nat.zero_add]
      rfl
  | inf n =>
    rw [show fdecode fpBf16 h = .inf n from hd] at hmag
    exact (if_neg (by rw [hmag.2]; decide)).symm
  | fin n m e =>
    rw [show fdecode fpBf16 h = .fin n m e from hd] at hmag
    exact (if_neg (by have hlt := hmag.2.1; omega)).symm
/-- What the widening of a value of eight bits is. -/
def Widens (v : FVal) (r : Word) : Prop := match v with
  | .nan _ => r = 0x7FC00001
  | .inf n => r = if n then 0xFF800000 else 0x7F800000
  | .fin n m e => ∃ m' e', fval r = .fin n m' e' ∧ realVal n m' e' = realVal n m e

theorem f32OfVal_widens {v : FVal} (h : ∀ n m e, v = .fin n m e → m < 2 ^ 24 ∧ -149 ≤ e ∧ e ≤ 104) : Widens v (f32OfVal 0 v) := by
  cases v with
  | nan w => rfl
  | inf n => cases n <;> rfl
  | fin n m e =>
    obtain ⟨hm, he, he'⟩ := h n m e rfl
    exact fval_w32_roundQ .rne n rfl hm he he'
theorem widens_e4m3 (rm : Rm) (a : Word) : Widens (e4m3decode (a.toNat % 256)) (fconvert .e4m3f32 rm a) := by
  refine f32OfVal_widens fun n m e h => ?_
  obtain ⟨hgrid, hover⟩ := e4m3decode_gridPoint (Nat.mod_lt _ (by decide)) h
  obtain ⟨hlt, hemin, -⟩ := hgrid
  have hlt : m < 16 := hlt
  have hemin : -9 ≤ e := hemin
  unfold e4m3Over at hover
  omega
theorem widens_e5m2 (rm : Rm) (a : Word) : Widens (fdecode fpE5m2 (a.toNat % 256)) (fconvert .e5m2f32 rm a) := by
  refine f32OfVal_widens fun n m e h => ?_
  have hw : a.toNat % 256 < 2 ^ (1 + fpE5m2.ew + fpE5m2.mw) := Nat.mod_lt _ (by decide)
  obtain ⟨⟨hlt, hemin, -⟩, htop, -⟩ := packGrid_fdecode .rne h hw (by decide)
  have hlt : m < 8 := hlt
  have hemin : -16 ≤ e := hemin
  have htop : e ≤ 13 := htop
  omega
/-- R49: E8M0 is a power of two, or its NaN. -/
theorem fconvert_e8m0 (rm : Rm) (a : Word) : if a.toNat % 256 = 255 then fconvert .e8m0f32 rm a = 0x7FC00002
    else ∃ m e, fval (fconvert .e8m0f32 rm a) = .fin false m e ∧ realVal false m e = (2 : ℝ) ^ ((a.toNat % 256 : ℤ) - 127) := by
  unfold fconvert ofE8m0
  dsimp only
  split
  case isTrue => rfl
  case isFalse hne =>
    have hk : a.toNat % 256 < 256 := Nat.mod_lt _ (by decide)
    have hval : realVal false 1 ((a.toNat % 256 : ℤ) - 127) = (2 : ℝ) ^ ((a.toNat % 256 : ℤ) - 127) := by
      rw [realVal_false, Nat.cast_one, one_mul]
    rw [← hval]
    by_cases hsmall : (a.toNat % 256 : ℤ) - 127 ≤ 104
    · exact fval_w32_roundQ .rne false rfl (by decide) (by omega) hsmall
    · refine fval_w32_roundQ .rne false (m1 := 2 ^ 23) (e1 := (a.toNat % 256 : ℤ) - 127 - 23) ?_ (by decide) (by omega) (by omega)
      rw [zpow_sub₀ two_ne_zero _ 23]
      push_cast
      norm_num
      ring

/-! ## The rounding of the statement (R118, R123) -/

/-- `RoundsNear` with the format's numbers written out. -/
theorem near_iff (x : ℝ) (r : Word) : Near x r ↔ IsNearest (fdecode fp32) (2 ^ 32) r.toNat x
    ∧ (|x| < 2 ^ 128 - 2 ^ 103 → ∃ n m k, fval r = .fin n m k) := by
  rw [Near, RoundsNear, overflowAt_fp32]
  push_cast
  rfl
theorem roundsNear_bf16_iff (x : ℝ) (r : ℕ) : RoundsNear fpBf16 x r ↔ IsNearest (fdecode fpBf16) (2 ^ 16) r x
    ∧ (|x| < 2 ^ 128 - 2 ^ 119 → ∃ n m k, fdecode fpBf16 r = .fin n m k) := by
  rw [RoundsNear, overflowAt_bf16]
  push_cast
  rfl

/-! ## Settling the statement -/

/-- Settles O4: each instruction writes the function its meaning names (`computes_aluBR` and its like); rounding gives a nearest code
(`roundQ_roundsNear`), of exact sums (`exactSum_val`), of roots by a value between the same neighbours (`gridOf_between`). -/
theorem floatResults : Obligations.FloatResults := by
  refine ⟨fun g d a s => ⟨fun b hr => ?base, fun b hr => ?old, fun cc pd b hr => computes_fcmp hr, fun hr => ?unary⟩,
    fun x rm d a e s => ⟨fun b hr => ?ext, fun b hr => ?ext3, fun hr => ?extUnary, fun hr => computes_ffrexp hr⟩, ?values⟩
  case base =>
    exact ⟨computes_aluBR rfl hr, computes_aluBR (op := f32sub) rfl hr, computes_aluBR rfl hr, computes_aluBR (op := f32min) rfl hr,
      computes_aluBR (op := f32max) rfl hr, ⟨_, computes_aluBR rfl hr, map2_halves _ _ _ (bfAdd_lt .rne)⟩,
      ⟨_, computes_aluBR rfl hr, map2_halves _ _ _ (bfMul_lt .rne)⟩, _, computes_aluBR rfl hr, map2_bfMax ..⟩
  case old =>
    exact ⟨computes_aluBRd (op := f32fma .rne) rfl hr, _, computes_aluBRd (op := map3 (bfFma .rne)) rfl hr, map3_halves _ _ _ _ (bfFma_lt .rne)⟩
  case unary =>
    obtain ⟨k, hk, hclass, hnan⟩ := f32class_eq (s.rd a.toNat)
    refine ⟨fun fn => computes_aluUn rfl hr, fun cv => computes_aluUn rfl hr,
      ⟨_, computes_aluUn (op := (· &&& 0x7FFFFFFF)) rfl hr, getLsbD_and_max _⟩,
      ⟨_, computes_aluUn (op := negBits) rfl hr, getLsbD_negBits _⟩, k, hk, ?_, by rw [hnan, decide_eq_true_iff]⟩
    rw [← hclass, ← hnan]
    exact computes_fclass hr
  case ext =>
    exact ⟨computes_aluXR rfl hr, computes_aluXR rfl hr, computes_aluXR rfl hr, computes_aluXR (op := fun v k => f32ldexp rm v k.toInt) rfl hr⟩
  case ext3 =>
    exact ⟨computes_aluXRe rfl hr, computes_aluXRe rfl hr, _, computes_aluXRe rfl hr, map3_halves _ _ _ _ (bfFma_lt rm)⟩
  case extUnary => exact ⟨computes_aluXUn (op := f32sqrt) rfl hr, computes_aluXUn rfl hr, fun cv => computes_aluXUn rfl hr⟩
  case values =>
    intro val nearest near nearH
    have hnear {x : ℝ} {r : Word} (h : Near x r) : near x r := (near_iff x r).mp h
    have hnearH {x : ℝ} {r : ℕ} (h : RoundsNear fpBf16 x r) : nearH x r := (roundsNear_bf16_iff x r).mp h
    refine ⟨fun a b => ?compare, fun a b c na nb nc ma mb mc ea eb ec ha hb hc => ?arith, fun a b c v nc mc ec h0 h1 h2 h3 => ?packed,
      fun rm a n m e ha => ?rounding, fun rm a => ?conversion⟩
    case compare => exact ⟨isNan_eq_decide a, fcmpRel_nan, fun ha hb => fcmpRel_numbers ha hb⟩
    case arith =>
      refine ⟨hnear (near_f32add ha hb), hnear (near_f32sub ha hb), hnear (near_f32mul ha hb), hnear (near_f32fma ha hb hc),
        fun hm => hnear (near_f32div ha hb hm), fun hpos => ?_, fun hneg hm => ?_, f32sqrt_negZero, fun k => hnear (near_f32ldexp ha k)⟩
      · subst hpos
        exact hnear (near_f32sqrt ha)
      · subst hneg
        exact f32sqrt_negative ha hm
    case packed =>
      exact ⟨fun hc => hnear (near_f32dot2 h0 h1 h2 h3 hc), hnearH (roundsNear_bfAdd h0 h2), hnearH (roundsNear_bfMul h0 h2),
        hnearH (roundsNear_bfFma h0 h2 h1), bfMax_fin h0 h2⟩
    case rounding =>
      refine ⟨fval_f32rnd ha rm, fun hm => fval_f32frexp ha hm, fun hm => f32frexp_zero (hm ▸ ha), ?_, ?_, ?_, ?_, ?_, fun h => ?_, fun h => ?_,
        hnearH (roundsNear_toBf16 ha)⟩
      · simp only [List.forall_mem_cons]
        exact ⟨toInt32_signed ha rm, toInt32_unsigned ha rm, toInt32_signed ha .rz, toInt32_unsigned ha .rz, fun _ h => nomatch h⟩
      · exact toNat_fconvert_e4m3 ha rm ▸ (toE4m3_le ha rm).1
      · exact toNat_fconvert_e5m2s ha rm ▸ toE5m2_sat_le ha rm
      · exact toNat_fconvert_e4m3 ha .rne ▸ isNearest_toE4m3 ha
      · exact toNat_fconvert_e5m2s ha .rne ▸ isNearest_toE5m2_sat ha
      · exact congrArg w32 (toE5m2_of_lt ha h)
      · refine (congrArg w32 (toE5m2_of_ge ha h)).trans ?_
        cases n <;> rfl
    case conversion =>
      refine ⟨hnear (near_ofInt a.toInt), hnear (near_ofInt a.toNat),
        fun h => ⟨f32frexp_nan h, ?_, fconvert_e4m3_nan h rm, ?_, fconvert_bf16_nan h rm⟩,
        fconvert_infinities rm, ofBf16_eq a.toNat, ?_, fconvert_e8m0 rm a⟩
      · simp only [List.forall_mem_cons]
        exact ⟨toInt32_nan h rm _ _, toInt32_nan h rm _ _, toInt32_nan h .rz _ _, toInt32_nan h .rz _ _, fun _ h => nomatch h⟩
      · simp only [List.forall_mem_cons]
        exact ⟨toE5m2_nan h rm false, toE5m2_nan h rm true, fun _ h => nomatch h⟩
      · simp only [List.forall_mem_cons]
        exact ⟨widens_e4m3 rm a, widens_e5m2 rm a, fun _ h => nomatch h⟩
end Sys2Proof.Machine
end

section
namespace Sys2Proof.Machine

/-! ## An effect beyond the issuing strand's registers -/

/-- Writes after reads of registers are writes. -/
theorem RegFile.after_reads {s u t : State} {ws : List (Nat × Word)} {ps : List (PReg × Bool)} (h : RegFile s u [] []) (hx : u.x = s.x)
    (k : RegFile u t ws ps) : RegFile s t ws ps := by
  obtain ⟨h1, h2, h3, h4, h5⟩ := h
  obtain ⟨k1, k2, k3, k4, k5⟩ := k
  have hm : u.myStrand = u.strand s.x := congrArg u.strand hx
  rw [hx] at k1 k2 k3 k4 k5
  rw [hm] at k2 k3 k4 k5
  have hregs : u.rdX s.x = s.rdX s.x := funext h1
  have hpreds : (fun q : PReg => (u.strand s.x).prd q.toNat) = fun q => s.myStrand.prd q.toNat := funext h5
  refine ⟨fun r => hregs ▸ k1 r, fun r => ?_, fun r => ?_, fun r => ?_, fun p => hpreds ▸ k5 p⟩
  · rw [k2, h2]
    simp
  · rw [k3, h3]
    simp
  · rw [k4, h4]
    simp
/-- After reads (`u`), an effect that leaves the strand its place and its registers (`v`), and writes (`w`), the strand goes on. -/
theorem Track.finish_after {s u v w : State} {ws : List (Nat × Word)} {ps : List (PReg × Bool)} (hu : Track s u [] []) (hcur : v.cur = u.cur)
    (hst : ∃ m ns, v.strand s.x = { u.strand s.x with nakMarks := m, naks := ns }) (hsame : SameBytes u v) (hw : Track v w ws ps) (f : Fr) :
    (((w.finish f.len).strand s.x).pc, ((w.finish f.len).strand s.x).step) = s.nextPc f ∧ RegFile s (w.finish f.len) ws ps
      ∧ SameBytes s (w.finish f.len) ∧ Elsewhere v (w.finish f.len) := by
  obtain ⟨m, ns, hm⟩ := hst
  have hx : v.x = s.x := (congrArg Cur.strand hcur).trans hu.x
  obtain ⟨hreg, hpc, -, he⟩ := hw.finish f
  have hfile : RegFile u v [] [] := by
    refine RegFile.of_file ?_ ?_ ?_ ?_ ?_
    all_goals rw [hu.x, hm, hu.myStrand]
  have hnext : v.nextPc f = s.nextPc f := nextPc_congr (hcur.trans hu.1) (by rw [hm]; exact hu.myStrand ▸ hu.pc) (by rw [hm]; exact hu.myStrand ▸ hu.step)
  rw [hx] at hpc
  exact ⟨hpc.trans hnext, (hu.2.1.trans_nil hu.x hfile).after_reads hx hreg, hu.2.2.2.same.trans (hsame.trans he.same), he⟩
end Sys2Proof.Machine
end

section
namespace Sys2Proof.Machine

/-! ## Fill bits (R147) -/

theorem mem_regRange (d n r : Nat) : r ∈ regRange d n ↔ d ≤ r ∧ r < d + n := by
  unfold regRange
  rw [List.mem_map]
  constructor
  · rintro ⟨i, hi, rfl⟩
    have := List.mem_range.mp hi
    omega
  · exact fun h => ⟨r - d, List.mem_range.mpr (by omega), by omega⟩
theorem getLsbD_clearRange {w : Nat} (v : BitVec w) (d n r : Nat) :
    ((regRange d n).foldl clrBit v).getLsbD r = (v.getLsbD r && !(decide (d ≤ r) && decide (r < d + n))) := by
  have h : (regRange d n).contains r = (decide (d ≤ r) && decide (r < d + n)) := by
    rw [Bool.eq_iff_iff, List.contains_iff_mem, mem_regRange, Bool.and_eq_true, decide_eq_true_eq, decide_eq_true_eq]
  rw [getLsbD_foldl_clrBit, h]
theorem clearFill_strand (s : State) (rs : List Nat) :
    (s.clearFill rs).strand s.x = { s.myStrand with fill := rs.foldl clrBit s.myStrand.fill } :=
  (strand_modMe s _ s.x).trans (if_pos rfl)
theorem clearFill_same (s : State) (rs : List Nat) : SameBytes s (s.clearFill rs) := SameBytes.of_eq rfl
theorem strand_wr (s : State) (r : Nat) (v : Word) : (s.wr r v).strand s.x = s.myStrand.wr r v :=
  (strand_modMe s _ s.x).trans (if_pos rfl)
theorem wr_same (s : State) (r : Nat) (v : Word) : SameBytes s (s.wr r v) := SameBytes.of_eq rfl

/-- A strand whose place an effect leaves goes on, with the registers, fill bits and predicates the effect gave it. -/
theorem finish_file {s w : State} (hcur : w.cur = s.cur) (hpc : (w.strand s.x).pc = s.myStrand.pc) (hstep : (w.strand s.x).step = s.myStrand.step)
    (hsame : SameBytes s w) (f : Fr) : let t := w.finish f.len
    ((t.strand s.x).pc, (t.strand s.x).step) = s.nextPc f ∧ (∀ r, t.rdX s.x r = w.rdX s.x r) ∧ (t.strand s.x).preds = (w.strand s.x).preds
      ∧ SameBytes s t ∧ (t.strand s.x).fill = (w.strand s.x).fill := by
  have hx : w.x = s.x := congrArg Cur.strand hcur
  obtain ⟨n, q, h⟩ := finish_strand w f
  rw [State.myStrand, hx, nextPc_congr hcur hpc hstep] at h
  have hregs (r : Nat) : (w.finish f.len).rdX s.x r = w.rdX s.x r := by
    rw [State.rdX, h]
    rfl
  refine ⟨by rw [h], hregs, by rw [h], hsame.trans (finish_wrote w f).2.2.2.same, by rw [h]⟩

theorem exec_empty_ready {g : Guard} {d n : Reg} {s : State} (hok : emptyOk d n.toNat = true)
    (hr : s.ready (baseFr g false) { names := regRange d.toNat n.toNat } = true) :
    exec (.empty g d n) s = .next ((s.clearFill (regRange d.toNat n.toNat)).finish (baseFr g false).len) := by
  have h : s.ready (baseFr g false) { ops := [(emptyOk d n.toNat, 3)], names := regRange d.toNat n.toNat } = true :=
    ready_ops hr (by simp [hok])
  show Host.Outcome.next (s.issueSimple _ _ _) = _
  rw [if_pos hok]
  exact congrArg _ (issueSimple_ready h _)
theorem exec_emptyX_ready {x : XG} {d e : Reg} {n : BitVec 6} {s : State} (hok : emptyOk d n.toNat = true)
    (hr : s.ready (extFr x false) { dsts := [e.toNat], names := regRange d.toNat n.toNat } = true) :
    exec (.emptyX x d e n) s = .next (((s.clearFill (regRange d.toNat n.toNat)).wr e.toNat
      (w32 (natOfBits ((regRange d.toNat n.toNat).map (fun r => s.myStrand.fill.getLsbD r))))).finish (extFr x false).len) := by
  have h : s.ready (extFr x false) { ops := [(emptyOk d n.toNat, 5)], dsts := [e.toNat], names := regRange d.toNat n.toNat } = true :=
    ready_ops hr (by simp [hok])
  show Host.Outcome.next (s.issueSimple _ _ _) = _
  rw [if_pos hok]
  exact congrArg _ (issueSimple_ready h _)
/-- What `empty.x` writes: bit `i` is the fill bit of the `i`-th register of its run. -/
theorem getLsbD_fillBits (p : Nat → Bool) (d n : Nat) {i : Nat} (hi : i < 32) :
    (w32 (natOfBits ((regRange d n).map p))).getLsbD i = (decide (i < n) && p (d + i)) := by
  rw [w32, BitVec.getLsbD_ofNat, testBit_natOfBits, decide_eq_true hi, Bool.true_and, regRange, List.map_map, List.getD_eq_getElem?_getD]
  by_cases h : i < n
  · simp [h, Nat.add_comm]
  · simp [h]

/-! ## The capability table (R149, R150, R326) -/

section
variable {s t : State} {ws : List (Nat × Word)} {ps : List (PReg × Bool)} (h : Track s t ws ps)
include h

theorem Track.regBad (r : Nat) : t.regBad r = s.regBad r := by
  have q : (t.crew (crewOf s.x)).ext = (s.crew (crewOf s.x)).ext := (congrArg Crew.ext (h.2.2.2.2.1 (crewOf s.x)) :)
  unfold State.regBad State.myCrew
  rw [h.x, q]
theorem Track.core (k : Nat) : ∃ l r b, t.core k = { s.core k with l1 := l, reqs := r, bins := b } :=
  ⟨(t.core k).l1, (t.core k).reqs, (t.core k).bins, by rw [← h.2.2.2.2.2.2.2.1 k]⟩
theorem Track.cap (k e : Nat) : t.cap k e = s.cap k e := by
  obtain ⟨l, r, b, hk⟩ := h.core k
  unfold State.cap
  rw [hk]
theorem Track.freeCap (k : Nat) : t.freeCap k = s.freeCap k := by
  obtain ⟨l, r, b, hk⟩ := h.core k
  unfold State.freeCap
  simp only [h.cap, hk]
theorem Track.pkg : t.pkg = s.pkg := (congrArg State.pkg h.rest :)
theorem Track.capValid (w : Dword) : t.capValid w = s.capValid w := by
  unfold State.capValid State.capHome
  rw [h.x, h.cap, h.pkg]
end

theorem cap_congr {s t : State} {k : Nat} (h : (t.core k).caps = (s.core k).caps) (e : Nat) : t.cap k e = s.cap k e :=
  congrArg (fun m => sget m ({} : Cap) e) h
theorem Elsewhere.caps {s t : State} (h : Elsewhere s t) (k : Nat) :
    (t.core k).caps = (s.core k).caps ∧ (t.core k).capnext = (s.core k).capnext := by
  obtain ⟨-, -, -, -, hk, -⟩ := h
  exact ⟨(congrArg Core.caps (hk k) :), (congrArg Core.capnext (hk k) :)⟩
/-- The search for a free entry, in the order of `CAPNEXT`. -/
theorem freeCap_eq (s : State) (k : Nat) : s.freeCap k = ((List.range 256).find? (fun i =>
    !(s.cap k (((s.core k).capnext + i) % 256)).live && decide ((s.cap k (((s.core k).capnext + i) % 256)).from_ ≤ (s.core k).cycle))).map
      (fun i => ((s.core k).capnext + i) % 256) := by
  unfold State.freeCap
  rw [List.find?_map]
  rfl
/-- An entry that cannot be minted: live, or freed in this cycle. -/
def State.capHeld (s : State) (k e : Nat) : Prop := (s.cap k e).live = true ∨ (s.core k).cycle < (s.cap k e).from_
theorem capHeld_iff (s : State) (k e : Nat) :
    s.capHeld k e ↔ (!(s.cap k e).live && decide ((s.cap k e).from_ ≤ (s.core k).cycle)) = false := by
  unfold State.capHeld
  rw [Bool.and_eq_false_iff, Bool.not_eq_false', decide_eq_false_iff_not, Nat.not_le]
theorem freeCap_none {s : State} {k : Nat} (h : ∀ e, e < 256 → s.capHeld k e) : s.freeCap k = none := by
  rw [freeCap_eq, Option.map_eq_none_iff, List.find?_range_eq_none]
  intro i _
  rw [(capHeld_iff ..).mp (h _ (Nat.mod_lt _ (by decide)))]
  rfl
theorem freeCap_some {s : State} {k i : Nat} (hi : i < 256) (hbefore : ∀ j, j < i → s.capHeld k (((s.core k).capnext + j) % 256))
    (hfree : ¬ s.capHeld k (((s.core k).capnext + i) % 256)) : s.freeCap k = some (((s.core k).capnext + i) % 256) := by
  rw [capHeld_iff, Bool.not_eq_false] at hfree
  rw [freeCap_eq, List.find?_range_eq_some.mpr ⟨hfree, List.mem_range.mpr hi, fun j hj => ?_⟩]
  · rfl
  · rw [(capHeld_iff ..).mp (hbefore j hj)]
    rfl

/-! ## `capmint` (R149-R151) -/

/-- Entry `e` of the core is taken, and the search begins after it the next time. -/
def State.mintCap (s : State) (e : Nat) (c : Cap) : State :=
  s.modCore (coreOf s.x) (fun q => { q with caps := sput q.caps e c, capnext := (e + 1) % 256 })
/-- The entry an unused one becomes: of its present generation, for this crew's registers from `a`. -/
def State.minted (s : State) (e : Nat) (rt : CapRight) (a n : Nat) (lanes : Word) : Cap :=
  { live := true, gen := (s.cap (coreOf s.x) e).gen, rights := rightBit rt, crew := crewOf s.x, base := a, count := n, lanes := lanes }

section
variable {x : XG} {rt : CapRight} {d a b : Reg} {pr : PReg} {n : BitVec 6} {s : State} (hb : s.rd b.toNat ≠ 0)
  (hrange : ∀ r ∈ regRange a.toNat n.toNat, s.regBad r = false)
  (hr : s.ready (extFr x false) { ops := [(pairOk d, 1), (emptyOk a n.toNat, 5)], srcs := [b.toNat], dsts := pairRegs d } = true)
include hb hrange hr

theorem capmint_none (hfree : s.freeCap (coreOf s.x) = none) :
    exec (.capmint x rt d a b pr n) s = .next ((((s.readAcquire [b.toNat]).wr64 d.toNat 0).wrP pr false).finish (extFr x false).len) := by
  have hu := Track.readAcquire s [b.toNat]
  have hbad : (regRange a.toNat n.toNat).filter (s.readAcquire [b.toNat]).regBad = [] :=
    List.filter_eq_nil_iff.mpr fun r hm => by rw [hu.regBad, hrange r hm]; exact Bool.false_ne_true
  refine (congrArg Host.Outcome.next (issue_ready hr _)).trans (congrArg _ ?_)
  dsimp only
  rw [hu.rd, if_neg hb, hbad, leastBy_nil, hu.x, hu.freeCap, hfree]
theorem capmint_some {e : Nat} (hfree : s.freeCap (coreOf s.x) = some e) :
    exec (.capmint x rt d a b pr n) s = .next (((((s.readAcquire [b.toNat]).mintCap e (s.minted e rt a.toNat n.toNat (s.rd b.toNat))).wr64
      d.toNat (capWord s.pkg.toNat (coreOf s.x) e (s.cap (coreOf s.x) e).gen (rightBit rt))).wrP pr true).finish (extFr x false).len) := by
  have hu := Track.readAcquire s [b.toNat]
  have hbad : (regRange a.toNat n.toNat).filter (s.readAcquire [b.toNat]).regBad = [] :=
    List.filter_eq_nil_iff.mpr fun r hm => by rw [hu.regBad, hrange r hm]; exact Bool.false_ne_true
  refine (congrArg Host.Outcome.next (issue_ready hr _)).trans (congrArg _ ?_)
  dsimp only
  unfold State.mintCap
  rw [hu.rd, if_neg hb, hbad, leastBy_nil, hu.x, hu.freeCap, hfree]
  dsimp only
  rw [hu.cap, hu.pkg]
  rfl
end
theorem mintCap_core (s : State) (e : Nat) (c : Cap) : (s.mintCap e c).core (coreOf s.x)
    = { s.core (coreOf s.x) with caps := sput (s.core (coreOf s.x)).caps e c, capnext := (e + 1) % 256 } := modCore_core ..
/-- The strand goes on with its word, and of the table only the entry taken changes. -/
theorem mint_finish {s u : State} (hu : Track s u [] []) (e : Nat) (c : Cap) (d : Nat) (w : Dword) (pr : PReg) (f : Fr) :
    let t := ((((u.mintCap e c).wr64 d w).wrP pr true)).finish f.len
    ((t.strand s.x).pc, (t.strand s.x).step) = s.nextPc f
      ∧ RegFile s t [(d, w.extractLsb' 0 32), (d + 1, w.extractLsb' 32 32)] [(pr, true)] ∧ SameBytes s t
      ∧ t.cap (coreOf s.x) e = c ∧ (t.core (coreOf s.x)).capnext = (e + 1) % 256
      ∧ ∀ j, j ≠ e → t.cap (coreOf s.x) j = s.cap (coreOf s.x) j := by
  intro t
  have hcore := mintCap_core u e c
  obtain ⟨hpc, hreg, hsame, helse⟩ := hu.finish_after (v := u.mintCap e c) rfl ⟨_, _, rfl⟩ (modCore_same ..)
    (((Track.refl (u.mintCap e c)).wr64 d w).wrP pr true) f
  obtain ⟨hcaps, hnext⟩ := helse.caps (coreOf s.x)
  rw [hu.x] at hcore
  rw [hcore] at hcaps hnext
  refine ⟨hpc, hreg, hsame, ?_, hnext, fun j hj => ?_⟩
  · rw [State.cap, hcaps]
    exact sget_sput_self ..
  · rw [State.cap, hcaps, sget_sput_ne _ _ _ (Ne.symm hj)]
    exact hu.cap ..

/-! ## `caprevoke` (R151) -/

/-- Entry `e` of the core is free from the next cycle on, for its next generation. -/
def State.freeEntry (s : State) (e : Nat) (c : Cap) : State :=
  s.modCore (coreOf s.x) (fun q => { q with caps := sput q.caps e { c with live := false, gen := (c.gen + 1) % 2048, from_ := q.cycle + 1 } })

section
variable {x : XG} {a : Reg} {pr : PReg} {s : State} (hr : s.ready (extFr x false) { ops := [(pairOk a, 2)], srcs := pairRegs a } = true)
  (hlow : cwLow (s.rd64 a.toNat) = 0)
include hr hlow

theorem caprevoke_denied (hden : s.capValid (s.rd64 a.toNat) = false ∨ (s.cap (coreOf s.x) (cwEntry (s.rd64 a.toNat))).crew ≠ crewOf s.x) :
    exec (.caprevoke x a pr) s = .next (((s.readAcquire (pairRegs a)).wrP pr false).finish (extFr x false).len) := by
  have hu := Track.readAcquire s (pairRegs a)
  refine (congrArg Host.Outcome.next (issue_ready hr _)).trans (congrArg _ ?_)
  dsimp only
  rw [hu.rd64, if_neg (not_not.mpr hlow), hu.x, hu.capValid, hu.cap, if_neg]
  rcases hden with h | h <;> simp [h]
theorem caprevoke_granted (hv : s.capValid (s.rd64 a.toNat) = true) (hc : (s.cap (coreOf s.x) (cwEntry (s.rd64 a.toNat))).crew = crewOf s.x) :
    exec (.caprevoke x a pr) s = .next ((((s.readAcquire (pairRegs a)).freeEntry (cwEntry (s.rd64 a.toNat))
      (s.cap (coreOf s.x) (cwEntry (s.rd64 a.toNat)))).wrP pr true).finish (extFr x false).len) := by
  have hu := Track.readAcquire s (pairRegs a)
  refine (congrArg Host.Outcome.next (issue_ready hr _)).trans (congrArg _ ?_)
  dsimp only
  unfold State.freeEntry
  rw [hu.rd64, if_neg (not_not.mpr hlow), hu.x, hu.capValid, hu.cap, hv, hc, beq_self_eq_true]
  rfl
end
theorem freeEntry_core (s : State) (e : Nat) (c : Cap) : (s.freeEntry e c).core (coreOf s.x) = { s.core (coreOf s.x) with
    caps := sput (s.core (coreOf s.x)).caps e { c with live := false, gen := (c.gen + 1) % 2048, from_ := (s.core (coreOf s.x)).cycle + 1 } } :=
  modCore_core ..

/-- The strand goes on, and the entry its word names is free. -/
theorem revoke_finish {s u : State} (hu : Track s u [] []) (e : Nat) (c : Cap) (pr : PReg) (f : Fr) :
    let t := ((u.freeEntry e c).wrP pr true).finish f.len
    ((t.strand s.x).pc, (t.strand s.x).step) = s.nextPc f ∧ RegFile s t [] [(pr, true)] ∧ SameBytes s t
      ∧ t.cap (coreOf s.x) e = { c with live := false, gen := (c.gen + 1) % 2048, from_ := s.myCore.cycle + 1 } := by
  intro t
  have hcore := freeEntry_core u e c
  obtain ⟨hpc, hreg, hsame, helse⟩ := hu.finish_after (v := u.freeEntry e c) rfl ⟨_, _, rfl⟩ (modCore_same ..)
    ((Track.refl (u.freeEntry e c)).wrP pr true) f
  obtain ⟨hcaps, -⟩ := helse.caps (coreOf s.x)
  have hcycle := hu.cycle
  rw [State.myCore, hu.x] at hcycle
  rw [hu.x] at hcore
  rw [hcore] at hcaps
  refine ⟨hpc, hreg, hsame, ?_⟩
  rw [State.cap, hcaps, sget_sput_self, hcycle]

/-- Settles O19: fill bits change under the mask of the run (`getLsbD_clearRange`); the entry taken is the first that can be in the
order of the search (`freeCap_some`), and of the table it alone changes (`mint_finish`, `revoke_finish`). -/
theorem fillBitsAndCapabilities : Obligations.FillBitsAndCapabilities := by
  refine ⟨fun g x d e n7 n s => ⟨fun h1 h2 h3 hr => ?empty, fun h1 h2 h3 hr => ?emptyX⟩, fun x rt d a b pr n s => ⟨?capmint, ?caprevoke⟩⟩
  case empty =>
    have hst := clearFill_strand s (regRange d.toNat n7.toNat)
    obtain ⟨hpc, hregs, hpreds, hsame, hfill⟩ := finish_file (s := s) (w := s.clearFill (regRange d.toNat n7.toNat)) rfl
      (by rw [hst]) (by rw [hst]) (clearFill_same ..) (baseFr g false)
    rw [hst] at hpreds hfill
    refine ⟨_, exec_empty_ready (decide_eq_true ⟨h1, h2, h3⟩) hr, hpc, fun r => ?_, hpreds, hsame, fun r => ?_⟩
    · rw [hregs, State.rdX, hst]
      rfl
    · rw [hfill, getLsbD_clearRange]
  case emptyX =>
    have hst (v : Word) : ((s.clearFill (regRange d.toNat n.toNat)).wr e.toNat v).strand s.x
        = { s.myStrand with fill := (regRange d.toNat n.toNat).foldl clrBit s.myStrand.fill }.wr e.toNat v :=
      (strand_wr (s.clearFill (regRange d.toNat n.toNat)) ..).trans (congrArg (fun t => Strand.wr t e.toNat v) (clearFill_strand ..))
    have hx := exec_emptyX_ready (decide_eq_true ⟨h1, h2, h3⟩) hr
    generalize hv : w32 (natOfBits ((regRange d.toNat n.toNat).map (fun r => s.myStrand.fill.getLsbD r))) = v at hx
    obtain ⟨hpc, hregs, hpreds, hsame, hfill⟩ := finish_file (s := s) (w := (s.clearFill (regRange d.toNat n.toNat)).wr e.toNat v) rfl
      (by rw [hst]; rfl) (by rw [hst]; rfl) ((clearFill_same ..).trans (wr_same ..)) (extFr x false)
    rw [hst] at hpreds hfill
    refine ⟨_, v, hx, hpc, fun r => ?_, hpreds, hsame, fun i hi => hv ▸ getLsbD_fillBits _ _ _ hi, fun r => ?_⟩
    · rw [hregs, State.rdX, hst]
      exact sget_sset ..
    · have he : e.toNat < 128 := e.isLt
      rw [hfill]
      show (setBit _ _).getLsbD r = _
      rw [getLsbD_setBit, getLsbD_clearRange, Bool.or_comm]
      congr 1
      by_cases hre : r = e.toNat
      · simp [hre, he]
      · simp [hre, Ne.symm hre]
  case capmint =>
    intro hok hb hrange hr pair held
    have hu := Track.readAcquire s [b.toNat]
    refine ⟨fun hall => ⟨_, capmint_none hb hrange hr (freeCap_none hall), ((hu.wr64 d.toNat 0).wrP pr false).finish _⟩, ?_⟩
    intro i hi hbefore e hfree right
    have hright : rightBit rt = right := by cases rt <;> rfl
    have hx := capmint_some (rt := rt) (pr := pr) hb hrange hr (freeCap_some hi hbefore hfree)
    have ht := mint_finish hu e (s.minted e rt a.toNat n.toNat (s.rd b.toNat)) d.toNat
      (capWord s.pkg.toNat (coreOf s.x) e (s.cap (coreOf s.x) e).gen (rightBit rt)) pr (extFr x false)
    unfold State.minted at ht
    rw [hright] at hx ht
    exact ⟨_, hx, ht⟩
  case caprevoke =>
    intro hr w c hlow
    have hu := Track.readAcquire s (pairRegs a)
    exact ⟨fun hv hc => ⟨_, caprevoke_granted hr hlow hv hc, revoke_finish hu (cwEntry w) c pr (extFr x false)⟩,
      fun hden => ⟨_, caprevoke_denied hr hlow hden, (hu.wrP pr false).finish _⟩⟩
end Sys2Proof.Machine
end

section
namespace Sys2Proof.Machine

/-- Bytes stand in no strand, crew or core. -/
theorem SameBytes.of_rest {s t : State} (h : { t with strands := s.strands, crews := s.crews, cores := s.cores } = s) : SameBytes s t :=
  SameBytes.of_eq (congrArg (fun u : State => { u with units := s.units }) h)

/-! ## A PUT is over: PT, its token and its NAK (R158, R159) -/

theorem tokDone_rest (s : State) (c : Nat) (w : Option Nat) (st : TokStatus) (b : Bool) : { s.tokDone c w st b with crews := s.crews } = s := by
  unfold State.tokDone
  split
  · rfl
  · dsimp only
    split <;> rfl
theorem tokDone_crew (s : State) (c : Nat) (w : Option Nat) (st : TokStatus) (b : Bool) (q : Nat) :
    ∃ m, (s.tokDone c w st b).crew q = { s.crew q with toks := m } := by
  unfold State.tokDone
  split
  · exact ⟨_, rfl⟩
  · dsimp only
    split
    · exact ⟨_, rfl⟩
    · unfold State.setToken
      rw [crew_modCrew]
      split
      · next e => exact e ▸ ⟨_, rfl⟩
      · exact ⟨_, rfl⟩
theorem tokDone_token {s : State} {c : Nat} (h : s.hasCrew c = true) (n : Nat) (st : TokStatus) (b : Bool) :
    ((s.tokDone c (some n) st b).token c n).cnt = (s.token c n).cnt - 1 := by
  have hset (v : Token) : (s.setToken c n v).token c n = v := by
    unfold State.setToken State.token
    rw [crew_modCrew, if_pos rfl]
    exact (sget_sset ..).trans (if_pos rfl)
  unfold State.tokDone
  dsimp only
  rw [h, Bool.not_true, if_neg Bool.false_ne_true, hset]
theorem decCls_rest (s : State) (c : Nat) (k : Cls) : { s.decCls c k with crews := s.crews } = s := by
  unfold State.decCls
  split <;> rfl

/-- PT falls, and the token takes the outcome. -/
def State.putCounted (s : State) (x : Nat) (tok : Option Nat) (st : TokStatus) : State := (s.decCls (crewOf x) .pt).tokDone (crewOf x) tok st
theorem putCounted_rest (s : State) (x : Nat) (tok : Option Nat) (st : TokStatus) : { s.putCounted x tok st with crews := s.crews } = s :=
  (congrArg (fun u : State => { u with crews := s.crews }) (tokDone_rest (s.decCls (crewOf x) .pt) (crewOf x) tok st false)).trans (decCls_rest ..)
section
variable {s : State} {x : Nat} (h : s.hasCrew (crewOf x) = true)
include h

theorem putCounted_pt (tok : Option Nat) (st : TokStatus) :
    ((s.putCounted x tok st).crew (crewOf x)).pt = (s.crew (crewOf x)).pt - 1 := by
  obtain ⟨m, hm⟩ := tokDone_crew (s.decCls (crewOf x) .pt) (crewOf x) tok st false (crewOf x)
  rw [State.putCounted, hm, State.decCls, if_pos h, crew_modCrew, if_pos rfl]
  rfl
theorem putCounted_token (n : Nat) (st : TokStatus) :
    ((s.putCounted x (some n) st).token (crewOf x) n).cnt = (s.token (crewOf x) n).cnt - 1 := by
  have hdec : s.decCls (crewOf x) .pt = s.modCrew (crewOf x) (fun v => setCls v .pt (clsCount v .pt - 1)) := if_pos h
  rw [State.putCounted, hdec, tokDone_token (modCrew_hasCrew s _ _ _ h), State.token, crew_modCrew, if_pos rfl]
  rfl
end

/-- A NAK is counted. -/
def State.putNaked (s : State) (x : Nat) (tok : Option Nat) (idx reason : Nat) : State :=
  (s.putCounted x tok (.nak reason idx false)).perf (coreOf x) 0x0B (troopOf x) 1
theorem putNaked_rest (s : State) (x : Nat) (tok : Option Nat) (idx reason : Nat) :
    { s.putNaked x tok idx reason with crews := s.crews, cores := s.cores } = s :=
  (congrArg (fun u : State => { u with crews := s.crews, cores := s.cores }) (perf_rest (s.putCounted x tok (.nak reason idx false)) _ _ _ _)).trans
    (congrArg (fun u : State => { u with cores := s.cores }) (putCounted_rest ..))
theorem putNaked_cycle (s : State) (x : Nat) (tok : Option Nat) (idx reason k : Nat) :
    ((s.putNaked x tok idx reason).core k).cycle = (s.core k).cycle := by
  have hc : (s.putCounted x tok (.nak reason idx false)).cores = s.cores := (congrArg State.cores (putCounted_rest s x tok (.nak reason idx false)) :)
  rw [State.putNaked, perf_cycle, State.core, hc]
  rfl
theorem putEnded_ok (s : State) (x : Nat) (tok : Option Nat) (idx : Nat) : s.putEnded x tok idx 0 = s.putCounted x tok .ok := rfl
theorem putEnded_nak (s : State) (x : Nat) (tok : Option Nat) (idx : Nat) {reason : Nat} (h : reason ≠ 0) :
    s.putEnded x tok idx reason = if tok.isNone && s.alive x
      then (s.putNaked x tok idx reason).modStrand x (fun t => { t with naks := t.naks ++ [(reason, idx, (s.core (coreOf x)).cycle)] })
      else s.putNaked x tok idx reason := by
  have hst : (s.putNaked x tok idx reason).strands = s.strands := (congrArg State.strands (putNaked_rest s x tok idx reason) :)
  have halive : (s.putNaked x tok idx reason).alive x = s.alive x := by
    unfold State.alive
    rw [hst]
  rw [← halive, ← putNaked_cycle s x tok idx reason]
  unfold State.putEnded
  dsimp only
  rw [if_neg h, if_neg h]
  rfl
theorem putEnded_rest (s : State) (x : Nat) (tok : Option Nat) (idx reason : Nat) :
    { s.putEnded x tok idx reason with strands := s.strands, crews := s.crews, cores := s.cores } = s := by
  by_cases h : reason = 0
  · rw [h, putEnded_ok]
    exact congrArg (fun u : State => { u with strands := s.strands, cores := s.cores }) (putCounted_rest s x tok .ok)
  · have hn := congrArg (fun u : State => { u with strands := s.strands }) (putNaked_rest s x tok idx reason)
    rw [putEnded_nak s x tok idx h]
    split
    · exact hn
    · exact hn
theorem putEnded_same (s : State) (x : Nat) (tok : Option Nat) (idx reason : Nat) : SameBytes s (s.putEnded x tok idx reason) :=
  SameBytes.of_rest (putEnded_rest ..)
theorem putEnded_crews (s : State) (x : Nat) (tok : Option Nat) (idx reason : Nat) :
    ∃ st, (s.putEnded x tok idx reason).crews = (s.putCounted x tok st).crews := by
  by_cases h : reason = 0
  · exact ⟨.ok, by rw [h, putEnded_ok]⟩
  · have hn : (s.putNaked x tok idx reason).crews = (s.putCounted x tok (.nak reason idx false)).crews :=
      (congrArg State.crews (perf_rest (s.putCounted x tok (.nak reason idx false)) _ _ _ _) :)
    refine ⟨_, Eq.trans ?_ hn⟩
    rw [putEnded_nak s x tok idx h]
    split <;> rfl
theorem putEnded_pt {s : State} {x : Nat} (h : s.hasCrew (crewOf x) = true) (tok : Option Nat) (idx reason : Nat) :
    ((s.putEnded x tok idx reason).crew (crewOf x)).pt = (s.crew (crewOf x)).pt - 1 := by
  obtain ⟨st, hc⟩ := putEnded_crews s x tok idx reason
  rw [← putCounted_pt h tok st, State.crew, hc]
  rfl
theorem putEnded_token {s : State} {x : Nat} (h : s.hasCrew (crewOf x) = true) (n idx reason : Nat) :
    ((s.putEnded x (some n) idx reason).token (crewOf x) n).cnt = (s.token (crewOf x) n).cnt - 1 := by
  obtain ⟨st, hc⟩ := putEnded_crews s x (some n) idx reason
  rw [← putCounted_token h n st, State.token, State.crew, hc]
  rfl
/-- A refusal without a token is recorded against the strand, if it lives; no other strand changes. -/
theorem putEnded_strand (s : State) (x : Nat) (tok : Option Nat) (idx reason y : Nat) : (s.putEnded x tok idx reason).strand y
    = { s.strand y with naks := (s.strand y).naks ++ if reason ≠ 0 ∧ tok = none ∧ s.alive x = true ∧ y = x
        then [(reason, idx, (s.core (coreOf x)).cycle)] else [] } := by
  by_cases h : reason = 0
  · have hst : (s.putCounted x tok .ok).strands = s.strands := (congrArg State.strands (putCounted_rest s x tok .ok) :)
    rw [h, putEnded_ok, if_neg (fun q => q.1 rfl), List.append_nil, State.strand, hst]
    rfl
  · have hst : (s.putNaked x tok idx reason).strands = s.strands := (congrArg State.strands (putNaked_rest s x tok idx reason) :)
    have hy (z : Nat) : (s.putNaked x tok idx reason).strand z = s.strand z := congrArg (fun m => sget m ({} : Strand) z) hst
    rw [putEnded_nak s x tok idx h]
    by_cases hx : tok = none ∧ s.alive x = true
    · rw [if_pos (by simp [hx]), strand_modStrand, hy, hy]
      by_cases e : y = x
      · rw [if_pos e, if_pos ⟨h, hx.1, hx.2, e⟩, e]
      · rw [if_neg e, if_neg (fun q => e q.2.2.2), List.append_nil]
    · rw [if_neg (by simpa using hx), hy, if_neg (fun q => hx ⟨q.2.1, q.2.2.1⟩), List.append_nil]

/-! ## A PUT leaves by its pair's port (R392) -/

/-- The record of a PUT for its port. -/
def State.portMsg (s : State) (m : PutMsg) : UaMsg :=
  { id := m.id, kind := 1, pkg := cwPkg m.word, addr := putBase,
    data := putRecord m s.pkg.toNat (dieOfCore (coreOf m.src)) (coreOf m.src % 64), port := s.portFor (coreOf m.src) (cwCore m.word) (cwPkg m.word) }
/-- Message `id` stands at a port. -/
def sentBy (id port : Nat) (q : PutMsg) : PutMsg := if q.id = id then { q with out := true, port := port } else q
def State.putLeave (s : State) (m : PutMsg) : State :=
  { s with puts := s.puts.map (sentBy m.id (s.portMsg m).port), uaOut := s.uaOut ++ [s.portMsg m] }
theorem sentBy_id (id port : Nat) (q : PutMsg) : (sentBy id port q).id = q.id := by
  unfold sentBy
  split <;> rfl
theorem putOut_cases (s : State) (m : PutMsg) : s.putOut m = s ∨ s.putOut m = s.putLeave m := by
  unfold State.putOut
  dsimp only
  split
  · exact .inl rfl
  · exact .inr rfl
theorem putOut_leaves {s : State} {m : PutMsg} (hfirst : ∀ q ∈ s.puts, q.id ≠ m.id → s.putAway q = true → q.out = true)
    (hroute : s.routeOk (cwPkg m.word) = true) (hheld : s.pairHeld (coreOf m.src) (cwCore m.word) (cwPkg m.word) = false) :
    s.putOut m = s.putLeave m := by
  have hany : (s.puts.takeWhile (fun q => q.id != m.id)).any (fun q =>
      s.putAway q && !q.out && coreOf q.src == coreOf m.src && cwPkg q.word == cwPkg m.word && cwCore q.word == cwCore m.word) = false := by
    refine List.any_eq_false.mpr fun q hq => ?_
    have hmem := (List.takeWhile_sublist (fun q : PutMsg => q.id != m.id)).subset hq
    have hne : q.id ≠ m.id := bne_iff_ne.mp (List.mem_takeWhile_imp (p := fun q : PutMsg => q.id != m.id) hq)
    cases ha : s.putAway q with
    | false => simp
    | true => simp [hfirst q hmem hne ha]
  unfold State.putOut
  dsimp only
  rw [hany, hroute, hheld]
  rfl
theorem putLeave_same (s : State) (m : PutMsg) : SameBytes s (s.putLeave m) := SameBytes.of_tables rfl rfl rfl rfl rfl
end Sys2Proof.Machine
end

section
namespace Sys2Proof.Machine

/-! ## What a PUT finds after its reads -/

/-- Reading registers may end the filling of the L1 by lines on their way, and changes nothing else of a request (R161). -/
theorem readAcquire_reqs (s : State) (rs : List Nat) (k : Nat) :
    ∃ b : Bool → Bool, ((s.readAcquire rs).core k).reqs = (s.core k).reqs.map (fun r => { r with fill := b r.fill }) := by
  have hsame : ∃ b : Bool → Bool, (s.core k).reqs = (s.core k).reqs.map (fun r => { r with fill := b r.fill }) := ⟨id, (List.map_id _).symm⟩
  unfold State.readAcquire
  split
  · unfold State.invL1
    rw [core_modCore]
    split
    · next e => exact ⟨fun _ => false, e ▸ rfl⟩
    · exact hsame
  · exact hsame
theorem readAcquire_crews (s : State) (rs : List Nat) : (s.readAcquire rs).crews = s.crews := by
  unfold State.readAcquire
  split <;> rfl
theorem readAcquire_loadsIn (s : State) (rs : List Nat) : (s.readAcquire rs).loadsIn = s.loadsIn := by
  obtain ⟨b, hb⟩ := readAcquire_reqs s rs (coreOf s.x)
  unfold State.loadsIn
  rw [(Track.readAcquire s rs).x, hb, List.all_map]
  rfl
theorem readAcquire_storesOf (s : State) (rs : List Nat) (k : Nat) : (s.readAcquire rs).storesOf k = s.storesOf k := by
  obtain ⟨b, hb⟩ := readAcquire_reqs s rs k
  unfold State.storesOf
  rw [readAcquire_crews, hb, List.filter_map, List.map_map]
  rfl
theorem readAcquire_relReady (s : State) (rs : List Nat) : (s.readAcquire rs).relReady .pkg = s.relReady .pkg := by
  obtain ⟨b, hb⟩ := readAcquire_reqs s rs (coreOf s.x)
  unfold State.relReady
  dsimp only
  rw [readAcquire_loadsIn, (Track.readAcquire s rs).x, readAcquire_crews, hb, List.all_map]
  rfl

section
variable {s t : State} {ws : List (Nat × Word)} {ps : List (PReg × Bool)} (h : Track s t ws ps)
include h

theorem Track.pt : t.myCrew.pt = s.myCrew.pt := by
  rw [State.myCrew, h.x]
  exact (congrArg Crew.pt (h.2.2.2.2.1 (crewOf s.x)) :)
theorem Track.nextId : t.nextId = s.nextId := (congrArg State.nextId h.rest :)
theorem Track.fabric : t.puts = s.puts ∧ t.uaOut = s.uaOut ∧ t.routes = s.routes ∧ t.ports = s.ports ∧ t.chanMsgs = s.chanMsgs :=
  ⟨(congrArg State.puts h.rest :), (congrArg State.uaOut h.rest :), (congrArg State.routes h.rest :), (congrArg State.ports h.rest :),
    (congrArg State.chanMsgs h.rest :)⟩
end

/-! ## Routes and pairs (R392, R393) -/

section
variable {s t : State} (hroutes : t.routes = s.routes) (hports : t.ports = s.ports)
include hroutes hports

theorem livePorts_congr (pkg : Nat) : t.livePorts pkg = s.livePorts pkg := by
  unfold State.livePorts
  rw [hroutes, hports]
theorem routeOk_congr (pkg : Nat) : t.routeOk pkg = s.routeOk pkg := by
  unfold State.routeOk
  rw [livePorts_congr hroutes hports]
/-- A message that waits for a port holds no pair back. -/
theorem pairHeld_congr {m : PutMsg} (hm : m.out = false) (hputs : t.puts = s.puts ++ [m]) (hmsgs : t.chanMsgs = s.chanMsgs) {k : Nat}
    (hsqe : (t.core k).sqe = (s.core k).sqe) (hreqs : ∃ b : Bool → Bool, (t.core k).reqs = (s.core k).reqs.map (fun r => { r with fill := b r.fill }))
    (tc pkg : Nat) : t.pairHeld k tc pkg = s.pairHeld k tc pkg := by
  obtain ⟨b, hb⟩ := hreqs
  have hport : t.portFor k tc pkg = s.portFor k tc pkg := by
    unfold State.portFor
    rw [livePorts_congr hroutes hports]
  have hpairs : t.pairPorts k tc pkg = s.pairPorts k tc pkg := by
    unfold State.pairPorts
    rw [hputs, hmsgs, hsqe, hb, List.filter_append, List.filter_cons_of_neg (by rw [hm]; exact Bool.false_ne_true), List.filter_nil, List.append_nil,
      List.filter_map, List.map_map]
    rfl
  unfold State.pairHeld
  rw [hpairs, hport]
end

/-! ## A PUT is counted and becomes a message (R154, R155) -/

theorem perf_core (s : State) (k e t n j : Nat) : ∃ p, (s.perf k e t n).core j = { s.core j with perf := p } := by
  unfold State.perf
  split
  · exact ⟨_, rfl⟩
  · rw [core_modCore]
    split
    · next h => exact h ▸ ⟨_, rfl⟩
    · exact ⟨_, rfl⟩
theorem hasCrew_of_pt {s : State} {c : Nat} (h : (s.crew c).pt ≠ 0) : s.hasCrew c = true := by
  unfold State.hasCrew
  by_contra hn
  refine h ?_
  rw [State.crew, sget, Option.not_isSome_iff_eq_none.mp hn]
  rfl

/-- PT and the token of the strand's crew count one more PUT. -/
def State.countPut (s : State) (tok : Option (BitVec 4)) : State :=
  ((s.incCls (crewOf s.x) .pt).tokAttach (crewOf s.x) tok).perf (coreOf s.x) 0x0A (troopOf s.x) 1
theorem countPut_rest (s : State) (tok : Option (BitVec 4)) : { s.countPut tok with strands := s.strands, crews := s.crews, cores := s.cores } = s := by
  have h1 := congrArg (fun u : State => { u with strands := s.strands, crews := s.crews, cores := s.cores })
    (perf_rest ((s.incCls (crewOf s.x) .pt).tokAttach (crewOf s.x) tok) (coreOf s.x) 0x0A (troopOf s.x) 1)
  have h2 := congrArg (fun u : State => { u with crews := s.crews, cores := s.cores }) (tokAttach_rest (s.incCls (crewOf s.x) .pt) (crewOf s.x) tok)
  exact h1.trans h2
theorem countPut_nextId (s : State) (tok : Option (BitVec 4)) : (s.countPut tok).nextId = s.nextId := (congrArg State.nextId (countPut_rest s tok) :)
theorem countPut_cur (s : State) (tok : Option (BitVec 4)) : (s.countPut tok).cur = s.cur := (congrArg State.cur (countPut_rest s tok) :)
theorem countPut_strand (s : State) (tok : Option (BitVec 4)) (y : Nat) : ∃ m, (s.countPut tok).strand y = { s.strand y with nakMarks := m } := by
  obtain ⟨m, hm⟩ := tokAttach_strand (s.incCls (crewOf s.x) .pt) (crewOf s.x) tok y
  exact ⟨m, (perf_strand ..).trans hm⟩
theorem countPut_pt (s : State) (tok : Option (BitVec 4)) : ((s.countPut tok).crew (crewOf s.x)).pt = s.myCrew.pt + 1 := by
  obtain ⟨m, hm⟩ := tokAttach_crew (s.incCls (crewOf s.x) .pt) (crewOf s.x) tok (crewOf s.x)
  have hp : (s.countPut tok).crews = ((s.incCls (crewOf s.x) .pt).tokAttach (crewOf s.x) tok).crews := (congrArg State.crews (perf_rest ..) :)
  rw [State.crew, hp]
  refine (congrArg Crew.pt hm).trans ?_
  rw [State.incCls, crew_modCrew, if_pos rfl]
  rfl
theorem countPut_core (s : State) (tok : Option (BitVec 4)) (k : Nat) : ∃ p, (s.countPut tok).core k = { s.core k with perf := p } := by
  obtain ⟨p, hp⟩ := perf_core ((s.incCls (crewOf s.x) .pt).tokAttach (crewOf s.x) tok) (coreOf s.x) 0x0A (troopOf s.x) 1 k
  have hc : ((s.incCls (crewOf s.x) .pt).tokAttach (crewOf s.x) tok).cores = s.cores :=
    (congrArg State.cores (tokAttach_rest (s.incCls (crewOf s.x) .pt) _ _) :)
  have hk : ((s.incCls (crewOf s.x) .pt).tokAttach (crewOf s.x) tok).core k = s.core k := congrArg (fun m => sget m ({} : Core) k) hc
  exact ⟨p, hk ▸ hp⟩
theorem countPut_same (s : State) (tok : Option (BitVec 4)) : SameBytes s (s.countPut tok) :=
  SameBytes.of_rest (countPut_rest ..)

/-- The message of a PUT of the issuing strand, with the stores it may not overtake. -/
def State.putMsg (s : State) (kind idx : Nat) (w : Dword) (v : Word) (lanes : BitVec 32) (tok : Option (BitVec 4)) : PutMsg :=
  { id := s.nextId, word := w, idx := idx, lanes := lanes, val := v, kind := kind, src := s.x, tok := tok.map (·.toNat), after := s.storesOf (coreOf s.x) }
def State.postPut (s : State) (m : PutMsg) : State := { s.newId.2 with puts := s.newId.2.puts ++ [m] }

/-- A PUT with a well-formed word that waits for nothing of its own core: PT and its token have room, and the strand's loads are in. -/
structure PutRoom (s : State) (w : Dword) (kind : Nat) (tok : Option (BitVec 4)) : Prop where
  low : cwLow w = 0
  add : bitOf w.toNat 27 = decide (2 ≤ kind)
  pt : s.myCrew.pt < 63
  token : s.tokRoom (crewOf s.x) tok = true
  loads : s.loadsIn = true
theorem PutRoom.readAcquire {s : State} {w : Dword} {kind : Nat} {tok : Option (BitVec 4)} (h : PutRoom s w kind tok) (rs : List Nat) :
    PutRoom (s.readAcquire rs) w kind tok := by
  have hu := Track.readAcquire s rs
  refine ⟨h.low, h.add, hu.pt ▸ h.pt, ?_, (readAcquire_loadsIn s rs).trans h.loads⟩
  rw [hu.x, hu.tokRoom]
  exact h.token

section
variable {s : State} {w : Dword} {kind : Nat} {tok : Option (BitVec 4)} (h : PutRoom s w kind tok) (f : Fr) (idx : Nat) (v : Word) (lanes : BitVec 32)
include h

theorem sendPut_near (hpkg : cwPkg w = s.pkg.toNat) : s.sendPut f kind idx w v lanes tok
    = (((s.countPut tok).postPut (s.putMsg kind idx w v lanes tok)).loopSend s.nextId (stopOf (coreOf s.x)) (stopOf (cwCore w))).finish f.len := by
  unfold State.sendPut State.putMsg
  dsimp only
  rw [if_neg (by simp [h.low, h.add]), if_neg (by simp [hpkg, h.token, h.loads, h.pt]), if_neg (by simp [hpkg]), if_neg (by simp [hpkg]),
    ← countPut_nextId s tok]
  rfl
variable (hpkg : cwPkg w ≠ s.pkg.toNat)
include hpkg

theorem sendPut_far (hroute : s.routeOk (cwPkg w) = true) (hrel : s.relReady .pkg = true) : s.sendPut f kind idx w v lanes tok
    = (((s.countPut tok).postPut (s.putMsg kind idx w v lanes tok)).putOut (s.putMsg kind idx w v lanes tok)).finish f.len := by
  unfold State.sendPut State.putMsg
  dsimp only
  rw [if_neg (by simp [h.low, h.add]), if_neg (by simp [hrel, h.token, h.loads, h.pt]), if_neg (by simp [hroute]), if_pos (by simp [hpkg]),
    ← countPut_nextId s tok]
  rfl
theorem sendPut_cut (hroute : s.routeOk (cwPkg w) = false) : s.sendPut f kind idx w v lanes tok
    = ((s.countPut tok).newId.2.putEnded s.x (tok.map (·.toNat)) idx 5).finish f.len := by
  unfold State.sendPut
  dsimp only
  rw [if_neg (by simp [h.low, h.add]), if_neg (by simp [hroute, h.token, h.loads, h.pt]), if_pos (by simp [hroute, hpkg])]
  rfl
end

/-! ## What sending leaves -/

theorem loopSend_rest (s : State) (id src dst : Nat) : { s.loopSend id src dst with loopSeq := s.loopSeq, loopPkts := s.loopPkts } = s := by
  unfold State.loopSend State.loopPost
  split <;> rfl

theorem Elsewhere.fabric {s t : State} (h : Elsewhere s t) : t.puts = s.puts ∧ t.uaOut = s.uaOut ∧ ∀ c, (t.crew c).pt = (s.crew c).pt := by
  obtain ⟨-, hc, -, -, -, hrest, -⟩ := h
  exact ⟨(congrArg State.puts hrest :), (congrArg State.uaOut hrest :), fun c => (congrArg Crew.pt (hc c) :)⟩

/-- The strand goes on with no register and no byte changed. -/
structure GoesOn (s t : State) (f : Fr) : Prop where
  pc : ((t.strand s.x).pc, (t.strand s.x).step) = s.nextPc f
  file : RegFile s t [] []
  same : SameBytes s t
/-- The strand has gone on, PT counts its PUT, and the message `m` stands last, as `g` left it and those of its number. -/
structure Posted (s t : State) (f : Fr) (m : PutMsg) (g : PutMsg → PutMsg) : Prop where
  goes : GoesOn s t f
  pt : (t.crew (crewOf s.x)).pt = s.myCrew.pt + 1
  puts : t.puts = (s.puts ++ [m]).map g
  id : ∀ q, (g q).id = q.id
  others : ∀ q, q.id ≠ m.id → g q = q
  self : { g m with out := false, port := 0 } = m
/-- The message stands at a port, which its record has just left by. -/
def AtPort (s t : State) (w : Dword) (m : PutMsg) : Prop :=
  m.out = true ∧ ∃ a, t.uaOut = s.uaOut ++ [a] ∧ a.kind = 1 ∧ a.pkg = cwPkg w ∧ a.port = m.port
theorem Posted.mem {s t : State} {f : Fr} {m : PutMsg} {g : PutMsg → PutMsg} (h : Posted s t f m g) :
    t.puts.length = s.puts.length + 1 ∧ (∀ q, q.id ≠ m.id → (q ∈ t.puts ↔ q ∈ s.puts)) ∧ g m ∈ t.puts := by
  rw [h.puts]
  refine ⟨by simp, fun q hq => ?_, List.mem_map_of_mem (by simp)⟩
  rw [List.mem_map]
  constructor
  · rintro ⟨p, hp, rfl⟩
    rw [h.id] at hq
    rw [h.others p hq]
    exact (List.mem_append.mp hp).resolve_right (fun e => hq (List.mem_singleton.mp e ▸ rfl))
  · exact fun hm => ⟨q, List.mem_append_left _ hm, h.others q hq⟩

theorem putMsg_unsent {m : PutMsg} (hout : m.out = false) (hport : m.port = 0) : { m with out := false, port := 0 } = m := by rw [← hout, ← hport]
theorem finish_uaOut (v : State) (f : Fr) : (v.finish f.len).uaOut = v.uaOut := (finish_wrote v f).2.2.2.fabric.2.1

section
variable {s u : State} (hu : Track s u [] []) (f : Fr) (tok : Option (BitVec 4))
include hu

/-- What changes beyond the strand's registers, and the marks of its token's NAKs, lets it go on. -/
theorem GoesOn.finish {v : State} (hcur : v.cur = u.cur) (hst : ∃ m ns, v.strand s.x = { u.strand s.x with nakMarks := m, naks := ns })
    (hsame : SameBytes u v) : GoesOn s (v.finish f.len) f ∧ Elsewhere v (v.finish f.len) := by
  obtain ⟨hpc, hreg, hbytes, he⟩ := hu.finish_after hcur hst hsame (Track.refl v) f
  exact ⟨⟨hpc, hreg, hbytes⟩, he⟩
theorem countPut_finish {v : State} (hst : v.strands = (u.countPut tok).strands) (hcur : v.cur = u.cur) (hsame : SameBytes (u.countPut tok) v) :
    GoesOn s (v.finish f.len) f ∧ Elsewhere v (v.finish f.len) := by
  obtain ⟨n, hn⟩ := countPut_strand u tok s.x
  refine GoesOn.finish hu f hcur ⟨n, (u.strand s.x).naks, Eq.trans ?_ hn⟩ ((countPut_same u tok).trans hsame)
  exact congrArg (fun m => sget m ({} : Strand) s.x) hst

theorem Track.countPut_pt : ((u.countPut tok).crew (crewOf s.x)).pt = s.myCrew.pt + 1 := by
  rw [← hu.pt, ← Machine.countPut_pt u tok, hu.x]
theorem posted_finish {v : State} {m : PutMsg} {g : PutMsg → PutMsg} (hst : v.strands = (u.countPut tok).strands)
    (hcrews : v.crews = (u.countPut tok).crews) (hcur : v.cur = u.cur) (hsame : SameBytes (u.countPut tok) v) (hputs : v.puts = (s.puts ++ [m]).map g)
    (hid : ∀ q, (g q).id = q.id) (hothers : ∀ q, q.id ≠ m.id → g q = q) (hself : { g m with out := false, port := 0 } = m) :
    Posted s (v.finish f.len) f m g := by
  obtain ⟨hgoes, he⟩ := countPut_finish hu f tok hst hcur hsame
  obtain ⟨hp, -, hpt⟩ := he.fabric
  refine ⟨hgoes, ?_, hp.trans hputs, hid, hothers, hself⟩
  rw [hpt, State.crew, hcrews]
  exact hu.countPut_pt tok
theorem postPut_fabric (m : PutMsg) : ((u.countPut tok).postPut m).puts = s.puts ++ [m] ∧ ((u.countPut tok).postPut m).uaOut = s.uaOut
    ∧ ((u.countPut tok).postPut m).routes = s.routes ∧ ((u.countPut tok).postPut m).ports = s.ports
    ∧ ((u.countPut tok).postPut m).chanMsgs = s.chanMsgs ∧ ((u.countPut tok).postPut m).pkg = s.pkg := by
  have hr := countPut_rest u tok
  obtain ⟨h1, h2, h3, h4, h5⟩ := hu.fabric
  exact ⟨congrArg (· ++ [m]) ((congrArg State.puts hr :).trans h1), (congrArg State.uaOut hr :).trans h2, (congrArg State.routes hr :).trans h3,
    (congrArg State.ports hr :).trans h4, (congrArg State.chanMsgs hr :).trans h5, (congrArg State.pkg hr :).trans hu.pkg⟩

variable {m : PutMsg} (hout : m.out = false) (hport : m.port = 0)
include hout hport

theorem posted_near (id src dst : Nat) : Posted s ((((u.countPut tok).postPut m).loopSend id src dst).finish f.len) f m (fun q => q) := by
  have hloop := loopSend_rest ((u.countPut tok).postPut m) id src dst
  obtain ⟨hputs, -⟩ := postPut_fabric hu tok m
  refine posted_finish hu f tok (congrArg State.strands hloop :) (congrArg State.crews hloop :) ?_ ?_ ?_ (fun _ => rfl) (fun _ _ => rfl)
    (putMsg_unsent hout hport)
  · exact (congrArg State.cur hloop :).trans (countPut_cur u tok)
  · exact SameBytes.of_tables (congrArg State.slices hloop :) (congrArg State.pmem hloop :) (congrArg State.hostMem hloop :)
      (congrArg State.troops hloop :) (congrArg State.ctls hloop :)
  · exact (congrArg State.puts hloop :).trans (hputs.trans (List.map_id _).symm)
/-- Towards another package a message stands at a port, or waits for one. -/
theorem posted_far (hreqs : ∃ b : Bool → Bool, (u.core (coreOf s.x)).reqs = (s.core (coreOf s.x)).reqs.map (fun r => { r with fill := b r.fill }))
    (hsrc : m.src = s.x) (hroute : s.routeOk (cwPkg m.word) = true) :
    let t := (((u.countPut tok).postPut m).putOut m).finish f.len
    ∃ g, Posted s t f m g ∧ (s.pairHeld (coreOf s.x) (cwCore m.word) (cwPkg m.word) = false → (∀ q ∈ s.puts, s.putAway q = true → q.out = true) →
      AtPort s t m.word (g m)) := by
  intro t
  obtain ⟨v, hv⟩ : ∃ v, v = (u.countPut tok).postPut m := ⟨_, rfl⟩
  have ht : t = (v.putOut m).finish f.len := by rw [hv]
  obtain ⟨hputs, hua, hroutes, hports, hmsgs, hpkg⟩ := postPut_fabric hu tok m
  rw [← hv] at hputs hua hroutes hports hmsgs hpkg
  have hcur : v.cur = u.cur := hv ▸ countPut_cur u tok
  have hsame : SameBytes (u.countPut tok) v := hv ▸ SameBytes.of_tables rfl rfl rfl rfl rfl
  have hself : sentBy m.id (v.portMsg m).port m = { m with out := true, port := (v.portMsg m).port } := if_pos rfl
  have hleave : Posted s ((v.putLeave m).finish f.len) f m (sentBy m.id (v.portMsg m).port) :=
    posted_finish hu f tok (v := v.putLeave m) (hv ▸ rfl) (hv ▸ rfl) hcur (hsame.trans (putLeave_same v m)) (congrArg (List.map _) hputs)
      (sentBy_id _ _) (fun q hq => if_neg hq) (hself ▸ putMsg_unsent hout hport)
  have hstay : Posted s (v.finish f.len) f m (fun q => q) :=
    posted_finish hu f tok (hv ▸ rfl) (hv ▸ rfl) hcur hsame (hputs.trans (List.map_id _).symm) (fun _ => rfl) (fun _ _ => rfl) (putMsg_unsent hout hport)
  by_cases hgo : s.pairHeld (coreOf s.x) (cwCore m.word) (cwPkg m.word) = false ∧ ∀ q ∈ s.puts, s.putAway q = true → q.out = true
  · obtain ⟨hheld, hfirst⟩ := hgo
    have hcore : (v.core (coreOf s.x)).sqe = (s.core (coreOf s.x)).sqe ∧ (v.core (coreOf s.x)).reqs = (u.core (coreOf s.x)).reqs := by
      obtain ⟨p, hp⟩ := countPut_core u tok (coreOf s.x)
      obtain ⟨l, r, b, hk⟩ := hu.core (coreOf s.x)
      have hvc : v.core (coreOf s.x) = (u.countPut tok).core (coreOf s.x) := hv ▸ rfl
      rw [hvc, hp, hk]
      exact ⟨rfl, rfl⟩
    have hlast : ∀ q ∈ v.puts, q.id ≠ m.id → v.putAway q = true → q.out = true := by
      intro q hq hne ha
      rw [hputs] at hq
      unfold State.putAway at ha
      rw [hpkg] at ha
      exact hfirst q ((List.mem_append.mp hq).resolve_right (fun e => hne (List.mem_singleton.mp e ▸ rfl))) ha
    have hgone : v.putOut m = v.putLeave m := putOut_leaves hlast ((routeOk_congr hroutes hports _).trans hroute) (by
      rw [hsrc, pairHeld_congr hroutes hports hout hputs hmsgs hcore.1 (hcore.2 ▸ hreqs)]
      exact hheld)
    rw [ht, hgone]
    refine ⟨_, hleave, fun _ _ => ⟨congrArg PutMsg.out hself, v.portMsg m, ?_, rfl, rfl, (congrArg PutMsg.port hself).symm⟩⟩
    exact (finish_uaOut ..).trans (congrArg (· ++ _) hua)
  · rw [ht]
    rcases putOut_cases v m with h | h
    · exact ⟨_, h ▸ hstay, fun h1 h2 => absurd ⟨h1, h2⟩ hgo⟩
    · exact ⟨_, h ▸ hleave, fun h1 h2 => absurd ⟨h1, h2⟩ hgo⟩
end
/-- A PUT without a path ends at once: PT is as before and no message is left. -/
theorem sent_cut {s u : State} (hu : Track s u [] []) (f : Fr) (tok : Option (BitVec 4)) (w : Option Nat) (idx : Nat) :
    let t := ((u.countPut tok).newId.2.putEnded u.x w idx 5).finish f.len
    GoesOn s t f ∧ t.puts = s.puts ∧ (t.crew (crewOf s.x)).pt = s.myCrew.pt := by
  intro t
  have hrest := putEnded_rest (u.countPut tok).newId.2 u.x w idx 5
  have hpt : ((u.countPut tok).newId.2.crew (crewOf u.x)).pt = s.myCrew.pt + 1 := hu.x.symm ▸ hu.countPut_pt tok
  have hst : ∃ m ns, ((u.countPut tok).newId.2.putEnded u.x w idx 5).strand s.x = { u.strand s.x with nakMarks := m, naks := ns } := by
    obtain ⟨m, hm⟩ := countPut_strand u tok s.x
    have hn : (u.countPut tok).newId.2.strand s.x = { u.strand s.x with nakMarks := m } := hm
    rw [putEnded_strand, hn]
    exact ⟨_, _, rfl⟩
  have hcur : ((u.countPut tok).newId.2.putEnded u.x w idx 5).cur = u.cur := Eq.trans (congrArg State.cur hrest :) (countPut_cur u tok)
  have hsent : ((u.countPut tok).newId.2.putEnded u.x w idx 5).puts = s.puts :=
    Eq.trans (congrArg State.puts hrest :) (Eq.trans (congrArg State.puts (countPut_rest u tok) :) hu.fabric.1)
  obtain ⟨hgoes, he⟩ := GoesOn.finish hu f hcur hst
    ((countPut_same u tok).trans ((SameBytes.of_tables (t := (u.countPut tok).newId.2) rfl rfl rfl rfl rfl).trans (putEnded_same ..)))
  obtain ⟨hputs, -, hpts⟩ := he.fabric
  refine ⟨hgoes, hputs.trans hsent, ?_⟩
  rw [hpts, ← hu.x, putEnded_pt (hasCrew_of_pt (by omega)), hpt]
  exact Nat.add_sub_cancel ..

theorem readAcquire_putMsg (s : State) (rs : List Nat) (kind idx : Nat) (w : Dword) (v : Word) (lanes : BitVec 32) (tok : Option (BitVec 4)) :
    (s.readAcquire rs).putMsg kind idx w v lanes tok = s.putMsg kind idx w v lanes tok := by
  have hu := Track.readAcquire s rs
  unfold State.putMsg
  rw [hu.nextId, hu.x, readAcquire_storesOf]

section
variable {ins : Instr} {f : Fr} {src : BSrc} {a : Reg} {kind idx : Nat} {lanes : BitVec 32} {tok : Option (BitVec 4)} {body : State → State} {s : State}
  (hx : exec ins s = .next (s.issue f (chkPut a src) body))
  (hbody : ∀ u, Track s u [] [] → body u = u.sendPut f kind idx (s.rd64 a.toNat) (s.bsrc src) lanes tok)
  (hr : s.ready f (chkPut a src) = true) (hroom : PutRoom s (s.rd64 a.toNat) kind tok)
include hx hbody hr

theorem put_ready : exec ins s = .next ((s.readAcquire (chkPut a src).srcs).sendPut f kind idx (s.rd64 a.toNat) (s.bsrc src) lanes tok) :=
  hx.trans (congrArg _ ((issue_ready hr body).trans (hbody _ (Track.readAcquire ..))))
include hroom

theorem put_near (hpkg : cwPkg (s.rd64 a.toNat) = s.pkg.toNat) : ∃ t, exec ins s = .next t
    ∧ Posted s t f (s.putMsg kind idx (s.rd64 a.toNat) (s.bsrc src) lanes tok) (fun q => q) := by
  have hu := Track.readAcquire s (chkPut a src).srcs
  refine ⟨_, (put_ready hx hbody hr).trans (congrArg _ (sendPut_near (hroom.readAcquire _) f idx (s.bsrc src) lanes (hu.pkg ▸ hpkg))), ?_⟩
  rw [readAcquire_putMsg]
  exact posted_near hu f tok rfl rfl ..
variable (hpkg : cwPkg (s.rd64 a.toNat) ≠ s.pkg.toNat)
include hpkg

theorem put_far (hroute : s.routeOk (cwPkg (s.rd64 a.toNat)) = true) (hrel : s.relReady .pkg = true) : ∃ t g, exec ins s = .next t
    ∧ Posted s t f (s.putMsg kind idx (s.rd64 a.toNat) (s.bsrc src) lanes tok) g
    ∧ (s.pairHeld (coreOf s.x) (cwCore (s.rd64 a.toNat)) (cwPkg (s.rd64 a.toNat)) = false → (∀ q ∈ s.puts, s.putAway q = true → q.out = true) →
      AtPort s t (s.rd64 a.toNat) (g (s.putMsg kind idx (s.rd64 a.toNat) (s.bsrc src) lanes tok))) := by
  have hu := Track.readAcquire s (chkPut a src).srcs
  obtain ⟨-, -, hroutes, hports, -⟩ := hu.fabric
  have hsent := sendPut_far (hroom.readAcquire (chkPut a src).srcs) f idx (s.bsrc src) lanes (hu.pkg ▸ hpkg)
    ((routeOk_congr hroutes hports _).trans hroute) ((readAcquire_relReady ..).trans hrel)
  rw [readAcquire_putMsg] at hsent
  obtain ⟨g, hpost, hgo⟩ := posted_far hu f tok (m := s.putMsg kind idx (s.rd64 a.toNat) (s.bsrc src) lanes tok) rfl rfl (readAcquire_reqs ..) rfl hroute
  exact ⟨_, g, (put_ready hx hbody hr).trans (congrArg _ hsent), hpost, hgo⟩
theorem put_cut (hroute : s.routeOk (cwPkg (s.rd64 a.toNat)) = false) : ∃ t, exec ins s = .next t
    ∧ GoesOn s t f ∧ t.puts = s.puts ∧ (t.crew (crewOf s.x)).pt = s.myCrew.pt := by
  have hu := Track.readAcquire s (chkPut a src).srcs
  obtain ⟨-, -, hroutes, hports, -⟩ := hu.fabric
  have hsent := sendPut_cut (hroom.readAcquire (chkPut a src).srcs) f idx (s.bsrc src) lanes (hu.pkg ▸ hpkg)
    ((routeOk_congr hroutes hports _).trans hroute)
  exact ⟨_, (put_ready hx hbody hr).trans (congrArg _ hsent), sent_cut hu ..⟩
end

/-- Settles O20: a ready PUT sends what its registers hold: it stays on the package (`put_near`), goes towards another
(`put_far`), or ends for want of a path (`put_cut`). -/
theorem putSends : Obligations.PutSends := by
  intro g v i a b src fl lane s sends one own
  have hsends {ins : Instr} {f : Fr} {src : BSrc} {kind : Nat} {lanes : BitVec 32} {tok : Option (BitVec 4)} {body : State → State}
      (hx : exec ins s = .next (s.issue f (chkPut a src) body))
      (hbody : ∀ u, Track s u [] [] → body u = u.sendPut f kind i.toNat (s.rd64 a.toNat) (s.bsrc src) lanes tok) : sends ins f src kind lanes tok := by
    intro hr w c far hlow hkind hpt htok hloads hrel
    have hroom : PutRoom s w kind tok := ⟨hlow, hkind, hpt, htok, hloads⟩
    by_cases hfar : far
    · cases hroute : s.routeOk (cwPkg w) with
      | false =>
        obtain ⟨t, ht, ⟨hpc, hfile, hsame⟩, hcut⟩ := put_cut hx hbody hr hroom hfar hroute
        refine ⟨t, ht, hpc, hfile, hsame, ?_⟩
        rw [if_pos ⟨hfar, rfl⟩]
        exact hcut
      | true =>
        obtain ⟨t, q, ht, hpost, hport⟩ := put_far hx hbody hr hroom hfar hroute (hrel hfar hroute)
        obtain ⟨hlen, hothers, hmem⟩ := hpost.mem
        refine ⟨t, ht, hpost.goes.pc, hpost.goes.file, hpost.goes.same, ?_⟩
        rw [if_neg (fun h => absurd h.2 (by simp))]
        exact ⟨hpost.pt, hlen, hothers, _, hmem, hpost.self, fun h => absurd hfar h, fun _ => hport⟩
    · obtain ⟨t, ht, hpost⟩ := put_near hx hbody hr hroom (not_not.mp hfar)
      obtain ⟨hlen, hothers, hmem⟩ := hpost.mem
      refine ⟨t, ht, hpost.goes.pc, hpost.goes.file, hpost.goes.same, ?_⟩
      rw [if_neg (fun h => hfar h.1)]
      exact ⟨hpost.pt, hlen, hothers, _, hmem, hpost.self, fun _ => rfl, fun h => absurd h hfar⟩
  have hown (u : State) (hu : Track s u [] []) : ownLane u = own := by rw [ownLane, hu.x]; rfl
  have hone : laneMask lane = one := by cases lane <;> rfl
  refine ⟨hsends (body := fun u => u.sendPut (baseFr g (bsrcLit src)) 0 i.toNat (u.rd64 a.toNat) (u.bsrc src) 0 none) rfl fun u hu => ?_,
    hsends (src := .reg b) (body := fun u => u.sendPut (baseFr g false) 1 i.toNat (u.rd64 a.toNat) (u.rd b.toNat) (ownLane u) none) rfl fun u hu => ?_,
    hsends (src := .reg b) (body := fun u => u.sendPut (extFr v.x false) 0 i.toNat (u.rd64 a.toNat) (u.rd b.toNat) (laneMask lane) v.tok) rfl fun u hu => ?_,
    hsends (src := .reg b) (body := fun u => u.sendPut (extFr v.x false) 1 i.toNat (u.rd64 a.toNat) (u.rd b.toNat) (ownLane u) v.tok) rfl fun u hu => ?_,
    hsends (src := .reg b) (body := fun u => u.sendPut (extFr v.x false) (if fl then 3 else 2) i.toNat (u.rd64 a.toNat) (u.rd b.toNat) (laneMask lane) v.tok)
      rfl fun u hu => ?_⟩
  · rw [hu.rd64, hu.bsrc]
  · rw [hu.rd64, hu.rd, hown u hu]
    rfl
  · rw [hu.rd64, hu.rd, hone]
    rfl
  · rw [hu.rd64, hu.rd, hown u hu]
    rfl
  · rw [hu.rd64, hu.rd, hone]
    rfl
end Sys2Proof.Machine
end

section
namespace Sys2Proof.Machine

/-! ## A PUT at one lane of its target (R156, R160) -/

/-- What a lane's register holds after the PUT, where the PUT takes effect. -/
def putWord (t : Strand) (reg : Nat) (m : PutMsg) : Word :=
  if t.fill.getLsbD reg = false then m.val
  else if m.kind = 2 then sget t.regs 0 reg + m.val
  else if m.kind = 3 then f32add .rne (sget t.regs 0 reg) m.val
  else m.val

section
variable {s : State} {c : Cap} {m : PutMsg} {beyond : Bool} {sender : Nat × Nat × Nat} {l : Nat}

theorem putLane_gone (h : s.alive (32 * c.crew + l) = false) : s.putLane c m beyond sender l = (s, 4) := by
  unfold State.alive at h
  unfold State.putLane
  dsimp only
  cases ht : sfind s.strands (32 * c.crew + l) with
  | none => rfl
  | some t =>
    rw [ht] at h
    exact if_pos (by simpa using h)
theorem alive_find {x : Nat} (h : s.alive x = true) : sfind s.strands x = some (s.strand x) ∧ (s.strand x).life ≠ .exited := by
  obtain ⟨h1, h2⟩ := (alive_iff s x).mp h
  obtain ⟨t, ht⟩ := Option.isSome_iff_exists.mp h1
  have hs : s.strand x = t := congrArg (fun o => Option.getD o ({} : Strand)) ht
  exact ⟨hs ▸ ht, h2⟩
theorem putLane_kept (h : s.alive (32 * c.crew + l) = true) (hfull : (s.strand (32 * c.crew + l)).fill.getLsbD (c.base + m.idx) = true)
    (hr : c.rights = 1) (h2 : m.kind ≠ 2) (h3 : m.kind ≠ 3) :
    s.putLane c m beyond sender l = (s.addLog c.crew (logRecord 1 sender.1 sender.2.1 sender.2.2 l (c.base + m.idx) 0), 3) := by
  obtain ⟨ht, hl⟩ := alive_find h
  unfold State.putLane
  dsimp only
  rw [ht]
  dsimp only
  rw [if_neg hl, hfull, Bool.not_true, if_neg Bool.false_ne_true]
  split
  · next e => exact absurd e h2
  · next e => exact absurd e h3
  · exact if_pos hr
theorem putLane_put (h : s.alive (32 * c.crew + l) = true)
    (hput : (s.strand (32 * c.crew + l)).fill.getLsbD (c.base + m.idx) = true → c.rights = 1 → m.kind = 2 ∨ m.kind = 3) :
    ∃ b p, s.putLane c m beyond sender l = (s.setStrand (32 * c.crew + l) { s.strand (32 * c.crew + l) with
      regs := sset (s.strand (32 * c.crew + l)).regs 0 (c.base + m.idx) (putWord (s.strand (32 * c.crew + l)) (c.base + m.idx) m),
      fill := setBit (s.strand (32 * c.crew + l)).fill (c.base + m.idx), bad := b, putAcq := p }, 0) := by
  obtain ⟨ht, hl⟩ := alive_find h
  unfold State.putLane putWord
  dsimp only
  rw [ht]
  dsimp only
  rw [if_neg hl]
  cases hfull : (s.strand (32 * c.crew + l)).fill.getLsbD (c.base + m.idx) with
  | false => exact ⟨_, _, rfl⟩
  | true =>
    rw [Bool.not_true, if_neg Bool.false_ne_true, if_neg (by decide : ¬ true = false)]
    split
    · next h2 =>
      rw [if_pos h2]
      exact ⟨_, _, rfl⟩
    · next h3 =>
      rw [if_neg (by omega : ¬ m.kind = 2), if_pos h3]
      exact ⟨_, _, rfl⟩
    · next h2 h3 =>
      rw [if_neg h2, if_neg h3, if_neg (fun hr => (hput hfull hr).elim h2 h3)]
      exact ⟨_, _, rfl⟩
end
/-- The three outcomes of a lane: it is gone, or it keeps a full register, or it takes the PUT. -/
theorem putLane_cases (s : State) (c : Cap) (m : PutMsg) (beyond : Bool) (sender : Nat × Nat × Nat) (l : Nat) :
    s.alive (32 * c.crew + l) = false ∧ s.putLane c m beyond sender l = (s, 4)
    ∨ (s.alive (32 * c.crew + l) = true ∧ (s.strand (32 * c.crew + l)).fill.getLsbD (c.base + m.idx) = true ∧ c.rights = 1)
      ∧ (∃ r, s.putLane c m beyond sender l = (s.addLog c.crew r, 3))
    ∨ ∃ t, s.putLane c m beyond sender l = (s.setStrand (32 * c.crew + l) t, 0) := by
  cases ha : s.alive (32 * c.crew + l) with
  | false => exact .inl ⟨rfl, putLane_gone ha⟩
  | true =>
    by_cases h : (s.strand (32 * c.crew + l)).fill.getLsbD (c.base + m.idx) = true → c.rights = 1 → m.kind = 2 ∨ m.kind = 3
    · obtain ⟨b, p, he⟩ := putLane_put (beyond := beyond) (sender := sender) ha h
      exact .inr (.inr ⟨_, he⟩)
    · push Not at h
      obtain ⟨hf, hr, h2, h3⟩ := h
      exact .inr (.inl ⟨⟨rfl, hf, hr⟩, _, putLane_kept ha hf hr h2 h3⟩)
/-- The reasons a lane can mark, and what marks them. -/
theorem putLane_reason (s : State) (c : Cap) (m : PutMsg) (beyond : Bool) (sender : Nat × Nat × Nat) (l : Nat) :
    (s.putLane c m beyond sender l).2 = 0
    ∨ (s.putLane c m beyond sender l).2 = 3 ∧ s.alive (32 * c.crew + l) = true
      ∧ (s.strand (32 * c.crew + l)).fill.getLsbD (c.base + m.idx) = true ∧ c.rights = 1
    ∨ (s.putLane c m beyond sender l).2 = 4 ∧ s.alive (32 * c.crew + l) = false := by
  rcases putLane_cases s c m beyond sender l with ⟨ha, h⟩ | ⟨hkept, r, h⟩ | ⟨t, h⟩
  · exact .inr (.inr ⟨congrArg Prod.snd h, ha⟩)
  · exact .inr (.inl ⟨congrArg Prod.snd h, hkept⟩)
  · exact .inl (congrArg Prod.snd h)
theorem putLane_rest (s : State) (c : Cap) (m : PutMsg) (beyond : Bool) (sender : Nat × Nat × Nat) (l : Nat) :
    { (s.putLane c m beyond sender l).1 with strands := s.strands, crews := s.crews } = s := by
  rcases putLane_cases s c m beyond sender l with ⟨-, h⟩ | ⟨-, r, h⟩ | ⟨t, h⟩
  · rw [h]
  · rw [h]
    rfl
  · rw [h]
    rfl
theorem putLane_other (s : State) (c : Cap) (m : PutMsg) (beyond : Bool) (sender : Nat × Nat × Nat) (l : Nat) {y : Nat} (hy : y ≠ 32 * c.crew + l) :
    sfind (s.putLane c m beyond sender l).1.strands y = sfind s.strands y := by
  rcases putLane_cases s c m beyond sender l with ⟨-, h⟩ | ⟨-, r, h⟩ | ⟨t, h⟩
  · rw [h]
  · rw [h]
    rfl
  · rw [h]
    exact sfind_sput_ne _ _ hy.symm
/-- A lane's outcome follows from its strand alone. -/
theorem putLane_congr {s u : State} {c : Cap} {m : PutMsg} {beyond : Bool} {sender : Nat × Nat × Nat} {l : Nat}
    (h : sfind u.strands (32 * c.crew + l) = sfind s.strands (32 * c.crew + l)) :
    sfind (u.putLane c m beyond sender l).1.strands (32 * c.crew + l) = sfind (s.putLane c m beyond sender l).1.strands (32 * c.crew + l)
      ∧ (u.putLane c m beyond sender l).2 = (s.putLane c m beyond sender l).2 := by
  have hput (v : Strand) : sfind (u.setStrand (32 * c.crew + l) v).strands (32 * c.crew + l)
      = sfind (s.setStrand (32 * c.crew + l) v).strands (32 * c.crew + l) :=
    (sfind_sput_self ..).trans (sfind_sput_self ..).symm
  unfold State.putLane
  dsimp only
  rw [h]
  cases ht : sfind s.strands (32 * c.crew + l) with
  | none => exact ⟨h, rfl⟩
  | some t =>
    dsimp only
    split
    · exact ⟨h, rfl⟩
    · split
      · exact ⟨hput _, rfl⟩
      · split
        · exact ⟨hput _, rfl⟩
        · exact ⟨hput _, rfl⟩
        · split
          · exact ⟨h, rfl⟩
          · exact ⟨hput _, rfl⟩

/-! ## Lane by lane -/

/-- One more lane: the state, and the reasons marked so far. -/
def putNext (c : Cap) (m : PutMsg) (beyond : Bool) (sender : Nat × Nat × Nat) (a : State × List Nat) (l : Nat) : State × List Nat :=
  ((a.1.putLane c m beyond sender l).1,
    if (a.1.putLane c m beyond sender l).2 = 0 then a.2 else (a.1.putLane c m beyond sender l).2 :: a.2)

section
variable (c : Cap) (m : PutMsg) (beyond : Bool) (sender : Nat × Nat × Nat)

theorem putLanes_rest (ls : List Nat) (a : State × List Nat) :
    { (ls.foldl (putNext c m beyond sender) a).1 with strands := a.1.strands, crews := a.1.crews } = a.1 := by
  induction ls generalizing a with
  | nil => rfl
  | cons l ls ih =>
    have h1 := congrArg (fun u : State => { u with strands := a.1.strands, crews := a.1.crews }) (ih (putNext c m beyond sender a l))
    exact h1.trans (putLane_rest a.1 c m beyond sender l)
theorem putLanes_other (ls : List Nat) (a : State × List Nat) {y : Nat} (hy : ∀ l ∈ ls, y ≠ 32 * c.crew + l) :
    sfind (ls.foldl (putNext c m beyond sender) a).1.strands y = sfind a.1.strands y := by
  induction ls generalizing a with
  | nil => rfl
  | cons l ls ih =>
    obtain ⟨h1, h2⟩ := List.forall_mem_cons.mp hy
    exact (ih _ h2).trans (putLane_other a.1 c m beyond sender l h1)

variable {s : State} {ls : List Nat} (hnd : ls.Nodup) {a : State × List Nat}
  (hs : ∀ l ∈ ls, sfind a.1.strands (32 * c.crew + l) = sfind s.strands (32 * c.crew + l))
include hnd hs

/-- Each lane listed once takes the PUT as it would alone. -/
theorem putLanes_lane {l : Nat} (hl : l ∈ ls) : sfind (ls.foldl (putNext c m beyond sender) a).1.strands (32 * c.crew + l)
    = sfind (s.putLane c m beyond sender l).1.strands (32 * c.crew + l) := by
  induction ls generalizing a with
  | nil => nomatch hl
  | cons q ls ih =>
    obtain ⟨hq, hnd⟩ := List.nodup_cons.mp hnd
    obtain ⟨h1, h2⟩ := List.forall_mem_cons.mp hs
    have hapart {j : Nat} (hj : j ∈ ls) : 32 * c.crew + j ≠ 32 * c.crew + q := fun e => hq (Nat.add_left_cancel e ▸ hj)
    rcases List.mem_cons.mp hl with rfl | hl
    · exact (putLanes_other c m beyond sender ls _ (fun j hj => (hapart hj).symm)).trans (putLane_congr h1).1
    · exact ih hnd (fun j hj => (putLane_other a.1 c m beyond sender q (hapart hj)).trans (h2 j hj)) hl
/-- The reasons marked are those of the lanes. -/
theorem putLanes_reason (n : Nat) : n ∈ (ls.foldl (putNext c m beyond sender) a).2
    ↔ n ∈ a.2 ∨ n ≠ 0 ∧ ∃ l ∈ ls, (s.putLane c m beyond sender l).2 = n := by
  induction ls generalizing a with
  | nil => simp
  | cons q ls ih =>
    obtain ⟨hq, hnd⟩ := List.nodup_cons.mp hnd
    obtain ⟨h1, h2⟩ := List.forall_mem_cons.mp hs
    have hapart {j : Nat} (hj : j ∈ ls) : 32 * c.crew + j ≠ 32 * c.crew + q := fun e => hq (Nat.add_left_cancel e ▸ hj)
    have hone : n ∈ (putNext c m beyond sender a q).2 ↔ n ∈ a.2 ∨ n ≠ 0 ∧ (s.putLane c m beyond sender q).2 = n := by
      unfold putNext
      rw [(putLane_congr h1).2]
      by_cases h0 : (s.putLane c m beyond sender q).2 = 0
      · rw [if_pos h0, h0]
        exact ⟨.inl, fun h => h.elim id (fun h => absurd h.2.symm h.1)⟩
      · rw [if_neg h0, List.mem_cons]
        exact ⟨fun h => h.elim (fun e => .inr ⟨e ▸ h0, e.symm⟩) .inl, fun h => h.elim .inr (fun e => .inl e.2.symm)⟩
    rw [List.foldl_cons, ih hnd (fun j hj => (putLane_other a.1 c m beyond sender q (hapart hj)).trans (h2 j hj)), hone]
    simp only [List.exists_mem_cons_iff, and_or_left, or_assoc]
end

/-! ## The home core's answer (R156, R157) -/

/-- The lanes a PUT selects: those it names, or all of the entry's. -/
def putLanesOf (c : Cap) (m : PutMsg) : BitVec 32 := if m.lanes = 0 then c.lanes else m.lanes
def selected (lanes : BitVec 32) : List Nat := (List.range 32).filter (fun l => lanes.getLsbD l)
theorem mem_selected (lanes : BitVec 32) (l : Nat) : l ∈ selected lanes ↔ l < 32 ∧ lanes.getLsbD l = true := by
  rw [selected, List.mem_filter, List.mem_range]
theorem nodup_selected (lanes : BitVec 32) : (selected lanes).Nodup := List.nodup_range.filter _

section
variable {s : State} {m : PutMsg} {c : Cap} (hc : s.cap (cwCore m.word) (cwEntry m.word) = c)
include hc

theorem applyPut_stale (h : c.live = false ∨ c.gen ≠ cwGen m.word) : s.applyPut m = (s, 1) := by
  unfold State.applyPut
  dsimp only
  rw [hc, if_pos]
  rcases h with h | h <;> simp [h]

variable (hlive : c.live = true) (hgen : c.gen = cwGen m.word)
include hlive hgen

theorem applyPut_misfit (h : c.rights ≠ cwRights m.word ∨ c.count ≤ m.idx ∨ putLanesOf c m &&& ~~~c.lanes ≠ 0) : s.applyPut m = (s, 2) := by
  have hfirst : ¬ (!c.live || c.gen != cwGen m.word) = true := by simp [hlive, hgen]
  unfold State.applyPut
  dsimp only
  rw [hc, if_neg hfirst]
  split
  · rfl
  · next hfit =>
    refine if_pos (bne_iff_ne.mpr (h.resolve_left ?_ |>.resolve_left ?_))
    · exact fun hr => hfit (by simp [hr])
    · exact fun hi => hfit (by simp [hi])
theorem applyPut_fits (hr : c.rights = cwRights m.word) (hi : m.idx < c.count) (hl : putLanesOf c m &&& ~~~c.lanes = 0) :
    ∃ beyond sender, s.applyPut m = (((selected (putLanesOf c m)).foldl (putNext c m beyond sender) (s, [])).1,
      (leastBy id ((selected (putLanesOf c m)).foldl (putNext c m beyond sender) (s, [])).2).getD 0) := by
  have hfirst : ¬ (!c.live || c.gen != cwGen m.word) = true := by simp [hlive, hgen]
  have hsecond : ¬ (c.rights != cwRights m.word || decide (c.count ≤ m.idx)) = true := by simp [hr, hi]
  unfold State.applyPut
  dsimp only
  rw [hc, if_neg hfirst, if_neg hsecond, if_neg (by rw [bne_iff_ne, not_not]; exact hl)]
  exact ⟨_, _, rfl⟩
end

/-- A PUT that is not refused outright goes lane by lane. -/
theorem applyPut_cases (s : State) (m : PutMsg) : (∃ r, s.applyPut m = (s, r))
    ∨ ∃ c beyond sender ls r, s.applyPut m = (((ls : List Nat).foldl (putNext c m beyond sender) (s, [])).1, r) := by
  by_cases hlive : (s.cap (cwCore m.word) (cwEntry m.word)).live = true ∧ (s.cap (cwCore m.word) (cwEntry m.word)).gen = cwGen m.word
  · obtain ⟨hlive, hgen⟩ := hlive
    by_cases hfit : (s.cap (cwCore m.word) (cwEntry m.word)).rights ≠ cwRights m.word ∨ (s.cap (cwCore m.word) (cwEntry m.word)).count ≤ m.idx
        ∨ putLanesOf (s.cap (cwCore m.word) (cwEntry m.word)) m &&& ~~~(s.cap (cwCore m.word) (cwEntry m.word)).lanes ≠ 0
    · exact .inl ⟨2, applyPut_misfit rfl hlive hgen hfit⟩
    · push Not at hfit
      obtain ⟨hr, hi, hl⟩ := hfit
      obtain ⟨beyond, sender, h⟩ := applyPut_fits rfl hlive hgen hr hi hl
      exact .inr ⟨_, beyond, sender, _, _, h⟩
  · exact .inl ⟨1, applyPut_stale rfl (by rwa [not_and_or, Bool.not_eq_true] at hlive)⟩
theorem applyPut_rest (s : State) (m : PutMsg) : { (s.applyPut m).1 with strands := s.strands, crews := s.crews } = s := by
  rcases applyPut_cases s m with ⟨r, h⟩ | ⟨c, beyond, sender, ls, r, h⟩
  · rw [h]
  · rw [h]
    exact putLanes_rest c m beyond sender ls (s, [])
theorem applyPut_same (s : State) (m : PutMsg) : SameBytes s (s.applyPut m).1 :=
  SameBytes.of_eq (congrArg (fun u : State => { u with units := s.units, cores := s.cores }) (applyPut_rest s m))

/-- The lowest of the reasons 3 and 4. -/
theorem leastBy_reason {rs : List Nat} (h : ∀ n ∈ rs, n = 3 ∨ n = 4) :
    (leastBy id rs).getD 0 = if 3 ∈ rs then 3 else if 4 ∈ rs then 4 else 0 := by
  split
  · next h3 =>
    rw [leastBy_id_eq h3 (fun q hq => by have := h q hq; omega)]
    rfl
  · next h3 =>
    have hall : ∀ n ∈ rs, n = 4 := fun n hn => (h n hn).resolve_left (fun e => h3 (e ▸ hn))
    split
    · next h4 =>
      rw [leastBy_id_eq h4 (fun q hq => (hall q hq).ge)]
      rfl
    · next h4 =>
      have hnil : rs = [] := List.eq_nil_iff_forall_not_mem.mpr fun n hn => h4 (hall n hn ▸ hn)
      rw [hnil]
      rfl

/-- Settles O21: the lanes a PUT selects are apart, so each takes it as it would alone (`putLanes_lane`, `putLanes_reason`). -/
theorem putApplies : Obligations.PutApplies := by
  intro s m k c r lanes reg
  refine ⟨fun h => applyPut_stale rfl h, fun hlive hgen h => applyPut_misfit rfl hlive hgen h, ?_, applyPut_same s m⟩
  intro hlive hgen hright hidx hlanes _ hadd hreg
  obtain ⟨beyond, sender, happ⟩ := applyPut_fits (c := c) rfl hlive hgen hright hidx hlanes
  have hr : r = _ := happ
  have hkind : c.rights = 1 → m.kind ≠ 2 ∧ m.kind ≠ 3 := fun h1 =>
    ⟨fun h2 => absurd (hadd.mpr (.inl h2)) (by omega), fun h3 => absurd (hadd.mpr (.inr h3)) (by omega)⟩
  have hlane {l : Nat} (hl : l < 32) (hsel : lanes.getLsbD l = true) :
      r.1.strand (32 * c.crew + l) = (s.putLane c m beyond sender l).1.strand (32 * c.crew + l) := by
    have h := putLanes_lane c m beyond sender (nodup_selected lanes) (s := s) (a := (s, [])) (fun _ _ => rfl) ((mem_selected lanes l).mpr ⟨hl, hsel⟩)
    rw [hr]
    exact congrArg (fun o => Option.getD o ({} : Strand)) h
  have hreason (n : Nat) : n ∈ ((selected lanes).foldl (putNext c m beyond sender) (s, [])).2
      ↔ n ≠ 0 ∧ ∃ l ∈ selected lanes, (s.putLane c m beyond sender l).2 = n :=
    (putLanes_reason c m beyond sender (nodup_selected lanes) (s := s) (a := (s, [])) (fun _ _ => rfl) n).trans (by simp)
  refine ⟨fun l hl => ⟨?untouched, ?taken⟩, ?answer⟩
  case untouched =>
    intro h
    by_cases hsel : lanes.getLsbD l = true
    · rw [hlane hl hsel, putLane_gone (h.resolve_left (by simp [hsel]))]
    · have h := putLanes_other c m beyond sender (selected lanes) (s, []) (y := 32 * c.crew + l)
        (fun j hj e => hsel (Nat.add_left_cancel e ▸ ((mem_selected lanes j).mp hj).2))
      rw [hr]
      exact congrArg (fun o => Option.getD o ({} : Strand)) h
  case taken =>
    intro hsel halive
    have hstrand := hlane hl hsel
    split
    · next hkept =>
      obtain ⟨hfull, h1⟩ := hkept
      rw [hstrand, putLane_kept halive hfull h1 (hkind h1).1 (hkind h1).2]
      rfl
    · next hput =>
      obtain ⟨b, p, he⟩ := putLane_put (beyond := beyond) (sender := sender) (m := m) halive (fun hf h1 => absurd ⟨hf, h1⟩ hput)
      rw [he, setStrand_strand_self] at hstrand
      refine ⟨?_, ?_, fun q hq => ?_⟩
      · rw [State.rdX, hstrand]
        exact (sget_sset ..).trans (if_pos rfl)
      · rw [hstrand]
        exact (getLsbD_setBit ..).trans (by rw [beq_self_eq_true, Bool.and_true, decide_eq_true hreg, Bool.or_true])
      · rw [State.rdX, hstrand]
        exact (sget_sset ..).trans (if_neg hq)
  case answer =>
    intro full gone
    have hthree : 3 ∈ ((selected lanes).foldl (putNext c m beyond sender) (s, [])).2 ↔ ∃ l, full l := by
      rw [hreason]
      constructor
      · rintro ⟨-, l, hl, h3⟩
        obtain ⟨hlt, hsel⟩ := (mem_selected lanes l).mp hl
        rcases putLane_reason s c m beyond sender l with h | ⟨-, h⟩ | ⟨h, -⟩
        · omega
        · exact ⟨l, hlt, hsel, h⟩
        · omega
      · rintro ⟨l, hlt, hsel, halive, hf, h1⟩
        exact ⟨by decide, l, (mem_selected lanes l).mpr ⟨hlt, hsel⟩, by rw [putLane_kept halive hf h1 (hkind h1).1 (hkind h1).2]⟩
    have hfour : 4 ∈ ((selected lanes).foldl (putNext c m beyond sender) (s, [])).2 ↔ ∃ l, gone l := by
      rw [hreason]
      constructor
      · rintro ⟨-, l, hl, h4⟩
        obtain ⟨hlt, hsel⟩ := (mem_selected lanes l).mp hl
        rcases putLane_reason s c m beyond sender l with h | ⟨h, -⟩ | ⟨-, h⟩
        · omega
        · omega
        · exact ⟨l, hlt, hsel, h⟩
      · rintro ⟨l, hlt, hsel, hgone⟩
        exact ⟨by decide, l, (mem_selected lanes l).mpr ⟨hlt, hsel⟩, by rw [putLane_gone hgone]⟩
    have hans : r.2 = if ∃ l, full l then 3 else if ∃ l, gone l then 4 else 0 := by
      simp only [← hthree, ← hfour]
      refine (congrArg Prod.snd hr).trans (leastBy_reason fun n hn => ?_)
      obtain ⟨h0, l, -, hl⟩ := (hreason n).mp hn
      exact (hl ▸ putLane_reason s c m beyond sender l).elim (absurd · h0) (Or.imp And.left And.left)
    rw [hans]
    exact ⟨fun h => if_pos h, fun h h4 => (if_neg (not_exists.mpr h)).trans (if_pos h4),
      fun h h4 => (if_neg (not_exists.mpr h)).trans (if_neg (not_exists.mpr h4))⟩
end Sys2Proof.Machine
end

section
namespace Sys2Proof.Machine

/-! ## A PUT is served at its home core (R156, R158) -/

/-- What the home core leaves when it has applied a PUT and answered it. -/
structure Serves (s t : State) (m : PutMsg) : Prop where
  strands : t.strands = (s.applyPut m).1.strands
  puts : t.puts = s.puts.filter (fun q => q.id != m.id)
  same : SameBytes s t
theorem servePut_near {s : State} {m : PutMsg} (h : m.tag = none) : Serves s (s.servePut m) m
    ∧ (s.servePut m).putAns = s.putAns ++ [{ id := m.id, src := m.src, tok := m.tok, idx := m.idx, reason := (s.applyPut m).2 }] := by
  have hr := applyPut_rest s m
  have hputs : (s.applyPut m).1.puts = s.puts := (congrArg State.puts hr :)
  have hans : (s.applyPut m).1.putAns = s.putAns := (congrArg State.putAns hr :)
  unfold State.servePut State.dropPut
  dsimp only
  rw [h, hputs]
  exact ⟨⟨rfl, rfl, (applyPut_same s m).trans (SameBytes.of_tables rfl rfl rfl rfl rfl)⟩, congrArg (· ++ _) hans⟩
theorem servePut_far {s : State} {m : PutMsg} {g : Dword} (h : m.tag = some g) : Serves s (s.servePut m) m
    ∧ (s.servePut m).uaOut = s.uaOut ++
      [{ id := s.nextId, kind := 4, pkg := m.src % 256, addr := putAnswerPort, data := answerBytes g.toNat (s.applyPut m).2 }] := by
  have hr := applyPut_rest s m
  have hputs : (s.applyPut m).1.puts = s.puts := (congrArg State.puts hr :)
  have hua : (s.applyPut m).1.uaOut = s.uaOut := (congrArg State.uaOut hr :)
  have hid : (s.applyPut m).1.nextId = s.nextId := (congrArg State.nextId hr :)
  unfold State.servePut State.dropPut State.uaAnswer State.newId
  dsimp only
  rw [h, hputs]
  dsimp only
  rw [hua, hid]
  exact ⟨⟨rfl, rfl, (applyPut_same s m).trans (SameBytes.of_tables rfl rfl rfl rfl rfl)⟩, rfl⟩

/-! ## What the event of a PUT does -/

section
variable {s : State} {m : PutMsg} (hm : s.puts.find? (fun q => q.id == s.ev.item) = some m)
include hm

theorem putArrival_serves (haway : s.putAway m = false) (hhere : s.putHere m = true) (hheld : s.putHeld m = false) :
    exec .putArrival s = .next (s.servePut m) := by
  show execPutArrival s = _
  unfold execPutArrival
  rw [hm]
  dsimp only
  rw [haway, hhere, hheld]
  rfl
variable (haway : s.putAway m = true) (hout : m.out = false) (hstill : s.still (coreOf m.src) = false)
include haway hout hstill

theorem putArrival_leaves (hroute : s.routeOk (cwPkg m.word) = true) : exec .putArrival s = .next (s.putOut m) := by
  show execPutArrival s = _
  unfold execPutArrival
  rw [hm]
  dsimp only
  rw [haway, hout, hstill, hroute]
  rfl
theorem putArrival_ends (hroute : s.routeOk (cwPkg m.word) = false) :
    exec .putArrival s = .next ((s.dropPut m.id).putEnded m.src m.tok m.idx 5) := by
  show execPutArrival s = _
  unfold execPutArrival
  rw [hm]
  dsimp only
  rw [haway, hout, hstill, hroute]
  rfl
end
def State.dropPutAns (s : State) (id : Nat) : State := { s with putAns := s.putAns.filter (fun a => a.id != id) }
theorem putAnswer_ends {s : State} {a : PutAns} (ha : s.putAns.find? (fun q => q.id == s.ev.item) = some a)
    (hstill : s.still (coreOf a.src) = false) :
    exec .putAnswer s = .next ((s.dropPutAns a.id).putEnded a.src a.tok a.idx a.reason) := by
  show execPutAnswer s = _
  unfold execPutAnswer
  rw [ha]
  dsimp only
  rw [hstill]
  rfl

/-- Settles O22: a PUT held back by nothing is served (`servePut_near`, `servePut_far`), leaves (`putOut_leaves`) or ends; its
answer ends it (`putEnded_pt`, `putEnded_token`, `putEnded_strand`). -/
theorem putArrivesAndIsAnswered : Obligations.PutArrivesAndIsAnswered := by
  refine ⟨fun s m hm => ?arrival, fun s a ha hstill hcrew => ?answer⟩
  case arrival =>
    intro r served k pkg
    refine ⟨fun hloop hbehind hheld hstill => ⟨fun htag hpkg hleft => ?near, fun g htag => ?answered⟩,
      fun htag hpkg hout hstill => ⟨fun hroute hpair hfirst => ?leaves, fun hroute hcrew => ?refused⟩⟩
    case near =>
      have haway : s.putAway m = false := by
        have hp : cwPkg m.word = s.pkg.toNat := hpkg
        rw [State.putAway, hp, bne_self_eq_false, Bool.and_false]
      have hhere : s.putHere m = true := by
        rw [State.putHere, hleft, hloop, hbehind, hstill, Bool.and_false]
        rfl
      obtain ⟨⟨hstrands, hputs, hsame⟩, hans⟩ := servePut_near (s := s) htag
      exact ⟨_, ⟨putArrival_serves hm haway hhere hheld, hstrands, hputs, hsame⟩, hans⟩
    case answered =>
      have haway : s.putAway m = false := by
        rw [State.putAway, htag]
        rfl
      have hhere : s.putHere m = true := by
        rw [State.putHere, htag, hloop, hbehind, hstill]
        rfl
      obtain ⟨⟨hstrands, hputs, hsame⟩, hua⟩ := servePut_far (s := s) htag
      exact ⟨_, _, ⟨putArrival_serves hm haway hhere hheld, hstrands, hputs, hsame⟩, hua, rfl, rfl, rfl, rfl⟩
    case leaves =>
      have haway : s.putAway m = true := by
        rw [State.putAway, htag, bne_iff_ne.mpr hpkg]
        rfl
      have hleave := putOut_leaves (fun q hq hne ha => absurd ha (by rw [hfirst q hq hne]; exact Bool.false_ne_true)) hroute hpair
      refine ⟨_, s.portMsg m, (putArrival_leaves hm haway hout hstill hroute).trans (congrArg _ hleave), putLeave_same s m, rfl, rfl, rfl, rfl, rfl,
        fun q hq hid => ?_⟩
      obtain ⟨p, -, rfl⟩ := List.mem_map.mp hq
      rw [sentBy_id] at hid
      rw [sentBy, if_pos hid]
    case refused =>
      have haway : s.putAway m = true := by
        rw [State.putAway, htag, bne_iff_ne.mpr hpkg]
        rfl
      have hrest := putEnded_rest (s.dropPut m.id) m.src m.tok m.idx 5
      refine ⟨_, putArrival_ends hm haway hout hstill hroute, ?_, (congrArg State.puts hrest :),
        putEnded_pt (s := s.dropPut m.id) hcrew m.tok m.idx 5, fun htok halive => ?_⟩
      · exact (SameBytes.of_tables (t := s.dropPut m.id) rfl rfl rfl rfl rfl).trans (putEnded_same ..)
      · rw [putEnded_strand, if_pos ⟨by decide, htok, halive, rfl⟩]
        rfl
  case answer =>
    have hrest := putEnded_rest (s.dropPutAns a.id) a.src a.tok a.idx a.reason
    have hstrand := putEnded_strand (s.dropPutAns a.id) a.src a.tok a.idx a.reason a.src
    refine ⟨_, putAnswer_ends ha hstill, putEnded_pt (s := s.dropPutAns a.id) hcrew a.tok a.idx a.reason, (congrArg State.putAns hrest :),
      fun w hw => ?_, fun htok halive => ?_, fun r => ?_, ?_⟩
    · rw [hw]
      exact putEnded_token (s := s.dropPutAns a.id) hcrew w a.idx a.reason
    · rw [hstrand]
      refine congrArg ((s.strand a.src).naks ++ ·) ?_
      by_cases h : a.reason = 0
      · rw [if_pos h, if_neg (fun q => q.1 h)]
      · rw [if_neg h]
        exact if_pos ⟨h, htok, halive, rfl⟩
    · rw [State.rdX, hstrand]
      rfl
    · exact (SameBytes.of_tables (t := s.dropPutAns a.id) rfl rfl rfl rfl rfl).trans (putEnded_same ..)
end Sys2Proof.Machine
end
